-- ==== Sys2Proof/Word.lean ====
section
/-!
DEFINITION. The machine's word types, with the names the spec uses (00 R4, 04 R90, R91, 13 R313, R319).
-/

namespace Sys2Proof

/-- One byte of any memory. -/
abbrev Byte := BitVec 8
/-- A 16-bit instruction parcel (00 R4). -/
abbrev Parcel := BitVec 16
/-- One lane of one vector register (04 R90). -/
abbrev Word := BitVec 32
/-- A register pair's value (04 R91). -/
abbrev Dword := BitVec 64
/-- A register field of an encoding (04 R90). -/
abbrev Reg := BitVec 8
/-- An 80-bit virtual address (06 R139). -/
abbrev VA := BitVec 80
/-- A 64-bit lane mask: bit i stands for lane i (04 R91). -/
abbrev LaneMask := BitVec 64
/-- A 16-bit quad mask: bit q stands for quad q (02 R29). -/
abbrev QuadMask := BitVec 16

end Sys2Proof
end

