-- ==== Sys2Proof/Config.lean ====
section
/-!
DEFINITION. What an implementation fixes and what the spec leaves open. Every constant below is opaque:
nothing in Lean can evaluate it, so whatever is proved holds for every value of it (00 R2).
-/

namespace Sys2Proof.Config

/-- An undefined 32-bit value (00 R2): `n` is the state's free-value counter, `place` says which of the
values of one step is meant. DESIGN CHOICE (assumption 1). -/
opaque freeWord : Nat → Nat → Word

/-- A choice between two outcomes that the spec leaves open, such as the old or the new bit of an execution
mask (13 R329). DESIGN CHOICE (assumption 1). -/
opaque freeBit : Nat → Nat → Bool

/-- SHA3-512 digest of the ROM of a domain (12 R298, R310): written at manufacture. Assumption 2. -/
opaque romDigest : Nat → BitVec 512

/-- Length of the vendor certificate: what IDENTIFY returns with it fits a length field of 32 bits (12 R298).
Assumption 2. -/
opaque certificateLen : Fin 4294966012

/-- Bytes of the vendor certificate. Assumption 2. -/
opaque certificateByte : Nat → Byte

/-- The vendor certificate in the key store (12 R311). -/
def certificate : List Byte := (List.range certificateLen).map certificateByte

/-- The ML-DSA-87 signature of a 64-byte digest under the device identity key (12 R310); 4627 bytes.
Assumption 2. -/
opaque sign : BitVec 512 → BitVec 37016

/-- The handle by which the ray slice names a query to its intersection threads (09 R228). Assumption 3. -/
opaque queryHandle : Nat → Word

end Sys2Proof.Config
end

