-- ==== Sys2Proof/Syntax.lean ====
section
/-!
DEFINITION. The instructions and device events of the part, one constructor of `Instr` per row of
spec/opcode_table.json. Rows with an encoding carry their decoded fields; the event rows carry the
agent they concern (a wave, a core, a stream, a port) and whatever the outside world supplies.
-/

namespace Sys2Proof

/-- Branch conditions (02 R33), in code order 0 to 14. -/
inductive Cond where
  | al | eq | ne | lt | ge | le | gt | hs | lo | mi | pl | vs | vc | mz | mnz
deriving DecidableEq, Repr

/-- Integer arithmetic types (14 R340), codes 0, 1, 2. -/
inductive ITy where | i32 | u32 | i64
deriving DecidableEq, Repr

/-- Bitwise and move types (14 R342), codes 0 and 2. -/
inductive BTy where | i32 | i64
deriving DecidableEq, Repr

/-- Float types (14 R340), codes 0 to 3. -/
inductive FTy where | f32 | f16 | bf16 | f64
deriving DecidableEq, Repr

/-- Conversion types (14 R340), codes 0 to 6. -/
inductive CTy where | f32 | f16 | bf16 | f64 | e4m3 | e5m2 | e2m1
deriving DecidableEq, Repr

/-- Integer types of `FTOI` and `ITOF`, codes 0 to 3. -/
inductive CITy where | i32 | u32 | i64 | i8
deriving DecidableEq, Repr

/-- Element types of `MXCVT`, codes 4, 5, 6. -/
inductive MxTy where | e4m3 | e5m2 | e2m1
deriving DecidableEq, Repr

/-- Load codes (16 R391), 0 to 6. -/
inductive LdTy where | i8 | z8 | i16 | z16 | w32 | w64 | x128
deriving DecidableEq, Repr

/-- Store codes (17 R411), 0, 2, 4, 5, 6. -/
inductive StTy where | b1 | b2 | b4 | b8 | b16
deriving DecidableEq, Repr

/-- The two widths of `ATOM` and `WAITW`, codes 4 and 5. -/
inductive WTy where | w32 | w64
deriving DecidableEq, Repr

/-- Ray precision P (09 R215). -/
inductive Prec where | f32 | f64
deriving DecidableEq, Repr

/-- `RND` field (05 R117), codes 0 to 4. -/
inductive Rnd where | mode | rne | rtz | rup | rdn
deriving DecidableEq, Repr

/-- A permute pattern of the operand crossbar (04 R98). -/
inductive Perm where
  | none
  | bc (k : BitVec 6)
  | rot (n : BitVec 6)
  | xor (n : BitVec 6)
  | mir
  | qbc (k : BitVec 2)
deriving DecidableEq, Repr

/-- The three permute fields of a C96 form (13 R325). -/
structure Perms where
  pa : Perm
  pb : Perm
  pc : Perm
deriving DecidableEq, Repr

/-- The modifier parcel of R323. -/
structure FMod where
  rnd : Rnd
  sat : Bool
  negC : Bool
  negB : Bool
  negA : Bool
  absC : Bool
  absB : Bool
  absA : Bool
deriving DecidableEq, Repr

/-- `ORD` (07 R172), codes 0 to 3. -/
inductive MOrd where | plain | acq | rel | ar
deriving DecidableEq, Repr

/-- `SPC` (13 R324), codes 0 to 2. -/
inductive Spc where | glob | spl | scr
deriving DecidableEq, Repr

/-- The modifier parcel of `LD`, `ST`, `ATOM` and `RST` (13 R324). -/
structure MMod where
  home : BitVec 5
  scope : BitVec 3
  ord : MOrd
  spc : Spc
  opx : BitVec 4
deriving DecidableEq, Repr

/-- Parcels 2 and 3 of a B64 or C96 form (13 R320): an immediate (I = 1), or B, C and the modifier. -/
inductive Tail where
  | imm (w : Word)
  | regs (b c : Reg) (m : FMod)
deriving DecidableEq, Repr

/-- The fields of a B64 (`perm = none`) or C96 form with the R323 modifier. -/
structure Long where
  gap : BitVec 1
  perm : Option Perms
  d : Reg
  a : Reg
  tail : Tail
deriving DecidableEq, Repr

/-- The fields of a B64 or C96 form with the R324 modifier. -/
structure LongM where
  gap : BitVec 1
  perm : Option Perms
  d : Reg
  a : Reg
  b : Reg
  c : Reg
  m : MMod
deriving DecidableEq, Repr

/-- The kinds of `FENCE` (07 R173), D field 1, 2, 3. -/
inductive FenceKind where | acq | rel | ar
deriving DecidableEq, Repr

/-- Operand formats of `MMA` (08 R202), codes 1 to 9. -/
inductive MmaFmt where
  | f16 | bf16 | e4m3 | e5m2 | e2m1 | i8 | mxe4m3 | mxe5m2 | mxe2m1
deriving DecidableEq, Repr

/-- Entry formats of `MDRAIN` (08 R205), codes 0 to 4. -/
inductive DrainFmt where | w32 | f16 | bf16 | e4m3 | e5m2
deriving DecidableEq, Repr

/-- Culling of `TRICOV` (09 R232), codes 0 to 2. -/
inductive Cull where | off | pos | neg
deriving DecidableEq, Repr

/-- What the other members of a collective supply when it completes (10 R247, R248): for each segment
that another package computes its elements in order, or the error the collective ends with. -/
inductive CollRemote where
  | sums (segs : List (Nat × List Dword))
  | mismatch
  | memberLost
deriving DecidableEq, Repr

/-- One constructor per row of spec/opcode_table.json. `g` is GAP. -/
inductive Instr where
  -- short forms and lane reductions
  | nop (n : BitVec 8)
  | exit
  | setxS16 (s : Reg)
  | setxA32 (g : BitVec 2) (s : Reg)
  | anyqS16 (s : Reg)
  | anyqA32 (g : BitVec 2) (s : Reg)
  | allqS16 (s : Reg)
  | allqA32 (g : BitVec 2) (s : Reg)
  -- control and system
  | brA32 (g : BitVec 2) (c : Cond) (off : BitVec 12)
  | brB64 (g : BitVec 1) (c : Cond) (off : Word)
  | brx (g : BitVec 2) (c : Cond) (a : Reg)
  | callA32 (g : BitVec 2) (d : Reg) (off : BitVec 8)
  | callB64 (g : BitVec 1) (d : Reg) (off : Word)
  | callx (g : BitVec 2) (d a : Reg)
  | yield (g : BitVec 2)
  | pchk (g : BitVec 2)
  | tret (g : BitVec 2)
  | csrr (g : BitVec 2) (sup : Bool) (num : BitVec 10) (d : Reg)
  | csrw (g : BitVec 2) (sup : Bool) (num : BitVec 10) (s : Reg)
  | regang (g : BitVec 2) (s : Reg)
  | arriveWg (g : BitVec 2) (d : Reg) (id : BitVec 3)
  | arriveCl (g : BitVec 2) (d : Reg) (id : BitVec 2)
  | waitaWg (g : BitVec 2) (id : BitVec 3) (s : Reg)
  | waitaCl (g : BitVec 2) (id : BitVec 2) (s : Reg)
  -- integer and logic
  | adda (x : Long)
  | iadd (t : ITy) (x : Long)
  | isub (t : ITy) (x : Long)
  | imul (t : ITy) (x : Long)
  | imulh (u : Bool) (x : Long)
  | imad (t : ITy) (x : Long)
  | imin (t : ITy) (x : Long)
  | imax (t : ITy) (x : Long)
  | iabsA32 (g : BitVec 2) (t : BTy) (d a : Reg)
  | iabsB64 (t : BTy) (x : Long)
  | icmp (t : ITy) (x : Long)
  | and (t : BTy) (x : Long)
  | or (t : BTy) (x : Long)
  | xor (t : BTy) (x : Long)
  | andn (t : BTy) (x : Long)
  | notA32 (g : BitVec 2) (t : BTy) (d a : Reg)
  | notB64 (t : BTy) (x : Long)
  | bfx (u : Bool) (x : Long)
  | bfi (x : Long)
  | popcA32 (g : BitVec 2) (t : BTy) (d a : Reg)
  | popcB64 (t : BTy) (x : Long)
  | clzA32 (g : BitVec 2) (t : BTy) (d a : Reg)
  | clzB64 (t : BTy) (x : Long)
  | brevA32 (g : BitVec 2) (t : BTy) (d a : Reg)
  | brevB64 (t : BTy) (x : Long)
  | shl (t : BTy) (x : Long)
  | shr (t : ITy) (x : Long)
  | rot (x : Long)
  | movA32 (g : BitVec 2) (t : BTy) (d a : Reg)
  | movB64 (t : BTy) (x : Long)
  | sel (t : BTy) (x : Long)
  | getx (g : BitVec 2) (d : Reg)
  | ballotA32 (g : BitVec 2) (d a : Reg)
  | ballotB64 (x : Long)
  | lane (g : BitVec 2) (d : Reg)
  | shuf (x : Long)
  -- floating point
  | fadd (t : FTy) (x : Long)
  | fsub (t : FTy) (x : Long)
  | fmul (t : FTy) (x : Long)
  | ffma (t : FTy) (x : Long)
  | fmin (t : FTy) (x : Long)
  | fmax (t : FTy) (x : Long)
  | fcmp (t : FTy) (x : Long)
  | fclassA32 (g : BitVec 2) (t : FTy) (d a : Reg)
  | fclassB64 (t : FTy) (x : Long)
  | frintA32 (g : BitVec 2) (t : FTy) (d a : Reg)
  | frintB64 (t : FTy) (x : Long)
  | fcvt (dt st : CTy) (x : Long)
  | ftoi (it : CITy) (ft : FTy) (x : Long)
  | itof (ft : FTy) (it : CITy) (x : Long)
  | mxcvt (t : MxTy) (x : Long)
  | exp2A32 (g : BitVec 2) (d a : Reg)
  | exp2B64 (x : Long)
  | log2A32 (g : BitVec 2) (d a : Reg)
  | log2B64 (x : Long)
  | rcpA32 (g : BitVec 2) (d a : Reg)
  | rcpB64 (x : Long)
  | rsqA32 (g : BitVec 2) (d a : Reg)
  | rsqB64 (x : Long)
  | sinA32 (g : BitVec 2) (d a : Reg)
  | sinB64 (x : Long)
  | cosA32 (g : BitVec 2) (d a : Reg)
  | cosB64 (x : Long)
  | rndc (f : Bool) (x : Long)
  -- memory, batches, semaphores
  | ldA32 (g : BitVec 2) (t : LdTy) (d a : Reg)
  | ldB64 (t : LdTy) (x : LongM)
  | stA32 (g : BitVec 2) (t : StTy) (d a : Reg)
  | stB64 (t : StTy) (x : LongM)
  | atom (t : WTy) (x : LongM)
  | rst (t : StTy) (x : LongM)
  | waitw (t : WTy) (x : Long)
  | semi (g : BitVec 2) (d a : Reg)
  | sems (g : BitVec 2) (n : BitVec 8) (a : Reg)
  | semsCl (g : BitVec 1) (n : BitVec 8) (a b : Reg)
  | semw (g : BitVec 2) (n : BitVec 8) (a : Reg)
  | semwT (g : BitVec 2) (n : BitVec 8) (a : Reg)
  | batch (g : BitVec 2) (d : Reg)
  | waitb (g : BitVec 2) (s : Reg)
  | waitbAll (g : BitVec 2)
  | fence (g : BitVec 2) (scope : BitVec 3) (k : FenceKind)
  -- tensor engines
  | ringsSet (g : BitVec 1) (k : BitVec 3) (a b : Reg)
  | ringsQ (g : BitVec 2) (d : Reg) (k : BitVec 3)
  | ringsPop (g : BitVec 2) (k : BitVec 3)
  | copy (g : BitVec 2) (d a : Reg)
  | copyS (g : BitVec 2) (d a : Reg)
  | copyG (g : BitVec 2) (d a : Reg)
  | copyR (g : BitVec 2) (k : BitVec 3) (a : Reg)
  | copyGt (g : BitVec 1) (d a b c : Reg)
  | mma (g : BitVec 2) (z arr acc : Bool) (f : MmaFmt) (rb ra : BitVec 3)
  | mdrainA32 (g : BitVec 2) (z arr acc : Bool) (f : DrainFmt) (q : BitVec 2)
  | mdrainB64 (g : BitVec 1) (z arr acc : Bool) (f : DrainFmt) (q : BitVec 2) (sat : Bool)
  | mpop (g : BitVec 2) (arr last : Bool) (d : Reg) (q : BitVec 2) (c : BitVec 5)
  | stq (g : BitVec 2) (arr : Bool) (q : BitVec 2) (a : Reg)
  | mcast (g : BitVec 2) (arr last : Bool) (q : BitVec 2) (a : Reg)
  | cred (g : BitVec 1) (d a b : Reg)
  -- ray and raster
  | rayq (g : BitVec 2) (p : Prec) (d a : Reg)
  | rayqL (g : BitVec 1) (p : Prec) (d a b : Reg)
  | rayp (g : BitVec 1) (p : Prec) (d a b : Reg)
  | raya (g : BitVec 2) (p : Prec) (d a : Reg)
  | rayh (g : BitVec 1) (p : Prec) (d a b c : Reg)
  | tricov (g : BitVec 1) (k : Cull) (d a b : Reg)
  -- spawn, tickets, journal, governor
  | spawn (g : BitVec 1) (perm : Option Perms) (h : Bool) (n : BitVec 2) (d a b c : Reg)
  | join (g : BitVec 2) (d a : Reg)
  | ticketAcq (g : BitVec 2) (d : Reg) (id : BitVec 2)
  | ticketRel (g : BitVec 2) (id : BitVec 2)
  | jrnl (g : BitVec 1) (d a b : Reg)
  | emit (g : BitVec 2) (d a : Reg)
  | jtrunc (g : BitVec 2) (d a : Reg)
  | govq (g : BitVec 2) (d a : Reg)
  | govqJ (g : BitVec 2) (d a : Reg)
  -- events of a wave: `u` its number, `seq` a batched instruction of it; `bank` is 16 × core + context
  | trapEntry (u : Nat)
  | faultServiceComplete (u : Nat)
  | memoryAccessComplete (u seq lane : Nat) (resp : BitVec 128)
  | waveRetirement (u : Nat)
  | copyComplete (u seq : Nat)
  | guideTileTransfer (u seq : Nat)
  | multicastTransfer (u seq : Nat)
  | mmaExecute (bank arr : Nat)
  | mmaComplete (bank arr : Nat)
  | mdrainExecute (bank arr : Nat)
  | rayQueryComplete (u seq lane : Nat)
  | userLeafThreadsRetired (u seq lane : Nat)
  | collectiveComplete (u seq : Nat) (r : CollRemote)
  -- journal events
  | emitPublication (u seq lane : Nat)
  | journalRecordArrival (peer off : Nat) (rec : BitVec 512)
  | journalAcknowledgement (peer stream : Nat) (s : Dword)
  | streamReassignment (stream : Nat) (refusing : List Nat)
  -- gatherer and dispatcher events
  | binTimerExpiry (core ctx bin : Nat)
  | binLaunch (core ctx bin : Nat)
  | binOverflowWrite (core ctx bin : Nat)
  | segmentDrainLaunch (core ctx depth : Nat)
  | requestGuard (grid cidx : Nat)
  | packetRead (ctx q : Nat)
  | packetStart (ctx q : Nat)
  | clusterAdmission (grid cidx : Nat)
  | gridCompletion (grid : Nat)
  -- scheduling events
  | fragmentPromotion (u quad : Nat)
  | watchdog (u : Nat)
  | deterministicTurn (u seq lane : Nat)
  | deterministicStall (u seq lane : Nat)
  | waitwRetest (u quad : Nat)
  | waitTimeout (u quad : Nat)
  | preemptionDeadline (ctx : Nat)
  | contextSave (ctx : Nat)
  | contextRestoreClaim (ctx : Nat)
  -- package events
  | powerWindow (watts : Nat)
  | thermalHalt (dom : Nat)
  | dieLost (dom : Nat)
  | powerOn (dies : BitVec 18) (ports : BitVec 18) (revs : List (Nat × Nat))
  | pageCompression (ctx : Nat) (va : VA)
  | migration (ctx : Nat) (va : VA)
  | hostInboundWrite (pa : Nat) (data : List Byte)
  | hostInboundRead (pa n : Nat)
  | peerInboundRequest (peer pa : Nat) (write : Bool) (n : Nat) (data : List Byte)
  | peerNack (u seq lane : Nat)
  | portTimerExpiry (u seq lane : Nat)
  -- link events
  | flitReceive (port : Nat) (flit : BitVec 1024)
  | flitResend (port : Nat)
  | creditFlit (port vc : Nat) (total : BitVec 16)
  | auditSend (port : Nat)
  | auditFlit (port vc : Nat) (stot : BitVec 16)
  | portDown (port : Nat)
  | lossOfSignal (port : Nat)
  -- host register writes: `fn` 0 to 15 a VF, 16 the PF
  | cmddb (fn : Nat) (addr : Dword)
  | mbovfClear (fn : Nat) (w : Dword)
  | queueDoorbell (ctx q : Nat) (widx : Word)
  | registerWrite (fn off : Nat) (w : Dword)
  -- ROM commands: the oldest pending command of function `fn`
  | identify (fn : Nat)
  | attest (fn : Nat)
  | ctxCreate (fn : Nat)
  | ctxDestroy (fn : Nat)
  | ctxPreempt (fn : Nat)
  | ctxRestore (fn : Nat)
  | ctxKill (fn : Nat)
  | queueCreate (fn : Nat)
  | queueReset (fn : Nat)
  | queueDestroy (fn : Nat)
  | map (fn : Nat)
  | unmap (fn : Nat)
  | protect (fn : Nat)
  | bufRegister (fn : Nat)
  | zoneSet (fn : Nat)
  | powerLimit (fn : Nat)
  | jstreamBind (fn : Nat)
  | jstreamReplay (fn : Nat)
  | jstreamUnbind (fn : Nat)
  | jstreamFail (fn : Nat)
  | jstandby (fn : Nat)
  | govBind (fn : Nat)
  | peerMap (fn : Nat)
  | portTimer (fn : Nat)
  | errlog (fn : Nat)
  | pkgReset (fn : Nat)
  -- remaining package events
  | powerRemoved
  | bridgeFailureAtRunTime (a b : Nat)
  | portRetrainingComplete (port : Nat)
  | partnerReportsLoss (stream : Nat)
  | configurationRequest
deriving DecidableEq, Repr

end Sys2Proof
end

