-- ==== Sys2Proof/Machine/State.lean ====
section
/-!
DEFINITION. The state of the package: every piece of state the spec names, as plain data. Collections that the
spec numbers (waves, contexts, cores, streams, ports) are lists of number and value with numbers rising; a number
that is not listed stands for the value at reset. Memory is a list of address and byte in rising order of address
that lists no zero byte (assumption 5).
-/

namespace Sys2Proof.Machine

/-- Trap causes (11 R287). -/
inductive Cause where
  | illegalInstruction | illegalBlock | absentUnit | privilege | registerBound | roleSlot | watchdog
  | floatingPoint | regangMismatch | barrierRearrival | illegalBarrier | badJoinWord | ticketReused
  | ticketNotHeld | illegalTicket | pageFault | outOfMemory | protection | misaligned | nonCanonical
  | tableFormat | physicalRange | scratchpadBound | spillBound | tensorRecord | remoteFault | remoteTimeout
  | ringOwner | ringBusy | ringConfig | arrayOwned | queueUnderflow | queueOverflow | multicastShape
  | semaphoreOverflow | semaphoreRange | semaphoreTable | pipelineClosed | guideTarget | deterministicStall
  | communicator | collectiveMismatch | collectiveMemberLost | journalStream | journalRecord | journalFull
  | journalLost | journalRange | replayDivergence | governor | waitTimeout
deriving DecidableEq, Repr

/-- Where an access lands: package, host or peer memory by physical address (06 R142) with the leaf entry that
translated it, or a byte of a workgroup's scratchpad share (06 R144). -/
inductive Loc where
  | phys (pa leaf : Nat)
  | share (grid wg off : Nat)
deriving DecidableEq, Repr

/-- A hit of a ray query (09 R217, R223). Reals are FP64 patterns, also in FP32 mode, where they are exact. -/
structure Hit where
  t : Dword
  u : Dword
  v : Dword
  user : Bool
  prim : Word
  attr : Word
  front : Bool
deriving DecidableEq, Repr

/-- A ray query in progress (09 R216 to R231). Reals are FP64 patterns. -/
structure Query where
  prec : Prec
  /-- `RAYP`: the log is replayed instead of a traversal. -/
  replay : Bool
  /-- Number that tells the query's threads from those of an earlier issue, and the handle they name it by. -/
  num : Nat
  handle : Word
  /-- The core whose ray engine runs it. -/
  core : Nat
  origin : List Dword
  dir : List Dword
  tmin : Dword
  tmax : Dword
  flags : Word
  /-- Header and log addresses, with whether the triple is not canonical, and the log addresses of other lanes. -/
  header : Bool × VA
  log : Option (Bool × VA)
  others : List VA
  /-- Read at the start: CAP, then NODES, TRIS, UENT, NNODE and NTRI. -/
  started : Bool
  cap : Nat
  nodes : Nat
  tris : Nat
  uent : VA
  nnode : Nat
  ntri : Nat
  stack : List (Nat × Dword)
  best : Option Hit
  visits : Nat
  /-- Traversal records written so far, and whether one was dropped. -/
  nrec : Nat
  logf : Bool
  /-- Number of the record that holds the best hit. -/
  bestRec : Option Nat
  /-- Logs that may be written while the query runs, its own among them (address, length); their bytes that overlap
  another's log or data that a query reads; and whether this one read such bytes (09 R231). -/
  logs : List (Nat × Nat)
  clash : List (Nat × Nat)
  badRead : Bool
  /-- The user leaf waited on: primitives not yet spawned, those spawned with their thread not yet retired,
  whether one ended without its own `EXIT`, and the reports accepted so far. -/
  toSpawn : List Nat
  waiting : List Nat
  lost : Bool
  reports : List Hit
  inLeaf : Option (Nat × Nat)
  /-- Ordinals taken so far, and those a reissue takes again first. -/
  used : List Nat
  reuse : List Nat
deriving DecidableEq, Repr

/-- One outstanding operation of an instruction that joined a batch (06 R149). Sources were read at issue. Of an
access of 16 bytes, an operation of 8 is left once one half is performed (07 R175); `reg` is the destination's
offset. -/
inductive Op where
  | load (loc : Loc) (n : Nat) (reg : Nat)
  | store (loc : Loc) (data : List Byte)
  | atom (loc : Loc) (b c : Dword)
  | spawn (entry : VA) (bad : Bool) (payload : List Word) (join : Option (Bool × VA))
  | query (q : Query)
  | rayA (handle : Word)
  | rayH (handle : Word) (t : Dword) (attr : Word)
  | journal (stream : Nat) (s : Dword) (gov : Option (Word × LaneMask))
  | emit (stream : Nat) (value : Word) (ord : Dword) (after : List Nat)
  | truncate (stream : Nat) (s : Dword) (set : Bool)
  | word (w : Word) (lanes : LaneMask)
  | engine (args : List Nat)
  /-- An `ATOM` whose read has been performed and whose write has not (07 R176): the value read, and the operands. -/
  | atomWrite (loc : Loc) (old : Nat) (b c : Dword)
  /-- An access of a peer whose request has been sent (12 R301): its port, the cycle, and its number in the order of
  sending (07 R191). -/
  | sent (port cycle num : Nat) (op : Op)
deriving DecidableEq, Repr

/-- One lane of a batched instruction: in flight (with the address its fault would name), ended, faulted (cause,
address as `TVAL` names it, and virtual address touched) or held (06 R154). -/
inductive LaneSt where
  | inflight (op : Op) (addr : VA)
  | done
  | faulted (c : Cause) (addr : VA) (page : VA)
  | held
deriving DecidableEq, Repr

/-- 128 by 128 words (08 R192): listed cells by 128 × row + column, and what the others hold (none: undefined). -/
structure Image where
  rest : Option Word
  cells : List (Nat × Word)
deriving DecidableEq, Repr

/-- State of a result-queue entry (08 R204). -/
inductive ResSt where | draining | ready | claimed
deriving DecidableEq, Repr

/-- Entry of a result queue (08 R204). -/
structure ResEntry where
  fmt : DrainFmt
  st : ResSt
  img : Image
  id : Nat
deriving DecidableEq, Repr

/-- Requests of a lane's operation to a peer through one port, sent together and not yet ended (12 R301): the port, the cycle,
their number in the order of sending (07 R191), the peer, and whether writes are among them. -/
structure Ask where
  lane : Nat
  port : Nat
  cycle : Nat
  num : Nat
  peer : Nat
  wr : Bool
deriving DecidableEq, Repr

/-- A batched instruction of a wave and its entry of the fault list (06 R154). A fragment-level operation stands
under the lane it reads its operands from. -/
structure Entry where
  seq : Nat
  pc : VA
  batch : Nat
  instr : Instr
  quads : QuadMask
  /-- Clock of the issuing quad when the instruction first issued (10 R238). -/
  clock : Nat
  lanes : List (Nat × LaneSt)
  /-- Cycles that each lane's event has waited under 10 R241. -/
  stalls : List (Nat × Nat)
  /-- Cycle of issue. -/
  issued : Nat
  /-- Ring slot the operation reserved (08 R200, R213): ring key and slot; for `STQ` and `MCAST` the array, queue and
  number of the entry it claimed (08 R204). -/
  slot : Option (Nat × Nat × Nat)
  /-- Parts not yet written after a fault (06 R164). For `MCAST` four numbers for each rank: rank, state, ring key and
  slot. For `RAYQ` and `EMIT` the ordinals that lanes hold, as lane + 64 × ordinal; for `GOVQ` its active lanes
  and for `GOVQ.J` its stream; for `JRNL` the streams, as lane + 64 × stream. -/
  rest : Option (List Nat)
  /-- The result-queue entry that an `MCAST` sends (08 R207). -/
  image : Option ResEntry
  /-- Quads whose later instructions come after this one, with the number of the first of them: the issuing fragment's, and
  those that a `REGANG` merged with them since (02 R41, 07 R174). -/
  after : List (Nat × QuadMask)
  /-- Requests to peers of operations other than a lane's own access: an engine's, a `SPAWN`'s, a record's. -/
  asks : List Ask
  /-- Ranges of its slot that a `COPY.R` has written (08 R200). -/
  wrote : List (Nat × Nat)
deriving DecidableEq, Repr

/-- What a lane parked in `WAITW` waits on: its word, the value it waits away from, and the value last seen. For a word
of a peer, the port and the cycle on which its poll was sent (17 R420, 12 R301). -/
structure WaitWord where
  lane : Nat
  pa : Nat
  va : VA
  vb : Dword
  m : Dword
  port : Nat
  sent : Nat
deriving DecidableEq, Repr

/-- Why a fragment is parked. -/
inductive Park where
  | none
  /-- `REGANG` at this pc with mask m and its GAP (02 R40). -/
  | regang (m : QuadMask) (gap : Nat)
  /-- The instruction at the pc waits on a condition and issues again when it holds:
  `TICKET.ACQ`, ring-full, ring-empty, array-full, `FENCE` holds and the like. -/
  | wait
  /-- A release, or a read of `JOIN` or `WAITW`, waits behind accesses in the fault list until they are settled
  (assumption 8). -/
  | faults
  /-- `SEMW` for `n` on a word of a share, with its place in the order of parking; only semaphore operations and
  closing wake it (08 R208 to R210). -/
  | sem (grid wg off n order : Nat)
  /-- `JOIN` waits for the `SPAWN`s of its wave numbered below `upto` (03 R84), or for accesses that its reads come after. -/
  | spawns (upto : Nat)
  /-- A `JOIN`, or a `WAITW` in deterministic mode, waits for the answers of the peers that hold its words; `upto` is the
  `JOIN`'s of the park above. Without words its reads have not been sent yet. -/
  | asked (words : List WaitWord) (upto : Nat)
  /-- `JOIN` on words at physical addresses; only a decrement to zero wakes it (03 R83, 17 R413). -/
  | join (pas : List Nat)
  /-- `WAITA` waits for the phase after `t` of a barrier (02 R53); the quads are not counted (10 R240). -/
  | barrier (cluster : Bool) (id : Nat) (t : Word)
  /-- `WAITB` waits for the operations of the batches up to number `upto` (06 R152). -/
  | batches (upto : Nat)
  /-- A `WAITW` (17 R419): words, width, cycles left (none: no timeout), and whether a write has woken it. -/
  | waitw (i : Instr) (words : List WaitWord) (n : Nat) (left : Option Nat) (woken : Bool)
  /-- `MCAST` waits for its receivers with the entry it took from a queue of an array (08 R207). -/
  | mcast (y q : Nat) (e : ResEntry)
  /-- `ARRIVE` or `TICKET.ACQ` waits for its turn in deterministic mode (10 R238). -/
  | turn
  /-- `YIELD` or `PCHK` (11 R280). -/
  | preempt
  /-- Firmware services a fetch fault or a failed read of `JOIN` or `WAITW` in these lanes (06 R155, R159). Where another
  lane than the lowest failing one is serviced, `low` is that lane's cause and address. -/
  | service (va : VA) (lanes : LaneMask) (home : Nat) (low : Option (Cause × VA))
deriving DecidableEq, Repr

/-- A trap that a fragment has met and not yet entered. -/
structure TrapRec where
  cause : Cause
  tlm : LaneMask
  tval : VA
  rep : Bool
  tpc : VA
  /-- `TPC` names a header (13 R316). -/
  header : Bool
deriving DecidableEq, Repr

/-- A fragment: its quads, program counter, block state (13 R315), park and scheduling state (11 R275, R277). -/
structure Frag where
  quads : QuadMask
  pc : VA
  blk : VA
  fin : VA
  left : Nat
  /-- The pc names a block header not yet entered. -/
  header : Bool
  /-- Physical addresses of the block's first page and of the page after it, as translated at block entry. -/
  page0 : Nat
  page1 : Nat
  park : Park
  /-- The instruction at the pc issues again after its park. -/
  retry : Bool
  /-- The instruction at the pc has done a part that it does once: the `WAITB` closed its batch before its own report
  (06 R152), the `JOIN` has found its words good (03 R84), the `TICKET.REL` its ticket held (03 R87), the `SEMW` was given its
  count (08 R209). -/
  closed : Bool
  stamp : Nat
  readyAt : Nat
  waited : Nat
  promoted : Option Nat
  /-- Lanes in which the next instruction acts, after `TRET` (17 R416). -/
  only : Option LaneMask
  /-- Clock a parked quad takes on return where 10 R240 gives another's. -/
  wakeClock : Nat
  /-- Cycles that the fragment's turn has been blocked (10 R241), or that a changed word of its `WAITW` awaits its
  test (17 R420). -/
  stall : Nat
  /-- A trap record held while another fragment has the window (04 R110). -/
  trap : Option TrapRec
deriving DecidableEq, Repr

/-- Why lanes of registers are undefined (04 R94): until a cycle, until a batch completes, until written after a
batch has completed, or until next written. -/
inductive UndefWhy where
  | bound (t : Nat)
  | batch (b : Nat)
  | poison (b : Nat)
  | lost
deriving DecidableEq, Repr

/-- Lanes of one register that are undefined, and why. -/
structure Undef where
  reg : Nat
  lanes : LaneMask
  why : UndefWhy
deriving DecidableEq, Repr

/-- Condition codes of the sixteen quads, one bit of each code per quad (02 R30). -/
structure CC where
  z : QuadMask
  n : QuadMask
  c : QuadMask
  v : QuadMask
deriving DecidableEq, Repr

/-- The hidden state of a thread (03 R67) and its logical index (02 R47). -/
structure Thread where
  depth : Nat
  home : Nat
  next : Nat
  path : List (Nat × Nat)
  grid : Nat
  wg : Nat
  widx : Nat
  join : Option VA
  /-- An intersection thread: its query's wave, 64 × instruction + lane, number, and its primitive (09 R226). -/
  query : Option (Nat × Nat × Nat × Nat)
deriving DecidableEq, Repr

/-- The open trap window (04 R104 to R107, 11 R289). -/
structure Window where
  quads : QuadMask
  mask : LaneMask
  cc : CC
  tpc : VA
  blk : VA
  fin : VA
  left : Nat
  page0 : Nat
  page1 : Nat
  header : Bool
  g30 : Bool
  g31 : Bool
  waited : Bool
  /-- Reserve granules held. -/
  reserve : Nat
  retry : Bool
  closed : Bool
  /-- The frame's granules are stored; until then entry waits for the bounds of issued instructions (04 R105). -/
  stored : Bool
  /-- The fragment as it stood before its entry, with its trap record: a lower leading quad that traps in the same cycle
  enters in its place (04 R110). -/
  was : Frag
  /-- Cycle of the entry. -/
  opened : Nat
deriving DecidableEq, Repr

/-- A wave (02 R30, R38; 04; 06 R150 to R156; 11 R288). -/
structure Wave where
  ctx : Nat
  core : Nat
  slot : Nat
  base : Nat
  gran : Nat
  /-- Child reserve level that supplied slot and granules (03 R78). -/
  level : Option Nat
  frame : Nat
  grid : Nat
  wg : Nat
  widx : Nat
  spawned : Bool
  det : Bool
  /-- Threads of a spawned wave; a launched wave has 64 (17 R409). -/
  nthreads : Nat
  threads : List (Nat × Thread)
  live : QuadMask
  mask : LaneMask
  maskPend : List (LaneMask × LaneMask × Nat)
  cc : CC
  ccPend : List (QuadMask × Nat)
  clocks : List Nat
  frags : List Frag
  regs : List (Nat × Word)
  undef : List Undef
  tlm : Dword
  tpc : VA
  tcause : Word
  tval : VA
  fpstat : Word
  fpmode : Word
  /-- The quads of the fragment whose write of each per-wave CSR stands (04 R103). -/
  csrOwner : List (Nat × QuadMask)
  /-- `FPSTAT` flags whose bound has not passed, with the cycle at which it does (05 R125). -/
  fpPend : List (Word × Nat)
  /-- CSR writes whose bound has not passed: number, the other word it may read as, cycle, writer's quads (04 R103). -/
  csrPend : List (Nat × Word × Nat × QuadMask)
  /-- Number of the open batch; `BATCHNO`.OPEN is its low 16 bits (06 R150). -/
  open_ : Nat
  entries : List Entry
  nextSeq : Nat
  window : Option Window
  /-- The fragment (its leading quad) whose trap entry waits for the trap reserve (04 R109). -/
  trapWait : Option Nat
  /-- The reporting fragment (its leading quad) while firmware services the fault list (06 R156). -/
  report : Option Nat
  watchdog : Nat
  /-- Ended without resumption (11 R289). -/
  killed : Bool
  /-- Reserve granules that an ended wave still holds (11 R289). -/
  held : Nat
  /-- Lanes whose threads retired and await their count (03 R83): number of the next instruction at that moment,
  whether the thread retired by its own `EXIT`, and the count's request to a peer. -/
  leaving : List (Nat × Nat × Bool × Option Ask)
  /-- Cycle of the last bound of issued instructions. -/
  boundMax : Nat
  /-- Cycle in which the wave's last trap arose (04 R110). -/
  trapAt : Nat
  /-- Streams on which a record of the wave ended in error and was discarded: it stays unacknowledged (07 R187). -/
  lostRecs : List Nat
deriving DecidableEq, Repr

/-- A launch packet (11 R268). `num` is the order in which the dispatcher accepted it, and its grid's number. -/
structure Packet where
  num : Nat
  seq : Word
  kind : Nat
  prio : Nat
  det : Bool
  roles : Nat
  irq : Bool
  s : Nat
  n : Nat
  w : Nat
  dmask : BitVec 24
  gran : Nat
  scr : Nat
  spl : Nat
  entry : VA
  args : VA
  pbuf : VA
  deps : List (Nat × Word)
deriving DecidableEq, Repr

/-- A host queue (11 R266, R267). BASE, LOGN and the device fields stand in the queue control block in memory;
`run` is the packet taken from the ring, and whether it has started as a grid. -/
structure Queue where
  qcb : VA
  widx : Word
  state : Nat
  ridx : Word
  rseq : Word
  cseq : Word
  run : Option (Packet × Option Nat)
deriving DecidableEq, Repr

/-- Firmware's record of mapped pages (12 R298, 06 R166 to R168): `n` pages of size code `psz` from `va`.
`stored` holds the bytes of a compressed page and its former home. -/
structure Pages where
  va : Nat
  n : Nat
  psz : Nat
  w : Bool
  x : Bool
  u : Bool
  pin : Bool
  placed : Bool
  pref : Nat
  stored : Option (Nat × List (Nat × Byte))
deriving DecidableEq, Repr

/-- A registered buffer (06 R168). Its busy count is the number of transfers started and in flight that name it.
`hold` is the cycle since which its migration holds new transfers, and `moving` says that its entries are marked as
migrating. -/
structure Buffer where
  va : Nat
  len : Nat
  hold : Option Nat
  moving : Bool
deriving DecidableEq, Repr

/-- A context: its descriptor (11 R264), registers, queues, pages and status (11 R290). -/
structure Context where
  ptb : Nat
  sup : Bool
  ocap : Nat
  gplu : Nat
  spl : Nat
  orb : VA
  spa : VA
  spf : Nat
  save : VA
  csb : VA
  /-- The descriptor's 128 bytes as firmware holds them (12 R310). -/
  desc : List Byte
  share : BitVec 8
  pdl : BitVec 24
  wdlim : BitVec 24
  bintmr : BitVec 16
  detmode : Bool
  trapbase : VA
  preq : Bool
  forced : Bool
  /-- Cycles since REQ became 1, or since a restore that found it 1 (11 R281, R284). -/
  reqAge : Nat
  /-- CSR writes not yet seen everywhere: number, old word, writer, cycle for the writer, cycle for the others. -/
  csrPend : List (Nat × Word × Nat × Nat × Nat)
  cstate : Nat
  cerr : Nat
  nerr : Nat
  cause : Nat
  where_ : Word
  /-- The context is on its cores; false from the end of a save to the end of its restore (11 R282, R283). -/
  resident : Bool
  /-- A save on the deadline has begun (11 R281). -/
  saving : Bool
  /-- A restore command waits to claim its resources: the function that issued it (11 R283). -/
  restoring : Option Nat
  queues : List (Nat × Queue)
  pages : List Pages
  /-- Frames that hold table levels below PTB. -/
  tables : List Nat
  bufs : List Buffer
deriving DecidableEq, Repr

/-- Slot states of a ring (08 R195). -/
inductive SlotSt where | free | reserved | filled | claimed
deriving DecidableEq, Repr

/-- A ring descriptor (08 R195). -/
structure Ring where
  grid : Nat
  wg : Nat
  triple : Option Nat
  base : Nat
  bytes : Nat
  head : Nat
  read : Nat
  tail : Nat
  slots : List SlotSt
  /-- Slots filled from another die since they were last reserved (07 R185, 08 R213). -/
  far : List Nat
deriving DecidableEq, Repr

/-- A claimed slot of a ring (08 R195): ring key, slot, the owner and the ring's base offset and slot bytes. -/
structure SlotRef where
  rk : Nat
  slot : Nat
  grid : Nat
  wg : Nat
  base : Nat
  bytes : Nat
deriving DecidableEq, Repr

/-- An instruction in an array's internal queue (08 R194, R203, R205). -/
inductive ArrOp where
  | mma (acc : Bool) (z : Bool) (f : MmaFmt) (rows : LaneMask) (a b : SlotRef) (executed : Bool)
  | drain (acc : Bool) (z : Bool) (sat : Bool) (f : DrainFmt) (q : Nat) (id : Nat)
deriving DecidableEq, Repr

/-- A matrix array of a context's bank (08 R192, R194). -/
structure MArray where
  acc0 : Image
  acc1 : Image
  pend : List ArrOp
  queues : List (Nat × List ResEntry)
  nextId : Nat
deriving DecidableEq, Repr

/-- A thread waiting to be launched: a bin's or a segment record's (03 R71, R75). -/
structure Child where
  entry : VA
  gran : Nat
  grid : Nat
  det : Bool
  thread : Thread
  payload : List Word
  clock : Nat
deriving DecidableEq, Repr

/-- A spawn bin (03 R71, R73). -/
structure Bin where
  entry : VA
  depth : Nat
  threads : List Child
  ready : Bool
  timer : Nat
  /-- Cycles since the bin became Ready, and when it did. -/
  age : Nat
  since : Nat
deriving DecidableEq, Repr

/-- One context's bank of a core (08 R195, 03 R71, R75, R77): number of bank, child reserve, rings, arrays, bins,
overflow segments by depth (with the cycle a head became a candidate), and scratchpad bytes that earlier
workgroups of the context left. -/
structure Bank where
  index : Nat
  reserve : Nat
  rings : List (Nat × Ring)
  /-- Configurations whose bound has not passed (08 R197): ring, new state, cycle. -/
  ringPend : List (Nat × Option Ring × Nat)
  arrays : List (Nat × MArray)
  bins : List (Nat × Bin)
  segs : List (Nat × List Child)
  segSince : List (Nat × Nat)
  /-- Records written so far to each segment. -/
  segTail : List (Nat × Nat)
  leftover : List (Nat × Byte)
  /-- Ranges of those bytes that are undefined (00 R2). -/
  leftUndef : List (Nat × Nat)
deriving DecidableEq, Repr

/-- A block in a loop buffer (13 R318): context, address, parcels, PIN. -/
structure LoopBlk where
  ctx : Nat
  addr : VA
  parcels : Nat
  pin : Bool
deriving DecidableEq, Repr

/-- A core: scheduler credits (11 R276), the schedulers that issued this cycle, loop buffers, guarded requests in
order (04 R97) and trap entries waiting for the reserve (04 R109), each oldest first. -/
structure Core where
  credits : List (Nat × Int × Int)
  issued : List Nat
  loops : List (Nat × List LoopBlk)
  guards : List (Nat × Nat)
  trapQ : List Nat
deriving DecidableEq, Repr

/-- A barrier (02 R51, R53): phase, arrived quads by wave, epilogue wave of the last phase, the clock of the
arrival or exit that completed each phase, newest first (10 R240), and the waves that arrived in this phase, each with
its workgroup and index (10 R242). -/
structure Barrier where
  phase : Word
  arrived : List (Nat × QuadMask)
  epilogue : Option Nat
  done : List (Word × Nat)
  came : List (Nat × Nat × Nat)
deriving DecidableEq, Repr

/-- A bound pipeline triple (02 R56, 08 R193, R209, R210). -/
structure Triple where
  arr : Nat
  closed : Bool
  words : List Nat
deriving DecidableEq, Repr

/-- A workgroup from admission on (02 R44, 06 R144). `undef` lists ranges of its share (offset, length) whose bytes are
undefined until they are written (00 R2), `far` offsets of semaphores that an engine of another die has signalled since
they were last set (07 R185). -/
structure Wg where
  core : Nat
  shareBase : Nat
  share : List (Nat × Byte)
  bars : List (Nat × Barrier)
  triples : List Triple
  anyKilled : Bool
  retired : Bool
  undef : List (Nat × Nat)
  far : List Nat
deriving DecidableEq, Repr

/-- A ticket (03 R85, R87): none of these fields is meaningful before it is granted. -/
structure Ticket where
  granted : Bool
  held : Bool
  released : Bool
  status : Nat
  /-- A release at retirement recorded before the grant (03 R88). -/
  early : Option Nat
deriving DecidableEq, Repr

/-- A cluster that waits on a fixed candidate (11 R272): quad, starting core, cycle it began to wait. -/
structure ClWait where
  cq : Nat
  c0 : Nat
  since : Nat
deriving DecidableEq, Repr

/-- A grid (11 R270, R271; 01 R17): dies in order, each with its next cluster; workgroups, cluster barriers,
tickets by 4 × workgroup + id, waiting clusters. -/
structure Grid where
  ctx : Nat
  q : Nat
  pkt : Packet
  det : Bool
  dies : List Nat
  next : List Nat
  waits : List (Nat × ClWait)
  wgs : List (Nat × Wg)
  clBars : List (Nat × Barrier)
  tickets : List (Nat × Ticket)
  discarded : Bool
deriving DecidableEq, Repr

/-- States of a journal stream (10 R254). -/
inductive StreamSt where | open_ | reassigning | failed | replaying | diverged
deriving DecidableEq, Repr

/-- A bound journal stream (10 R249, R252 to R261). Sequence numbers are modulo 2^64. -/
structure Stream where
  ctx : Nat
  st : StreamSt
  peer : Nat
  area : VA
  parea : Nat
  cap : Nat
  oq : VA
  oqN : Nat
  wdig : List Byte
  shapeid : Word
  mode : Word
  first : Dword
  next : Dword
  tseq : Dword
  eord : Dword
  floor : Dword
  acked : Dword
  /-- Replay: the area read, its HSEQ and its CAP. -/
  src : VA
  srcHseq : Dword
  srcCap : Nat
  /-- TSEQ that the partner's header carries once it has confirmed. -/
  peerTseq : Dword
deriving DecidableEq, Repr

/-- A frame governor (10 R258): period, limits, step count, time of the previous decision in picoseconds. -/
structure Gov where
  ctx : Nat
  p : Nat
  smin : Nat
  smax : Nat
  s : Nat
  last : Option Nat
deriving DecidableEq, Repr

/-- A mapped peer (12 R300): ports in ascending order, inbound windows (base, length). -/
structure Peer where
  ports : List Nat
  windows : List (Nat × Nat)
deriving DecidableEq, Repr

/-- One virtual channel of one port direction (12 R305, R306). -/
structure Credit where
  stot : BitVec 16
  rseen : BitVec 16
  avail : BitVec 16
  rtot : BitVec 16
  occ : BitVec 16
  /-- Returns still to withhold, and flits that wait for a credit. -/
  withhold : Nat
  wait : Nat
deriving DecidableEq, Repr

/-- An Ossin Link port (12 R299 to R306). -/
structure Port where
  up : Bool
  training : Bool
  logT : Nat
  fseqIn : BitVec 12
  fseqOut : BitVec 12
  acked : BitVec 12
  /-- Flits sent and not yet acknowledged, oldest first, and payload flits since the last audit. -/
  sent : List (BitVec 1024)
  payload : Nat
  /-- Cycles since ACKSEQ advanced, and since a flit with a valid CRC was accepted. -/
  idleAck : Nat
  idleRx : Nat
  /-- Discarding until the expected flit arrives again. -/
  skipping : Bool
  /-- Payloads accepted in order and not yet handed on, oldest first: virtual channel and bytes. -/
  rx : List (Nat × BitVec 928)
  vcs : List Credit
  crcFails : Nat
  resent : Nat
  mismatches : Nat
  timeouts : Nat
deriving DecidableEq, Repr

/-- The hub (01 R26 to R28; 12). Functions are numbered 0 to 15 for the VFs, 16 for the PF. -/
structure Hub where
  powerLimit : Nat
  clockMHz : Nat
  halted : Bool
  online : BitVec 19
  revs : List Nat
  /-- Ring bridges that are down, by the lower end's place in the ring order (01 R13). -/
  bridgesDown : List Nat
  /-- The endpoint's link is up (12 R309). -/
  endpointUp : Bool
  /-- PKG_RESET's command block, whose STATUS the bring-up writes. -/
  bootCmd : Option Nat
  /-- Configuration requests answered with retry status, and answered otherwise. -/
  crs : Nat
  configs : Nat
  /-- Pending command block addresses by function, oldest first (12 R295, R296). -/
  cmds : List (Nat × List Dword)
  mbovf : List Nat
  /-- Interrupts raised, newest first: function and vector (12 R294). -/
  irqs : List (Nat × Nat)
  streams : List (Nat × Stream)
  govs : List (Nat × Gov)
  standby : List Nat
  peers : List (Nat × Peer)
  ports : List (Nat × Port)
  /-- Inbound fault records, oldest first: peer, cause, address (12 R298, R302). -/
  faults : List (Nat × Nat × Nat)
  zoneDies : BitVec 18
  zoneSize : Nat
  /-- The zone goes once it holds no page; pages it holds. -/
  zoneDrop : Bool
  zonePages : Nat
  /-- HBM frames in use: base and size, bases rising. -/
  frames : List (Nat × Nat)
  /-- `CRED` instructions issued so far by communicator identifier (10 R248). -/
  colls : List (Nat × Nat)
  /-- What the endpoint and the links answered, newest first: bytes of a host read or a peer read. -/
  answers : List (List Byte)
  /-- Accesses whose home hint named another die, by die (01 R23). -/
  hints : List (Nat × Nat)
  /-- Messages handed to the links, newest first: (peer, kind, number) with kind 0 record, 1 acknowledgement,
  2 header, 3 NACK, 4 write, 5 read, 6 response to a write or a read. -/
  sent : List (Nat × Nat × Nat)
  /-- Copies of lines of package and host memory held in slice groups, by 2^52 × group + line address, with each line's 128
  bytes (06 R147). -/
  lineCopies : List (Nat × List Byte)
deriving DecidableEq, Repr

/-- What moves next (MODEL). The order in which agents move is left open by the spec, so it is data of the
state: an event of a device or of the world outside, one scheduler's issue, some cycles, or a byte that the host or a
peer writes into its own memory. -/
inductive Turn where
  | event (i : Instr)
  | issue (core sched : Nat)
  | tick (n : Nat)
  | outer (pa : Nat) (b : Byte)
deriving DecidableEq, Repr

/-- The whole package with the host and peer memory it reaches. -/
structure State where
  mem : List Host.Cell
  hub : Hub
  ctxs : List (Nat × Context)
  cores : List (Nat × Core)
  /-- Banks by 16 × core + context. -/
  banks : List (Nat × Bank)
  waves : List (Nat × Wave)
  grids : List (Nat × Grid)
  cycle : Nat
  /-- Time of the hub's fixed reference clock, in picoseconds (10 R258). -/
  psec : Nat
  nextUid : Nat
  nextGrid : Nat
  /-- MODEL: the counter that numbers free values (assumption 1). -/
  free : Nat
  /-- MODEL: what moves next (assumption 6). -/
  agenda : List Turn
  /-- MODEL: the fragment that issues in this step: wave number and leading quad. -/
  cur : Option (Nat × Nat)
  /-- Ranges of physical memory (address, length) whose bytes are undefined until they are written (00 R2). -/
  undefMem : List (Nat × Nat)
  /-- Parcels of physical memory that were overwritten, newest first: address, the number of packets read before the
  write, and the old value. A fetch may get it (13 R317). -/
  past : List (Nat × Nat × Nat)
  /-- Words that a semaphore operation or a join count updated in this cycle, with the value written: toward a plain store the
  update is a separate read and write (08 R208, 17 R413). -/
  updates : List (Loc × Nat)
deriving DecidableEq, Repr

/-- How a step can stop. -/
inductive Fault where
  /-- Raised by `exec` of an encoded instruction when the state names no issuing fragment. Safe: `step` always
  names one before it calls `exec`. -/
  | noIssuer
deriving DecidableEq, Repr

/-- Why a step gives no meaning. -/
inductive Refusal where
  /-- Raised by `exec`'s arm of an instruction without a meaning. Safe. No arm raises it now. -/
  | notModelled (mnemonic : String)
deriving DecidableEq, Repr

/-- Credits of one virtual channel at reset: all 256 usable (12 R305). -/
def Credit.reset : Credit := ⟨0, 0, 256, 0, 0, 0, 0⟩

/-- A trained port at reset, timer 2^20 cycles (12 R301). -/
def Port.reset : Port :=
  ⟨true, false, 20, 0, 0, 0xFFF, [], 0, 0, 0, false, [], List.replicate 4 Credit.reset, 0, 0, 0, 0⟩

/-- The hub after bring-up (12 R309) with every die online and every port trained: power limit 6.2 kW (01 R26),
2.1 GHz, no context, stream, binding or peer. Negotiated revisions are DESIGN CHOICE 1 (assumption 7). -/
def Hub.reset : Hub :=
  ⟨6200, 2100, false, 0x7FFFF, List.replicate 19 1, [], true, none, 0, 0, [], [], [], [], [], [], [],
    (List.range 18).map (fun p => (p, Port.reset)), [], 0, 0, false, 0, [], [], [], [], [], []⟩

/-- The package right after reset (12 R309, assumption 7). -/
def State.reset : State :=
  ⟨[], Hub.reset, [], [], [], [], [], 0, 0, 1, 1, 0, [], none, [], [], []⟩

end Sys2Proof.Machine
end

