-- ==== Sys2Proof/Machine/Mem.lean ====
section
/-!
DEFINITION. Numbered collections, memory as bytes in canonical form, byte order, physical memory and its frames,
and the page table (00 R4; 01 R13, R14, R20; 06 R139 to R142, R166).
-/

namespace Sys2Proof.Machine

variable {α : Type}

/-- The value numbered `k`. -/
def assocGet (m : List (Nat × α)) (k : Nat) : Option α :=
  match m with
  | [] => none
  | (j, v) :: r => if j = k then some v else assocGet r k

/-- `m` with `v` at number `k`, numbers rising. -/
def assocSet (m : List (Nat × α)) (k : Nat) (v : α) : List (Nat × α) :=
  match m with
  | [] => [(k, v)]
  | (j, w) :: r =>
    if k < j then (k, v) :: (j, w) :: r
    else if j = k then (k, v) :: r
    else (j, w) :: assocSet r k v

/-- `m` without number `k`. -/
def assocDel (m : List (Nat × α)) (k : Nat) : List (Nat × α) :=
  match m with
  | [] => []
  | (j, w) :: r => if j = k then assocDel r k else (j, w) :: assocDel r k

/-- `m` with the value numbered `k`, where there is one, changed by `f`. -/
def assocMod (m : List (Nat × α)) (k : Nat) (f : α → α) : List (Nat × α) :=
  m.map fun e => if e.1 = k then (e.1, f e.2) else e

/-- Element `k` of a list changed by `f`. -/
def listMod (l : List α) (k : Nat) (f : α → α) : List α :=
  match l, k with
  | [], _ => []
  | a :: r, 0 => f a :: r
  | a :: r, k + 1 => a :: listMod r k f

/-! Memory. An unlisted address reads as zero (assumption 5). -/

/-- Addresses rise strictly from `lo` and no listed byte is zero. -/
def wfFrom (lo : Nat) (m : List Host.Cell) : Bool :=
  match m with
  | [] => true
  | (a, b) :: r => decide (lo ≤ a) && b != 0 && wfFrom (a + 1) r

/-- The canonical form of a memory. -/
def Memory.wf (m : List Host.Cell) : Bool := wfFrom 0 m

/-- One byte of memory. -/
def memRead (m : List Host.Cell) (a : Nat) : Byte := (assocGet m a).getD 0

/-- Memory with one byte written. -/
def memWrite (m : List Host.Cell) (a : Nat) (b : Byte) : List Host.Cell :=
  if b = 0 then assocDel m a else assocSet m a b

/-- `n` bytes from `a`, lowest address first. -/
def memReadN (m : List Host.Cell) (a n : Nat) : List Byte := (List.range n).map fun i => memRead m (a + i)

/-- Memory with the bytes `bs` written from `a` up. -/
def memWriteN (m : List Host.Cell) (a : Nat) (bs : List Byte) : List Host.Cell :=
  match bs with
  | [] => m
  | b :: r => memWriteN (memWrite m a b) (a + 1) r

/-- Memory with `n` bytes from `a` zero. -/
def memClear (m : List Host.Cell) (a n : Nat) : List Host.Cell :=
  m.filter fun c => !(decide (a ≤ c.1) && decide (c.1 < a + n))

/-- The number that little-endian bytes hold (00 R4). -/
def leNat (bs : List Byte) : Nat :=
  match bs with
  | [] => 0
  | b :: r => b.toNat + 256 * leNat r

/-- `n` little-endian bytes of a number (00 R4). -/
def natLe (n v : Nat) : List Byte :=
  match n with
  | 0 => []
  | n + 1 => BitVec.ofNat 8 v :: natLe n (v / 256)

/-- A little-endian number of `n` bytes in memory. -/
def memNat (m : List Host.Cell) (a n : Nat) : Nat := leNat (memReadN m a n)

/-- Memory with an `n`-byte little-endian number written. -/
def memPut (m : List Host.Cell) (a n v : Nat) : List Host.Cell := memWriteN m a (natLe n v)

def bitOf (v i : Nat) : Bool := v / 2 ^ i % 2 == 1
def bitsOf (v hi lo : Nat) : Nat := v / 2 ^ lo % 2 ^ (hi + 1 - lo)
def sliceBytes (bs : List Byte) (lo n : Nat) : List Byte := (bs.drop lo).take n
def fieldAt (bs : List Byte) (lo n : Nat) : Nat := leNat (sliceBytes bs lo n)
def allZero (bs : List Byte) : Bool := bs.all (· == 0)

/-! Undefined bytes (00 R2). -/

/-- The ranges without `n` places from `a`. -/
def rangesDrop (rs : List (Nat × Nat)) (a n : Nat) : List (Nat × Nat) :=
  rs.flatMap fun r =>
    if r.1 + r.2 ≤ a ∨ a + n ≤ r.1 then [r]
    else (if r.1 < a then [(r.1, a - r.1)] else []) ++ if a + n < r.1 + r.2 then [(a + n, r.1 + r.2 - (a + n))] else []

def rangesHave (rs : List (Nat × Nat)) (a : Nat) : Bool := rs.any fun r => decide (r.1 ≤ a) && decide (a < r.1 + r.2)

/-- `n` bytes from `a`, those that are undefined free; `seed` tells the places of one memory from another's. -/
def bytesAt (s : State) (seed : Nat) (m : List (Nat × Byte)) (rs : List (Nat × Nat)) (a n : Nat) : List Byte :=
  (List.range n).map fun i =>
    if rangesHave rs (a + i) then (Config.freeWord s.free (seed + a + i)).extractLsb' 0 8 else memRead m (a + i)

/-- Bytes of physical memory. -/
def physGet (s : State) (pa n : Nat) : List Byte := bytesAt s (2 ^ 60) s.mem s.undefMem pa n

/-- The parcels that a write of physical memory changes, with their old values (13 R317). -/
def overwritten (s : State) (pa n : Nat) (m : List Host.Cell) : List (Nat × Nat × Nat) :=
  (List.range (n / 2 + 1)).filterMap fun i =>
    let a := pa / 2 * 2 + 2 * i
    if memNat s.mem a 2 = memNat m a 2 then none else some (a, s.nextGrid, memNat s.mem a 2)

/-- The parcels of a range that are not zero (13 R317). -/
def parcelsOf (s : State) (pa n : Nat) : List (Nat × Nat × Nat) :=
  (((s.mem.filter fun c => decide (pa ≤ c.1) && decide (c.1 < pa + n)).map fun c => c.1 / 2 * 2).eraseDups).map fun a =>
    (a, s.nextGrid, memNat s.mem a 2)

/-- A block that some fragment runs, or that a trap window stands over, lies in the range. -/
def runsIn (s : State) (pa n : Nat) : Bool :=
  let hit (a : Nat) : Bool := decide (pa ≤ a) && decide (a < pa + n)
  s.waves.any fun w => (w.2.frags.any fun f => hit f.page0 || hit f.page1) || w.2.window.any fun v => hit v.page0 || hit v.page1

/-- Physical memory with bytes written, defined from then on. -/
def physPut (s : State) (pa : Nat) (bs : List Byte) : State :=
  let m := memWriteN s.mem pa bs
  { s with mem := m, undefMem := rangesDrop s.undefMem pa bs.length, past := overwritten s pa bs.length m ++ s.past }

/-- `n` bytes of physical memory become undefined. -/
def physLose (s : State) (pa n : Nat) : State :=
  { s with undefMem := rangesDrop s.undefMem pa n ++ if n = 0 then [] else [(pa, n)] }

/-! Dies (01 R8, R13, R14). -/

def domTensor (d : Nat) : Bool := d < 16
def domRender (d : Nat) : Bool := d == 16 || d == 17
/-- Place in the ring G0, T0 to T7, G1, T8 to T15. -/
def ringPos (d : Nat) : Nat :=
  if d = 16 then 0 else if d = 17 then 9 else if d < 8 then d + 1 else d + 2
def ringDist (a b : Nat) : Nat :=
  let p := ringPos a
  let q := ringPos b
  let x := if p ≤ q then q - p else p - q
  min x (18 - x)
/-- A core is numbered 32 × domain + core within its die (03 R75). -/
def coreDom (p : Nat) : Nat := p / 32
def coreIdx (p : Nat) : Nat := p % 32
def domCores (d : Nat) : Nat := if domRender d then 32 else if domTensor d then 24 else 0
def domArrays (d : Nat) : Nat := if domRender d then 1 else 2
def domScratch (d : Nat) : Nat := if domRender d then 2 * 2 ^ 20 else 8 * 2 ^ 20
def dieOnline (h : Hub) (d : Nat) : Bool := d < 19 && h.online.getLsbD d

/-! Frames of HBM (06 R142). -/

def alignUp (a n : Nat) : Nat := (a + n - 1) / n * n

/-- The lowest free run of `size` bytes, aligned to its size, from `c` below `lim`. -/
def fitFrom (fs : List (Nat × Nat)) (size c lim : Nat) : Option Nat :=
  match fs with
  | [] => if c + size ≤ lim then some c else none
  | (b, n) :: r =>
    if b + n ≤ c then fitFrom r size c lim
    else if c + size ≤ b && c + size ≤ lim then some c
    else fitFrom r size (alignUp (b + n) size) lim

/-- Bytes of a die's compression zone, at the top of its HBM (06 R167, 12 R298). -/
def zoneBytes (h : Hub) (d : Nat) : Nat :=
  if h.zoneDies.getLsbD d && !(h.zoneDrop && h.zonePages == 0) then h.zoneSize * 2 ^ 26 else 0

def domFit (h : Hub) (d size : Nat) : Option Nat :=
  if dieOnline h d && d < 18 then fitFrom h.frames size (d * 2 ^ 36) ((d + 1) * 2 ^ 36 - zoneBytes h d) else none

def domUsed (h : Hub) (d : Nat) : Nat :=
  (h.frames.filter fun f => f.1 / 2 ^ 36 == d).foldl (fun t f => t + f.2) (zoneBytes h d)

/-- Dies in order of ring distance from `d`, lower domain first among equals (01 R20). -/
def nearOrder (d : Nat) : List Nat :=
  (List.range 10).flatMap fun k => (List.range 18).filter fun e => ringDist d e == k

/-- Insertion into a sorted list, before what it does not follow, and a stable sort. -/
def insertBy {α : Type} (le : α → α → Bool) (a : α) : List α → List α
  | [] => [a]
  | b :: r => if le a b then a :: b :: r else b :: insertBy le a r
def sortBy {α : Type} (le : α → α → Bool) : List α → List α
  | [] => []
  | a :: r => insertBy le a (sortBy le r)

/-- Dies in order of free HBM, most first, lower domain first among equals (01 R20). -/
def freeOrder (h : Hub) : List Nat :=
  let ds := (List.range 18).filter (dieOnline h)
  sortBy (fun a b => decide (domUsed h a < domUsed h b) || (domUsed h a == domUsed h b && decide (a ≤ b))) ds

/-- The die order in which a first touch looks for HBM (01 R20): `home` is the hint (0 to 17 a die, 30 the
core's, 31 none), `core` the touching core's die, or none for the host and firmware, `pref` the preferred set.
DESIGN CHOICE (assumption 53): a preferred die has free HBM where one 64 KiB frame of it is free, whatever the page's
size; where every preferred die is full, the chosen die is the lowest-numbered preferred one. -/
def placeOrder (h : Hub) (home : Nat) (core : Option Nat) (pref : Nat) : List Nat :=
  match core with
  | some d => nearOrder (if home ≤ 17 then home else d)
  | none =>
    let ps := (List.range 18).filter (bitOf pref)
    match ps with
    | [] => freeOrder h
    | p :: _ =>
      match ps.find? fun d => (domFit h d (2 ^ 16)).isSome with
      | some d => nearOrder d
      | none => nearOrder p

/-- A free frame of `size` bytes on the first die of `order` that has one. -/
def frameOn (h : Hub) (order : List Nat) (size : Nat) : Option Nat :=
  order.findSome? fun d => domFit h d size

/-- The frame taken, its bytes zero; no slice group holds a copy of its lines. What its parcels held stays for the blocks that
still run there through their entry's translation (13 R317). -/
def frameTake (s : State) (base size : Nat) : State :=
  { s with hub := { s.hub with frames := assocSet s.hub.frames base size,
                               lineCopies := s.hub.lineCopies.filter fun c =>
                                 !(decide (base ≤ c.1 % 2 ^ 52) && decide (c.1 % 2 ^ 52 < base + size)) },
           mem := memClear s.mem base size, undefMem := rangesDrop s.undefMem base size,
           past := if runsIn s base size then parcelsOf s base size ++ s.past
             else s.past.filter fun p => !(decide (base ≤ p.1) && decide (p.1 < base + size)) }

def frameFree (s : State) (base : Nat) : State := { s with hub := { s.hub with frames := assocDel s.hub.frames base } }

/-! Physical addresses (06 R142, 12 R300). -/

def paRegion (pa : Nat) : Nat := pa / 2 ^ 50
def paPeer (pa : Nat) : Nat := pa / 2 ^ 42 % 256
/-- The physical address exists: HBM of an online die, host memory, or an assigned peer. -/
def paExists (s : State) (pa : Nat) : Bool :=
  if paRegion pa = 0 then decide (pa < 18 * 2 ^ 36) && dieOnline s.hub (pa / 2 ^ 36)
  else if paRegion pa = 1 then true
  else if paRegion pa = 2 then (assocGet s.hub.peers (paPeer pa)).isSome
  else false

/-! The page table (06 R139 to R141). -/

/-- What a walk finds: the physical address with the address of the leaf entry and the entry, an entry with V = 0,
a malformed entry, or a table at an address that is absent (06 R142). -/
inductive Walk where
  | found (pa leaf entry : Nat)
  | absent
  | malformed
  | outside
deriving DecidableEq, Repr

def vaIndex (va lvl : Nat) : Nat := va / 2 ^ (16 + 13 * lvl) % (if lvl = 4 then 4096 else 8192)
def pageBytes (lvl : Nat) : Nat := 2 ^ (16 + 13 * lvl)

/-- What the entry `e`, at `at_` in a table of level `lvl`, says of the address: how the walk ends there, or the table of the
next level (06 R140, R141). -/
def walkEntry (va lvl at_ e : Nat) : Walk ⊕ Nat :=
  let frame := bitsOf e 51 16 * 2 ^ 16
  if e % 2 = 0 then .inl .absent
  else if bitsOf e 63 60 ≠ 0 || bitsOf e 15 8 ≠ 0 || bitOf e 2 then .inl .malformed
  else if bitOf e 1 then
    .inl (if lvl ≥ 3 || frame % pageBytes lvl ≠ 0 then .malformed else .found (frame + va % pageBytes lvl) at_ e)
  else if bitsOf e 7 2 ≠ 0 then .inl .malformed
  else .inr frame

/-- The walk that ends so, or goes on with the next table. -/
def walkOn (r : Walk ⊕ Nat) (next : Nat → Walk) : Walk := match r with | .inl w => w | .inr t => next t

/-- A walk from the table at `table` of level `lvl`; `ok` tells the physical addresses that exist. -/
def walkFrom (ok : Nat → Bool) (m : List Host.Cell) (table va : Nat) (lvl : Nat) : Walk :=
  let at_ := table + 8 * vaIndex va lvl
  if ok at_ then
    walkOn (walkEntry va lvl at_ (memNat m at_ 8)) fun t => match lvl with
      | 0 => .malformed
      | l + 1 => walkFrom ok m t va l
  else .outside

/-- The walk of a context's address. -/
def walk (s : State) (c : Context) (va : Nat) : Walk := walkFrom (paExists s) s.mem c.ptb va 4

/-- Kinds of access a leaf permits (06 R140). -/
inductive Acc where | read | write | fetch
deriving DecidableEq, Repr

/-- Translation of an access of a context: physical address and leaf, or the fault's cause (06 R140 to R142). -/
def xlate (s : State) (c : Context) (va : Nat) (k : Acc) : Except Cause (Nat × Nat) :=
  match walk s c va with
  | .absent => .error .pageFault
  | .malformed => .error .tableFormat
  | .outside => .error .physicalRange
  | .found pa leaf e =>
    if (!c.sup && !bitOf e 5) || (k == .write && !bitOf e 3) || (k == .fetch && !bitOf e 4) then
      .error .protection
    else if paExists s pa then .ok (pa, leaf) else .error .physicalRange

/-- A performed access sets A, and a performed write D, in its leaf (06 R141). -/
def touchLeaf (m : List Host.Cell) (leaf : Nat) (wr : Bool) : List Host.Cell :=
  memWrite m leaf (memRead m leaf ||| (if wr then 0xC0 else 0x40))

/-- The leaf entry at `leaf` marked for a performed access. -/
def leafTouch (s : State) (leaf : Nat) (wr : Bool) : State :=
  { s with mem := touchLeaf s.mem leaf wr, undefMem := rangesDrop s.undefMem leaf 1 }

/-- An entry of a table written. -/
def entryPut (s : State) (at_ e : Nat) : State :=
  { s with mem := memPut s.mem at_ 8 e, undefMem := rangesDrop s.undefMem at_ 8 }

/-! Firmware's pages (06 R155, R166, R167; 12 R298). -/

def Pages.size (p : Pages) : Nat := pageBytes p.psz
def Pages.covers (p : Pages) (va : Nat) : Bool := decide (p.va ≤ va) && decide (va < p.va + p.n * p.size)

/-- The record of one page at `va`, cut out of its range. -/
def Pages.one (p : Pages) (va : Nat) : Pages := { p with va := va / p.size * p.size, n := 1 }

/-- The ranges of `p` on both sides of the page at `va`. -/
def Pages.around (p : Pages) (va : Nat) : List Pages :=
  let k := (va - p.va) / p.size
  (if k = 0 then [] else [{ p with n := k }]) ++
    (if p.n ≤ k + 1 then [] else [{ p with va := p.va + (k + 1) * p.size, n := p.n - k - 1 }])

/-- The record that covers `va`. -/
def pageAt (c : Context) (va : Nat) : Option Pages := c.pages.find? fun p => p.covers va

/-- The context's records with the page at `va` replaced by `new`. -/
def pageReplace (c : Context) (va : Nat) (new : List Pages) : Context :=
  { c with pages := c.pages.flatMap fun p => if p.covers va then p.around va ++ new else [p] }

def setCtx (s : State) (x : Nat) (c : Context) : State := { s with ctxs := assocSet s.ctxs x c }

/-- Leaf entry bits of a page (06 R140): V, LEAF, W, X, U. -/
def leafBits (p : Pages) : Nat :=
  3 + (if p.w then 8 else 0) + (if p.x then 16 else 0) + (if p.u then 32 else 0)

/-- Writes the entry of `va` at level `target`, allocating the tables on the way from HBM (12 R298). -/
def putEntry (s : State) (x table va target e : Nat) (lvl : Nat) : Option State :=
  let at_ := table + 8 * vaIndex va lvl
  if lvl = target then some (entryPut s at_ e)
  else
    match lvl with
    | 0 => none
    | l + 1 =>
      let old := memNat s.mem at_ 8
      if old % 2 = 1 then putEntry s x (bitsOf old 51 16 * 2 ^ 16) va target e l
      else
        match frameOn s.hub (freeOrder s.hub) (2 ^ 16) with
        | none => none
        | some f =>
          let s1 := entryPut (frameTake s f (2 ^ 16)) at_ (f + 1)
          putEntry { s1 with ctxs := assocMod s1.ctxs x fun c => { c with tables := f :: c.tables } } x f va target e l

/-- A page fault on an address that firmware has mapped is serviced: the page was unplaced, compressed or migrating
when the walk met its entry, and where another touch has placed it since, the access finds it resident (01 R21, 06
R155). -/
def serviceable (c : Context) (va : Nat) : Bool := (pageAt c va).isSome

/-! Compression and migration (06 R167, R168). -/

def Op.span (o : Op) : Option (Loc × Nat) :=
  match o with
  | .load l n _ => some (l, n)
  | .store l d => some (l, d.length)
  | .atom l _ _ => some (l, 8)
  | .atomWrite l _ _ _ => some (l, 8)
  | .sent _ _ _ o => o.span
  | _ => none

/-- The physical range is free of the operations in flight. -/
def rangeIdle (s : State) (pa n : Nat) : Bool :=
  s.waves.all fun w => w.2.entries.all fun e => e.lanes.all fun l => match l.2 with
    | .inflight o _ => match o.span with
      | some (.phys q _, m) => decide (q + m ≤ pa) || decide (pa + n ≤ q)
      | _ => true
    | _ => true

/-- Physical addresses that a parked `WAITW` or `JOIN` of the fragment waits on, and its block's pages. -/
def Frag.holds (f : Frag) : List Nat :=
  [f.page0, f.page1] ++ match f.park with
    | .waitw _ ws _ _ _ => ws.map (·.pa)
    | .join pas => pas
    | _ => []

/-- Some fragment or trap window names an address of the range, or bytes of it are undefined, or a fetch may get an old
parcel of it: the page is not cold. -/
def rangeNamed (s : State) (pa n : Nat) : Bool :=
  let hit (a : Nat) : Bool := decide (pa ≤ a) && decide (a < pa + n)
  s.undefMem.any (fun r => decide (r.1 < pa + n) && decide (pa < r.1 + r.2)) || s.past.any (fun p => hit p.1) ||
    s.waves.any fun w => w.2.frags.any (fun f => f.holds.any hit) || w.2.window.any fun v => hit v.page0 || hit v.page1

/-- A fragment that waits on words of a frame that moves, or whose block lies there, follows it. -/
def Frag.follow (sh : Nat → Nat) (f : Frag) : Frag :=
  { f with page0 := sh f.page0, page1 := sh f.page1,
           park := match f.park with
             | .waitw i ws n left woken => .waitw i (ws.map fun x => { x with pa := sh x.pa }) n left woken
             | .join pas => .join (pas.map sh)
             | p => p }

/-- What fragments and windows keep of physical addresses follows a frame of `n` bytes from `pa` to `new` (06 R169). -/
def follow (s : State) (pa n new : Nat) : State :=
  let sh (a : Nat) : Nat := if pa ≤ a ∧ a < pa + n then a - pa + new else a
  { s with undefMem := s.undefMem.map (fun r => (sh r.1, r.2)), past := s.past.map (fun p => (sh p.1, p.2)), waves := s.waves.map fun w => (w.1, { w.2 with
      frags := w.2.frags.map (Frag.follow sh),
      window := w.2.window.map fun v => { v with page0 := sh v.page0, page1 := sh v.page1 } }) }

/-- An instruction whose transfer names a buffer of global memory (06 R168). -/
def isCopy (i : Instr) : Bool :=
  match i with | .copy _ _ _ => true | .copyS _ _ _ => true | .copyG _ _ _ => true | .copyR _ _ _ => true | _ => false

/-- No copy of the context is in flight: every busy count of its buffers is zero. -/
def buffersIdle (s : State) (x : Nat) : Bool :=
  s.waves.all fun w => w.2.ctx != x || w.2.entries.all fun e => !isCopy e.instr || e.lanes.all fun l => match l.2 with
    | .inflight (.engine _) _ => false
    | _ => true

def Buffer.covers (b : Buffer) (va : Nat) : Bool := decide (b.va ≤ va) && decide (va < b.va + b.len)
def inBuffer (c : Context) (va : Nat) : Bool := c.bufs.any (·.covers va)

/-- The page at `va` is marked as migrating: its entry keeps its bits with V = 0. -/
def migrating (c : Context) (va : Nat) : Bool :=
  c.bufs.any (fun b => b.moving && b.covers va) && (pageAt c va).any (·.placed)

/-- Bytes that are not zero, by offset. -/
def rangeBytes (m : List Host.Cell) (pa n : Nat) : List (Nat × Byte) :=
  (m.filter fun c => decide (pa ≤ c.1) && decide (c.1 < pa + n)).map fun c => (c.1 - pa, c.2)

/-- The placed HBM page at `va`: its record and frame. -/
def placedPage (s : State) (c : Context) (va : Nat) : Option (Pages × Nat) :=
  match pageAt c va with
  | some p =>
    if p.placed && !p.pin then
      match walk s c (p.one va).va with
      | .found pa _ _ => if paRegion pa = 0 then some (p, pa) else none
      | _ => none
    else none
  | none => none

/-- PAGE_COMPRESSION: a cold 64 KiB page goes into the zone, its entry not present. Firmware chooses among the pages
that no operation in flight, no parked fragment and no block names. -/
def compressPage (s : State) (x va : Nat) : Option State :=
  match assocGet s.ctxs x with
  | none => none
  | some c =>
    match placedPage s c va with
    | none => none
    | some (p, pa) =>
      let room := (List.range 18).foldl (fun n d => n + zoneBytes s.hub d) 0
      if p.psz ≠ 0 ∨ s.hub.zoneDrop = true ∨ room < (s.hub.zonePages + 1) * 2 ^ 16 ∨ rangeIdle s pa (2 ^ 16) = false ∨
          rangeNamed s pa (2 ^ 16) = true ∨ (inBuffer c va = true ∧ buffersIdle s x = false) then none
      else
        let one := { p.one va with placed := false, stored := some (pa / 2 ^ 36, rangeBytes s.mem pa (2 ^ 16)) }
        let s1 := setCtx s x (pageReplace c va [one])
        match putEntry s1 x c.ptb one.va 0 (2 * (Config.freeWord s.free 160000).toNat) 4 with
        | none => none
        | some s2 => some { frameFree s2 pa with hub := { (frameFree s2 pa).hub with zonePages := s.hub.zonePages + 1 } }

/-- Pages that firmware may find cold: context and address of each placed 64 KiB page. -/
def coldPages (s : State) : List (Nat × Nat) :=
  s.ctxs.flatMap fun c => c.2.pages.flatMap fun p =>
    if p.placed && !p.pin && p.psz == 0 then (List.range p.n).map fun i => (c.1, p.va + i * p.size) else []

/-- A free frame for a touch, and the state that has it: where no die of `order` has one, cold pages are compressed
first, from a page that firmware chooses on (06 R166). -/
def frameFor (s : State) (order : List Nat) (size : Nat) : Option (State × Nat) :=
  match frameOn s.hub order size with
  | some f => some (s, f)
  | none =>
    let cs := coldPages s
    let k := (Config.freeWord s.free 165000).toNat % max cs.length 1
    let r := (cs.drop k ++ cs.take k).foldl (fun (r : State × Option Nat) v => match r.2 with
      | some _ => r
      | none => match compressPage r.1 v.1 v.2 with
        | some t => (t, frameOn t.hub order size)
        | none => r) (s, none)
    r.2.map fun f => (r.1, f)

/-- Firmware services the first touch of an unplaced page or of a compressed one (01 R20, 06 R166, R167). -/
def servicePage (s0 : State) (x va home : Nat) (core : Option Nat) : Except Cause State :=
  match assocGet s0.ctxs x with
  | none => .error .pageFault
  | some c0 =>
    match pageAt c0 va with
    | none => .error .pageFault
    | some p =>
      if p.placed then .ok s0
      else
        let order := match p.stored with
          | some (d, _) => nearOrder d
          | none => placeOrder s0.hub home core p.pref
        match frameFor s0 order p.size with
        | none => .error .outOfMemory
        | some (s, f) =>
          let c := (assocGet s.ctxs x).getD c0
          let s1 := frameTake s f p.size
          let s2 := match p.stored with
            | some (_, bs) => { s1 with mem := bs.foldl (fun m b => memWrite m (f + b.1) b.2) s1.mem,
                                        hub := { s1.hub with zonePages := s1.hub.zonePages - 1 } }
            | none => s1
          let one := { p.one va with placed := true, stored := none }
          let c2 := pageReplace ((assocGet s2.ctxs x).getD c) va [one]
          match putEntry (setCtx s2 x c2) x c.ptb one.va p.psz (f + leafBits p) 4 with
          | some s3 => .ok s3
          | none => .error .outOfMemory

/-- Address of the entry of `va` at level `target`, where the tables above it stand. -/
def entryAt (m : List Host.Cell) (table va target : Nat) (lvl : Nat) : Option Nat :=
  let at_ := table + 8 * vaIndex va lvl
  if lvl = target then some at_
  else
    match lvl with
    | 0 => none
    | l + 1 => if memNat m at_ 8 % 2 = 1 then entryAt m (bitsOf (memNat m at_ 8) 51 16 * 2 ^ 16) va target l else none

/-- The entry of the page at `va` with V as given, its other bits kept. -/
def setValid (s : State) (c : Context) (va : Nat) (v : Bool) : State :=
  match (pageAt c va).bind fun p => entryAt s.mem c.ptb va p.psz 4 with
  | some a => { s with mem := memWrite s.mem a ((memRead s.mem a &&& 0xFE) ||| (if v then 1 else 0)),
                       undefMem := rangesDrop s.undefMem a 1 }
  | none => s

/-- Translation for the device itself, with firmware's service of a page fault inside (06 R158). A migrating page is
reached in the frame that still holds it. -/
def xlateService (s : State) (x va : Nat) (k : Acc) (core : Option Nat) : Except Cause (State × Nat) :=
  match assocGet s.ctxs x with
  | none => .error .pageFault
  | some c =>
    match xlate (if migrating c va then setValid s c va true else s) c va k with
    | .ok (pa, leaf) => .ok (leafTouch s leaf (k == .write), pa)
    | .error .pageFault =>
      match servicePage s x va 31 core with
      | .error e => .error e
      | .ok s1 =>
        match assocGet s1.ctxs x with
        | none => .error .pageFault
        | some c1 =>
          match xlate s1 c1 va k with
          | .ok (pa, leaf) => .ok (leafTouch s1 leaf (k == .write), pa)
          | .error e => .error e
    | .error e => .error e

/-- Supervisor view of a context, for the accesses of device and firmware, which U does not bind. -/
def asSupervisor (c : Context) : Context := { c with sup := true }

/-- Bytes the device reads at a virtual address of a context; each stands in one page's translation. -/
def devRead (s : State) (x va n : Nat) (core : Option Nat) : Except Cause (State × List Byte) :=
  match n with
  | 0 => .ok (s, [])
  | n + 1 =>
    match xlateService s x va .read core with
    | .error e => .error e
    | .ok (s1, pa) =>
      match devRead s1 x ((va + 1) % 2 ^ 80) n core with
      | .error e => .error e
      | .ok (s2, bs) => .ok (s2, physGet s1 pa 1 ++ bs)

/-- Bytes the device writes at a virtual address of a context. -/
def devWrite (s : State) (x va : Nat) (bs : List Byte) (core : Option Nat) : Except Cause State :=
  match bs with
  | [] => .ok s
  | b :: r =>
    match xlateService s x va .write core with
    | .error e => .error e
    | .ok (s1, pa) => devWrite (physPut s1 pa [b]) x ((va + 1) % 2 ^ 80) r core

end Sys2Proof.Machine
end

