-- ==== Sys2Proof/Machine/Digest.lean ====
section
/-!
DEFINITION. Checksums and digests that the spec names: CRC-32C (10 R244) and SHA3-512 (12 R298, R310; FIPS 202,
assumption 9).
-/

namespace Sys2Proof.Machine

/-! CRC-32C: polynomial 0x1EDC6F41 reflected, initial value and final XOR of all ones. -/

def crcBit (c : Word) : Word := if c.getLsbD 0 then (c >>> 1) ^^^ 0x82F63B78 else c >>> 1
def crcByte (c : Word) (b : Byte) : Word := (List.range 8).foldl (fun c _ => crcBit c) (c ^^^ b.zeroExtend 32)
def crc32c (bs : List Byte) : Word := ~~~ bs.foldl crcByte 0xFFFFFFFF

/-! SHA3-512: Keccak-f[1600] on 25 lanes of 64 bits, lane (x, y) at place x + 5 × y, rate 72 bytes. -/

def keccakLane (a : List Dword) (x y : Nat) : Dword := a.getD (x % 5 + 5 * (y % 5)) 0

/-- Rotations of the lanes, by place. -/
def keccakRot : List Nat :=
  [0, 1, 62, 28, 27, 36, 44, 6, 55, 20, 3, 10, 43, 25, 39, 41, 45, 15, 21, 8, 18, 2, 61, 56, 14]

def keccakConsts : List Dword :=
  [0x0000000000000001, 0x0000000000008082, 0x800000000000808A, 0x8000000080008000, 0x000000000000808B, 0x0000000080000001,
   0x8000000080008081, 0x8000000000008009, 0x000000000000008A, 0x0000000000000088, 0x0000000080008009, 0x000000008000000A] ++
  [0x000000008000808B, 0x800000000000008B, 0x8000000000008089, 0x8000000000008003, 0x8000000000008002, 0x8000000000000080,
   0x000000000000800A, 0x800000008000000A, 0x8000000080008081, 0x8000000000008080, 0x0000000080000001, 0x8000000080008008]

/-- One round: theta, rho, pi, chi, iota. -/
def keccakRound (a : List Dword) (rc : Dword) : List Dword :=
  let c := (List.range 5).map fun x => (List.range 5).foldl (fun v y => v ^^^ keccakLane a x y) 0
  let d := (List.range 5).map fun x => c.getD ((x + 4) % 5) 0 ^^^ (c.getD ((x + 1) % 5) 0).rotateLeft 1
  let t := (List.range 25).map fun i => (a.getD i 0 ^^^ d.getD (i % 5) 0).rotateLeft (keccakRot.getD i 0)
  -- lane (x, y) moves to (y, 2x + 3y): place (x, y) takes the lane of (x + 3y, x)
  let b := (List.range 25).map fun i => keccakLane t (i % 5 + 3 * (i / 5)) (i % 5)
  let e := (List.range 25).map fun i =>
    keccakLane b (i % 5) (i / 5) ^^^ (~~~ keccakLane b (i % 5 + 1) (i / 5) &&& keccakLane b (i % 5 + 2) (i / 5))
  match e with
  | [] => []
  | x :: r => (x ^^^ rc) :: r

def keccakF (a : List Dword) : List Dword := keccakConsts.foldl keccakRound a

/-- A block of 72 bytes absorbed. -/
def keccakAbsorb (a : List Dword) (block : List Byte) : List Dword :=
  keccakF ((List.range 25).map fun i =>
    if i < 9 then a.getD i 0 ^^^ BitVec.ofNat 64 (fieldAt block (8 * i) 8) else a.getD i 0)

/-- The message with its suffix 01 and its padding: whole blocks. -/
def keccakPad (m : List Byte) : List Byte :=
  let k := 72 - m.length % 72
  if k = 1 then m ++ [0x86] else m ++ 0x06 :: (List.replicate (k - 2) 0 ++ [0x80])

def sha3Bytes (m : List Byte) : List Byte :=
  let p := keccakPad m
  let a := (List.range (p.length / 72)).foldl (fun a i => keccakAbsorb a (sliceBytes p (72 * i) 72)) (List.replicate 25 0)
  (a.take 8).flatMap fun l => natLe 8 l.toNat

/-- The 64-byte digest as a number whose low byte is the first byte. -/
def sha3 (m : List Byte) : BitVec 512 := BitVec.ofNat 512 (leNat (sha3Bytes m))

end Sys2Proof.Machine
end

