-- ==== Sys2Proof/WellFormed.lean ====
section
/-!
DEFINITION. Which instructions have an encoding: register ranges within v0 to v255 (04 R91), fields an
instruction does not use zero (13 R323, R326, 15 R352), modifier fields only where its entry gives them a
meaning (05 R117, R119, R121; 07 R172; 13 R324), permutes only on operands that are read (04 R99).
-/

namespace Sys2Proof

/-- What an entry lets a long form hold: how many registers each operand names (0: the field is unused and
zero), whether I = 1 exists, and which modifier fields have a meaning. -/
structure LongShape where
  dN : Nat
  aN : Nat
  bN : Nat
  cN : Nat
  imm : Bool
  /-- B names a destination and is not permuted (`MXCVT`). -/
  bDest : Bool
  rnd : Bool
  sat : Bool
  fpA : Bool
  fpB : Bool
  fpC : Bool
deriving DecidableEq, Repr

/-- A modifier parcel of zero. -/
def FMod.zero : FMod := ⟨.mode, false, false, false, false, false, false, false⟩

/-- A register range that stays within v255 (04 R91); an unused field is zero. -/
def rangeOk (r : Reg) (n : Nat) : Bool :=
  if n = 0 then r == 0 else decide (r.toNat + n ≤ 256)

/-- An unread operand carries no permute (04 R99). -/
def permOk (used : Bool) (p : Perm) : Bool := used || p == .none

def FMod.ok (sh : LongShape) (m : FMod) : Bool :=
  (sh.rnd || m.rnd == .mode) && (sh.sat || !m.sat) &&
  (sh.fpA || (!m.negA && !m.absA)) && (sh.fpB || (!m.negB && !m.absB)) &&
  (sh.fpC || (!m.negC && !m.absC))

/-- The fields of a long form obey its entry (13 R322, R323; 04 R99). -/
def Long.ok (sh : LongShape) (x : Long) : Bool :=
  rangeOk x.d sh.dN && rangeOk x.a sh.aN &&
  (match x.tail with
   | .imm _ => sh.imm
   | .regs b c m => rangeOk b sh.bN && rangeOk c sh.cN && m.ok sh) &&
  (match x.perm with
   | none => true
   | some p =>
     permOk (sh.aN != 0) p.pa &&
     (match x.tail with
      | .imm _ => p.pb == .none && p.pc == .none
      | .regs _ _ _ => permOk (sh.bN != 0 && !sh.bDest) p.pb && permOk (sh.cN != 0) p.pc))

def ITy.regs : ITy → Nat | .i32 => 1 | .u32 => 1 | .i64 => 2
def BTy.regs : BTy → Nat | .i32 => 1 | .i64 => 2
def FTy.regs : FTy → Nat | .f32 => 1 | .f16 => 1 | .bf16 => 1 | .f64 => 2
def CTy.regs : CTy → Nat
  | .f64 => 2
  | .f32 => 1 | .f16 => 1 | .bf16 => 1 | .e4m3 => 1 | .e5m2 => 1 | .e2m1 => 1
def CITy.regs : CITy → Nat | .i64 => 2 | .i32 => 1 | .u32 => 1 | .i8 => 1
def WTy.regs : WTy → Nat | .w32 => 1 | .w64 => 2
def LdTy.regs : LdTy → Nat
  | .w64 => 2 | .x128 => 4
  | .i8 => 1 | .z8 => 1 | .i16 => 1 | .z16 => 1 | .w32 => 1
def StTy.regs : StTy → Nat | .b8 => 2 | .b16 => 4 | .b1 => 1 | .b2 => 1 | .b4 => 1

/-- Integer shape: `n` registers for every operand given, no sign or rounding fields. -/
def intShape (d a b c : Nat) (imm sat : Bool) : LongShape :=
  ⟨d, a, b, c, imm, false, false, sat, false, false, false⟩

/-- Floating-point shape: NEG and ABS on each source that is read. -/
def fpShape (d a b c : Nat) (imm rnd sat : Bool) : LongShape :=
  ⟨d, a, b, c, imm, false, rnd, sat, a != 0, b != 0, c != 0⟩

/-- The shape of an instruction encoded as a `Long`, where it is one. -/
def Instr.longShape : Instr → Option (LongShape × Long)
  | .adda x => some (intShape 3 3 2 0 true false, x)
  | .iadd t x => some (intShape t.regs t.regs t.regs 0 true true, x)
  | .isub t x => some (intShape t.regs t.regs t.regs 0 true true, x)
  | .imul t x => some (intShape t.regs t.regs t.regs 0 true true, x)
  | .imulh _ x => some (intShape 1 1 1 0 true false, x)
  | .imad t x => some (intShape t.regs t.regs t.regs t.regs false true, x)
  | .imin t x => some (intShape t.regs t.regs t.regs 0 true false, x)
  | .imax t x => some (intShape t.regs t.regs t.regs 0 true false, x)
  | .iabsB64 t x => some (intShape t.regs t.regs 0 0 false true, x)
  | .icmp t x => some (intShape 1 t.regs t.regs 0 true false, x)
  | .and t x => some (intShape t.regs t.regs t.regs 0 true false, x)
  | .or t x => some (intShape t.regs t.regs t.regs 0 true false, x)
  | .xor t x => some (intShape t.regs t.regs t.regs 0 true false, x)
  | .andn t x => some (intShape t.regs t.regs t.regs 0 true false, x)
  | .notB64 t x => some (intShape t.regs t.regs 0 0 false false, x)
  | .bfx _ x => some (intShape 1 1 1 0 true false, x)
  | .bfi x => some (intShape 1 1 1 1 false false, x)
  | .popcB64 t x => some (intShape t.regs t.regs 0 0 false false, x)
  | .clzB64 t x => some (intShape t.regs t.regs 0 0 false false, x)
  | .brevB64 t x => some (intShape t.regs t.regs 0 0 false false, x)
  | .shl t x => some (intShape t.regs t.regs 1 0 true false, x)
  | .shr t x => some (intShape t.regs t.regs 1 0 true false, x)
  | .rot x => some (intShape 1 1 1 0 true false, x)
  | .movB64 t x => some (intShape t.regs (match x.tail with | .imm _ => 0 | .regs _ _ _ => t.regs) 0 0 true false, x)
  | .sel t x => some (intShape t.regs t.regs t.regs 1 false false, x)
  | .ballotB64 x => some (intShape 2 1 0 0 false false, x)
  | .shuf x => some (intShape 1 1 1 0 true false, x)
  | .fadd t x => some (fpShape t.regs t.regs t.regs 0 true true true, x)
  | .fsub t x => some (fpShape t.regs t.regs t.regs 0 true true true, x)
  | .fmul t x => some (fpShape t.regs t.regs t.regs 0 true true true, x)
  | .ffma t x => some (fpShape t.regs t.regs t.regs t.regs false true true, x)
  | .fmin t x => some (fpShape t.regs t.regs t.regs 0 true false false, x)
  | .fmax t x => some (fpShape t.regs t.regs t.regs 0 true false false, x)
  | .fcmp t x => some (fpShape 1 t.regs t.regs 0 true false false, x)
  | .fclassB64 t x => some (fpShape 1 t.regs 0 0 false false false, x)
  | .frintB64 t x => some (fpShape t.regs t.regs 0 0 false true false, x)
  | .fcvt dt st x => some (fpShape dt.regs st.regs 0 0 false true true, x)
  | .ftoi it ft x => some (fpShape it.regs ft.regs 0 0 false true false, x)
  | .itof ft it x => some (⟨ft.regs, it.regs, 0, 0, false, false, true, true, false, false, false⟩, x)
  | .mxcvt _ x => some (⟨1, 1, 1, 0, false, true, false, false, true, false, false⟩, x)
  | .exp2B64 x => some (fpShape 1 1 0 0 false false false, x)
  | .log2B64 x => some (fpShape 1 1 0 0 false false false, x)
  | .rcpB64 x => some (fpShape 1 1 0 0 false false false, x)
  | .rsqB64 x => some (fpShape 1 1 0 0 false false false, x)
  | .sinB64 x => some (fpShape 1 1 0 0 false false false, x)
  | .cosB64 x => some (fpShape 1 1 0 0 false false false, x)
  | .rndc _ x => some (intShape 1 2 2 0 false false, x)
  | .waitw t x => some (intShape t.regs 3 t.regs 1 false false, x)
  | _ => none

/-- Which `ORD` values an access instruction permits (07 R172). -/
inductive MemUse where | load | store | atomic | remote
deriving DecidableEq, Repr

def MemUse.ordOk : MemUse → MOrd → Bool
  | .load, o => o == .plain || o == .acq
  | .store, o => o == .plain || o == .rel
  | .atomic, _ => true
  | .remote, o => o == .plain || o == .rel

/-- The modifier of an access (07 R172, 13 R324, 15 R358, R359, 01 R22, 17 R406). -/
def MMod.ok (u : MemUse) (m : MMod) : Bool :=
  u.ordOk m.ord && m.scope != 7 &&
  (u == .atomic || m.ord != .plain || m.scope == 0) &&
  (m.home.toNat ≤ 17 || m.home.toNat ≥ 30) &&
  (m.spc == .glob || m.home == 31) &&
  (match u with
   | .atomic => m.spc != .spl && m.opx.toNat ≤ 12
   | .remote => m.spc == .glob && m.home == 31 && m.opx == 0
   | .load => m.opx == 0
   | .store => m.opx == 0)

/-- An access in long form: `dN` data registers, B and C operands as counted, A a triple in the global space
and one register otherwise (06 R138). D is never permuted. -/
def LongM.ok (u : MemUse) (dN bN cN : Nat) (x : LongM) : Bool :=
  rangeOk x.d dN && rangeOk x.a (if u != .remote && x.m.spc == .glob then 3 else 1) &&
  rangeOk x.b bN && rangeOk x.c cN && x.m.ok u &&
  (match x.perm with
   | none => true
   | some p => permOk (bN != 0) p.pb && permOk (cN != 0) p.pc)

/-- `ATOM` reads C only for CAS (15 R358). -/
def atomCRegs (t : WTy) (x : LongM) : Nat := if x.m.opx == 9 then t.regs else 0

def rayRegs : Prec → Nat | .f32 => 12 | .f64 => 20
def hitRegs : Prec → Nat | .f32 => 6 | .f64 => 9
def tRegs : Prec → Nat | .f32 => 1 | .f64 => 2

/-- Register ranges of the forms with fixed operand counts: every range must stay within v255. -/
def Instr.fixedRanges : Instr → List (Reg × Nat)
  | .setxS16 s => [(s, 1)]
  | .setxA32 _ s => [(s, 1)]
  | .anyqS16 s => [(s, 1)]
  | .anyqA32 _ s => [(s, 1)]
  | .allqS16 s => [(s, 1)]
  | .allqA32 _ s => [(s, 1)]
  | .brx _ _ a => [(a, 3)]
  | .callA32 _ d _ => [(d, 3)]
  | .callB64 _ d _ => [(d, 3)]
  | .callx _ d a => [(d, 3), (a, 3)]
  | .csrr _ _ _ d => [(d, 1)]
  | .csrw _ _ _ s => [(s, 1)]
  | .regang _ s => [(s, 1)]
  | .arriveWg _ d _ => [(d, 1)]
  | .arriveCl _ d _ => [(d, 1)]
  | .waitaWg _ _ s => [(s, 1)]
  | .waitaCl _ _ s => [(s, 1)]
  | .iabsA32 _ t d a => [(d, t.regs), (a, t.regs)]
  | .notA32 _ t d a => [(d, t.regs), (a, t.regs)]
  | .popcA32 _ t d a => [(d, t.regs), (a, t.regs)]
  | .clzA32 _ t d a => [(d, t.regs), (a, t.regs)]
  | .brevA32 _ t d a => [(d, t.regs), (a, t.regs)]
  | .movA32 _ t d a => [(d, t.regs), (a, t.regs)]
  | .getx _ d => [(d, 2)]
  | .ballotA32 _ d a => [(d, 2), (a, 1)]
  | .lane _ d => [(d, 1)]
  | .fclassA32 _ t d a => [(d, 1), (a, t.regs)]
  | .frintA32 _ t d a => [(d, t.regs), (a, t.regs)]
  | .exp2A32 _ d a => [(d, 1), (a, 1)]
  | .log2A32 _ d a => [(d, 1), (a, 1)]
  | .rcpA32 _ d a => [(d, 1), (a, 1)]
  | .rsqA32 _ d a => [(d, 1), (a, 1)]
  | .sinA32 _ d a => [(d, 1), (a, 1)]
  | .cosA32 _ d a => [(d, 1), (a, 1)]
  | .ldA32 _ t d a => [(d, t.regs), (a, 3)]
  | .stA32 _ t d a => [(d, t.regs), (a, 3)]
  | .semi _ d a => [(d, 1), (a, 1)]
  | .sems _ _ a => [(a, 1)]
  | .semsCl _ _ a b => [(a, 1), (b, 1)]
  | .semw _ _ a => [(a, 1)]
  | .semwT _ _ a => [(a, 1)]
  | .batch _ d => [(d, 1)]
  | .waitb _ s => [(s, 1)]
  | .ringsSet _ _ a b => [(a, 1), (b, 1)]
  | .ringsQ _ d _ => [(d, 1)]
  | .copy _ d a => [(d, 3), (a, 3)]
  | .copyS _ d a => [(d, 1), (a, 3)]
  | .copyG _ d a => [(d, 3), (a, 1)]
  | .copyR _ _ a => [(a, 3)]
  | .copyGt _ d a b c => [(d, 1), (a, 1), (b, 1), (c, 1)]
  | .mpop _ _ _ d _ _ => [(d, 8)]
  | .stq _ _ _ a => [(a, 3)]
  | .mcast _ _ _ _ a => [(a, 1)]
  | .cred _ d a b => [(d, 3), (a, 3), (b, 3)]
  | .rayq _ p d a => [(d, hitRegs p), (a, rayRegs p)]
  | .rayqL _ p d a b => [(d, hitRegs p), (a, rayRegs p), (b, 3)]
  | .rayp _ p d a b => [(d, hitRegs p), (a, rayRegs p), (b, 3)]
  | .raya _ p d a => [(d, rayRegs p), (a, 1)]
  | .rayh _ p d a b c => [(d, 1), (a, 1), (b, tRegs p), (c, 1)]
  | .tricov _ _ d a b => [(d, 2), (a, 6), (b, 1)]
  | .spawn _ _ h n d a b c => [(d, 1), (a, 3), (b, n.toNat + 1)] ++ (if h then [(c, 3)] else [])
  | .join _ d a => [(d, 1), (a, 3)]
  | .ticketAcq _ d _ => [(d, 1)]
  | .jrnl _ d a b => [(d, 2), (a, 1), (b, 8)]
  | .emit _ d a => [(d, 1), (a, 1)]
  | .jtrunc _ d a => [(d, 1), (a, 2)]
  | .govq _ d a => [(d, 1), (a, 1)]
  | .govqJ _ d a => [(d, 1), (a, 1)]
  | _ => []

/-- The registers an instruction names, as first register and count (for the "register bound" check, 04 R95). -/
def Instr.ranges (i : Instr) : List (Reg × Nat) :=
  match i with
  | .ldB64 t x => [(x.d, t.regs), (x.a, if x.m.spc == .glob then 3 else 1)]
  | .stB64 t x => [(x.d, t.regs), (x.a, if x.m.spc == .glob then 3 else 1)]
  | .atom t x =>
    [(x.d, t.regs), (x.a, if x.m.spc == .glob then 3 else 1), (x.b, t.regs)] ++
      (if x.m.opx == 9 then [(x.c, t.regs)] else [])
  | .rst t x => [(x.d, t.regs), (x.a, 1), (x.b, 1)]
  | i =>
    match i.longShape with
    | some (sh, x) =>
      [(x.d, sh.dN), (x.a, sh.aN)] ++
        (match x.tail with | .imm _ => [] | .regs b c _ => [(b, sh.bN), (c, sh.cN)])
    | none => i.fixedRanges

/-- The instruction has an encoding of the part. Event rows have none and are always well formed. -/
def Instr.wf (i : Instr) : Bool :=
  match i with
  | .ldB64 t x => x.ok .load t.regs 0 0
  | .stB64 t x => x.ok .store t.regs 0 0
  | .atom t x => x.ok .atomic t.regs t.regs (atomCRegs t x)
  | .rst t x => x.ok .remote t.regs 1 0
  | .fcvt dt st x => decide (dt ≠ st) && (fpShape dt.regs st.regs 0 0 false true true |> x.ok)
  | .fence _ sc _ => sc != 0 && sc != 7
  | .sems _ n a => n != 0 && rangeOk a 1
  | .semsCl _ n a b => n != 0 && rangeOk a 1 && rangeOk b 1
  | .semw _ n a => n != 0 && rangeOk a 1
  | .semwT _ n a => n != 0 && rangeOk a 1
  | .spawn _ p h _ _ _ _ c =>
    i.fixedRanges.all (fun r => rangeOk r.1 r.2) && (h || c == 0) &&
      (match p with | none => true | some q => permOk h q.pc)
  | i =>
    match i.longShape with
    | some (sh, x) => x.ok sh
    | none => i.fixedRanges.all (fun r => rangeOk r.1 r.2)

end Sys2Proof
end

