-- ==== Sys2Proof/Decode.lean ====
section
/-!
DEFINITION. From parcels to instructions (13 R319 to R326, 14 R338 to R348) and back. Decoding is total: a
parcel pattern that is no instruction is rejected by name. It depends on the parcels alone (14 R338).
-/

namespace Sys2Proof

/-- Why a parcel pattern is not an instruction. All but `truncated` raise the illegal-instruction trap (14 R348). -/
inductive DecodeErr where
  /-- Fewer parcels were given than the size code asks for. -/
  | truncated
  /-- A short opcode R339 does not assign. -/
  | shortOpcode
  /-- A major, size code or `SUB` that R341 to R347 do not assign. -/
  | opcode
  /-- A reserved bit or code of the modifier parcel or of PERM (13 R323 to R325). -/
  | modifier
  /-- A field outside its entry's limits, or nonzero where unused. -/
  | field
deriving DecidableEq, Repr

/-! Field codes. -/

def Cond.all : List Cond := [.al, .eq, .ne, .lt, .ge, .le, .gt, .hs, .lo, .mi, .pl, .vs, .vc, .mz, .mnz]
def ITy.all : List ITy := [.i32, .u32, .i64]
def FTy.all : List FTy := [.f32, .f16, .bf16, .f64]
def CTy.all : List CTy := [.f32, .f16, .bf16, .f64, .e4m3, .e5m2, .e2m1]
def CITy.all : List CITy := [.i32, .u32, .i64, .i8]
def LdTy.all : List LdTy := [.i8, .z8, .i16, .z16, .w32, .w64, .x128]
def Rnd.all : List Rnd := [.mode, .rne, .rtz, .rup, .rdn]
def MOrd.all : List MOrd := [.plain, .acq, .rel, .ar]
def Spc.all : List Spc := [.glob, .spl, .scr]
def Cull.all : List Cull := [.off, .pos, .neg]
def MmaFmt.all : List MmaFmt := [.f16, .bf16, .e4m3, .e5m2, .e2m1, .i8, .mxe4m3, .mxe5m2, .mxe2m1]
def DrainFmt.all : List DrainFmt := [.w32, .f16, .bf16, .e4m3, .e5m2]

def Cond.code (c : Cond) : Nat := Cond.all.idxOf c
def ITy.code (t : ITy) : Nat := ITy.all.idxOf t
def FTy.code (t : FTy) : Nat := FTy.all.idxOf t
def CTy.code (t : CTy) : Nat := CTy.all.idxOf t
def CITy.code (t : CITy) : Nat := CITy.all.idxOf t
def LdTy.code (t : LdTy) : Nat := LdTy.all.idxOf t
def Rnd.code (t : Rnd) : Nat := Rnd.all.idxOf t
def MOrd.code (t : MOrd) : Nat := MOrd.all.idxOf t
def Spc.code (t : Spc) : Nat := Spc.all.idxOf t
def Cull.code (t : Cull) : Nat := Cull.all.idxOf t
/-- `MMA` formats are the codes 1 to 9 of 06 R161. -/
def MmaFmt.code (t : MmaFmt) : Nat := MmaFmt.all.idxOf t + 1
def DrainFmt.code (t : DrainFmt) : Nat := DrainFmt.all.idxOf t

def BTy.code : BTy → Nat | .i32 => 0 | .i64 => 2
def BTy.ofCode? : Nat → Option BTy | 0 => some .i32 | 2 => some .i64 | _ => none
def MxTy.code : MxTy → Nat | .e4m3 => 4 | .e5m2 => 5 | .e2m1 => 6
def MxTy.ofCode? : Nat → Option MxTy | 4 => some .e4m3 | 5 => some .e5m2 | 6 => some .e2m1 | _ => none
def StTy.code : StTy → Nat | .b1 => 0 | .b2 => 2 | .b4 => 4 | .b8 => 5 | .b16 => 6
def StTy.ofCode? : Nat → Option StTy
  | 0 => some .b1 | 2 => some .b2 | 4 => some .b4 | 5 => some .b8 | 6 => some .b16 | _ => none
def WTy.code : WTy → Nat | .w32 => 4 | .w64 => 5
def WTy.ofCode? : Nat → Option WTy | 4 => some .w32 | 5 => some .w64 | _ => none
def FenceKind.code : FenceKind → Nat | .acq => 1 | .rel => 2 | .ar => 3
def FenceKind.ofCode? : Nat → Option FenceKind | 1 => some .acq | 2 => some .rel | 3 => some .ar | _ => none
def Prec.bit : Prec → Nat | .f32 => 0 | .f64 => 1
def Prec.ofBit (b : Bool) : Prec := if b then .f64 else .f32

/-- A permute field: PAT in bits 9:6, AMT in bits 5:0 (04 R98). -/
def Perm.encode : Perm → BitVec 10
  | .none => 0
  | .bc k => 1#4 ++ k
  | .rot n => 2#4 ++ n
  | .xor n => 3#4 ++ n
  | .mir => 4#4 ++ 0#6
  | .qbc k => 5#4 ++ (0#4 ++ k)

def Perm.decode (w : BitVec 10) : Option Perm :=
  let amt := w.extractLsb' 0 6
  match (w.extractLsb' 6 4).toNat with
  | 0 => if amt = 0 then some .none else Option.none
  | 1 => some (.bc amt)
  | 2 => some (.rot amt)
  | 3 => some (.xor amt)
  | 4 => if amt = 0 then some .mir else Option.none
  | 5 => if amt.toNat ≤ 3 then some (.qbc (amt.extractLsb' 0 2)) else Option.none
  | _ => Option.none

/-- PERM (13 R325): parcels 4 (bits 15:0) and 5 (bits 31:16). -/
def Perms.encode (p : Perms) : List Parcel :=
  let w : Word := 0#2 ++ (p.pc.encode ++ (p.pb.encode ++ p.pa.encode))
  [w.extractLsb' 0 16, w.extractLsb' 16 16]

def Perms.decode (p4 p5 : Parcel) : Option Perms := do
  let w : Word := p5 ++ p4
  guard (w.extractLsb' 30 2 = 0)
  let pa ← Perm.decode (w.extractLsb' 0 10)
  let pb ← Perm.decode (w.extractLsb' 10 10)
  let pc ← Perm.decode (w.extractLsb' 20 10)
  pure ⟨pa, pb, pc⟩

/-- The R323 modifier parcel. -/
def FMod.encode (m : FMod) : Parcel :=
  BitVec.ofNat 3 m.rnd.code ++ (BitVec.ofBool m.sat ++ (BitVec.ofBool m.negC ++ (BitVec.ofBool m.negB ++
    (BitVec.ofBool m.negA ++ (BitVec.ofBool m.absC ++ (BitVec.ofBool m.absB ++
      (BitVec.ofBool m.absA ++ 0#6)))))))

def FMod.decode (p : Parcel) : Option FMod := do
  let rnd ← Rnd.all[(p.extractLsb' 13 3).toNat]?
  guard (p.extractLsb' 0 6 = 0)
  pure ⟨rnd, p.getLsbD 12, p.getLsbD 11, p.getLsbD 10, p.getLsbD 9, p.getLsbD 8, p.getLsbD 7, p.getLsbD 6⟩

/-- The R324 modifier parcel. -/
def MMod.encode (m : MMod) : Parcel :=
  m.home ++ (m.scope ++ (BitVec.ofNat 2 m.ord.code ++ (BitVec.ofNat 2 m.spc.code ++ m.opx)))

def MMod.decode (p : Parcel) : Option MMod := do
  let ord ← MOrd.all[(p.extractLsb' 6 2).toNat]?
  let spc ← Spc.all[(p.extractLsb' 4 2).toNat]?
  pure ⟨p.extractLsb' 11 5, p.extractLsb' 8 3, ord, spc, p.extractLsb' 0 4⟩

/-! Decoding by form. -/

/-- S16 forms (14 R339). -/
def decodeS16 (sop : Nat) (opd : BitVec 8) : Option Instr :=
  match sop with
  | 0x00 => some (.nop opd)
  | 0x01 => if opd = 0 then some .exit else none
  | 0x02 => some (.setxS16 opd)
  | 0x03 => some (.anyqS16 opd)
  | 0x04 => some (.allqS16 opd)
  | _ => none

/-- `r` when the unused field is zero. -/
def zeroThen (z : Bool) (r : Option Instr) : Option Instr := if z then r else none

/-- A32 forms (14 R341 to R347): `g` GAP, `s` SUB, `d` and `a` the operand fields. -/
def decodeA32 (major : Nat) (g : BitVec 2) (s : BitVec 3) (d a : Reg) : Option Instr :=
  let s0 := s == 0
  let condOf (k : Option Cond → Option Instr) := k Cond.all[(d.extractLsb' 0 4).toNat]?
  match major with
  | 0x001 => zeroThen s0 (condOf fun c => c.map fun c => .brA32 g c (d.extractLsb' 4 4 ++ a))
  | 0x002 => zeroThen (s0 && d.extractLsb' 4 4 == 0) (condOf fun c => c.map fun c => .brx g c a)
  | 0x003 => zeroThen s0 (some (.callA32 g d a))
  | 0x004 => zeroThen (s0 && d == 0 && a == 0) (some (.yield g))
  | 0x005 => zeroThen (s0 && d == 0 && a == 0) (some (.pchk g))
  | 0x006 => zeroThen s0 (some (.callx g d a))
  | 0x007 => zeroThen (s0 && d == 0 && a == 0) (some (.tret g))
  | 0x008 => some (.csrr g (s.getLsbD 0) (s.extractLsb' 1 2 ++ a) d)
  | 0x009 => some (.csrw g (s.getLsbD 0) (s.extractLsb' 1 2 ++ d) a)
  | 0x010 => zeroThen (s0 && d == 0) (some (.regang g a))
  | 0x011 =>
    if s0 then zeroThen (a.extractLsb' 3 5 == 0) (some (.arriveWg g d (a.extractLsb' 0 3)))
    else zeroThen (s == 1 && a.extractLsb' 2 6 == 0) (some (.arriveCl g d (a.extractLsb' 0 2)))
  | 0x012 =>
    if s0 then zeroThen (d.extractLsb' 3 5 == 0) (some (.waitaWg g (d.extractLsb' 0 3) a))
    else zeroThen (s == 1 && d.extractLsb' 2 6 == 0) (some (.waitaCl g (d.extractLsb' 0 2) a))
  | 0x048 => (BTy.ofCode? s.toNat).map fun t => .iabsA32 g t d a
  | 0x054 => (BTy.ofCode? s.toNat).map fun t => .notA32 g t d a
  | 0x05A => (BTy.ofCode? s.toNat).map fun t => .popcA32 g t d a
  | 0x05B => (BTy.ofCode? s.toNat).map fun t => .clzA32 g t d a
  | 0x05C => (BTy.ofCode? s.toNat).map fun t => .brevA32 g t d a
  | 0x068 => (BTy.ofCode? s.toNat).map fun t => .movA32 g t d a
  | 0x070 => zeroThen (s0 && d == 0) (some (.anyqA32 g a))
  | 0x071 => zeroThen (s0 && d == 0) (some (.allqA32 g a))
  | 0x072 => zeroThen (s0 && d == 0) (some (.setxA32 g a))
  | 0x073 => zeroThen (s0 && a == 0) (some (.getx g d))
  | 0x074 => zeroThen s0 (some (.ballotA32 g d a))
  | 0x075 => zeroThen (s0 && a == 0) (some (.lane g d))
  | 0x0C7 => (FTy.all[s.toNat]?).map fun t => .fclassA32 g t d a
  | 0x0C8 => (FTy.all[s.toNat]?).map fun t => .frintA32 g t d a
  | 0x0E0 => zeroThen s0 (some (.exp2A32 g d a))
  | 0x0E1 => zeroThen s0 (some (.log2A32 g d a))
  | 0x0E2 => zeroThen s0 (some (.rcpA32 g d a))
  | 0x0E3 => zeroThen s0 (some (.rsqA32 g d a))
  | 0x0E4 => zeroThen s0 (some (.sinA32 g d a))
  | 0x0E5 => zeroThen s0 (some (.cosA32 g d a))
  | 0x160 => (LdTy.all[s.toNat]?).map fun t => .ldA32 g t d a
  | 0x161 => (StTy.ofCode? s.toNat).map fun t => .stA32 g t d a
  | 0x177 => zeroThen s0 (some (.semi g d a))
  | 0x178 => zeroThen s0 (some (.sems g d a))
  | 0x179 =>
    if s0 then some (.semw g d a) else zeroThen (s == 1) (some (.semwT g d a))
  | 0x17C => zeroThen (s0 && a == 0) (some (.batch g d))
  | 0x17D =>
    if s0 then zeroThen (d == 0) (some (.waitb g a))
    else zeroThen (s == 1 && d == 0 && a == 0) (some (.waitbAll g))
  | 0x17E => zeroThen (a == 0) ((FenceKind.ofCode? d.toNat).map fun k => .fence g s k)
  | 0x1C0 =>
    if s == 1 then zeroThen (a.extractLsb' 3 5 == 0) (some (.ringsQ g d (a.extractLsb' 0 3)))
    else zeroThen (s == 2 && d == 0 && a.extractLsb' 3 5 == 0) (some (.ringsPop g (a.extractLsb' 0 3)))
  | 0x1C1 =>
    match s.toNat with
    | 0 => some (.copy g d a)
    | 1 => some (.copyS g d a)
    | 2 => some (.copyG g d a)
    | 3 => zeroThen (d.extractLsb' 3 5 == 0) (some (.copyR g (d.extractLsb' 0 3) a))
    | _ => none
  | 0x1C4 =>
    zeroThen (d.extractLsb' 4 4 == 0 && a.extractLsb' 6 2 == 0 && d != 0)
      ((MmaFmt.all[d.toNat - 1]?).map fun f =>
        .mma g (s.getLsbD 2) (s.getLsbD 1) (s.getLsbD 0) f (a.extractLsb' 3 3) (a.extractLsb' 0 3))
  | 0x1C5 =>
    zeroThen (a.extractLsb' 2 6 == 0)
      ((DrainFmt.all[d.toNat]?).map fun f =>
        .mdrainA32 g (s.getLsbD 2) (s.getLsbD 1) (s.getLsbD 0) f (a.extractLsb' 0 2))
  | 0x1C6 =>
    zeroThen (!s.getLsbD 2 && !a.getLsbD 7)
      (some (.mpop g (s.getLsbD 1) (s.getLsbD 0) d (a.extractLsb' 5 2) (a.extractLsb' 0 5)))
  | 0x1C7 =>
    zeroThen (!s.getLsbD 2 && !s.getLsbD 0 && d.extractLsb' 2 6 == 0)
      (some (.stq g (s.getLsbD 1) (d.extractLsb' 0 2) a))
  | 0x1C8 =>
    zeroThen (!s.getLsbD 2 && d.extractLsb' 2 6 == 0)
      (some (.mcast g (s.getLsbD 1) (s.getLsbD 0) (d.extractLsb' 0 2) a))
  | 0x1E0 => zeroThen (s.extractLsb' 1 2 == 0) (some (.rayq g (Prec.ofBit (s.getLsbD 0)) d a))
  | 0x1E2 => zeroThen (s.extractLsb' 1 2 == 0) (some (.raya g (Prec.ofBit (s.getLsbD 0)) d a))
  | 0x1F1 => zeroThen s0 (some (.join g d a))
  | 0x1F2 =>
    if s0 then zeroThen (a.extractLsb' 2 6 == 0) (some (.ticketAcq g d (a.extractLsb' 0 2)))
    else zeroThen (s == 1 && d == 0 && a.extractLsb' 2 6 == 0) (some (.ticketRel g (a.extractLsb' 0 2)))
  | 0x1F4 => zeroThen s0 (some (.emit g d a))
  | 0x1F5 => zeroThen s0 (some (.jtrunc g d a))
  | 0x1F6 => if s0 then some (.govq g d a) else zeroThen (s == 1) (some (.govqJ g d a))
  | _ => none

/-- Long forms with the R323 modifier (14 R341 to R343, R344 `WAITW`). -/
def decodeLong (major : Nat) (s : Nat) (x : Long) : Option Instr :=
  let code (k : Nat → Long → Option Instr) : Option Instr :=
    match x.tail with
    | .regs b c m => k b.toNat { x with tail := .regs 0 c m }
    | .imm _ => none
  let one (i : Instr) : Option Instr := if s = 0 then some i else none
  let ity (k : ITy → Instr) := (ITy.all[s]?).map k
  let bty (k : BTy → Instr) := (BTy.ofCode? s).map k
  let fty (k : FTy → Instr) := (FTy.all[s]?).map k
  match major with
  | 0x001 =>
    match s, x.perm, x.tail with
    | 0, none, .imm w =>
      zeroThen (x.d.extractLsb' 4 4 == 0 && x.a == 0)
        ((Cond.all[(x.d.extractLsb' 0 4).toNat]?).map fun c => .brB64 x.gap c w)
    | _, _, _ => none
  | 0x003 =>
    match s, x.perm, x.tail with
    | 0, none, .imm w => zeroThen (x.a == 0) (some (.callB64 x.gap x.d w))
    | _, _, _ => none
  | 0x040 => one (.adda x)
  | 0x041 => ity (.iadd · x)
  | 0x042 => ity (.isub · x)
  | 0x043 => ity (.imul · x)
  | 0x044 => if s = 0 then some (.imulh false x) else if s = 1 then some (.imulh true x) else none
  | 0x045 => ity (.imad · x)
  | 0x046 => ity (.imin · x)
  | 0x047 => ity (.imax · x)
  | 0x048 => bty (.iabsB64 · x)
  | 0x049 => ity (.icmp · x)
  | 0x050 => bty (.and · x)
  | 0x051 => bty (.or · x)
  | 0x052 => bty (.xor · x)
  | 0x053 => bty (.andn · x)
  | 0x054 => bty (.notB64 · x)
  | 0x058 => if s = 0 then some (.bfx false x) else if s = 1 then some (.bfx true x) else none
  | 0x059 => one (.bfi x)
  | 0x05A => bty (.popcB64 · x)
  | 0x05B => bty (.clzB64 · x)
  | 0x05C => bty (.brevB64 · x)
  | 0x060 => bty (.shl · x)
  | 0x061 => ity (.shr · x)
  | 0x062 => one (.rot x)
  | 0x068 => bty (.movB64 · x)
  | 0x069 => bty (.sel · x)
  | 0x074 => one (.ballotB64 x)
  | 0x080 => one (.shuf x)
  | 0x0C0 => fty (.fadd · x)
  | 0x0C1 => fty (.fsub · x)
  | 0x0C2 => fty (.fmul · x)
  | 0x0C3 => fty (.ffma · x)
  | 0x0C4 => fty (.fmin · x)
  | 0x0C5 => fty (.fmax · x)
  | 0x0C6 => fty (.fcmp · x)
  | 0x0C7 => fty (.fclassB64 · x)
  | 0x0C8 => fty (.frintB64 · x)
  | 0x0D0 => code fun b x => do pure (.fcvt (← CTy.all[s]?) (← CTy.all[b]?) x)
  | 0x0D1 => code fun b x => do pure (.ftoi (← CITy.all[s]?) (← FTy.all[b]?) x)
  | 0x0D2 => code fun b x => do pure (.itof (← FTy.all[s]?) (← CITy.all[b]?) x)
  | 0x0D4 => (MxTy.ofCode? s).map (.mxcvt · x)
  | 0x0E0 => one (.exp2B64 x)
  | 0x0E1 => one (.log2B64 x)
  | 0x0E2 => one (.rcpB64 x)
  | 0x0E3 => one (.rsqB64 x)
  | 0x0E4 => one (.sinB64 x)
  | 0x0E5 => one (.cosB64 x)
  | 0x0F0 => if s = 0 then some (.rndc false x) else if s = 1 then some (.rndc true x) else none
  | 0x164 => (WTy.ofCode? s).map (.waitw · x)
  | _ => none

/-- Majors whose modifier parcel is that of R324. -/
def isMemMajor (major : Nat) : Bool := major == 0x160 || major == 0x161 || major == 0x162 || major == 0x163

def decodeLongM (major : Nat) (s : Nat) (x : LongM) : Option Instr :=
  match major with
  | 0x160 => (LdTy.all[s]?).map (.ldB64 · x)
  | 0x161 => (StTy.ofCode? s).map (.stB64 · x)
  | 0x162 => (WTy.ofCode? s).map (.atom · x)
  | 0x163 => (StTy.ofCode? s).map (.rst · x)
  | _ => none

/-- B64 forms of the engines, with a modifier parcel of zero but for `SAT` of `MDRAIN` (14 R345 to R347). -/
def decodeB64 (major : Nat) (g : BitVec 1) (s : BitVec 3) (d a b c : Reg) (sat : Bool) : Option Instr :=
  let c0 := c == 0 && !sat
  match major with
  | 0x178 => zeroThen (s == 1 && c0) (some (.semsCl g d a b))
  | 0x1C0 => zeroThen (s == 0 && c0 && d.extractLsb' 3 5 == 0) (some (.ringsSet g (d.extractLsb' 0 3) a b))
  | 0x1C1 => zeroThen (s == 4 && !sat) (some (.copyGt g d a b c))
  | 0x1C5 =>
    zeroThen (b == 0 && c == 0 && a.extractLsb' 2 6 == 0)
      ((DrainFmt.all[d.toNat]?).map fun f =>
        .mdrainB64 g (s.getLsbD 2) (s.getLsbD 1) (s.getLsbD 0) f (a.extractLsb' 0 2) sat)
  | 0x1D0 => zeroThen (s == 0 && c0) (some (.cred g d a b))
  | 0x1E0 => zeroThen (s.extractLsb' 1 2 == 1 && c0) (some (.rayqL g (Prec.ofBit (s.getLsbD 0)) d a b))
  | 0x1E1 => zeroThen (s.extractLsb' 1 2 == 0 && c0) (some (.rayp g (Prec.ofBit (s.getLsbD 0)) d a b))
  | 0x1E3 => zeroThen (s.extractLsb' 1 2 == 0 && !sat) (some (.rayh g (Prec.ofBit (s.getLsbD 0)) d a b c))
  | 0x1E8 => zeroThen c0 ((Cull.all[s.toNat]?).map fun k => .tricov g k d a b)
  | 0x1F3 => zeroThen (s == 0 && c0) (some (.jrnl g d a b))
  | _ => none

/-- B64 and C96 forms: `perm` is the decoded PERM of a C96 form. -/
def decodeWide (p0 p1 p2 p3 : Parcel) (perm : Option Perms) : Except DecodeErr Instr :=
  let major := (p0.extractLsb' 5 9).toNat
  let gap : BitVec 1 := p0.extractLsb' 3 1
  let s : BitVec 3 := p0.extractLsb' 0 3
  let d : Reg := p1.extractLsb' 8 8
  let a : Reg := p1.extractLsb' 0 8
  let b : Reg := p2.extractLsb' 8 8
  let c : Reg := p2.extractLsb' 0 8
  let ok (o : Option Instr) : Except DecodeErr Instr :=
    match o with
    | some i => if i.wf then .ok i else .error .field
    | none => .error .opcode
  if p0.getLsbD 4 then
    ok (decodeLong major s.toNat ⟨gap, perm, d, a, .imm (p3 ++ p2)⟩)
  else if isMemMajor major then
    match MMod.decode p3 with
    | some m => ok (decodeLongM major s.toNat ⟨gap, perm, d, a, b, c, m⟩)
    | none => .error .modifier
  else
    match FMod.decode p3 with
    | none => .error .modifier
    | some m =>
      match decodeLong major s.toNat ⟨gap, perm, d, a, .regs b c m⟩ with
      | some i => ok (some i)
      | none =>
        if major = 0x1F0 then
          ok (zeroThen (m == FMod.zero) (some (.spawn gap perm (s.getLsbD 2) (s.extractLsb' 0 2) d a b c)))
        else
          match perm with
          | some _ => .error .opcode
          | none => ok (zeroThen ({ m with sat := false } == FMod.zero) (decodeB64 major gap s d a b c m.sat))

/-- Parcels an instruction takes, from its first parcel (13 R319). -/
def parcelCount (p0 : Parcel) : Nat :=
  match (p0.extractLsb' 14 2).toNat with
  | 0 => 1 | 1 => 2 | 2 => 4 | _ => 6

/-- The instruction at the head of a parcel list (14 R338). -/
def decode (ps : List Parcel) : Except DecodeErr Instr :=
  match ps with
  | [] => .error .truncated
  | p0 :: rest =>
    match (p0.extractLsb' 14 2).toNat, rest with
    | 0, _ =>
      match decodeS16 (p0.extractLsb' 8 6).toNat (p0.extractLsb' 0 8) with
      | some i => if i.wf then .ok i else .error .field
      | none => .error .shortOpcode
    | 1, p1 :: _ =>
      match decodeA32 (p0.extractLsb' 5 9).toNat (p0.extractLsb' 3 2) (p0.extractLsb' 0 3)
          (p1.extractLsb' 8 8) (p1.extractLsb' 0 8) with
      | some i => if i.wf then .ok i else .error .field
      | none => .error .opcode
    | 2, p1 :: p2 :: p3 :: _ => decodeWide p0 p1 p2 p3 none
    | 3, p1 :: p2 :: p3 :: p4 :: p5 :: _ =>
      match Perms.decode p4 p5 with
      | some q => decodeWide p0 p1 p2 p3 (some q)
      | none => .error .modifier
    | _, _ => .error .truncated

/-! The encoder, written from the same tables. -/

def encS16 (sop : BitVec 6) (opd : BitVec 8) : List Parcel := [0#2 ++ (sop ++ opd)]

def encA32 (major : BitVec 9) (g : BitVec 2) (s : BitVec 3) (d a : Reg) : List Parcel :=
  [1#2 ++ (major ++ (g ++ s)), d ++ a]

/-- First two parcels of a B64 (`sz` 2) or C96 (`sz` 3) form. -/
def encWide (sz : BitVec 2) (major : BitVec 9) (i : Bool) (g : BitVec 1) (s : BitVec 3) (d a : Reg) : List Parcel :=
  [sz ++ (major ++ (BitVec.ofBool i ++ (g ++ s))), d ++ a]

def permSize (p : Option Perms) : BitVec 2 := match p with | none => 2 | some _ => 3
def permTail (p : Option Perms) : List Parcel := match p with | none => [] | some q => q.encode

/-- A long form; `bcode` replaces B where B holds a code (14 R343). -/
def encLong (major : BitVec 9) (s : Nat) (x : Long) (bcode : Option Nat := none) : List Parcel :=
  match x.tail with
  | .imm w =>
    encWide (permSize x.perm) major true x.gap (BitVec.ofNat 3 s) x.d x.a ++
      [w.extractLsb' 0 16, w.extractLsb' 16 16] ++ permTail x.perm
  | .regs b c m =>
    encWide (permSize x.perm) major false x.gap (BitVec.ofNat 3 s) x.d x.a ++
      [(match bcode with | some k => BitVec.ofNat 8 k | none => b) ++ c, m.encode] ++ permTail x.perm

def encLongM (major : BitVec 9) (s : Nat) (x : LongM) : List Parcel :=
  encWide (permSize x.perm) major false x.gap (BitVec.ofNat 3 s) x.d x.a ++
    [x.b ++ x.c, x.m.encode] ++ permTail x.perm

def encB64 (major : BitVec 9) (g : BitVec 1) (s : BitVec 3) (d a b c : Reg) (m : Parcel := 0) : List Parcel :=
  encWide 2 major false g s d a ++ [b ++ c, m]

/-- SUB of the forms with three flag bits. -/
def bits3 (b2 b1 b0 : Bool) : BitVec 3 := BitVec.ofBool b2 ++ (BitVec.ofBool b1 ++ BitVec.ofBool b0)

/-- The parcels of a well-formed instruction, in the form its constructor names; none for an event row. -/
def encode (i : Instr) : Option (List Parcel) :=
  match i with
  | .nop n => some (encS16 0 n)
  | .exit => some (encS16 1 0)
  | .setxS16 s => some (encS16 2 s)
  | .setxA32 g s => some (encA32 0x072 g 0 0 s)
  | .anyqS16 s => some (encS16 3 s)
  | .anyqA32 g s => some (encA32 0x070 g 0 0 s)
  | .allqS16 s => some (encS16 4 s)
  | .allqA32 g s => some (encA32 0x071 g 0 0 s)
  | .brA32 g c off =>
    some (encA32 0x001 g 0 (off.extractLsb' 8 4 ++ BitVec.ofNat 4 c.code) (off.extractLsb' 0 8))
  | .brB64 g c off => some (encLong 0x001 0 ⟨g, none, 0#4 ++ BitVec.ofNat 4 c.code, 0, .imm off⟩)
  | .brx g c a => some (encA32 0x002 g 0 (0#4 ++ BitVec.ofNat 4 c.code) a)
  | .callA32 g d off => some (encA32 0x003 g 0 d off)
  | .callB64 g d off => some (encLong 0x003 0 ⟨g, none, d, 0, .imm off⟩)
  | .callx g d a => some (encA32 0x006 g 0 d a)
  | .yield g => some (encA32 0x004 g 0 0 0)
  | .pchk g => some (encA32 0x005 g 0 0 0)
  | .tret g => some (encA32 0x007 g 0 0 0)
  | .csrr g sup num d =>
    some (encA32 0x008 g (num.extractLsb' 8 2 ++ BitVec.ofBool sup) d (num.extractLsb' 0 8))
  | .csrw g sup num s =>
    some (encA32 0x009 g (num.extractLsb' 8 2 ++ BitVec.ofBool sup) (num.extractLsb' 0 8) s)
  | .regang g s => some (encA32 0x010 g 0 0 s)
  | .arriveWg g d id => some (encA32 0x011 g 0 d (0#5 ++ id))
  | .arriveCl g d id => some (encA32 0x011 g 1 d (0#6 ++ id))
  | .waitaWg g id s => some (encA32 0x012 g 0 (0#5 ++ id) s)
  | .waitaCl g id s => some (encA32 0x012 g 1 (0#6 ++ id) s)
  | .adda x => some (encLong 0x040 0 x)
  | .iadd t x => some (encLong 0x041 t.code x)
  | .isub t x => some (encLong 0x042 t.code x)
  | .imul t x => some (encLong 0x043 t.code x)
  | .imulh u x => some (encLong 0x044 u.toNat x)
  | .imad t x => some (encLong 0x045 t.code x)
  | .imin t x => some (encLong 0x046 t.code x)
  | .imax t x => some (encLong 0x047 t.code x)
  | .iabsA32 g t d a => some (encA32 0x048 g (BitVec.ofNat 3 t.code) d a)
  | .iabsB64 t x => some (encLong 0x048 t.code x)
  | .icmp t x => some (encLong 0x049 t.code x)
  | .and t x => some (encLong 0x050 t.code x)
  | .or t x => some (encLong 0x051 t.code x)
  | .xor t x => some (encLong 0x052 t.code x)
  | .andn t x => some (encLong 0x053 t.code x)
  | .notA32 g t d a => some (encA32 0x054 g (BitVec.ofNat 3 t.code) d a)
  | .notB64 t x => some (encLong 0x054 t.code x)
  | .bfx u x => some (encLong 0x058 u.toNat x)
  | .bfi x => some (encLong 0x059 0 x)
  | .popcA32 g t d a => some (encA32 0x05A g (BitVec.ofNat 3 t.code) d a)
  | .popcB64 t x => some (encLong 0x05A t.code x)
  | .clzA32 g t d a => some (encA32 0x05B g (BitVec.ofNat 3 t.code) d a)
  | .clzB64 t x => some (encLong 0x05B t.code x)
  | .brevA32 g t d a => some (encA32 0x05C g (BitVec.ofNat 3 t.code) d a)
  | .brevB64 t x => some (encLong 0x05C t.code x)
  | .shl t x => some (encLong 0x060 t.code x)
  | .shr t x => some (encLong 0x061 t.code x)
  | .rot x => some (encLong 0x062 0 x)
  | .movA32 g t d a => some (encA32 0x068 g (BitVec.ofNat 3 t.code) d a)
  | .movB64 t x => some (encLong 0x068 t.code x)
  | .sel t x => some (encLong 0x069 t.code x)
  | .getx g d => some (encA32 0x073 g 0 d 0)
  | .ballotA32 g d a => some (encA32 0x074 g 0 d a)
  | .ballotB64 x => some (encLong 0x074 0 x)
  | .lane g d => some (encA32 0x075 g 0 d 0)
  | .shuf x => some (encLong 0x080 0 x)
  | .fadd t x => some (encLong 0x0C0 t.code x)
  | .fsub t x => some (encLong 0x0C1 t.code x)
  | .fmul t x => some (encLong 0x0C2 t.code x)
  | .ffma t x => some (encLong 0x0C3 t.code x)
  | .fmin t x => some (encLong 0x0C4 t.code x)
  | .fmax t x => some (encLong 0x0C5 t.code x)
  | .fcmp t x => some (encLong 0x0C6 t.code x)
  | .fclassA32 g t d a => some (encA32 0x0C7 g (BitVec.ofNat 3 t.code) d a)
  | .fclassB64 t x => some (encLong 0x0C7 t.code x)
  | .frintA32 g t d a => some (encA32 0x0C8 g (BitVec.ofNat 3 t.code) d a)
  | .frintB64 t x => some (encLong 0x0C8 t.code x)
  | .fcvt dt st x => some (encLong 0x0D0 dt.code x (some st.code))
  | .ftoi it ft x => some (encLong 0x0D1 it.code x (some ft.code))
  | .itof ft it x => some (encLong 0x0D2 ft.code x (some it.code))
  | .mxcvt t x => some (encLong 0x0D4 t.code x)
  | .exp2A32 g d a => some (encA32 0x0E0 g 0 d a)
  | .exp2B64 x => some (encLong 0x0E0 0 x)
  | .log2A32 g d a => some (encA32 0x0E1 g 0 d a)
  | .log2B64 x => some (encLong 0x0E1 0 x)
  | .rcpA32 g d a => some (encA32 0x0E2 g 0 d a)
  | .rcpB64 x => some (encLong 0x0E2 0 x)
  | .rsqA32 g d a => some (encA32 0x0E3 g 0 d a)
  | .rsqB64 x => some (encLong 0x0E3 0 x)
  | .sinA32 g d a => some (encA32 0x0E4 g 0 d a)
  | .sinB64 x => some (encLong 0x0E4 0 x)
  | .cosA32 g d a => some (encA32 0x0E5 g 0 d a)
  | .cosB64 x => some (encLong 0x0E5 0 x)
  | .rndc f x => some (encLong 0x0F0 f.toNat x)
  | .ldA32 g t d a => some (encA32 0x160 g (BitVec.ofNat 3 t.code) d a)
  | .ldB64 t x => some (encLongM 0x160 t.code x)
  | .stA32 g t d a => some (encA32 0x161 g (BitVec.ofNat 3 t.code) d a)
  | .stB64 t x => some (encLongM 0x161 t.code x)
  | .atom t x => some (encLongM 0x162 t.code x)
  | .rst t x => some (encLongM 0x163 t.code x)
  | .waitw t x => some (encLong 0x164 t.code x)
  | .semi g d a => some (encA32 0x177 g 0 d a)
  | .sems g n a => some (encA32 0x178 g 0 n a)
  | .semsCl g n a b => some (encB64 0x178 g 1 n a b 0)
  | .semw g n a => some (encA32 0x179 g 0 n a)
  | .semwT g n a => some (encA32 0x179 g 1 n a)
  | .batch g d => some (encA32 0x17C g 0 d 0)
  | .waitb g s => some (encA32 0x17D g 0 0 s)
  | .waitbAll g => some (encA32 0x17D g 1 0 0)
  | .fence g sc k => some (encA32 0x17E g sc (BitVec.ofNat 8 k.code) 0)
  | .ringsSet g k a b => some (encB64 0x1C0 g 0 (0#5 ++ k) a b 0)
  | .ringsQ g d k => some (encA32 0x1C0 g 1 d (0#5 ++ k))
  | .ringsPop g k => some (encA32 0x1C0 g 2 0 (0#5 ++ k))
  | .copy g d a => some (encA32 0x1C1 g 0 d a)
  | .copyS g d a => some (encA32 0x1C1 g 1 d a)
  | .copyG g d a => some (encA32 0x1C1 g 2 d a)
  | .copyR g k a => some (encA32 0x1C1 g 3 (0#5 ++ k) a)
  | .copyGt g d a b c => some (encB64 0x1C1 g 4 d a b c)
  | .mma g z ar ac f rb ra => some (encA32 0x1C4 g (bits3 z ar ac) (BitVec.ofNat 8 f.code) (0#2 ++ (rb ++ ra)))
  | .mdrainA32 g z ar ac f q => some (encA32 0x1C5 g (bits3 z ar ac) (BitVec.ofNat 8 f.code) (0#6 ++ q))
  | .mdrainB64 g z ar ac f q sat =>
    some (encB64 0x1C5 g (bits3 z ar ac) (BitVec.ofNat 8 f.code) (0#6 ++ q) 0 0
      (FMod.encode { FMod.zero with sat := sat }))
  | .mpop g ar l d q c => some (encA32 0x1C6 g (bits3 false ar l) d (0#1 ++ (q ++ c)))
  | .stq g ar q a => some (encA32 0x1C7 g (bits3 false ar false) (0#6 ++ q) a)
  | .mcast g ar l q a => some (encA32 0x1C8 g (bits3 false ar l) (0#6 ++ q) a)
  | .cred g d a b => some (encB64 0x1D0 g 0 d a b 0)
  | .rayq g p d a => some (encA32 0x1E0 g (BitVec.ofNat 3 p.bit) d a)
  | .rayqL g p d a b => some (encB64 0x1E0 g (BitVec.ofNat 3 (2 + p.bit)) d a b 0)
  | .rayp g p d a b => some (encB64 0x1E1 g (BitVec.ofNat 3 p.bit) d a b 0)
  | .raya g p d a => some (encA32 0x1E2 g (BitVec.ofNat 3 p.bit) d a)
  | .rayh g p d a b c => some (encB64 0x1E3 g (BitVec.ofNat 3 p.bit) d a b c)
  | .tricov g k d a b => some (encB64 0x1E8 g (BitVec.ofNat 3 k.code) d a b 0)
  | .spawn g p h n d a b c =>
    some (encWide (permSize p) 0x1F0 false g (BitVec.ofBool h ++ n) d a ++ [b ++ c, 0] ++ permTail p)
  | .join g d a => some (encA32 0x1F1 g 0 d a)
  | .ticketAcq g d id => some (encA32 0x1F2 g 0 d (0#6 ++ id))
  | .ticketRel g id => some (encA32 0x1F2 g 1 0 (0#6 ++ id))
  | .jrnl g d a b => some (encB64 0x1F3 g 0 d a b 0)
  | .emit g d a => some (encA32 0x1F4 g 0 d a)
  | .jtrunc g d a => some (encA32 0x1F5 g 0 d a)
  | .govq g d a => some (encA32 0x1F6 g 0 d a)
  | .govqJ g d a => some (encA32 0x1F6 g 1 d a)
  | _ => none

/-- Parcels of the instruction, as its encoding takes them (0 for an event row). -/
def Instr.parcels (i : Instr) : Nat :=
  match encode i with
  | some ps => ps.length
  | none => 0

/-! The table's numbering of an instruction's bits (assumption 4). -/

/-- The parcels of a table word, the first parcel first. The table numbers a row of two parcels with its
first parcel in bits 31:16 (0x4E40_0000 is `SETX` A32), so the highest parcel comes first, unless only the
other order gives a first parcel whose size code agrees with the row's width. Parcels past `nbits` are zero. -/
def tableParcels (nbits w : Nat) : List Parcel :=
  let n := (nbits + 15) / 16
  let low := (List.range n).map fun k => (BitVec.ofNat 16 (w >>> (16 * k)) : Parcel)
  let high := low.reverse
  let fits (l : List Parcel) : Bool := match l with | p :: _ => parcelCount p == n | [] => false
  (if !fits high && fits low then low else high) ++ [0, 0, 0, 0, 0, 0]

/-- The instruction the decoder reads from a table word. -/
def decodeTableWord (nbits w : Nat) : Option Instr :=
  match decode (tableParcels nbits w) with
  | .ok i => some i
  | .error _ => none

end Sys2Proof
end

