-- ==== Sys2Proof/Machine/Operands.lean ====
section
/-!
DEFINITION. Operand forms: lanes and quads, the execution mask as an instruction reads it, register lanes with
their undefined values, the crossbar, immediates (02 R29, R31; 04 R90 to R94, R98, R99; 13 R322, R328, R329).
-/

namespace Sys2Proof.Machine

/-! Lanes and quads (02 R29). -/

/-- The lanes of a set of quads. -/
def lanesOf (q : QuadMask) : LaneMask :=
  (List.range 16).foldl (fun m k => if q.getLsbD k then m ||| ((0xF : LaneMask) <<< (4 * k)) else m) 0

/-- The lanes of a mask, in ascending order. -/
def laneList (m : LaneMask) : List Nat := (List.range 64).filter m.getLsbD
def laneBit (l : Nat) : LaneMask := 1#64 <<< l
def quadBit (q : Nat) : QuadMask := 1#16 <<< q
def quadList (q : QuadMask) : List Nat := (List.range 16).filter q.getLsbD
def lanesMask (ls : List Nat) : LaneMask := ls.foldl (fun m l => m ||| laneBit l) 0
/-- The leading quad: the lowest-numbered (02 R34). -/
def leadQuad (q : QuadMask) : Nat := ((List.range 16).find? q.getLsbD).getD 0
/-- The four lanes' bits of a quad. -/
def quadBits (m : LaneMask) (q : Nat) : Nat := m.toNat / 2 ^ (4 * q) % 16
def quadSet (p : Nat → Bool) (q : QuadMask) : QuadMask :=
  (quadList q).foldl (fun m k => if p k then m ||| quadBit k else m) 0

/-- What one instruction issues from: its wave, fragment and context. -/
structure Issue where
  uid : Nat
  w : Wave
  f : Frag
  c : Context
deriving Repr

def Issue.lead (i : Issue) : Nat := leadQuad i.f.quads
/-- `lowest_lane(f)` (04 R93). -/
def Issue.low (i : Issue) : Nat := 4 * i.lead

/-! Free values (00 R2). -/

def freeLanes (s : State) (place : Nat) : LaneMask :=
  lanesMask ((List.range 64).filter fun l => Config.freeBit s.free (place + l))

/-! The execution mask. A reader within the bound of a `SETX` sees each bit old or new (13 R329); of two such writes each has a
choice of its own. -/

def readMask (s : State) (w : Wave) : LaneMask :=
  w.maskPend.zipIdx.foldl (fun m p =>
    if s.cycle < p.1.2.2 then
      let pick := freeLanes s (20000 + 64 * p.2)
      (m &&& ~~~p.1.2.1) ||| (p.1.2.1 &&& ((p.1.1 &&& pick) ||| (m &&& ~~~pick)))
    else m) w.mask

/-- The lanes in which an instruction of the fragment acts (02 R31, 17 R416). -/
def activeLanes (s : State) (w : Wave) (f : Frag) : LaneMask :=
  readMask s w &&& lanesOf f.quads &&& (match f.only with | some m => m | none => -1)

def Issue.act (i : Issue) (s : State) : LaneMask := activeLanes s i.w i.f
def Issue.actList (i : Issue) (s : State) : List Nat := laneList (i.act s)

/-! Register lanes (04 R90, R94). -/

/-- A batch is complete when it is closed and each of its operations is (06 R149). -/
def batchDone (w : Wave) (b : Nat) : Bool := decide (b < w.open_) && w.entries.all (·.batch != b)

def UndefWhy.holds (s : State) (w : Wave) (y : UndefWhy) : Bool :=
  match y with
  | .bound t => decide (s.cycle < t)
  | .batch b => !batchDone w b
  | .poison _ => true
  | .lost => true

def undefAt (s : State) (w : Wave) (r l : Nat) : Bool :=
  w.undef.any fun u => u.reg == r && u.lanes.getLsbD l && u.why.holds s w

/-- The value that lane `l` of register `r` reads as. -/
def readLane (s : State) (w : Wave) (r l : Nat) : Word :=
  if undefAt s w r l then Config.freeWord s.free (64 * r + l) else (assocGet w.regs (64 * r + l)).getD 0

/-- The pair of registers `r`, `r` + 1 (04 R91). -/
def readPair (s : State) (w : Wave) (r l : Nat) : Dword := readLane s w (r + 1) l ++ readLane s w r l

/-- A value of one register, zero-extended, or of two. -/
def readVal (s : State) (w : Wave) (n r l : Nat) : Dword :=
  if n = 2 then readPair s w r l else (readLane s w r l).zeroExtend 64

/-- The address triple at `r` (04 R91). -/
def readTriple (s : State) (w : Wave) (r l : Nat) : VA :=
  (readLane s w (r + 2) l).extractLsb' 0 16 ++ readPair s w r l

/-- A triple with nonzero bits 31:16 in its third register is not canonical (04 R92). -/
def tripleBad (s : State) (w : Wave) (r l : Nat) : Bool :=
  (readLane s w (r + 2) l).extractLsb' 16 16 != 0

def writeLane (w : Wave) (r l : Nat) (v : Word) : Wave := { w with regs := assocSet w.regs (64 * r + l) v }

/-- A value of one register or of a pair written to lane `l`. -/
def writeVal (w : Wave) (n r l : Nat) (v : Dword) : Wave :=
  if n = 2 then writeLane (writeLane w r l (v.extractLsb' 0 32)) (r + 1) l (v.extractLsb' 32 32)
  else writeLane w r l (v.extractLsb' 0 32)

/-- What a write of lanes `ls` of register `r` does to one record of undefined lanes (04 R94). -/
def Undef.afterWrite (w : Wave) (r : Nat) (ls : LaneMask) (u : Undef) : List Undef :=
  if u.reg = r ∧ u.lanes &&& ls ≠ 0 then
    match u.why with
    | .bound _ => [u]
    | .batch b =>
      if batchDone w b then [] else [{ u with lanes := u.lanes &&& ~~~ls }, { u with lanes := u.lanes &&& ls, why := .poison b }]
    | .poison b => if batchDone w b then [{ u with lanes := u.lanes &&& ~~~ls }] else [u]
    | .lost => [{ u with lanes := u.lanes &&& ~~~ls }]
  else [u]

/-- Records that still say something at this cycle. -/
def undefLive (s : State) (w : Wave) (us : List Undef) : List Undef :=
  us.filter fun u => u.lanes != 0 && u.why.holds s w

/-- Bookkeeping of a fixed-latency write to lanes `ls` of registers `r` to `r` + n − 1, undefined until the
bound `b` has passed (04 R94, 13 R328). -/
def markFixed (s : State) (w : Wave) (r n : Nat) (ls : LaneMask) (b : Nat) : Wave :=
  let us := (List.range n).foldl (fun us k => us.flatMap (Undef.afterWrite w (r + k) ls)) (undefLive s w w.undef)
  { w with undef := us ++ (List.range n).map (fun k => ⟨r + k, ls, .bound (s.cycle + b)⟩),
           boundMax := max w.boundMax (s.cycle + b) }

/-- What naming lanes `ls` of register `r` as a destination of a batch does to one record of undefined lanes: an
operation of another batch, or another of this one, writes the same lanes before its batch completes (04 R94). -/
def Undef.afterBatch (w : Wave) (r : Nat) (ls : LaneMask) (u : Undef) : List Undef :=
  if u.reg = r ∧ u.lanes &&& ls ≠ 0 then
    match u.why with
    | .bound _ => [u]
    | .batch b => [{ u with lanes := u.lanes &&& ~~~ls }, { u with lanes := u.lanes &&& ls, why := .poison b }]
    | .poison b => if batchDone w b then [{ u with lanes := u.lanes &&& ~~~ls }] else [u]
    | .lost => [{ u with lanes := u.lanes &&& ~~~ls }]
  else [u]

/-- Lanes of register `r` that operations in flight name as their destination. -/
def batchLanes (us : List Undef) (r : Nat) : LaneMask :=
  us.foldl (fun m u => match u.why with | .batch _ => if u.reg = r then m ||| u.lanes else m | _ => m) 0

/-- Destinations of an operation of the open batch (04 R94). -/
def markBatch (s : State) (w : Wave) (r n : Nat) (ls : LaneMask) (b : Nat) : Wave :=
  let live := undefLive s w w.undef
  let us := (List.range n).foldl (fun us k => us.flatMap (Undef.afterBatch w (r + k) ls)) live
  let new := (List.range n).flatMap fun k =>
    let two := ls &&& batchLanes live (r + k)
    [(⟨r + k, ls &&& ~~~two, .batch b⟩ : Undef), ⟨r + k, two, .poison b⟩].filter fun u => u.lanes != 0
  { w with undef := us ++ new }

/-- Destinations that stay undefined until they are next written (06 R157). -/
def markLost (w : Wave) (r n : Nat) (ls : LaneMask) : Wave :=
  { w with undef := w.undef ++ (List.range n).map (fun k => ⟨r + k, ls, .lost⟩) }

/-! The crossbar (04 R98). -/

/-- `src_lane(l)`. -/
def permLane (p : Perm) (l : Nat) : Nat :=
  match p with
  | .none => l
  | .bc k => k.toNat
  | .rot n => (l + n.toNat) % 64
  | .xor n => l ^^^ n.toNat
  | .mir => 63 - l
  | .qbc k => 4 * (l / 4) + k.toNat

def permA (p : Option Perms) (l : Nat) : Nat := match p with | some q => permLane q.pa l | none => l
def permB (p : Option Perms) (l : Nat) : Nat := match p with | some q => permLane q.pb l | none => l
def permC (p : Option Perms) (l : Nat) : Nat := match p with | some q => permLane q.pc l | none => l

/-- Source A of a long form: `n` registers. -/
def srcA (s : State) (w : Wave) (x : Long) (n l : Nat) : Dword := readVal s w n x.a.toNat (permA x.perm l)

/-- How an immediate is widened for a 64-bit operand (13 R322): sign-extended, or as the high half of an FP64. -/
inductive ImmKind where | int | fp
deriving DecidableEq, Repr

/-- Source B of a long form: `n` registers, or the immediate. -/
def srcB (s : State) (w : Wave) (x : Long) (k : ImmKind) (n l : Nat) : Dword :=
  match x.tail with
  | .imm v =>
    if n = 2 then (match k with | .int => v.signExtend 64 | .fp => v ++ (0 : Word)) else v.zeroExtend 64
  | .regs b _ _ => readVal s w n b.toNat (permB x.perm l)

/-- Source C of a long form. -/
def srcC (s : State) (w : Wave) (x : Long) (n l : Nat) : Dword :=
  match x.tail with
  | .imm _ => 0
  | .regs _ c _ => readVal s w n c.toNat (permC x.perm l)

/-- The modifier of a long form; an immediate form carries none (13 R322). -/
def longMod (x : Long) : FMod :=
  match x.tail with
  | .imm _ => FMod.zero
  | .regs _ _ m => m

end Sys2Proof.Machine
end

