-- ==== Sys2Proof/Machine/Flags.lean ====
section
/-!
DEFINITION. Flag computations: condition codes of quads (02 R30, R32, R33; 15 R356), with early reads (13 R329),
and the sticky floating-point flags of `FPSTAT` (05 R123 to R127).
-/

namespace Sys2Proof.Machine

/-- The condition code Z, N, C, V of one quad as an instruction reads it. -/
def readCC (s : State) (w : Wave) (q : Nat) : Bool × Bool × Bool × Bool :=
  if w.ccPend.any fun p => p.1.getLsbD q && decide (s.cycle < p.2) then
    (Config.freeBit s.free (30000 + 4 * q), Config.freeBit s.free (30001 + 4 * q),
     Config.freeBit s.free (30002 + 4 * q), Config.freeBit s.free (30003 + 4 * q))
  else (w.cc.z.getLsbD q, w.cc.n.getLsbD q, w.cc.c.getLsbD q, w.cc.v.getLsbD q)

/-- The branch condition of a quad (02 R33). -/
def condHolds (s : State) (w : Wave) (c : Cond) (q : Nat) : Bool :=
  let (z, n, cy, v) := readCC s w q
  match c with
  | .al => true
  | .eq => z
  | .ne => !z
  | .lt => n != v
  | .ge => n == v
  | .le => z || n != v
  | .gt => !z && n == v
  | .hs => cy
  | .lo => !cy
  | .mi => n
  | .pl => !n
  | .vs => v
  | .vc => !v
  | .mz => quadBits (readMask s w) q == 0
  | .mnz => quadBits (readMask s w) q != 0

/-- One bit of the codes of the quads `on`, set where `p` says. -/
def ccBit (old on : QuadMask) (p : Nat → Bool) : QuadMask := (old &&& ~~~on) ||| quadSet p on

/-- Condition codes written in the quads `on`, visible to readers from cycle + `b` on. -/
def writeCC (s : State) (w : Wave) (on : QuadMask) (cc : CC) (b : Nat) : Wave :=
  { w with cc := cc, ccPend := (w.ccPend.filter fun p => decide (s.cycle < p.2)) ++ [(on, s.cycle + b)],
           boundMax := max w.boundMax (s.cycle + b) }

/-- `ANYQ` and `ALLQ` (15 R356): `t` and `a` are the true and the active lanes of the fragment's quads. -/
def foldCC (cc : CC) (on : QuadMask) (all : Bool) (t a : LaneMask) : CC :=
  let c := fun q =>
    if all then quadBits t q == quadBits a q && quadBits a q != 0 else quadBits t q != 0
  { c := ccBit cc.c on c, z := ccBit cc.z on fun q => !c q, n := ccBit cc.n on fun _ => false,
    v := ccBit cc.v on fun q => quadBits a q == 0 }

/-- Z and C written, N and V kept (03 R84). -/
def zcCC (cc : CC) (on : QuadMask) (z c : Nat → Bool) : CC := { cc with z := ccBit cc.z on z, c := ccBit cc.c on c }

/-- C written, the other bits kept (02 R53, 08 R209). -/
def cCC (cc : CC) (on : QuadMask) (c : Nat → Bool) : CC := { cc with c := ccBit cc.c on c }

/-! Floating-point flags: NV bit 4, DZ bit 3, OF bit 2, UF bit 1, NX bit 0 (05 R123). -/

abbrev Flags := Nat
def flagNV : Flags := 16
def flagDZ : Flags := 8
def flagOF : Flags := 4
def flagUF : Flags := 2
def flagNX : Flags := 1

/-- `FPMODE` bits that an `CSRW` can write, and `FPSTAT`'s (05 R123, R124). -/
def fpmodeBits : Word := 0x1F03
def fpstatBits : Word := 0x1F001F

/-- `FPSTAT` with every flag whose bound has passed; each flag whose bound has not shows or not (05 R125). -/
def readFpstat (s : State) (w : Wave) : Word :=
  w.fpPend.foldl (fun v p => v ||| if s.cycle < p.2 then p.1 &&& Config.freeWord s.free (40000 + p.2) else p.1) w.fpstat

/-- Flags whose bound has passed move into `FPSTAT`. -/
def settleFp (s : State) (w : Wave) : Wave :=
  { w with fpstat := (w.fpPend.filter fun p => !decide (s.cycle < p.2)).foldl (fun v p => v ||| p.1) w.fpstat,
           fpPend := w.fpPend.filter fun p => decide (s.cycle < p.2) }

/-- A write of `FPSTAT`: later flags are added to it; each whose bound passes within the write's own bound may or
may not survive (05 R125). -/
def writeFpstat (s : State) (w : Wave) (v : Word) : Wave :=
  let w1 := settleFp s w
  { w1 with fpstat := v &&& fpstatBits,
            fpPend := w1.fpPend.map fun p =>
              if s.cycle + 4 < p.2 then p else (p.1 &&& Config.freeWord s.free (41000 + p.2), p.2) }

/-- Flags raised by an instruction, ORed in when its bound passes (05 R125). -/
def raiseFp (s : State) (w : Wave) (fl : Flags) (b : Nat) : Wave :=
  if fl = 0 then w
  else let w1 := settleFp s w
       { w1 with fpPend := w1.fpPend ++ [(BitVec.ofNat 32 fl, s.cycle + b)] }

end Sys2Proof.Machine
end

