-- ==== Sys2Proof/Machine/Ops.lean ====
section
/-!
DEFINITION. The named operations that instructions and events share: updates of waves, fragments, contexts and
banks; interrupts and the context status block; REGANG groups, barriers, rings and triples; the retirement of
quads and the end of a wave; taking an exception; fault reports; issue and retirement of an instruction.
-/

namespace Sys2Proof.Machine

/-! Updates. -/

def setWave (s : State) (u : Nat) (w : Wave) : State := { s with waves := assocSet s.waves u w }
def modWave (s : State) (u : Nat) (f : Wave → Wave) : State := { s with waves := assocMod s.waves u f }
def modCtx (s : State) (x : Nat) (f : Context → Context) : State := { s with ctxs := assocMod s.ctxs x f }
def modHub (s : State) (f : Hub → Hub) : State := { s with hub := f s.hub }
def modGrid (s : State) (g : Nat) (f : Grid → Grid) : State := { s with grids := assocMod s.grids g f }
def setMem (s : State) (m : List Host.Cell) : State := { s with mem := m }

/-- The fragment whose leading quad is `q`. -/
def Wave.frag? (w : Wave) (q : Nat) : Option Frag := w.frags.find? fun f => leadQuad f.quads == q
/-- The fragment whose leading quad is `q`, changed by `f`. -/
def Wave.modFrag (w : Wave) (q : Nat) (f : Frag → Frag) : Wave :=
  { w with frags := w.frags.map fun g => if leadQuad g.quads = q then f g else g }
def modFrag (s : State) (u q : Nat) (f : Frag → Frag) : State := modWave s u fun w => w.modFrag q f

def Core.empty : Core := ⟨[], [], [], [], []⟩
def getCore (s : State) (p : Nat) : Core := (assocGet s.cores p).getD Core.empty
def modCore (s : State) (p : Nat) (f : Core → Core) : State := { s with cores := assocSet s.cores p (f (getCore s p)) }

/-- Banks are numbered 16 × core + context. -/
def bankKey (w : Wave) : Nat := 16 * w.core + w.ctx
def modBank (s : State) (k : Nat) (f : Bank → Bank) : State := { s with banks := assocMod s.banks k f }

def wgOf (s : State) (g k : Nat) : Option Wg :=
  match assocGet s.grids g with
  | some gr => assocGet gr.wgs k
  | none => none
def modWg (s : State) (g k : Nat) (f : Wg → Wg) : State :=
  modGrid s g fun gr => { gr with wgs := assocMod gr.wgs k f }

/-- Workgroups per cluster of a grid. -/
def gridS (s : State) (g : Nat) : Nat := match assocGet s.grids g with | some gr => max gr.pkt.s 1 | none => 1

/-- The issuing fragment named by the state. -/
def getIssue (s : State) : Option Issue :=
  match s.cur with
  | none => none
  | some (u, q) =>
    match assocGet s.waves u with
    | none => none
    | some w =>
      match w.frag? q, assocGet s.ctxs w.ctx with
      | some f, some c => some ⟨u, w, f, c⟩
      | _, _ => none

/-! Causes (11 R287). -/

def Cause.code (c : Cause) : Nat :=
  match c with
  | .illegalInstruction => 0x01 | .illegalBlock => 0x02 | .absentUnit => 0x03 | .privilege => 0x04
  | .registerBound => 0x05 | .roleSlot => 0x06 | .watchdog => 0x07 | .floatingPoint => 0x08
  | .regangMismatch => 0x09 | .barrierRearrival => 0x0A | .illegalBarrier => 0x0B | .badJoinWord => 0x0C
  | .ticketReused => 0x0D | .ticketNotHeld => 0x0E | .illegalTicket => 0x0F | .pageFault => 0x10
  | .outOfMemory => 0x11 | .protection => 0x12 | .misaligned => 0x13 | .nonCanonical => 0x14
  | .tableFormat => 0x15 | .physicalRange => 0x16 | .scratchpadBound => 0x17 | .spillBound => 0x18
  | .tensorRecord => 0x19 | .remoteFault => 0x1A | .remoteTimeout => 0x1B | .ringOwner => 0x20
  | .ringBusy => 0x21 | .ringConfig => 0x22 | .arrayOwned => 0x23 | .queueUnderflow => 0x24
  | .queueOverflow => 0x25 | .multicastShape => 0x26 | .semaphoreOverflow => 0x27 | .semaphoreRange => 0x28
  | .semaphoreTable => 0x29 | .pipelineClosed => 0x2A | .guideTarget => 0x2B | .deterministicStall => 0x30
  | .communicator => 0x31 | .collectiveMismatch => 0x32 | .collectiveMemberLost => 0x33
  | .journalStream => 0x34 | .journalRecord => 0x35 | .journalFull => 0x36 | .journalLost => 0x37
  | .journalRange => 0x38 | .replayDivergence => 0x39 | .governor => 0x3A | .waitTimeout => 0x40

/-! Interrupts, context status, queues (11 R266, R267, R290; 12 R294). -/

def raiseIrq (s : State) (fn vec : Nat) : State := modHub s fun h => { h with irqs := (fn, vec) :: h.irqs }

/-- Bytes written for a context where its pages allow it; a failed write changes nothing. -/
def devTry (s : State) (x va : Nat) (bs : List Byte) : State :=
  match devWrite s x va bs none with
  | .ok t => t
  | .error _ => s

/-- The context status block written, and the context's interrupt raised (11 R290). DESIGN CHOICE (assumption 53): a write of it that
faults, which 06 R158 does not list, is dropped, and the interrupt is raised all the same. -/
def writeCsb (s : State) (x : Nat) : State :=
  match assocGet s.ctxs x with
  | none => s
  | some c =>
    raiseIrq (devTry s x c.csb.toNat
      (natLe 4 c.cstate ++ natLe 4 c.cerr ++ natLe 4 c.nerr ++ natLe 4 c.cause ++ natLe 4 c.where_.toNat)) x 8

def satNerr (n : Nat) : Nat := min (n + 1) 0xFFFFFFFF

/-- Fields of a queue control block written (11 R266), each where its own write does not fault; the cause of the first
that does. -/
def qcbPut (s : State) (x : Nat) (qcb : VA) (fs : List (Nat × Nat × Nat)) : State × Option Cause :=
  fs.foldl (fun r f => match devWrite r.1 x ((qcb.toNat + f.1) % 2 ^ 80) (natLe f.2.1 f.2.2) none with
    | .ok t => (t, r.2)
    | .error e => (r.1, r.2.or (some e))) (s, none)

def modQueue (s : State) (x q : Nat) (f : Queue → Queue) : State :=
  modCtx s x fun c => { c with queues := assocMod c.queues q f }

/-- One queue stops: state, error code and ESEQ recorded, its interrupt raised (11 R267); with the cause of a record's
write that faults. A packet that waits to start is dropped. -/
def stopOne (s : State) (x q st errc : Nat) (eseq : Word) : State × Option Cause :=
  match assocGet s.ctxs x with
  | none => (s, none)
  | some c =>
    match assocGet c.queues q with
    | none => (s, none)
    | some k =>
      let r := qcbPut s x k.qcb [(11, 1, st), (12, 4, errc), (32, 4, eseq.toNat)]
      (raiseIrq (modQueue r.1 x q fun k => { k with state := st, run := k.run.filter (·.2.isSome) }) x q, r.2)

/-- A dependence is met: signed32(CSEQ of queue DQ − DS) ≥ 0 (11 R270). -/
def depMet (c : Context) (d : Nat × Word) : Bool :=
  match assocGet c.queues d.1 with
  | some k => !(k.cseq - d.2).getLsbD 31
  | none => false

/-- Queues whose packet waits on queue `q` (11 R270). -/
def waitersOn (c : Context) (q : Nat) : List (Nat × Packet) :=
  c.queues.filterMap fun k => match k.2.run with
    | some (p, none) => if p.deps.any fun d => d.1 == q && !depMet c d then some (k.1, p) else none
    | _ => none

/-- Every waiting cluster of a context, and its guards, are withdrawn (04 R97, 11 R281). -/
def withdraw (s : State) (x : Nat) : State :=
  let mine (g : Nat) := match assocGet s.grids g with | some gr => gr.ctx == x | none => false
  { s with grids := s.grids.map fun g => if g.2.ctx = x then (g.1, { g.2 with waits := [] }) else g,
           cores := s.cores.map fun k => (k.1, { k.2 with guards := k.2.guards.filter fun v => !mine v.1 }) }

/-- Every queue of the context stops with ERRC 13 (06 R158). -/
def stopAllQueues (s : State) (x : Nat) : State :=
  match assocGet s.ctxs x with
  | none => s
  | some c => c.queues.foldl (fun t k => (stopOne t x k.1 3 13 k.2.rseq).1) s

/-- CONTEXT_FAULT: an unserviceable device access faults the context (06 R158, 11 R290). -/
def contextFault (s : State) (x : Nat) (cause : Cause) : State :=
  let s1 := stopAllQueues s x
  let s2 := modCtx (withdraw s1 x) x fun c =>
    { c with cstate := 3, cerr := 3, nerr := satNerr c.nerr, cause := cause.code, saving := true }
  writeCsb s2 x

/-- As `stopOne`; a write of the control block that faults faults the context (06 R158, 11 R267). -/
def stopChecked (s : State) (x q st errc : Nat) (eseq : Word) : State :=
  match stopOne s x q st errc eseq with
  | (t, none) => t
  | (t, some e) => contextFault t x e

/-- Queues that wait on queue `q`, which has stopped or is destroyed, stop with ERRC 12 (11 R270). -/
def stopWaiters (s : State) (x q fuel : Nat) : State :=
  match fuel, assocGet s.ctxs x with
  | fuel + 1, some c => (waitersOn c q).foldl (fun t k => stopWaiters (stopChecked t x k.1 3 12 k.2.seq) x k.1 fuel) s
  | _, _ => s

def stopQueue (s : State) (x q st errc : Nat) (eseq : Word) : State := stopWaiters (stopChecked s x q st errc eseq) x q 8

/-- A walk that meets a table at an absent address is an access of the device that firmware does not service: it faults
the context too (06 R142, R158). -/
def walkFault (s : State) (x : Nat) (e : Cause) (va : VA) : State :=
  match assocGet s.ctxs x with
  | some c => if e = .physicalRange ∧ walk s c va.toNat = .outside ∧ c.cstate ≠ 3 then contextFault s x e else s
  | none => s

/-! REGANG groups (02 R40, 10 R234, 13 R316). -/

def Park.regangAt (p : Park) : Option (QuadMask × Nat) :=
  match p with
  | .regang m g => some (m, g)
  | _ => Option.none

/-- The members of a fragment's REGANG group: parked at the same address with the same mask. -/
def Wave.regangGroup (w : Wave) (f : Frag) : List Frag :=
  w.frags.filter fun g => g.pc == f.pc && g.park.regangAt.isSome && g.park.regangAt == f.park.regangAt

def unionQuads (fs : List Frag) : QuadMask := fs.foldl (fun m f => m ||| f.quads) 0

def clockOf (w : Wave) (q : Nat) : Nat := (w.clocks[q]?).getD 0
def maxClock (w : Wave) (qs : QuadMask) : Nat := (quadList qs).foldl (fun m q => max m (clockOf w q)) 0
def setClocks (w : Wave) (qs : QuadMask) (f : Nat → Nat) : Wave :=
  { w with clocks := (List.range 16).map fun q => if qs.getLsbD q then f (clockOf w q) else clockOf w q }

/-- The group of `f` can merge. -/
def Wave.regangReady (w : Wave) (f : Frag) : Bool :=
  match f.park.regangAt with
  | some (m, _) => unionQuads (w.regangGroup f) == (m &&& w.live)
  | none => false

/-- `check_merge`: every group whose named live quads have all arrived becomes one fragment. -/
def mergeRegang (cycle : Nat) (w : Wave) (fuel : Nat) : Wave :=
  match fuel with
  | 0 => w
  | fuel + 1 =>
    match w.frags.find? w.regangReady with
    | none => w
    | some f =>
      let g := w.regangGroup f
      let qs := unionQuads g
      let gap := match f.park.regangAt with | some (_, n) => n | none => 0
      let lo := (g.find? fun x => leadQuad x.quads == leadQuad qs).getD f
      let stamp := g.foldl (fun m x => min m x.stamp) f.stamp
      -- what a merging fragment issued comes before what the merged one issues (02 R41)
      let late (e : Entry) : Entry :=
        if e.after.any fun a => a.2 &&& qs != 0 then { e with after := e.after ++ [(w.nextSeq, qs)] } else e
      let merged : Frag :=
        { lo with quads := qs, pc := f.pc + 4, park := .none, retry := false, only := none, stamp := stamp,
                  readyAt := max (cycle + 1 + gap) w.boundMax, waited := 0, promoted := none, stall := 0 }
      let top := maxClock w qs
      let w1 := setClocks w qs fun _ => top + 1
      mergeRegang cycle
        { w1 with frags := merged :: w.frags.filter (fun x => !(x.quads &&& qs != 0)), entries := w.entries.map late } fuel

/-! Barriers (02 R51 to R54, 10 R240, R242). -/

def Barrier.init : Barrier := ⟨0, [], none, [], []⟩

/-- The participants of barrier scope: waves of the workgroup, or of the cluster. -/
def participants (s : State) (g k : Nat) (cluster : Bool) : List (Nat × Wave) :=
  s.waves.filter fun e => e.2.grid == g && !e.2.spawned &&
    (if cluster then e.2.wg / gridS s g == k / gridS s g else e.2.wg == k)

def getBarrier (s : State) (g k : Nat) (cluster : Bool) (id : Nat) : Barrier :=
  match assocGet s.grids g with
  | none => Barrier.init
  | some gr =>
    if cluster then (assocGet gr.clBars (8 * (k / max gr.pkt.s 1) + id)).getD Barrier.init
    else match assocGet gr.wgs k with
      | some wg => (assocGet wg.bars id).getD Barrier.init
      | none => Barrier.init

def setBarrier (s : State) (g k : Nat) (cluster : Bool) (id : Nat) (b : Barrier) : State :=
  if cluster then
    modGrid s g fun gr => { gr with clBars := assocSet gr.clBars (8 * (k / max gr.pkt.s 1) + id) b }
  else modWg s g k fun wg => { wg with bars := assocSet wg.bars id b }

def arrivedOf (b : Barrier) (u : Nat) : QuadMask := (assocGet b.arrived u).getD 0

/-- A later logical index: workgroup, then wave (02 R48), of waves listed with both. -/
def laterWave (a b : Nat × Nat × Nat) : Bool :=
  decide (b.2.1 < a.2.1) || (a.2.1 == b.2.1 && decide (b.2.2 < a.2.2))

/-- The epilogue wave of a phase in deterministic mode: of the waves that arrived in it, some perhaps gone since, the
one with the highest logical index (10 R242). -/
def Barrier.lastCame (b : Barrier) : Option Nat :=
  (b.came.foldl (fun m p => match m with
    | none => some p
    | some q => if laterWave p q then some p else some q) (none : Option (Nat × Nat × Nat))).map (·.1)

/-- The waiters of a barrier whose phase has ended wake, and rejoin with the clock that ended it (02 R53, 10 R240). -/
def wakeBarrier (s : State) (g k : Nat) (cluster : Bool) (id : Nat) (phase : Word) (clk : Nat) : State :=
  let us := (participants s g k cluster).map (·.1)
  { s with waves := s.waves.map fun e =>
      if us.contains e.1 then
        (e.1, { e.2 with frags := e.2.frags.map fun f =>
          match f.park with
          | .barrier c i t =>
            if c = cluster ∧ i = id ∧ 0 < (phase - t).toInt then { f with park := .none, stamp := s.cycle, wakeClock := clk } else f
          | _ => f })
      else e }

/-- `check_phase` (02 R53): `u` is the wave whose arrival or exit is looked at, `clk` its clock. -/
def checkPhase (s : State) (g k : Nat) (cluster : Bool) (id u clk : Nat) : State :=
  let b := getBarrier s g k cluster id
  let ps := participants s g k cluster
  if ps.all fun p => (arrivedOf b p.1 &&& p.2.live) == p.2.live then
    let det := match assocGet s.grids g with | some gr => gr.det | none => false
    let epi := if det then b.lastCame else some u
    wakeBarrier (setBarrier s g k cluster id ⟨b.phase + 1, [], epi, (b.phase, clk) :: b.done, []⟩) g k cluster id (b.phase + 1) clk
  else s

/-- `check_phase` for every barrier that a wave takes part in, when its quads exit. -/
def checkPhases (s : State) (u : Nat) (w : Wave) (clk : Nat) : State :=
  if w.spawned then s
  else
    let s1 := (List.range 8).foldl (fun t id => checkPhase t w.grid w.wg false id u clk) s
    (List.range 4).foldl (fun t id => checkPhase t w.grid w.wg true id u clk) s1

/-! Rings and triples (08 R195, R210). -/

/-- A ring is numbered 8 × bank + k. -/
def getRing (s : State) (rk : Nat) : Option Ring :=
  match assocGet s.banks (rk / 8) with
  | some b => assocGet b.rings (rk % 8)
  | none => none
def setRing (s : State) (rk : Nat) (r : Ring) : State :=
  modBank s (rk / 8) fun b => { b with rings := assocSet b.rings (rk % 8) r }
def Ring.slot (r : Ring) (i : Nat) : SlotSt := (r.slots[i]?).getD .free
def Ring.setSlot (r : Ring) (i : Nat) (x : SlotSt) : Ring := { r with slots := listMod r.slots i fun _ => x }
def Ring.n (r : Ring) : Nat := r.slots.length
def Ring.next (r : Ring) (i : Nat) : Nat := if i + 1 ≥ r.n then 0 else i + 1

/-- HEAD advances over every free slot at its position, up to TAIL. -/
def Ring.advanceHead (r : Ring) (fuel : Nat) : Ring :=
  match fuel with
  | 0 => r
  | fuel + 1 =>
    if r.slot r.head == .free && (r.head != r.tail || r.slots.any (· != .free)) then
      Ring.advanceHead { r with head := r.next r.head } fuel
    else r

/-- A slot is freed (RING_SLOT_FREE). -/
def Ring.freeSlot (r : Ring) (i : Nat) : Ring := (r.setSlot i .free).advanceHead r.n
/-- The slot at TAIL is reserved. -/
def Ring.reserve (r : Ring) : Ring := { r.setSlot r.tail .reserved with tail := r.next r.tail, far := r.far.filter (· != r.tail) }
/-- The slot at READ is claimed. -/
def Ring.claim (r : Ring) : Ring := { r.setSlot r.read .claimed with read := r.next r.read }
def Ring.full (r : Ring) : Bool := r.slot r.tail != .free
def Ring.empty (r : Ring) : Bool := r.slot r.read != .filled

/-- Slot `i` of a ring is filled. -/
def fillSlot (s : State) (rk i : Nat) : State :=
  match getRing s rk with
  | some r => setRing s rk (r.setSlot i .filled)
  | none => s

/-- A ring is closed when its triple is (08 R197, R210). -/
def Ring.closedIn (r : Ring) (s : State) : Bool :=
  match r.triple with
  | none => false
  | some t => ((wgOf s r.grid r.wg).bind fun g => g.triples[t]?).any (·.closed)

/-- The triple of a launched wave, and its role: 0 loader, 1 computer, 2 storer (02 R56). -/
def roleOf (s : State) (w : Wave) : Option (Nat × Nat) :=
  match assocGet s.grids w.grid with
  | some gr => if !w.spawned && w.widx < 3 * gr.pkt.roles then some (w.widx / 3, w.widx % 3) else none
  | none => none

/-! Shares (06 R144). -/

/-- Bytes of a workgroup's share. -/
def shareGet (s : State) (g k off n : Nat) : List Byte :=
  match wgOf s g k with
  | some w => bytesAt s (2 ^ 62 * (2 + 2 ^ 24 * g + k)) w.share w.undef off n
  | none => List.replicate n 0

/-- A share with bytes written, defined from then on. -/
def sharePut (s : State) (g k off : Nat) (bs : List Byte) : State :=
  modWg s g k fun w => { w with share := memWriteN w.share off bs, undef := rangesDrop w.undef off bs.length }

/-- `n` bytes of a share become undefined. -/
def shareLose (s : State) (g k off n : Nat) : State :=
  modWg s g k fun w => { w with undef := rangesDrop w.undef off n ++ if n = 0 then [] else [(off, n)] }

/-! The slice groups' copies of lines (06 R147, R148). -/

/-- The slice group of a core (01 R11), numbered 8 × die + group. -/
def sliceGroup (p : Nat) : Nat :=
  let q := coreIdx p / 4
  8 * coreDom p + (if domRender (coreDom p) && decide (4 ≤ q) then 4 + (q - 4) / 2 else q)

/-- An acquire of die, package or system scope drops the copies that the core's slice group holds (06 R148). -/
def dropCopies (s : State) (p : Nat) : State :=
  modHub s fun h => { h with lineCopies := h.lineCopies.filter fun c => c.1 / 2 ^ 52 != sliceGroup p }

/-! Words that semaphore operations and join counts update. -/

def wordStore (s : State) (l : Loc) (v : Nat) : State :=
  match l with
  | .phys pa _ => physPut s pa (natLe 4 v)
  | .share g k off => sharePut s g k off (natLe 4 v)

/-- A word updated; the update stands listed for the rest of the cycle (08 R208, 17 R413). -/
def wordPut (s : State) (l : Loc) (v : Nat) : State :=
  { wordStore s l v with updates := (l, v) :: s.updates.filter fun h => h.1 != l }

/-! Counted semaphores (08 R208): the fields of a word. -/

def semGet (s : State) (g k off : Nat) : Nat := leNat (shareGet s g k off 4)
def semCount (v : Nat) : Nat := v % 2 ^ 16
def semCeil (v : Nat) : Nat := v / 2 ^ 16 % 2 ^ 15
def semClosed (v : Nat) : Bool := bitOf v 31

/-- Waiters of a word in the order in which they parked: wave, leading quad and count, each with its place. -/
def semWaiters (s : State) (g k off : Nat) : List (Nat × Nat × Nat × Nat) :=
  sortBy (fun a b => decide (a.1 ≤ b.1)) <| s.waves.flatMap fun e => e.2.frags.filterMap fun f =>
    match f.park with
    | .sem g' k' off' n o => if g' = g ∧ k' = k ∧ off' = off then some (o, e.1, leadQuad f.quads, n) else none
    | _ => none

/-- A wait on a semaphore of a share returns in a wave of core `p`: where an engine of another die has signalled the word since it
was last set, the acquire is of package scope (07 R185). DEDUCED (assumption 57): which of the word's signals a count came from
is not told apart. -/
def semAcquire (s : State) (p g k off : Nat) : State :=
  if (wgOf s g k).any fun w => w.far.contains off then dropCopies s p else s

/-- The core of a wave. -/
def coreOf (s : State) (u : Nat) : Nat := ((assocGet s.waves u).map (·.core)).getD 0

/-- A waiter of a word is tested again: it takes its count, or wakes to the trap or the code that its `SEMW` now comes to
(08 R209). -/
def wakeOne (s : State) (g k off : Nat) (e : Nat × Nat × Nat × Nat) : State :=
  let v := semGet s g k off
  let n := e.2.2.2
  if semCount v ≥ n then
    modFrag (semAcquire (wordPut s (.share g k off) (v - n)) (coreOf s e.2.1) g k off) e.2.1 e.2.2.1 fun f =>
      { f with park := .none, closed := true, stamp := s.cycle }
  else if n > semCeil v ∨ semClosed v then modFrag s e.2.1 e.2.2.1 fun f => { f with park := .none, stamp := s.cycle }
  else s

/-- Waiters of a word that a semaphore operation or closing changed are tested again, in the order in which they parked
(08 R209, R210). -/
def wakeSem (s : State) (g k off : Nat) : State := (semWaiters s g k off).foldl (wakeOne · g k off) s

/-- TRIPLE_CLOSE (08 R210): CLOSED set in every word registered to the triple, whose rings are closed with it
(`Ring.closedIn`), and the words' waiters woken; fragments parked on the rings or the array are tested before each issue. A
triple closes once. -/
def closeTriple (s : State) (w : Wave) : State :=
  match roleOf s w with
  | none => s
  | some (t, _) =>
    match (wgOf s w.grid w.wg).bind fun wg => wg.triples[t]? with
    | none => s
    | some tr =>
      if tr.closed then s
      else
        let s1 := modWg s w.grid w.wg fun wg => { wg with triples := listMod wg.triples t fun tr => { tr with closed := true } }
        let s2 := tr.words.foldl (fun s o =>
          sharePut s w.grid w.wg (o + 3) ((shareGet s w.grid w.wg (o + 3) 1).map fun b => b ||| 0x80)) s1
        tr.words.foldl (fun s o => wakeSem s w.grid w.wg o) s2

/-! The retirement of quads and the end of a wave (02 R43; 03 R83; 11 R289). -/

/-- Lanes of quads that hold a thread with a join word or a query, to be counted after their batches. -/
def leavingLanes (w : Wave) (qs : QuadMask) (own : Bool) : List (Nat × Nat × Bool × Option Ask) :=
  ((laneList (lanesOf (qs &&& w.live))).filter fun l =>
    match assocGet w.threads l with
    | some t => t.join.isSome || t.query.isSome
    | none => false).map fun l => (l, w.nextSeq, own, none)

def Entry.stuck (e : Entry) : Bool := e.lanes.any fun l => match l.2 with | .faulted _ _ _ => true | .held => true | _ => false
def Entry.flying (e : Entry) : Bool := e.lanes.any fun l => match l.2 with | .inflight _ _ => true | _ => false

/-- Quads of a wave retire, by `EXIT` or killed: live bits clear, REGANG groups, barriers and triples follow. -/
def retireQuads (s : State) (u : Nat) (qs : QuadMask) (own : Bool) : State :=
  match assocGet s.waves u with
  | none => s
  | some w =>
    let w1 : Wave :=
      { w with live := w.live &&& ~~~qs, frags := w.frags.filter fun f => f.quads &&& ~~~qs != 0,
               leaving := w.leaving ++ leavingLanes w qs own }
    let w2 := mergeRegang s.cycle w1 16
    let s1 := checkPhases (setWave s u w2) u w (maxClock w qs)
    if w2.live == 0 then closeTriple s1 w else s1

/-- A claimed entry leaves its queue (08 R204). -/
def dropClaimed (s : State) (w : Wave) (y q id : Nat) : State :=
  modBank s (bankKey w) fun b => { b with arrays := assocMod b.arrays y fun m =>
    { m with queues := assocMod m.queues q fun es => es.filter fun e => e.id != id || e.st != .claimed } }

/-- A slot is filled by a discarded copy: what the copy has not written of it is undefined (08 R200). -/
def fillUnwritten (s : State) (rk i : Nat) (wrote : List (Nat × Nat)) : State :=
  match getRing s rk with
  | none => s
  | some r =>
    (wrote.foldl (fun rs x => rangesDrop rs x.1 x.2) [(r.base + i * r.bytes, r.bytes)]).foldl
      (fun t x => shareLose t r.grid r.wg x.1 x.2) (setRing s rk (r.setSlot i .filled))

/-- What a discarded operation leaves: a reserved ring slot is filled (08 R200), a claimed queue entry goes (08
R204). -/
def discardOp (s : State) (w : Wave) (e : Entry) : State :=
  match e.instr, e.slot with
  | .copyR _ _ _, some (rk, i, _) => fillUnwritten s rk i e.wrote
  | .stq _ _ _ _, some (y, q, id) => dropClaimed s w y q id
  | .mcast _ _ _ _ _, some (y, q, id) => dropClaimed s w y q id
  | _, _ => s

/-- Faulted and held lanes of the fault list take no effect (11 R289, 06 R157). -/
def discardFaults (s : State) (u : Nat) : State :=
  match assocGet s.waves u with
  | none => s
  | some w =>
    let gone := w.entries.filter fun e => e.lanes.any fun l => match l.2 with | .faulted _ _ _ => true | .held => true | _ => false
    let keep := w.entries.map fun e =>
      { e with lanes := e.lanes.map fun l => match l.2 with | .faulted _ _ _ => (l.1, .done) | .held => (l.1, .done) | _ => l }
    let s1 := setWave s u { w with entries := keep.filter fun e => e.lanes.any fun l => l.2 != .done }
    gone.foldl (fun t e => discardOp t w e) s1

/-- The quads of a wave that has ended retire as killed once its batches in flight have completed (11 R289). -/
def killQuads (s : State) (u : Nat) : State :=
  match assocGet s.waves u with
  | none => s
  | some w => if w.killed && w.live != 0 && !w.entries.any Entry.flying then retireQuads s u w.live false else s

/-- WAVE_END_WITHOUT_RESUMPTION (11 R289, R290): `cerr` is the error the context records, if any. The reserve granules of a
window stay the wave's until its batches have completed and its quads have retired. DEDUCED
(assumption 55): CAUSE takes the cause code of `TCAUSE`, bits 7:0, without REP. -/
def endWave (s : State) (u : Nat) (cerr : Option Nat) : State :=
  match assocGet s.waves u with
  | none => s
  | some w =>
    let s1 := w.frags.foldl (fun t f => match f.park with | .mcast y q e => dropClaimed t w y q e.id | _ => t) (discardFaults s u)
    let s2 := modWave s1 u fun w => { w with window := none, trapWait := none, report := none, killed := true, frags := [],
                                             held := w.held + (w.window.map (·.reserve)).getD 0 }
    let s3 := modCore s2 w.core fun k => { k with trapQ := k.trapQ.filter (· != u) }
    let s4 := modWg s3 w.grid w.wg fun g => if w.spawned then g else { g with anyKilled := true }
    let s5 := killQuads s4 u
    match cerr with
    | none => s5
    | some e =>
      writeCsb (modCtx s5 w.ctx fun c =>
        { c with cerr := e, nerr := satNerr c.nerr, cause := w.tcause.toNat % 256,
                 where_ := BitVec.ofNat 32 (coreDom w.core + 32 * coreIdx w.core + 1024 * w.slot) }) w.ctx

/-! Taking an exception (04 R104 to R110; 11 R285 to R289). -/

/-- The trap frame: the first bytes of the wave's spill frame (04 R106, 11 R265). -/
def frameAddr (c : Context) (w : Wave) : VA := c.spa + BitVec.ofNat 80 ((128 * w.core + w.frame) * c.spf * 4096)

def holds30 (w : Wave) : Bool := decide (w.gran ≥ 31)
def holds31 (w : Wave) : Bool := decide (w.gran ≥ 32)
def reserveNeed (w : Wave) : Nat := (if holds30 w then 0 else 1) + (if holds31 w then 0 else 1)

/-- Reserve granules that a wave holds: those of its open window, or of one in which it ended (11 R289). -/
def Wave.reserve (w : Wave) : Nat := w.held + (w.window.map (·.reserve)).getD 0

/-- Reserve granules of a core in use (04 R109); the reserve has eight. -/
def reserveUsed (s : State) (p : Nat) : Nat :=
  (s.waves.filter fun e => e.2.core == p).foldl (fun n e =>
    match assocGet s.ctxs e.2.ctx with
    | some c => if c.resident then n + e.2.reserve else n
    | none => n) 0

/-- Register `v(240 + i)`, all lanes, as 256 frame bytes. -/
def frameRow (s : State) (w : Wave) (i : Nat) : List Byte :=
  (List.range 64).flatMap fun l => natLe 4 (readLane s w (240 + i) l).toNat

/-- The frame stores of trap entry: granule 30 at offset 0, granule 31 at offset 2048. -/
def storeFrame (s : State) (w : Wave) (pa : Nat) : State :=
  let put (t : State) (i : Nat) := physPut t (pa + 256 * i) (frameRow s w i)
  let s1 := if holds30 w then (List.range 8).foldl put s else s
  if holds31 w then (List.range 8).foldl (fun t i => put t (8 + i)) s1 else s1

/-- The granules that the wave holds stored to its frame; a store that faults is a double trap (04 R105 step 3, R110). -/
def frameStore (s : State) (u : Nat) (w : Wave) : State :=
  if holds30 w || holds31 w then
    match xlateService s w.ctx (match assocGet s.ctxs w.ctx with | some c => (frameAddr c w).toNat | none => 0) .write
        (some (coreDom w.core)) with
    | .ok (s1, pa) => modWave (storeFrame s1 w pa) u fun w => { w with window := w.window.map fun v => { v with stored := true } }
    | .error _ => endWave s u (some 2)
  else s

/-- The frame of an open window stored, once every bound of the wave's issued instructions has passed (04 R105 step 2). -/
def storeDue (s : State) (u : Nat) : State :=
  match assocGet s.waves u with
  | none => s
  | some w => if (w.window.any fun v => !v.stored) && decide (w.boundMax ≤ s.cycle) then frameStore s u w else s

/-- The window opens, and the handler starts over the trapping fragment's quads once the frame is stored (04 R105 steps 3 to 6,
11 R289). DESIGN CHOICE (assumption 52): the handler's address is `TRAPBASE` as last written, within a write's bound too. -/
def openWindow (s : State) (u q : Nat) (waited : Bool) (r : TrapRec) : State :=
  match assocGet s.waves u with
  | none => s
  | some w =>
    match w.frag? q, assocGet s.ctxs w.ctx with
    | some f, some c =>
      let win : Window :=
        { quads := f.quads, mask := w.mask, cc := w.cc, tpc := r.tpc, blk := f.blk, fin := f.fin, left := f.left,
          page0 := f.page0, page1 := f.page1, header := r.header, g30 := holds30 w, g31 := holds31 w,
          waited := waited, reserve := reserveNeed w, retry := f.retry, closed := f.closed,
          stored := !(holds30 w || holds31 w), was := { f with trap := some r, park := .none }, opened := s.cycle }
      let undef := (if holds30 w then [] else (List.range 8).map fun i => (⟨240 + i, -1, .lost⟩ : Undef)) ++
        (if holds31 w then [] else (List.range 8).map fun i => (⟨248 + i, -1, .lost⟩ : Undef))
      let w1 : Wave := { w with window := some win, trapWait := none, watchdog := 0, csrOwner := [], undef := w.undef ++ undef }
      let w2 := w1.modFrag q fun f =>
        { f with pc := c.trapbase, header := true, park := .none, retry := false, closed := false, only := none,
                 trap := none, readyAt := max (s.cycle + 1) w.boundMax, waited := 0, promoted := none }
      storeDue (setWave s u w2) u
    | _, _ => s

/-- The trap registers at entry (11 R288). -/
def trapRegs (w : Wave) (r : TrapRec) : Wave :=
  { w with tlm := r.tlm, tpc := r.tpc, tval := r.tval,
           tcause := BitVec.ofNat 32 (r.cause.code + if r.rep then 256 else 0) }

/-- The wave meets a trap in this cycle: its registers are those of the entry. -/
def trapMeets (cycle : Nat) (w : Wave) (r : TrapRec) : Wave := { trapRegs w r with trapAt := cycle }

/-- Trap entries of a core that wait for the reserve, oldest first: those of waves on the core (11 R282). -/
def trapLine (s : State) (p : Nat) : List Nat :=
  (getCore s p).trapQ.filter fun u => match assocGet s.waves u with
    | some w => match assocGet s.ctxs w.ctx with | some c => c.resident | none => false
    | none => false

/-- The fragment traps in this cycle: its `WAITW` has timed out, or its turn has stalled to the limit. -/
def Frag.due (c : Context) (f : Frag) : Bool :=
  match f.park with
  | .waitw _ _ _ (some 0) woken => !woken
  | .turn => c.wdlim != 0 && decide (c.wdlim.toNat * 4096 ≤ f.stall)
  | _ => false

/-- A fragment with a lower leading quad than `q` traps in the same cycle: it enters first (04 R110). -/
def lowerDue (c : Context) (w : Wave) (q : Nat) : Bool :=
  w.frags.any fun f => decide (leadQuad f.quads < q) && f.trap.isNone && f.due c

/-- The record of a trap that waits. An entry that waits for the reserve is that of the lowest leading quad. -/
def holdTrap (s : State) (u q : Nat) (r : TrapRec) : State :=
  modWave s u fun w =>
    { w.modFrag q fun f => { f with trap := some r, park := .none, waited := 0, promoted := none } with
      trapAt := s.cycle, trapWait := w.trapWait.map fun p => min p q }

/-- A window opened in this cycle by a fragment with a higher leading quad than `q` closes again: the fragment stands as before
its entry, with its record (04 R110). -/
def displaced (w : Wave) (v : Window) : Wave :=
  { w with window := none, undef := w.undef.filter (fun x => decide (x.reg < 8 * w.gran)),
           frags := w.frags.map fun f => if f.quads = v.quads then v.was else f }

/-- TRAP ENTRY of the fragment of wave `u` whose leading quad is `q`. Inside a handler it is a double trap; while
another fragment holds the window, or an entry or a report of the wave waits, or a lower leading quad traps in the same
cycle, the record waits; a lower leading quad takes the window that was opened in the same cycle; without a handler the wave ends; without enough trap reserve the entry waits its turn. -/
def takeTrap (s : State) (u q : Nat) (r : TrapRec) : State :=
  match assocGet s.waves u with
  | none => s
  | some w =>
    match w.window with
    | some v =>
      if v.quads.getLsbD q then endWave s u (some 2)
      else if v.opened = s.cycle ∧ q < leadQuad v.quads then
        openWindow (modWave s u fun w => trapMeets s.cycle (displaced w v) r) u q v.waited r
      else holdTrap s u q r
    | none =>
      match assocGet s.ctxs w.ctx with
      | none => s
      | some c =>
        if w.trapWait.isSome || w.report.isSome || lowerDue c w q then holdTrap s u q r
        else
          let s1 := modWave s u fun w => trapMeets s.cycle w r
          if c.trapbase = 0 then endWave s1 u (some 1)
          else
            let q0 := trapLine s w.core
            if reserveNeed w = 0 || (q0.isEmpty && decide (reserveUsed s w.core + reserveNeed w ≤ 8)) then
              openWindow s1 u q false r
            else
              modCore (holdTrap (modWave s1 u fun w => { w with trapWait := some q }) u q r)
                w.core fun k => { k with trapQ := k.trapQ ++ [u] }

/-- A precise trap at an instruction, which executes from its start after it. -/
def freshTrap (s : State) (u q : Nat) (r : TrapRec) : State :=
  takeTrap (modFrag s u q fun f => { f with retry := false, closed := false }) u q r

/-! Fault reports (06 R154 to R156). -/

/-- The lowest faulted lane of an entry with its cause, address and page. -/
def Entry.lowest (e : Entry) : Option (Nat × Cause × VA × VA) :=
  let fs := e.lanes.filterMap fun l => match l.2 with | .faulted c a p => some (l.1, c, a, p) | _ => none
  fs.foldl (fun m x => match m with
    | none => some x
    | some y => if x.1 < y.1 then some x else some y) none

def Entry.faultedLanes (e : Entry) : LaneMask :=
  lanesMask (e.lanes.filterMap fun l => match l.2 with | .faulted _ _ _ => some l.1 | _ => none)
def faultListEmpty (w : Wave) : Bool := w.entries.all fun e => !e.stuck

/-- Firmware may let the lane complete yet: it is held, or its page fault is on a page that firmware marks (06 R155, R169). -/
def LaneSt.mends (c : Context) (l : LaneSt) : Bool :=
  match l with
  | .faulted .pageFault _ page => serviceable c page.toNat
  | .held => true
  | _ => false

/-- Firmware services the entry: the cause of its lowest faulted lane is a page fault on a page it marks (06 R155). -/
def Entry.serviced (c : Context) (e : Entry) : Bool :=
  match e.lowest with
  | some (_, .pageFault, _, page) => serviceable c page.toNat
  | some _ => false
  | none => true

/-- Steps 4 of a report: the reporting fragment traps with the lanes of every unserviced entry. -/
def reportTrap (s : State) (u q : Nat) : State :=
  match assocGet s.waves u with
  | none => s
  | some w =>
    match w.frag? q, assocGet s.ctxs w.ctx with
    | some f, some c =>
      let bad := w.entries.filter fun e => e.stuck && !e.serviced c
      match bad.findSome? Entry.lowest with
      | none => s
      | some (_, cause, addr, _) =>
        takeTrap s u q ⟨cause, bad.foldl (fun m e => m ||| e.faultedLanes) 0, addr, true, f.pc, f.header⟩
    | _, _ => s

/-- FAULT_REPORT by a fragment (06 R156): firmware services what it services, or the fragment traps at once. -/
def faultReport (s : State) (u q : Nat) : State :=
  match assocGet s.waves u with
  | none => s
  | some w =>
    match assocGet s.ctxs w.ctx with
    | none => s
    | some c =>
      let again (f : Frag) : Frag := { f with retry := true, park := .none, waited := 0, promoted := none }
      if w.entries.any fun e => e.lowest.isSome && e.serviced c then
        modWave s u fun w => { w.modFrag q again with report := some q }
      else reportTrap (modFrag s u q again) u q

/-! Issue and retirement of an instruction (04 R94, R95; 10 R234; 11 R286; 13 R328). -/

/-- What the body of a meaning comes to. -/
inductive Eff where
  /-- The effect is performed and the instruction retires to the next parcel. -/
  | done (s : State)
  /-- As `done`, with the fragments and their pcs already as the instruction leaves them. -/
  | moved (s : State)
  /-- Precise trap at the instruction. -/
  | trap (c : Cause) (tlm : LaneMask) (tval : VA) (s : State)
  /-- The fragment parks at the instruction. -/
  | park (p : Park) (s : State)
  /-- The fragment makes a fault report and the instruction executes again after it. -/
  | report (s : State)
deriving Repr

/-- Idle cycles after the instruction: GAP, and n of `NOP` (13 R320, 16 R397). -/
def gapOf (i : Instr) : Nat :=
  match i with
  | .nop n => n.toNat
  | i =>
    match encode i with
    | some (p :: _) =>
      if p.extractLsb' 14 2 = (1 : BitVec 2) then (p.extractLsb' 3 2).toNat
      else if p.extractLsb' 14 2 = (0 : BitVec 2) then 0
      else (p.extractLsb' 3 1).toNat
    | _ => 0

/-- The fragment state after an instruction retires: pc past it, gap counted, park and restriction over. A fragment that
issues in the cycle in which its wait ended takes that cycle as its stamp (11 R275). -/
def Frag.retired (f : Frag) (i : Instr) (cycle : Nat) : Frag :=
  { f with pc := f.pc + BitVec.ofNat 80 (2 * i.parcels), park := .none, only := none, closed := false,
           stamp := if f.retry && f.waited == 0 then cycle else f.stamp, retry := false, stall := 0,
           readyAt := max f.readyAt (cycle + 1 + gapOf i), waited := 0, promoted := none, wakeClock := 0 }

/-- Retirement: the clock of each quad of the fragment advances by 1 (10 R234). -/
def retire (i : Instr) (u q : Nat) (s : State) : State :=
  modWave s u fun w =>
    match w.frag? q with
    | none => w
    | some f => (setClocks w f.quads (· + 1)).modFrag q fun f => f.retired i s.cycle

/-- An instruction class that only one role of a bound triple owns (02 R57). -/
def roleClass (i : Instr) : Option Nat :=
  match i with
  | .copy _ _ _ => some 0 | .copyS _ _ _ => some 0 | .copyG _ _ _ => some 0 | .copyR _ _ _ => some 0
  | .copyGt _ _ _ _ _ => some 0 | .ldA32 _ _ _ _ => some 0 | .ldB64 _ _ => some 0
  | .mma _ _ _ _ _ _ _ => some 1 | .mdrainA32 _ _ _ _ _ _ => some 1 | .mdrainB64 _ _ _ _ _ _ _ => some 1
  | .stA32 _ _ _ _ => some 2 | .stB64 _ _ => some 2 | .atom _ _ => some 2 | .rst _ _ => some 2
  | .stq _ _ _ _ => some 2 | .mcast _ _ _ _ _ => some 2
  | _ => none

/-- ARR is set (08 R193). -/
def usesArr1 (i : Instr) : Bool :=
  match i with
  | .mma _ _ a _ _ _ _ => a | .mdrainA32 _ _ a _ _ _ => a | .mdrainB64 _ _ a _ _ _ _ => a
  | .mpop _ a _ _ _ _ => a | .stq _ a _ _ => a | .mcast _ a _ _ _ => a
  | _ => false

/-- A ray or raster instruction (09). -/
def isRay (i : Instr) : Bool :=
  match i with
  | .rayq _ _ _ _ => true | .rayqL _ _ _ _ _ => true | .rayp _ _ _ _ _ => true | .raya _ _ _ _ => true
  | .rayh _ _ _ _ _ _ => true | .tricov _ _ _ _ _ => true
  | _ => false

/-- The supervisor view of a CSR is named (04 R101). -/
def namesSup (i : Instr) : Bool :=
  match i with
  | .csrr _ sup _ _ => sup | .csrw _ sup _ _ => sup
  | _ => false

/-- The number of words of each assigned CSR, by lowest user number (04 R102). -/
def csrTable : List (Nat × Nat) :=
  [(0x000, 6), (0x010, 2), (0x012, 3), (0x015, 1), (0x016, 3), (0x019, 3), (0x01C, 1), (0x01D, 3), (0x020, 1),
   (0x021, 1), (0x030, 2), (0x032, 1), (0x033, 1), (0x034, 1), (0x035, 1), (0x036, 1), (0x040, 4), (0x050, 1)]
def csrAssigned (n : Nat) : Bool := csrTable.any fun r => decide (r.1 ≤ n) && decide (n < r.1 + r.2)

/-- A CSR instruction names a number that is not assigned (14 R341). -/
def csrUnassigned (i : Instr) : Bool :=
  match i with
  | .csrr _ _ n _ => !csrAssigned n.toNat
  | .csrw _ _ n _ => !csrAssigned n.toNat
  | _ => false

/-- The wave lacks a register the instruction names; those of an open window are its handler's (04 R95, R104). -/
def boundExceeded (w : Wave) (i : Instr) : Bool :=
  i.ranges.any fun r => (List.range r.2).any fun k =>
    decide (8 * w.gran ≤ r.1.toNat + k) && !(w.window.isSome && decide (240 ≤ r.1.toNat + k))

/-- The causes that stand before the instruction's own traps (11 R286). -/
def preCause (i : Instr) (s : State) (k : Issue) : Option Cause :=
  if csrUnassigned i then some .illegalInstruction
  else if isRay i && domTensor (coreDom k.w.core) then some .absentUnit
  else if usesArr1 i && domRender (coreDom k.w.core) then some .absentUnit
  else if namesSup i && !k.c.sup then some .privilege
  else if boundExceeded k.w i then some .registerBound
  else
    match roleClass i, roleOf s k.w with
    | some r, some (_, mine) => if r = mine then none else some .roleSlot
    | _, _ => none

/-- The next number of free values: every step draws afresh (assumption 1). -/
def bumpFree (s : State) : State := { s with free := s.free + 1 }

/-- What a body comes to, as the next state. -/
def Eff.finish (e : Eff) (i : Instr) (k : Issue) : State :=
  let q := k.lead
  bumpFree <| match e with
  | .done s => retire i k.uid q s
  | .moved s => s
  | .trap c tlm tval s => freshTrap s k.uid q ⟨c, tlm, tval, false, k.f.pc, false⟩
  | .park p s => modFrag s k.uid q fun f => { f with park := p, retry := true, waited := 0, promoted := none }
  | .report s => faultReport s k.uid q

/-- An encoded instruction issues: the causes before its own, then its body. -/
def issueWith (i : Instr) (s : State) (body : Issue → State → Eff) : Host.Outcome State Fault Refusal :=
  match getIssue s with
  | none => .fault .noIssuer
  | some k =>
    match preCause i s k with
    | some c => .next ((Eff.trap c (k.act s) 0 s).finish i k)
    | none => .next ((body k s).finish i k)

/-- An event that may occur: where its conditions do not hold it does not, and the state stays. -/
def evStep (s : State) (o : Option State) : Host.Outcome State Fault Refusal :=
  match o with
  | some t => .next (bumpFree t)
  | none => .next s

/-- A progress point resets the watchdog; a re-executed parked instruction is no new entry (02 R59, R62). -/
def progress (s : State) (k : Issue) : State :=
  if k.f.retry then s else modWave s k.uid fun w => { w with watchdog := 0 }

/-! Per-lane results. -/

/-- A per-lane instruction of fixed latency: each active lane receives `f l` in `n` registers from `d`. -/
def writeLanes (s : State) (k : Issue) (d : Reg) (n bound : Nat) (f : Nat → Dword) : State :=
  let ls := k.actList s
  modWave s k.uid fun w =>
    ls.foldl (fun w l => writeVal w n d.toNat l (f l)) (markFixed s w d.toNat n (lanesMask ls) bound)

/-- As `writeLanes`, with the words of each register, lowest register first. -/
def writeLanesL (s : State) (k : Issue) (d : Reg) (n bound : Nat) (f : Nat → List Word) : State :=
  let ls := k.actList s
  modWave s k.uid fun w =>
    ls.foldl (fun w l => ((f l).zipIdx).foldl (fun w v => writeLane w (d.toNat + v.2) l v.1) w)
      (markFixed s w d.toNat n (lanesMask ls) bound)

/-- Latency bounds (13 R327). -/
def bInt : Nat := 4
def bFloat : Nat := 6
def bShuf : Nat := 6
def bDouble : Nat := 10
def bLong : Nat := 16

end Sys2Proof.Machine
end

