-- ==== Sys2Proof/Machine/Access.lean ====
section
/-!
DEFINITION. Global accesses of a lane: address, translation and alignment (06 R138 to R142, R155), releases
(07 R177), and the turns of deterministic mode (10 R237 to R241).
-/

namespace Sys2Proof.Machine

/-! Addresses. -/

/-- A global access of `n` bytes resolved: physical address and leaf, or the cause (16 R392). -/
def globalAddr (s : State) (c : Context) (bad : Bool) (va : VA) (n : Nat) (k : Acc) : Except Cause (Nat × Nat) :=
  if bad then .error .nonCanonical
  else match xlate s c va.toNat k with
    | .error e => .error e
    | .ok r => if va.toNat % n ≠ 0 then .error .misaligned else .ok r

/-- Firmware services this failure (06 R155). -/
def firmwareServices (c : Context) (e : Cause) (va : VA) : Bool := e == .pageFault && serviceable c va.toNat

/-- A and D of a leaf set for a performed access, where the leaf still stands (06 R141). -/
def touch (s : State) (leaf : Nat) (wr : Bool) : State :=
  if memNat s.mem leaf 1 % 4 = 3 then leafTouch s leaf wr else s

/-- Memory with the leaf of a location marked accessed. -/
def Loc.touched (l : Loc) (wr : Bool) (s : State) : State :=
  match l with
  | .phys _ leaf => touch s leaf wr
  | .share _ _ _ => s

def Loc.peer (l : Loc) : Bool := match l with | .phys pa _ => paRegion pa == 2 | .share _ _ _ => false

/-- Bytes of a location. -/
def readLoc (s : State) (l : Loc) (n : Nat) : List Byte :=
  match l with
  | .phys pa _ => physGet s pa n
  | .share g k off => shareGet s g k off n

def writeLoc (s : State) (l : Loc) (bs : List Byte) : State :=
  match l with
  | .phys pa _ => physPut s pa bs
  | .share g k off => sharePut s g k off bs

/-- `n` bytes of a location become undefined until they are written (00 R2). -/
def Loc.lose (l : Loc) (n : Nat) (s : State) : State :=
  match l with
  | .phys pa _ => physLose s pa n
  | .share g k off => shareLose s g k off n

/-! Copies of lines in the slice groups (06 R147, R148; 07 R188; 16 R393). Of a peer's line none is listed: what a read of it
gives comes with its answer (assumption 14). -/

/-- Copies are listed by 2^52 × group + line address. -/
def copyKey (p pa : Nat) : Nat := 2 ^ 52 * sliceGroup p + pa / 128 * 128

/-- A slice group keeps copies of lines of package and host memory. -/
def cacheable (pa : Nat) : Bool := decide (paRegion pa < 2)

def copyPut (h : Hub) (k : Nat) (bs : Option (List Byte)) : Hub :=
  { h with lineCopies := match bs with | some b => assocSet h.lineCopies k b | none => assocDel h.lineCopies k }

/-- The slice group of core `p` keeps no copy of the line of `pa`. -/
def dropLine (s : State) (p pa : Nat) : State := modHub s fun h => copyPut h (copyKey p pa) none

/-- Bytes within one line read by core `p`: it may get the copy its slice group holds; a read that goes past it leaves a
copy. -/
def lineRead (s : State) (p pa n : Nat) : State × List Byte :=
  let fresh : State × List Byte :=
    (modHub s fun h => copyPut h (copyKey p pa) (some (physGet s (pa / 128 * 128) 128)), physGet s pa n)
  match assocGet s.hub.lineCopies (copyKey p pa) with
  | some b => if Config.freeBit s.free (2 ^ 91 + pa) then (s, sliceBytes b (pa % 128) n) else fresh
  | none => fresh

/-- Bytes within one line written to the copy of it that the slice group of core `p` holds. -/
def lineWrite (s : State) (p pa : Nat) (bs : List Byte) : State :=
  match assocGet s.hub.lineCopies (copyKey p pa) with
  | some b => modHub s fun h => copyPut h (copyKey p pa) (some (b.take (pa % 128) ++ bs ++ b.drop (pa % 128 + bs.length)))
  | none => s

/-- The pieces of `n` bytes from `pa` in each line, sixteen bytes at most lying in two. -/
def lineParts (pa n : Nat) : List (Nat × Nat) :=
  let a := min n (128 - pa % 128)
  if a = n then [(pa, n)] else [(pa, a), (pa + a, n - a)]

/-- A plain read of a location through the slice group of core `p`. -/
def coreRead (s : State) (p : Nat) (l : Loc) (n : Nat) : State × List Byte :=
  match l with
  | .phys pa _ =>
    if cacheable pa then
      (lineParts pa n).foldl (fun r v => let x := lineRead r.1 p v.1 v.2; (x.1, r.2 ++ x.2)) (s, [])
    else (s, readLoc s l n)
  | .share _ _ _ => (s, readLoc s l n)

/-- A core's write of a location, which goes through the copies its slice group holds. -/
def coreWrite (s : State) (p : Nat) (l : Loc) (bs : List Byte) : State :=
  let s1 := writeLoc s l bs
  match l with
  | .phys pa _ =>
    if cacheable pa then
      (lineParts pa bs.length).foldl (fun t v => lineWrite t p v.1 (sliceBytes bs (v.1 - pa) v.2)) s1
    else s1
  | .share _ _ _ => s1

/-- An access of core `p` that is performed past its slice group, an atomic's or a join word's, leaves no older copy there. -/
def Loc.refresh (l : Loc) (p : Nat) (s : State) : State :=
  match l with
  | .phys pa _ => if cacheable pa then dropLine s p pa else s
  | .share _ _ _ => s

/-- A workgroup's share is SCR rounded up to 4 KiB (06 R144). -/
def shareSize (s : State) (g : Nat) : Nat :=
  match assocGet s.grids g with | some gr => alignUp gr.pkt.scr 4096 | none => 0

/-! Entries of a wave's batches, and releases. -/

def LaneSt.flying (l : LaneSt) : Bool := match l with | .inflight _ _ => true | _ => false
def LaneSt.stuck (l : LaneSt) : Bool := match l with | .faulted _ _ _ => true | .held => true | _ => false

/-- A lane's fault of a walk that met an absent table is the context's too (06 R158). -/
def LaneSt.walked (l : LaneSt) (s : State) (x : Nat) : State :=
  match l with
  | .faulted .physicalRange _ page => walkFault s x .physicalRange page
  | _ => s

/-- `LD`, `ST`, `ATOM` and `RST`: what a release covers (07 R177). -/
def isMem (i : Instr) : Bool :=
  match i with
  | .ldA32 _ _ _ _ => true | .ldB64 _ _ => true | .stA32 _ _ _ _ => true | .stB64 _ _ => true
  | .atom _ _ => true | .rst _ _ => true
  | _ => false
/-- The ordering field of an access (07 R172). -/
def instrOrd (i : Instr) : MOrd :=
  match i with
  | .ldB64 _ x => x.m.ord | .stB64 _ x => x.m.ord | .atom _ x => x.m.ord | .rst _ x => x.m.ord
  | _ => .plain
def isRelease (i : Instr) : Bool := match instrOrd i with | .rel => true | .ar => true | _ => false
def isAcquire (i : Instr) : Bool := match instrOrd i with | .acq => true | .ar => true | _ => false

/-- Two accesses share a byte. An atomic is taken as eight bytes wide. -/
def Op.overlaps (a b : Op) : Bool :=
  match a.span, b.span with
  | some (.phys p _, n), some (.phys q _, m) => decide (p < q + m) && decide (q < p + n)
  | some (.share g k p, n), some (.share h j q, m) => g == h && k == j && decide (p < q + m) && decide (q < p + n)
  | _, _ => false

/-- Where the join word of a `SPAWN` lies, as the access of four bytes that its update is (03 R65). -/
def Op.update (o : Op) (s : State) (c : Context) : Op :=
  match o with
  | .spawn _ _ _ (some (false, va)) =>
    match xlate s c va.toNat .write with
    | .ok (pa, leaf) => .load (.phys pa leaf) 4 0
    | .error _ => o
  | _ => o

/-- Operations of one lane that share a byte; a `SPAWN`'s is its join word's update. -/
def Op.meets (a : Op) (s : State) (c : Context) (b : Op) : Bool := (a.update s c).overlaps (b.update s c)

def isSpawn (i : Instr) : Bool := match i with | .spawn _ _ _ _ _ _ _ _ => true | _ => false

/-- Some lane of `qs` of a memory instruction before `seq` is in a state that `p` names. -/
def coveredAny (w : Wave) (qs : QuadMask) (seq : Nat) (p : LaneSt → Bool) : Bool :=
  w.entries.any fun e => decide (e.seq < seq) && isMem e.instr &&
    e.lanes.any fun l => (lanesOf qs).getLsbD l.1 && p l.2

/-- A release of the fragment waits for a covered access in flight. -/
def releaseWaits (k : Issue) : Bool := coveredAny k.w k.f.quads k.w.nextSeq LaneSt.flying
/-- A covered access is faulted or held. A `FENCE` then makes a fault report (07 R173); another release waits until it is
settled, DEDUCED (assumption 8). -/
def releaseStuck (k : Issue) : Bool := coveredAny k.w k.f.quads k.w.nextSeq LaneSt.stuck

/-! Deterministic mode. -/

/-- A key: clock, then logical index of the lane (10 R238). -/
structure Key where
  clock : Nat
  wg : Nat
  widx : Nat
  lane : Nat
deriving DecidableEq, Repr

def Key.below (a b : Key) : Bool :=
  decide (a.clock < b.clock) || (a.clock == b.clock &&
    (decide (a.wg < b.wg) || (a.wg == b.wg &&
      (decide (a.widx < b.widx) || (a.widx == b.widx && decide (a.lane < b.lane))))))

/-- A wave whose synchronising operations take turns (10 R237). -/
def turnWave (w : Wave) : Bool := w.det && !w.spawned

/-- Lanes of `ATOM` and `SPAWN` are synchronising events (10 R239). -/
def isTurnInstr (i : Instr) : Bool := match i with | .atom _ _ => true | i => isSpawn i

/-- Waves of the domain of `w`: its cluster (10 R237). -/
def domainWaves (s : State) (w : Wave) : List (Nat × Wave) :=
  s.waves.filter fun e => turnWave e.2 && e.2.grid == w.grid && e.2.wg / gridS s w.grid == w.wg / gridS s w.grid

def Frag.counted (f : Frag) : Bool :=
  match f.park with
  | .regang _ _ => false | .barrier _ _ _ => false | .waitw _ _ _ _ woken => woken
  | _ => true

/-- Keys of the lane events of a wave that are not yet performed, in flight or in the fault list, with the lane's quad. -/
def pendingKeys (w : Wave) : List (Nat × Key) :=
  (w.entries.filter fun e => isTurnInstr e.instr).flatMap fun e =>
    e.lanes.filterMap fun l => if l.2 != .done then some (l.1 / 4, ⟨e.clock, w.wg, w.widx, l.1⟩) else none

/-- The clock at which a quad of `f` stands, and that it takes on a wake (10 R240). -/
def Frag.clock (w : Wave) (f : Frag) (q : Nat) : Nat := max (clockOf w q) f.wakeClock

def ownKey (w : Wave) (f : Frag) (q : Nat) : Key := ⟨f.clock w q, w.wg, w.widx, 4 * q⟩

/-- The event with key `key` of the quads `qs` of wave `u` may be performed: every event of the domain with a
smaller key is, and every counted quad outside `qs` has a larger key (10 R238). -/
def turnOk (s : State) (u : Nat) (w : Wave) (key : Key) (qs : QuadMask) : Bool :=
  (domainWaves s w).all fun e =>
    (pendingKeys e.2).all (fun p => !p.2.below key) &&
    e.2.frags.all fun f => !f.counted ||
      (quadList f.quads).all fun q => (e.1 == u && qs.getLsbD q) || key.below (ownKey e.2 f q)

/-- The event waits although every counted quad with a smaller key is parked (10 R241). -/
def turnStalled (s : State) (u : Nat) (w : Wave) (key : Key) (qs : QuadMask) : Bool :=
  !turnOk s u w key qs && (domainWaves s w).all fun e =>
    e.2.frags.all fun f => !f.counted || f.park != .none ||
      (quadList f.quads).all fun q => (e.1 == u && qs.getLsbD q) ||
        (key.below (ownKey e.2 f q) && (pendingKeys e.2).all fun p => p.1 != q || !p.2.below key)

/-- The key of an event of the whole fragment (10 R238). -/
def fragKey (w : Wave) (f : Frag) : Key := ownKey w f (leadQuad f.quads)

/-- A fragment's event may be performed now (10 R237 to R239). -/
def Issue.turn (k : Issue) (s : State) : Bool := !turnWave k.w || turnOk s k.uid k.w (fragKey k.w k.f) k.f.quads

/-- The key of a lane of a batched instruction is that of its first issue (10 R238). -/
def Entry.key (w : Wave) (e : Entry) (l : Nat) : Key := ⟨e.clock, w.wg, w.widx, l⟩

/-- A lane event of a batched instruction may be performed now. -/
def laneTurn (s : State) (u : Nat) (w : Wave) (e : Entry) (l : Nat) : Bool :=
  !turnWave w || !isTurnInstr e.instr || turnOk s u w (e.key w l) e.quads

end Sys2Proof.Machine
end

