-- ==== Sys2Proof/Machine/Fp.lean ====
section
/-!
DEFINITION. Number formats and exact arithmetic (05 R111 to R122, R116): every value is a sign, a natural number
and a power of two; a result is computed exactly and rounded once.
-/

namespace Sys2Proof.Machine

/-- How a format marks its special values (05 R112). -/
inductive FmtKind where | ieee | e4m3 | e2m1
deriving DecidableEq, Repr

/-- A storage format (05 R111): exponent bits, fraction bits, bias. -/
structure Fmt where
  eb : Nat
  fb : Nat
  bias : Nat
  kind : FmtKind
deriving DecidableEq, Repr

def fmtF64 : Fmt := ⟨11, 52, 1023, .ieee⟩
def fmtF32 : Fmt := ⟨8, 23, 127, .ieee⟩
def fmtF16 : Fmt := ⟨5, 10, 15, .ieee⟩
def fmtBF16 : Fmt := ⟨8, 7, 127, .ieee⟩
def fmtE4M3 : Fmt := ⟨4, 3, 7, .e4m3⟩
def fmtE5M2 : Fmt := ⟨5, 2, 15, .ieee⟩
def fmtE2M1 : Fmt := ⟨2, 1, 1, .e2m1⟩

def ftFmt (t : FTy) : Fmt := match t with | .f32 => fmtF32 | .f16 => fmtF16 | .bf16 => fmtBF16 | .f64 => fmtF64
def ctFmt (t : CTy) : Fmt :=
  match t with
  | .f32 => fmtF32 | .f16 => fmtF16 | .bf16 => fmtBF16 | .f64 => fmtF64
  | .e4m3 => fmtE4M3 | .e5m2 => fmtE5M2 | .e2m1 => fmtE2M1

def fmtBits (f : Fmt) : Nat := 1 + f.eb + f.fb

/-- A value: a NaN (signalling or quiet), an infinity, or ± m × 2^e. -/
inductive FVal where
  | nan (sig : Bool)
  | inf (neg : Bool)
  | fin (neg : Bool) (m : Nat) (e : Int)
deriving DecidableEq, Repr

/-- The value of a bit pattern (05 R111, R112); bits above the format are ignored (05 R113). -/
def fpDecode (f : Fmt) (v : Nat) : FVal :=
  let fr := v % 2 ^ f.fb
  let ex := v / 2 ^ f.fb % 2 ^ f.eb
  let neg := bitOf v (f.eb + f.fb)
  if f.kind = .ieee ∧ ex = 2 ^ f.eb - 1 then
    if fr = 0 then .inf neg else .nan (!bitOf fr (f.fb - 1))
  else if f.kind = .e4m3 ∧ ex = 15 ∧ fr = 7 then .nan false
  else if ex = 0 then .fin neg fr (1 - (f.bias : Int) - f.fb)
  else .fin neg (fr + 2 ^ f.fb) ((ex : Int) - f.bias - f.fb)

/-- The canonical NaN (05 R112). E2M1 has none. -/
def fpNaN (f : Fmt) : Nat :=
  match f.kind with
  | .ieee => (2 ^ f.eb - 1) * 2 ^ f.fb + 2 ^ (f.fb - 1)
  | .e4m3 => 0x7F
  | .e2m1 => 0

def fpSign (f : Fmt) (neg : Bool) : Nat := if neg then 2 ^ (f.eb + f.fb) else 0
def fpZero (f : Fmt) (neg : Bool) : Nat := fpSign f neg

/-- Largest finite magnitude, as its pattern without sign. -/
def fpMax (f : Fmt) : Nat :=
  match f.kind with
  | .ieee => (2 ^ f.eb - 1) * 2 ^ f.fb - 1
  | .e4m3 => 0x7E
  | .e2m1 => 0x7

/-- An infinity, where the format has one. -/
def fpInf (f : Fmt) (neg : Bool) : Nat := fpSign f neg + (2 ^ f.eb - 1) * 2 ^ f.fb

/-- Rounding directions (05 R117). -/
inductive Dir where | rne | rtz | rup | rdn
deriving DecidableEq, Repr

def dirOfRM (rm : Nat) : Dir := match rm % 4 with | 0 => .rne | 1 => .rtz | 2 => .rup | _ => .rdn
/-- The direction of an instruction: its RND field, or `FPMODE`.RM. -/
def dirOf (r : Rnd) (fpmode : Word) : Dir :=
  match r with
  | .mode => dirOfRM fpmode.toNat | .rne => .rne | .rtz => .rtz | .rup => .rup | .rdn => .rdn

/-- The magnitude n / d rounded to an integer. -/
def roundInt (dir : Dir) (neg : Bool) (n d : Nat) : Nat :=
  let q := n / d
  let r := n % d
  let up := match dir with
    | .rne => decide (d < 2 * r) || (decide (2 * r = d) && q % 2 == 1)
    | .rtz => false
    | .rup => !neg && r != 0
    | .rdn => neg && r != 0
  if up then q + 1 else q

/-- n / d × 2^(−q) as a fraction of naturals. -/
def scaled (n d : Nat) (q : Int) : Nat × Nat := if 0 ≤ q then (n, d * 2 ^ q.toNat) else (n * 2 ^ (-q).toNat, d)

/-- floor(log2(n / d)) for positive n and d. -/
def ratLog (n d : Nat) : Int :=
  let k : Int := (Nat.log2 n : Int) - (Nat.log2 d : Int)
  let (a, b) := scaled n d k
  if a < b then k - 1 else k

/-- The pattern of m × 2^q, m at most 2^(fb+1), at or above the format's subnormal quantum. -/
def fpPack (f : Fmt) (m : Nat) (q : Int) : Nat :=
  let (m, q) := if m = 2 ^ (f.fb + 1) then (m / 2, q + 1) else (m, q)
  if m < 2 ^ f.fb then m else ((q + f.fb + f.bias).toNat) * 2 ^ f.fb + (m - 2 ^ f.fb)

/-- What an overflow gives (05 R119). -/
def fpOverflow (f : Fmt) (dir : Dir) (sat neg : Bool) : Nat :=
  let away := match dir with | .rne => true | .rtz => false | .rup => !neg | .rdn => neg
  if sat || !away || f.kind = .e2m1 then fpSign f neg + fpMax f
  else match f.kind with
    | .e4m3 => fpNaN f
    | _ => fpInf f neg

/-- ± n / d × 2^e rounded once to the format, with its flags (05 R118 to R120). -/
def fpRound (f : Fmt) (dir : Dir) (sat neg : Bool) (n d : Nat) (e : Int) : Nat × Flags :=
  if n = 0 then (fpZero f neg, 0)
  else
    let k := ratLog n d + e
    let q0 := k - f.fb
    let qmin : Int := 1 - (f.bias : Int) - f.fb
    let (a0, b0) := scaled n d (q0 - e)
    let m0 := roundInt dir neg a0 b0
    let q := max q0 qmin
    let (a, b) := scaled n d (q - e)
    let m := roundInt dir neg a b
    let inexact := a % b != 0
    let ovf := decide (qmin ≤ q0) && decide (fpMax f < fpPack f m0 q0)
    if ovf then (fpOverflow f dir sat neg, flagOF + flagNX)
    else
      let tiny := decide (q0 < qmin) && decide (m0 < 2 ^ (f.fb + 1)) || decide (q0 + 1 < qmin)
      let fl := (if inexact then flagNX else 0) + (if tiny && inexact then flagUF else 0)
      (fpSign f neg + fpPack f m q, fl)

/-- A signed exact value rounded; an exact zero takes the sign `zneg`. -/
def fpRoundInt (f : Fmt) (dir : Dir) (sat : Bool) (x : Int) (e : Int) (zneg : Bool) : Nat × Flags :=
  if x = 0 then (fpZero f zneg, 0) else fpRound f dir sat (decide (x < 0)) x.natAbs 1 e

def FVal.isNaN (v : FVal) : Bool := match v with | .nan _ => true | _ => false
def FVal.isSig (v : FVal) : Bool := match v with | .nan b => b | _ => false
def FVal.isZero (v : FVal) : Bool := match v with | .fin _ m _ => m == 0 | _ => false
def FVal.neg (v : FVal) : Bool := match v with | .nan _ => false | .inf b => b | .fin b _ _ => b
def FVal.isInf (v : FVal) : Bool := match v with | .inf _ => true | _ => false
def FVal.flip (v : FVal) : FVal := match v with | .nan b => .nan b | .inf b => .inf !b | .fin b m e => .fin (!b) m e

/-- ± m as an integer. -/
def signed (neg : Bool) (m : Nat) : Int := if neg then -(m : Int) else m

/-- Sum of two finite values as an integer times a power of two. -/
def addExact (na : Bool) (ma : Nat) (ea : Int) (nb : Bool) (mb : Nat) (eb : Int) : Int × Int :=
  let e := min ea eb
  (signed na (ma * 2 ^ (ea - e).toNat) + signed nb (mb * 2 ^ (eb - e).toNat), e)

/-- a + b (05 R118 to R120). -/
def fpAdd (f : Fmt) (dir : Dir) (sat : Bool) (a b : FVal) : Nat × Flags :=
  match a, b with
  | .nan x, .nan y => (fpNaN f, if x || y then flagNV else 0)
  | .nan x, _ => (fpNaN f, if x then flagNV else 0)
  | _, .nan y => (fpNaN f, if y then flagNV else 0)
  | .inf x, .inf y => if x = y then (fpInf f x, 0) else (fpNaN f, flagNV)
  | .inf x, .fin _ _ _ => (fpInf f x, 0)
  | .fin _ _ _, .inf y => (fpInf f y, 0)
  | .fin na ma ea, .fin nb mb eb =>
    let (r, e) := addExact na ma ea nb mb eb
    fpRoundInt f dir sat r e (if na = nb then na else dir == .rdn)

/-- a × b (05 R118 to R120). -/
def fpMul (f : Fmt) (dir : Dir) (sat : Bool) (a b : FVal) : Nat × Flags :=
  match a, b with
  | .nan x, .nan y => (fpNaN f, if x || y then flagNV else 0)
  | .nan x, _ => (fpNaN f, if x then flagNV else 0)
  | _, .nan y => (fpNaN f, if y then flagNV else 0)
  | .inf x, .inf y => (fpInf f (x != y), 0)
  | .inf x, .fin y m _ => if m = 0 then (fpNaN f, flagNV) else (fpInf f (x != y), 0)
  | .fin x m _, .inf y => if m = 0 then (fpNaN f, flagNV) else (fpInf f (x != y), 0)
  | .fin x m e, .fin y n g => fpRound f dir sat (x != y) (m * n) 1 (e + g)

/-- a × b + c with one rounding (05 R120). -/
def fpFma (f : Fmt) (dir : Dir) (sat : Bool) (a b c : FVal) : Nat × Flags :=
  let sig := a.isSig || b.isSig || c.isSig
  let bad := (a.isInf && b.isZero) || (a.isZero && b.isInf)
  if a.isNaN || b.isNaN || c.isNaN then (fpNaN f, if sig || bad then flagNV else 0)
  else if bad then (fpNaN f, flagNV)
  else
    let pn := a.neg != b.neg
    if a.isInf || b.isInf then
      (match c with
       | .inf cn => if cn = pn then (fpInf f pn, 0) else (fpNaN f, flagNV)
       | _ => (fpInf f pn, 0))
    else
      match a, b, c with
      | .fin _ ma ea, .fin _ mb eb, .fin nc mc ec =>
        let (r, e) := addExact pn (ma * mb) (ea + eb) nc mc ec
        fpRoundInt f dir sat r e (if pn = nc then pn else dir == .rdn)
      | _, _, .inf cn => (fpInf f cn, 0)
      | _, _, _ => (fpNaN f, 0)

/-- a / b rounded once: used by the ray engine (09 R222, R224), which raises no flag. -/
def fpDiv (f : Fmt) (dir : Dir) (a b : FVal) : Nat :=
  match a, b with
  | .nan _, _ => fpNaN f
  | _, .nan _ => fpNaN f
  | .inf _, .inf _ => fpNaN f
  | .inf x, .fin y _ _ => fpInf f (x != y)
  | .fin x _ _, .inf y => fpZero f (x != y)
  | .fin x m e, .fin y n g =>
    if n = 0 then (if m = 0 then fpNaN f else fpInf f (x != y))
    else (fpRound f dir false (x != y) m n (e - g)).1

/-- Order of two values that are not NaN: −1, 0 or 1; the zeros compare equal. -/
def fvCmp (a b : FVal) : Int :=
  match a, b with
  | .inf x, .inf y => if x = y then 0 else if x then -1 else 1
  | .inf x, _ => if x then -1 else 1
  | _, .inf y => if y then 1 else -1
  | .fin na ma ea, .fin nb mb eb =>
    let r := (addExact na ma ea (!nb) mb eb).1
    if r < 0 then -1 else if r = 0 then 0 else 1
  | _, _ => 0

/-- `FMIN`, and `FMAX` with `mx` (15 R378); the operands' patterns are returned as they are. -/
def fpMinMax (f : Fmt) (mx : Bool) (x y : Nat) : Nat × Flags :=
  let a := fpDecode f x
  let b := fpDecode f y
  if a.isSig || b.isSig then (fpNaN f, flagNV)
  else if a.isNaN && b.isNaN then (fpNaN f, 0)
  else if a.isNaN then (y, 0)
  else if b.isNaN then (x, 0)
  else
    let c := fvCmp a b
    let first := if c = 0 then (if mx then !a.neg else a.neg) else if mx then decide (c > 0) else decide (c < 0)
    (if first then x else y, 0)

/-- `FCMP` (15 R380). -/
def fpCompare (a b : FVal) : Nat × Flags :=
  if a.isNaN || b.isNaN then (8, if a.isSig || b.isSig then flagNV else 0)
  else let c := fvCmp a b
       (if c < 0 then 1 else if c = 0 then 2 else 4, 0)

/-- `FCLASS` (15 R379). -/
def fpClass (f : Fmt) (v : FVal) : Nat :=
  match v with
  | .nan s => if s then 256 else 512
  | .inf n => if n then 1 else 128
  | .fin n m _ =>
    if m = 0 then (if n then 8 else 16)
    else if m < 2 ^ f.fb then (if n then 4 else 32)
    else if n then 2 else 64

/-- ± m × 2^e rounded to an integer, and whether that changed it. -/
def fpToInt (dir : Dir) (neg : Bool) (m : Nat) (e : Int) : Int × Bool :=
  let (a, b) := scaled m 1 (-e)
  (signed neg (roundInt dir neg a b), a % b != 0)

/-- `FRINT` (15 R382). -/
def fpRint (f : Fmt) (dir : Dir) (v : FVal) : Nat × Flags :=
  match v with
  | .nan s => (fpNaN f, if s then flagNV else 0)
  | .inf n => (fpInf f n, 0)
  | .fin n m e =>
    let (r, inexact) := fpToInt dir n m e
    (if r = 0 then fpZero f n else (fpRoundInt f .rne false r 0 n).1, if inexact then flagNX else 0)

/-- `FCVT` (05 R122, R119; 15 R381). -/
def fpConvert (f : Fmt) (dir : Dir) (sat : Bool) (v : FVal) : Nat × Flags :=
  match v with
  | .nan s => if f.kind = .e2m1 then (0, flagNV) else (fpNaN f, if s then flagNV else 0)
  | .inf n =>
    (match f.kind with
     | .ieee => (fpInf f n, 0)
     | .e4m3 => if sat then (fpSign f n + fpMax f, 0) else (fpNaN f, flagNV)
     | .e2m1 => (fpSign f n + fpMax f, flagNV))
  | .fin n m e => fpRound f dir sat n m 1 e

/-- `FTOI` (05 R122): the rounded integer within its bounds. -/
def fpInteger (dir : Dir) (lo hi : Int) (v : FVal) : Int × Flags :=
  match v with
  | .nan _ => (0, flagNV)
  | .inf n => (if n then lo else hi, flagNV)
  | .fin n m e =>
    let (r, inexact) := fpToInt dir n m e
    if r < lo then (lo, flagNV) else if hi < r then (hi, flagNV) else (r, if inexact then flagNX else 0)

/-- `ITOF` (16 R389); zero gives +0. -/
def intToFp (f : Fmt) (dir : Dir) (sat : Bool) (r : Int) : Nat × Flags := fpRoundInt f dir sat r 0 false

/-- ABS then NEG on a pattern (05 R121); bits above the format are dropped. -/
def fpSignMod (f : Fmt) (abs neg : Bool) (v : Dword) : Nat :=
  let x := v.toNat % 2 ^ fmtBits f
  let sb := 2 ^ (f.eb + f.fb)
  let y := if abs then x % sb else x
  if neg then (if sb ≤ y then y - sb else y + sb) else y

/-! MX blocks (05 R116). -/

/-- floor(log2) of a positive magnitude m × 2^e. -/
def magLog (m : Nat) (e : Int) : Int := (Nat.log2 m : Int) + e

/-- The scale and elements of one block. -/
def mxBlock (f : Fmt) (emax : Int) (vs : List FVal) : Nat × List Nat :=
  if vs.any fun v => v.isNaN || v.isInf then (0xFF, vs.map fun _ => 0)
  else
    let logs := vs.filterMap fun v => match v with | .fin _ m e => if m = 0 then none else some (magLog m e) | _ => none
    match logs with
    | [] => (0, vs.map fun _ => 0)
    | l :: r =>
      let e := min (max (r.foldl max l - emax) (-127)) 127
      ((e + 127).toNat, vs.map fun v => match v with
        | .fin n m q => (fpRound f .rne true n m 1 (q - e)).1
        | _ => 0)

def mxFmt (t : MxTy) : Fmt := match t with | .e4m3 => fmtE4M3 | .e5m2 => fmtE5M2 | .e2m1 => fmtE2M1
def mxEmax (t : MxTy) : Int := match t with | .e4m3 => 8 | .e5m2 => 15 | .e2m1 => 2

end Sys2Proof.Machine
end

