-- ==== Sys2Proof/Machine/Float.lean ====
section
/-!
DEFINITION. Floating-point instructions: their shared issue with flags, trap and hold (05 R117, R121, R125 to R128)
and the meanings of 15 R376 to R383, 16 R389, R396.
-/

namespace Sys2Proof.Machine

/-- A per-wave CSR word as an instruction sees it: within the bound of each write, the old or the new one (04 R103). -/
def effCsr (s : State) (w : Wave) (num : Nat) (cur : Word) : Word :=
  w.csrPend.zipIdx.foldl (fun v p =>
    if p.1.1 = num ∧ s.cycle < p.1.2.2.1 ∧ Config.freeBit s.free (50000 + num + 2 ^ 16 * p.2) = true then p.1.2.1 else v) cur

def effFpmode (s : State) (w : Wave) : Word := effCsr s w 0x021 w.fpmode

/-- Enabled flags (05 R124); a trap window suspends the enables (05 R127). -/
def fpEnables (s : State) (w : Wave) : Nat := (effFpmode s w).toNat / 256 % 32

/-- A lane's result: the registers' value and its flags. -/
abbrev FpLane := Dword × Flags

/-- Results and flags of a floating-point instruction applied (05 R125 to R127): lanes `trapping` keep their
destination, every lane's flags are raised, and TRIG is set when some lane traps. -/
def fpApply (s : State) (k : Issue) (dests : List (Nat × Nat × (Nat → Dword))) (fl : Nat → Flags) (bound : Nat) : Eff :=
  let ls := k.actList s
  let en := fpEnables s k.w
  let on := k.w.window.isNone && en != 0
  let bad := if on then ls.filter fun l => fl l &&& en != 0 else []
  let good := ls.filter fun l => !bad.contains l
  let s1 := modWave s k.uid fun w =>
    let w1 := dests.foldl (fun w d =>
      good.foldl (fun w l => writeVal w d.2.1 d.1 l (d.2.2 l)) (markFixed s w d.1 d.2.1 (lanesMask good) bound)) w
    let w2 := raiseFp s w1 (ls.foldl (fun m l => m ||| fl l) 0) bound
    if en != 0 then w2.modFrag k.lead fun f => { f with readyAt := max f.readyAt (s.cycle + bound) } else w2
  if bad.isEmpty then .done s1
  else
    let trig := bad.foldl (fun m l => m ||| (fl l &&& en)) 0
    .trap .floatingPoint (lanesMask bad) 0 (modWave s1 k.uid fun w =>
      { w with fpstat := (w.fpstat &&& 0x1F) ||| BitVec.ofNat 32 (trig * 2 ^ 16) })

/-- A floating-point instruction with one destination of `n` registers. -/
def fpOp (i : Instr) (d : Reg) (n bound : Nat) (f : State → Issue → Nat → FpLane) (s : State) :
    Host.Outcome State Fault Refusal :=
  issueWith i s fun k s =>
    fpApply s k [(d.toNat, n, fun l => (f s k l).1)] (fun l => (f s k l).2) bound

/-- Bound of a float-class instruction of a type (13 R327, 14 R340). -/
def ftBound (t : FTy) : Nat := match t with | .f64 => bDouble | _ => bFloat

/-- Floating-point sources after crossbar, ABS and NEG (05 R121). -/
def fsrcA (s : State) (k : Issue) (x : Long) (f : Fmt) (n l : Nat) : Nat :=
  fpSignMod f (longMod x).absA (longMod x).negA (srcA s k.w x n l)
def fsrcB (s : State) (k : Issue) (x : Long) (f : Fmt) (n l : Nat) : Nat :=
  fpSignMod f (longMod x).absB (longMod x).negB (srcB s k.w x .fp n l)
def fsrcC (s : State) (k : Issue) (x : Long) (f : Fmt) (n l : Nat) : Nat :=
  fpSignMod f (longMod x).absC (longMod x).negC (srcC s k.w x n l)

def fpOut (r : Nat × Flags) : FpLane := (BitVec.ofNat 64 r.1, r.2)

/-- The mould of 15 R376, R377. -/
def arithOp (i : Instr) (t : FTy) (x : Long) (f : Fmt → Dir → Bool → FVal → FVal → FVal → Nat × Flags) (s : State) :
    Host.Outcome State Fault Refusal :=
  let fm := ftFmt t
  fpOp i x.d t.regs (ftBound t) (fun s k l =>
    fpOut (f fm (dirOf (longMod x).rnd (effFpmode s k.w)) (longMod x).sat (fpDecode fm (fsrcA s k x fm t.regs l))
      (fpDecode fm (fsrcB s k x fm t.regs l)) (fpDecode fm (fsrcC s k x fm t.regs l)))) s

/-- A unary instruction on a float in A32 form. -/
def unaryA (i : Instr) (t : FTy) (d a : Reg) (n bound : Nat) (f : Word → Nat → Nat × Flags) (s : State) :
    Host.Outcome State Fault Refusal :=
  fpOp i d n bound (fun s k l =>
    fpOut (f (effFpmode s k.w) ((readVal s k.w t.regs a.toNat l).toNat % 2 ^ fmtBits (ftFmt t)))) s

/-- A unary instruction on a float in long form. -/
def unaryB (i : Instr) (t : FTy) (x : Long) (n bound : Nat) (f : Word → Nat → Nat × Flags) (s : State) :
    Host.Outcome State Fault Refusal :=
  fpOp i x.d n bound (fun s k l => fpOut (f (effFpmode s k.w) (fsrcA s k x (ftFmt t) t.regs l))) s

/-- Integer source of `ITOF` (16 R389). -/
def citVal (t : CITy) (v : Dword) : Int :=
  match t with
  | .i32 => (v.extractLsb' 0 32).toInt | .u32 => (v.extractLsb' 0 32).toNat
  | .i64 => v.toInt | .i8 => (v.extractLsb' 0 8).toInt
def citLo (t : CITy) : Int := match t with | .i32 => -2 ^ 31 | .u32 => 0 | .i64 => -2 ^ 63 | .i8 => -128
def citHi (t : CITy) : Int := match t with | .i32 => 2 ^ 31 - 1 | .u32 => 2 ^ 32 - 1 | .i64 => 2 ^ 63 - 1 | .i8 => 127

/-- The 32 values of a block of `MXCVT`: inactive lanes give +0 (16 R396). -/
def mxInputs (s : State) (k : Issue) (x : Long) (blk : Nat) : List FVal :=
  let a := k.act s
  (List.range 32).map fun j =>
    if a.getLsbD (32 * blk + j) then fpDecode fmtF32 (fsrcA s k x fmtF32 1 (32 * blk + j)) else .fin false 0 0

/-- Elements and scales of `MXCVT` by lane. -/
def mxLane (t : MxTy) (bs : List (Nat × List Nat)) (l : Nat) : Nat × Nat :=
  match bs[l / 32]? with
  | some (x, es) => (x, (es[l % 32]?).getD 0)
  | none => (0, 0)

/-- `FADD` (15 R376, R377). -/
def execFadd (t : FTy) (x : Long) (s : State) : Host.Outcome State Fault Refusal :=
  arithOp (.fadd t x) t x (fun f dir sat a b _ => fpAdd f dir sat a b) s

/-- `FSUB` (15 R376, R377): a + (−b). -/
def execFsub (t : FTy) (x : Long) (s : State) : Host.Outcome State Fault Refusal :=
  arithOp (.fsub t x) t x (fun f dir sat a b _ => fpAdd f dir sat a b.flip) s

/-- `FMUL` (15 R376, R377). -/
def execFmul (t : FTy) (x : Long) (s : State) : Host.Outcome State Fault Refusal :=
  arithOp (.fmul t x) t x (fun f dir sat a b _ => fpMul f dir sat a b) s

/-- `FFMA` (15 R376, R377). -/
def execFfma (t : FTy) (x : Long) (s : State) : Host.Outcome State Fault Refusal :=
  arithOp (.ffma t x) t x (fun f dir sat a b c => fpFma f dir sat a b c) s

/-- `FMIN` (15 R378). -/
def execFmin (t : FTy) (x : Long) (s : State) : Host.Outcome State Fault Refusal :=
  fpOp (.fmin t x) x.d t.regs (ftBound t) (fun s k l =>
    fpOut (fpMinMax (ftFmt t) false (fsrcA s k x (ftFmt t) t.regs l) (fsrcB s k x (ftFmt t) t.regs l))) s

/-- `FMAX` (15 R378). -/
def execFmax (t : FTy) (x : Long) (s : State) : Host.Outcome State Fault Refusal :=
  fpOp (.fmax t x) x.d t.regs (ftBound t) (fun s k l =>
    fpOut (fpMinMax (ftFmt t) true (fsrcA s k x (ftFmt t) t.regs l) (fsrcB s k x (ftFmt t) t.regs l))) s

/-- `FCMP` (15 R380). -/
def execFcmp (t : FTy) (x : Long) (s : State) : Host.Outcome State Fault Refusal :=
  fpOp (.fcmp t x) x.d 1 (ftBound t) (fun s k l =>
    fpOut (fpCompare (fpDecode (ftFmt t) (fsrcA s k x (ftFmt t) t.regs l))
      (fpDecode (ftFmt t) (fsrcB s k x (ftFmt t) t.regs l)))) s

/-- `FCLASS`, A32 (15 R379): it can raise no flag, so no enable holds the fragment (05 R126). -/
def execFclassA32 (g : BitVec 2) (t : FTy) (d a : Reg) (s : State) : Host.Outcome State Fault Refusal :=
  issueWith (.fclassA32 g t d a) s fun k s =>
    .done (writeLanes s k d 1 (ftBound t) fun l =>
      BitVec.ofNat 64 (fpClass (ftFmt t) (fpDecode (ftFmt t) ((readVal s k.w t.regs a.toNat l).toNat % 2 ^ fmtBits (ftFmt t)))))

/-- `FCLASS`, B64 and C96 (15 R379). -/
def execFclassB64 (t : FTy) (x : Long) (s : State) : Host.Outcome State Fault Refusal :=
  issueWith (.fclassB64 t x) s fun k s =>
    .done (writeLanes s k x.d 1 (ftBound t) fun l =>
      BitVec.ofNat 64 (fpClass (ftFmt t) (fpDecode (ftFmt t) (fsrcA s k x (ftFmt t) t.regs l))))

/-- `FRINT`, A32 (15 R382). -/
def execFrintA32 (g : BitVec 2) (t : FTy) (d a : Reg) (s : State) : Host.Outcome State Fault Refusal :=
  unaryA (.frintA32 g t d a) t d a t.regs (ftBound t)
    (fun m v => fpRint (ftFmt t) (dirOf .mode m) (fpDecode (ftFmt t) v)) s

/-- `FRINT`, B64 and C96 (15 R382). -/
def execFrintB64 (t : FTy) (x : Long) (s : State) : Host.Outcome State Fault Refusal :=
  unaryB (.frintB64 t x) t x t.regs (ftBound t)
    (fun m v => fpRint (ftFmt t) (dirOf (longMod x).rnd m) (fpDecode (ftFmt t) v)) s

/-- `FCVT` (15 R381, 05 R122). -/
def execFcvt (dt st : CTy) (x : Long) (s : State) : Host.Outcome State Fault Refusal :=
  fpOp (.fcvt dt st x) x.d dt.regs bFloat (fun s k l =>
    fpOut (fpConvert (ctFmt dt) (dirOf (longMod x).rnd (effFpmode s k.w)) (longMod x).sat
      (fpDecode (ctFmt st) (fsrcA s k x (ctFmt st) st.regs l)))) s

/-- `FTOI` (15 R383, 05 R122). -/
def execFtoi (it : CITy) (ft : FTy) (x : Long) (s : State) : Host.Outcome State Fault Refusal :=
  fpOp (.ftoi it ft x) x.d it.regs bFloat (fun s k l =>
    let r := fpInteger (dirOf (longMod x).rnd (effFpmode s k.w)) (citLo it) (citHi it)
      (fpDecode (ftFmt ft) (fsrcA s k x (ftFmt ft) ft.regs l))
    (BitVec.ofInt 64 r.1, r.2)) s

/-- `ITOF` (16 R389). -/
def execItof (ft : FTy) (it : CITy) (x : Long) (s : State) : Host.Outcome State Fault Refusal :=
  fpOp (.itof ft it x) x.d ft.regs bFloat (fun s k l =>
    fpOut (intToFp (ftFmt ft) (dirOf (longMod x).rnd (effFpmode s k.w)) (longMod x).sat
      (citVal it (srcA s k.w x it.regs l)))) s

/-- `MXCVT` (16 R396): elements to D, scales to B. -/
def execMxcvt (t : MxTy) (x : Long) (s : State) : Host.Outcome State Fault Refusal :=
  issueWith (.mxcvt t x) s fun k s =>
    let bs := [mxBlock (mxFmt t) (mxEmax t) (mxInputs s k x 0), mxBlock (mxFmt t) (mxEmax t) (mxInputs s k x 1)]
    let vx : Reg := match x.tail with | .regs b _ _ => b | .imm _ => 0
    let s1 := writeLanes s k x.d 1 bFloat fun l => BitVec.ofNat 64 (mxLane t bs l).2
    .done (writeLanes s1 k vx 1 bFloat fun l => BitVec.ofNat 64 (mxLane t bs l).1)

end Sys2Proof.Machine
end

