-- ==== Sys2Proof/Machine/Ports.lean ====
section
/-!
DEFINITION. The sending side of the Ossin Link ports: which port carries an address, flits and credits (12 R299, R300,
R305, R306).
-/

namespace Sys2Proof.Machine

/-- The port that carries an access of a peer's address. -/
def portOf (s : State) (pa : Nat) : Option Nat :=
  match assocGet s.hub.peers (paPeer pa) with
  | some p => if p.ports.isEmpty then none else p.ports[pa % 2 ^ 42 / 128 % p.ports.length]?
  | none => none

def modPort (s : State) (p : Nat) (f : Port → Port) : State := modHub s fun h => { h with ports := assocMod h.ports p f }

/-- The bytes of a flit up to its CRC, and the flit. -/
def flitBody (ty vc : Nat) (fseq ackseq : BitVec 12) (payload : List Byte) : List Byte :=
  natLe 2 (fseq.toNat + 4096 * ty) ++ natLe 2 vc ++ natLe 4 ackseq.toNat ++ payload
def flitOf (body : List Byte) : BitVec 1024 := BitVec.ofNat 1024 (leNat (body ++ natLe 4 (crc32c body).toNat))

/-- A flit sent: it stays listed until it is acknowledged. How requests, totals and records lie in the 116 bytes is not
stated, so they are free values. -/
def Port.emit (p : Port) (free ty vc : Nat) : Port :=
  let pay := (List.range 29).flatMap fun i => natLe 4 (Config.freeWord free (140000 + 32 * p.fseqOut.toNat + i)).toNat
  { p with sent := p.sent ++ [flitOf (flitBody ty vc p.fseqOut (p.fseqIn - 1) pay)], fseqOut := p.fseqOut + 1 }

def Port.vc (p : Port) (v : Nat) : Credit := p.vcs.getD v Credit.reset
def Port.modVc (p : Port) (v : Nat) (f : Credit → Credit) : Port := { p with vcs := listMod p.vcs v f }

/-- Every 4096 payload flits AVAIL is corrected to L − (STOT − RSEEN), modulo 2^16, and an audit flit sent (12 R306). -/
def Port.audit (p : Port) (free : Nat) : Option Port :=
  if p.payload < 4096 then none
  else
    let p1 := { p with payload := p.payload - 4096,
                       vcs := p.vcs.map fun (c : Credit) => { c with avail := 256 - (c.stot - c.rseen) } }
    some (p1.emit free 3 3)

/-- A payload flit on channel `v`: it takes a credit, or waits for one; after the 4096th comes the audit. -/
def Port.push (p : Port) (free v : Nat) : Port :=
  if !p.up then p
  else if (p.vc v).avail = 0 then p.modVc v fun c => { c with wait := c.wait + 1 }
  else
    let p1 := { (p.emit free 1 v).modVc v fun c => { c with stot := c.stot + 1, avail := c.avail - 1 } with payload := p.payload + 1 }
    (p1.audit free).getD p1

/-- Waiting flits go out while credits last. -/
def Port.drain (p : Port) (free v fuel : Nat) : Port :=
  match fuel with
  | 0 => p
  | fuel + 1 =>
    if (p.vc v).wait = 0 ∨ (p.vc v).avail = 0 ∨ p.up = false then p
    else ((p.modVc v fun c => { c with wait := c.wait - 1 }).push free v).drain free v fuel

/-- Virtual channel of a message: request, response, journal (12 R299). -/
def kindVc (kind : Nat) : Nat := if kind = 0 ∨ kind = 1 then 2 else if kind = 3 ∨ kind = 6 then 1 else 0

/-- A message handed to the links for a physical address of a peer; how many flits it fills is not stated, and the
model sends one. -/
def linkSend (s : State) (pa kind n : Nat) : State :=
  let s1 := modHub s fun h => { h with sent := (paPeer pa, kind, n) :: h.sent }
  match portOf s pa with
  | some p => modPort s1 p fun r => r.push s.free (kindVc kind)
  | none => s1

/-! Requests (12 R301, R303; 07 R191). -/

/-- An answer to a request sent on port `p` in cycle `c` may come: the port is up, and its timer has not expired. -/
def portAnswers (s : State) (p c : Nat) : Bool :=
  (assocGet s.hub.ports p).any fun r => r.up && !r.training && decide (s.cycle < c + 2 ^ r.logT)

/-- A request sent on port `p` in cycle `c` has waited for T cycles. -/
def portExpired (s : State) (p c : Nat) : Bool := (assocGet s.hub.ports p).any fun r => decide (c + 2 ^ r.logT ≤ s.cycle)

/-- The port carries flits, and a credit stands for a request. -/
def portSends (s : State) (p : Nat) : Bool :=
  (assocGet s.hub.ports p).any fun r => r.up && !r.training && decide (0 < (r.vc 0).avail)

/-- Requests that a port's timer ended are counted (12 R298). -/
def countTimeouts (s : State) (ps : List Nat) : State := ps.foldl (fun t p => modPort t p fun r => { r with timeouts := r.timeouts + 1 }) s

end Sys2Proof.Machine
end

