-- ==== Sys2Proof/Machine/Control.lean ====
section
/-!
DEFINITION. Branches, calls, `EXIT`, reconvergence, CSRs, pre-emption points, barriers, batches, fences, joins and
tickets (02 R33 to R35, R40, R43, R49, R53; 03 R68, R84 to R88; 04 R102, R103; 06 R150 to R152; 07 R173; 10 R235,
R240; 11 R280; 15 R365 to R375).
-/

namespace Sys2Proof.Machine

/-! Branches and calls (15 R365 to R370). -/

/-- The active lanes whatever `TRET` restricted (17 R416). -/
def Issue.actAll (k : Issue) (s : State) : LaneMask := readMask s k.w &&& lanesOf k.f.quads

/-- The lane a target is read from: the lowest active one, or the lowest (15 R367). -/
def targetLane (k : Issue) (m : LaneMask) : Nat := ((laneList m).head?).getD k.low

/-- The fragment stands before the header at `tgt`; of a block it left nothing remains (13 R316). -/
def Frag.atHeader (f : Frag) (tgt : VA) : Frag := { f with pc := tgt, header := true, blk := tgt, fin := tgt, left := 0 }

/-- The fragment enters `tgt` as a header (13 R316). -/
def enterAt (i : Instr) (k : Issue) (tgt : VA) (s : State) : State :=
  modFrag (retire i k.uid k.lead s) k.uid k.lead fun f => f.atHeader tgt

/-- Quads `t` go to `tgt`, the others to the fall-through (02 R35, 15 R366). -/
def branchTo (i : Instr) (k : Issue) (t : QuadMask) (tgt : VA) (s : State) : Eff :=
  if t = 0 then .done s
  else if t = k.f.quads then .moved (enterAt i k tgt s)
  else .moved (modWave (retire i k.uid k.lead s) k.uid fun w =>
    { w with frags := w.frags.flatMap fun f =>
        if leadQuad f.quads = k.lead then
          [{ f with quads := f.quads &&& ~~~t }, { f.atHeader tgt with quads := t }]
        else [f] })

def takenQuads (s : State) (k : Issue) (c : Cond) : QuadMask := quadSet (condHolds s k.w c) k.f.quads

/-- pc + 2 × OFF (15 R365). -/
def relTarget (k : Issue) (off : VA) : VA := k.f.pc + 2 * off

def execBrA32 (g : BitVec 2) (c : Cond) (off : BitVec 12) (s : State) : Host.Outcome State Fault Refusal :=
  issueWith (.brA32 g c off) s fun k s =>
    branchTo (.brA32 g c off) k (takenQuads s k c) (relTarget k (off.signExtend 80)) s

def execBrB64 (g : BitVec 1) (c : Cond) (off : Word) (s : State) : Host.Outcome State Fault Refusal :=
  issueWith (.brB64 g c off) s fun k s =>
    branchTo (.brB64 g c off) k (takenQuads s k c) (relTarget k (off.signExtend 80)) s

/-- A register target with bit 0 ignored. -/
def regTarget (s : State) (k : Issue) (a : Reg) (l : Nat) : VA := readTriple s k.w a.toNat l &&& ~~~1

def execBrx (g : BitVec 2) (c : Cond) (a : Reg) (s : State) : Host.Outcome State Fault Refusal :=
  issueWith (.brx g c a) s fun k s =>
    let t := takenQuads s k c
    let l := targetLane k (k.actAll s)
    if t ≠ 0 ∧ tripleBad s k.w a.toNat l then .trap .nonCanonical (k.actAll s) 0 s
    else branchTo (.brx g c a) k t (regTarget s k a l) s

/-- The link, END of the block, as three words (15 R370). -/
def linkWords (k : Issue) : List Word :=
  [k.f.fin.extractLsb' 0 32, k.f.fin.extractLsb' 32 32, (k.f.fin.extractLsb' 64 16).zeroExtend 32]

/-- `CALL` to a target (15 R370). -/
def callTo (i : Instr) (k : Issue) (d : Reg) (tgt : VA) (s : State) : Eff :=
  if k.act s = 0 then .done s
  else .moved (enterAt i k tgt (writeLanesL s k d 3 bInt fun _ => linkWords k))

def execCallA32 (g : BitVec 2) (d : Reg) (off : BitVec 8) (s : State) : Host.Outcome State Fault Refusal :=
  issueWith (.callA32 g d off) s fun k s => callTo (.callA32 g d off) k d (relTarget k (off.signExtend 80)) s

def execCallB64 (g : BitVec 1) (d : Reg) (off : Word) (s : State) : Host.Outcome State Fault Refusal :=
  issueWith (.callB64 g d off) s fun k s => callTo (.callB64 g d off) k d (relTarget k (off.signExtend 80)) s

def execCallx (g : BitVec 2) (d a : Reg) (s : State) : Host.Outcome State Fault Refusal :=
  issueWith (.callx g d a) s fun k s =>
    let l := targetLane k (k.act s)
    if k.act s ≠ 0 ∧ tripleBad s k.w a.toNat l then .trap .nonCanonical (k.act s) 0 s
    else callTo (.callx g d a) k d (regTarget s k a l) s

/-! `EXIT` and `REGANG` (15 R375, 02 R40). -/

/-- The fragment is the handler's, or part of it (04 R104). -/
def inHandler (k : Issue) : Bool := match k.w.window with | some v => v.quads &&& k.f.quads != 0 | none => false

def execExit (s : State) : Host.Outcome State Fault Refusal :=
  issueWith .exit s fun k s =>
    if k.w.window.isSome then .moved (endWave s k.uid (some 1))
    else if k.w.live = k.f.quads ∧ !faultListEmpty k.w then .report s
    else .moved (retireQuads s k.uid k.f.quads true)

def execRegang (g : BitVec 2) (r : Reg) (s : State) : Host.Outcome State Fault Refusal :=
  issueWith (.regang g r) s fun k s =>
    let m : QuadMask := (readLane s k.w r.toNat k.low).extractLsb' 0 16
    if k.f.quads &&& ~~~m ≠ 0 then .trap .regangMismatch (k.actAll s) 0 s
    else .moved (modWave s k.uid fun w =>
      mergeRegang s.cycle
        (w.modFrag k.lead fun f => { f with park := .regang m g.toNat, retry := true, waited := 0, promoted := none }) 16)

/-! CSRs (04 R100 to R103, 15 R373, R374). -/

/-- A per-context CSR word as a wave sees it: within the bound of each write, old or new (04 R103). -/
def ctxCsr (s : State) (k : Issue) (num : Nat) (cur : Word) : Word :=
  k.c.csrPend.zipIdx.foldl (fun v p =>
    if p.1.1 = num ∧ s.cycle < (if p.1.2.2.1 = k.uid then p.1.2.2.2.1 else p.1.2.2.2.2) ∧
        Config.freeBit s.free (60000 + num + 2 ^ 16 * p.2) = true then p.1.2.1 else v) cur

/-- Word `k` of an 80-bit register. -/
def vaWord (a : VA) (k : Nat) : Word := BitVec.ofNat 32 (a.toNat / 2 ^ (32 * k))
/-- An 80-bit register with word `k` replaced. -/
def vaPut (a : VA) (k : Nat) (v : Word) : VA :=
  let m : VA := if k < 2 then (0xFFFFFFFF : VA) <<< (32 * k) else (0xFFFF : VA) <<< 64
  (a &&& ~~~m) ||| ((v.zeroExtend 80 <<< (32 * k)) &&& m)

/-- `TPC` and `TLM` as an instruction of the wave sees them: within the bound of a write, each word old or new (04 R103). -/
def effTpc (s : State) (w : Wave) : VA :=
  vaPut (vaPut (vaPut 0 0 (effCsr s w 0x012 (vaWord w.tpc 0))) 1 (effCsr s w 0x013 (vaWord w.tpc 1))) 2
    (effCsr s w 0x014 (vaWord w.tpc 2))
def effTlm (s : State) (w : Wave) : Dword :=
  effCsr s w 0x011 (w.tlm.extractLsb' 32 32) ++ effCsr s w 0x010 (w.tlm.extractLsb' 0 32)

/-- The thread of a lane: a launched lane that has spawned nothing is not listed (03 R67). -/
def threadOf (w : Wave) (l : Nat) : Thread :=
  (assocGet w.threads l).getD ⟨0, l, 0, [], w.grid, w.wg, w.widx, none, none⟩

/-- `SPAWN`s of a lane in flight: each takes an ordinal unless it faults (03 R66). -/
def spawnsFlying (w : Wave) (l : Nat) : Nat :=
  (w.entries.filter fun e => isSpawn e.instr && match assocGet e.lanes l with | some x => x.flying | none => false).length

/-- Closed batches not yet complete (06 R150). -/
def pendingBatches (w : Wave) : List Nat := (w.entries.map (·.batch)).eraseDups.filter fun b => decide (b < w.open_)

/-- Word `num` of the per-wave CSRs that software writes, as it stands. -/
def waveCsr (s : State) (w : Wave) (num : Nat) : Word :=
  match num with
  | 0x010 => w.tlm.extractLsb' 0 32
  | 0x011 => w.tlm.extractLsb' 32 32
  | 0x012 => vaWord w.tpc 0
  | 0x013 => vaWord w.tpc 1
  | 0x014 => vaWord w.tpc 2
  | 0x020 => readFpstat s w
  | 0x021 => w.fpmode
  | _ => 0

/-- Word `num` of the per-context CSRs, as it stands. -/
def contextCsr (c : Context) (num : Nat) : Word :=
  match num with
  | 0x019 => vaWord c.trapbase 0
  | 0x01A => vaWord c.trapbase 1
  | 0x01B => vaWord c.trapbase 2
  | 0x036 => c.bintmr.zeroExtend 32
  | 0x040 => BitVec.ofNat 32 ((if c.forced then 2 else 0) + (if c.preq then 1 else 0))
  | 0x041 => c.pdl.zeroExtend 32
  | 0x042 => c.share.zeroExtend 32
  | 0x043 => c.wdlim.zeroExtend 32
  | 0x050 => if c.detmode then 1 else 0
  | _ => 0

/-- Word `num` of the CSR space as lane `l` sees it (04 R102). -/
def csrWord (s : State) (k : Issue) (num l : Nat) : Word :=
  let w := k.w
  let c := k.c
  let pkt := (assocGet s.grids w.grid).map (·.pkt)
  let sz := match pkt with | some p => p.s | none => 1
  let n := match pkt with | some p => p.n | none => 1
  let th := threadOf w l
  let frame := if w.window.isSome then frameAddr c w else 0
  match num with
  | 0x000 => if w.spawned then 0x80000000 else BitVec.ofNat 32 (sz * 2 ^ 24 + (n - 1) * 2 ^ 8 + w.widx)
  | 0x001 => BitVec.ofNat 32 w.wg
  | 0x002 => if w.spawned then 0 else BitVec.ofNat 32 (w.wg % max sz 1 * 2 ^ 28 + w.wg / max sz 1)
  | 0x003 => BitVec.ofNat 32 ((if domRender (coreDom w.core) then 64 else 0) + coreDom w.core)
  | 0x004 => BitVec.ofNat 32 (coreIdx w.core)
  | 0x005 => k.f.quads.zeroExtend 32
  | 0x010 => effCsr s w 0x010 (waveCsr s w 0x010)
  | 0x011 => effCsr s w 0x011 (waveCsr s w 0x011)
  | 0x012 => effCsr s w 0x012 (waveCsr s w 0x012)
  | 0x013 => effCsr s w 0x013 (waveCsr s w 0x013)
  | 0x014 => effCsr s w 0x014 (waveCsr s w 0x014)
  | 0x015 => w.tcause
  | 0x016 => vaWord w.tval 0
  | 0x017 => vaWord w.tval 1
  | 0x018 => vaWord w.tval 2
  | 0x019 => ctxCsr s k 0x019 (contextCsr c 0x019)
  | 0x01A => ctxCsr s k 0x01A (contextCsr c 0x01A)
  | 0x01B => ctxCsr s k 0x01B (contextCsr c 0x01B)
  | 0x01C =>
    match w.window with
    | some v => BitVec.ofNat 32 (2 ^ 31 + (if v.waited then 4 else 0) + (if v.g31 then 2 else 0) + (if v.g30 then 1 else 0))
    | none => 0
  | 0x01D => vaWord frame 0
  | 0x01E => vaWord frame 1
  | 0x01F => vaWord frame 2
  | 0x020 => effCsr s w 0x020 (readFpstat s w)
  | 0x021 => effFpmode s w
  | 0x030 => BitVec.ofNat 32 (clockOf w (l / 4))
  | 0x031 => BitVec.ofNat 32 (clockOf w (l / 4) / 2 ^ 32)
  | 0x032 => BitVec.ofNat 32 (w.open_ % 2 ^ 16 * 2 ^ 16 + (pendingBatches w).length)
  | 0x033 => BitVec.ofNat 32 (th.depth * 2 ^ 29 + (if th.join.isSome then 2 ^ 28 else 0) + min (th.next + spawnsFlying w l) 0x3FFFFFF)
  | 0x034 => match th.join with | some j => j.extractLsb' 0 32 | none => 0
  | 0x035 => BitVec.ofNat 32 (c.gplu * 2 ^ 16 + c.spl)
  | 0x036 => ctxCsr s k 0x036 (contextCsr c 0x036)
  | 0x040 => ctxCsr s k 0x040 (contextCsr c 0x040)
  | 0x041 => ctxCsr s k 0x041 (contextCsr c 0x041)
  | 0x042 => ctxCsr s k 0x042 (contextCsr c 0x042)
  | 0x043 => ctxCsr s k 0x043 (contextCsr c 0x043)
  | 0x050 => ctxCsr s k 0x050 (contextCsr c 0x050)
  | _ => 0

def execCsrr (g : BitVec 2) (sup : Bool) (num : BitVec 10) (d : Reg) (s : State) : Host.Outcome State Fault Refusal :=
  issueWith (.csrr g sup num d) s fun k s =>
    .done (writeLanes s k d 1 bInt fun l => (csrWord s k num.toNat l).zeroExtend 64)

/-- Fragments parked for pre-emption wake (11 R280). -/
def wakePreempt (s : State) (x : Nat) : State :=
  { s with waves := s.waves.map fun e =>
      if e.2.ctx = x then
        (e.1, { e.2 with frags := e.2.frags.map fun f =>
          if f.park = .preempt then { f with park := .none, stamp := s.cycle, readyAt := max f.readyAt (s.cycle + 1) } else f })
      else e }

/-- `PREQ`.REQ written (11 R278, R281, R284). -/
def setReq (s : State) (x : Nat) (on : Bool) : State :=
  match assocGet s.ctxs x with
  | none => s
  | some c =>
    let s0 := if on then withdraw s x else s
    let s1 := modCtx s0 x fun c => { c with preq := on, reqAge := if on && !c.preq then 0 else c.reqAge }
    if !on && c.cstate = 0 && !c.saving then wakePreempt s1 x else s1

/-- A per-wave CSR word that both views write (04 R102). -/
def csrPutWave (s : State) (w : Wave) (num : Nat) (v : Word) : Option Wave :=
  match num with
  | 0x010 => some { w with tlm := w.tlm.extractLsb' 32 32 ++ v }
  | 0x011 => some { w with tlm := v ++ w.tlm.extractLsb' 0 32 }
  | 0x012 => some { w with tpc := vaPut w.tpc 0 (v &&& ~~~1) }
  | 0x013 => some { w with tpc := vaPut w.tpc 1 v }
  | 0x014 => some { w with tpc := vaPut w.tpc 2 v }
  | 0x020 => some (writeFpstat s w v)
  | 0x021 => some { w with fpmode := v &&& fpmodeBits }
  | _ => none

/-- A per-context CSR word written through a view (04 R102). -/
def csrPutCtx (sup : Bool) (c : Context) (num : Nat) (v : Word) : Option Context :=
  match num with
  | 0x019 => some { c with trapbase := vaPut c.trapbase 0 (v &&& ~~~1) }
  | 0x01A => some { c with trapbase := vaPut c.trapbase 1 v }
  | 0x01B => some { c with trapbase := vaPut c.trapbase 2 v }
  | 0x036 => if sup then some { c with bintmr := v.extractLsb' 0 16 } else none
  | 0x041 => if sup then some { c with pdl := v.extractLsb' 0 24 } else none
  | 0x042 => if sup then some { c with share := v.extractLsb' 0 8 } else none
  | 0x043 => if sup then some { c with wdlim := v.extractLsb' 0 24 } else none
  | 0x050 => if sup then some { c with detmode := v.getLsbD 0 } else none
  | _ => none

/-- The effect of `CSRW` (15 R374) with the bounds of 04 R103. Of two fragments' writes of one per-wave CSR with no order
between them, a free bit says which value remains. -/
def csrWrite (s : State) (k : Issue) (sup : Bool) (num : Nat) (v : Word) : State :=
  match csrPutWave s k.w num v with
  | some w =>
    let rival := (assocGet k.w.csrOwner num).any fun q => q &&& k.f.quads == 0
    let lost := rival && Config.freeBit s.free (61000 + num)
    let w1 := if lost then k.w else { w with csrOwner := assocSet k.w.csrOwner num k.f.quads }
    setWave s k.uid
      { w1 with csrPend := (num, waveCsr s (if lost then w else k.w) num, s.cycle + bInt, k.f.quads) ::
                  w1.csrPend.filter fun p => decide (s.cycle < p.2.2.1),
                boundMax := max w1.boundMax (s.cycle + bInt) }
  | none =>
    let pend (c : Context) : Context :=
      { c with csrPend := (num, contextCsr k.c num, k.uid, s.cycle + bInt, s.cycle + bInt + 64) ::
          c.csrPend.filter fun p => decide (s.cycle < p.2.2.2.2) }
    let s1 := modWave s k.uid fun w => { w with boundMax := max w.boundMax (s.cycle + bInt) }
    if num = 0x040 then
      if sup then setReq (modCtx s1 k.w.ctx pend) k.w.ctx (v.getLsbD 0) else s
    else match csrPutCtx sup k.c num v with
      | some c => setCtx s1 k.w.ctx (pend c)
      | none => s

def execCsrw (g : BitVec 2) (sup : Bool) (num : BitVec 10) (r : Reg) (s : State) : Host.Outcome State Fault Refusal :=
  issueWith (.csrw g sup num r) s fun k s =>
    .done (csrWrite s k sup num.toNat (readLane s k.w r.toNat k.low))

/-! Pre-emption points (11 R280). -/

/-- `PREQ`.REQ as the wave sees it. -/
def seesReq (s : State) (k : Issue) : Bool := (csrWord s k 0x040 k.low).getLsbD 0

/-- The fragment parks for pre-emption at the following instruction. -/
def parkPreempt (i : Instr) (k : Issue) (s : State) : Eff :=
  .moved (modFrag (retire i k.uid k.lead s) k.uid k.lead fun f => { f with park := .preempt })

def execYield (g : BitVec 2) (s : State) : Host.Outcome State Fault Refusal :=
  issueWith (.yield g) s fun k s =>
    let s1 := modFrag (progress s k) k.uid k.lead fun f => { f with stamp := s.cycle }
    if seesReq s k then parkPreempt (.yield g) k s1 else .done s1

def execPchk (g : BitVec 2) (s : State) : Host.Outcome State Fault Refusal :=
  issueWith (.pchk g) s fun k s => if seesReq s k then parkPreempt (.pchk g) k s else .done s

/-! Barriers (02 R53 to R55, 10 R239, R240). -/

/-- `ARRIVE`: the arrival is recorded after its release, and in deterministic mode at its turn. -/
def arrive (cluster : Bool) (d : Reg) (id : Nat) (k : Issue) (s : State) : Eff :=
  if k.w.spawned then .trap .illegalBarrier (k.act s) 0 s
  else
    let b := getBarrier s k.w.grid k.w.wg cluster id
    if k.f.quads &&& arrivedOf b k.uid ≠ 0 then .trap .barrierRearrival (k.act s) 0 s
    else if releaseWaits k then .park .wait s
    else if releaseStuck k then .park .faults s
    else if !k.turn s then .park .turn s
    else
      let s1 := writeLanes s k d 1 bInt fun _ => b.phase.zeroExtend 64
      let s2 := setBarrier s1 k.w.grid k.w.wg cluster id
        { b with arrived := assocSet b.arrived k.uid (arrivedOf b k.uid ||| k.f.quads),
                 came := b.came ++ [(k.uid, k.w.wg, k.w.widx)] }
      .done (checkPhase s2 k.w.grid k.w.wg cluster id k.uid (maxClock k.w k.f.quads + 1))

def execArriveWg (g : BitVec 2) (d : Reg) (id : BitVec 3) (s : State) : Host.Outcome State Fault Refusal :=
  issueWith (.arriveWg g d id) s (arrive false d id.toNat)

def execArriveCl (g : BitVec 2) (d : Reg) (id : BitVec 2) (s : State) : Host.Outcome State Fault Refusal :=
  issueWith (.arriveCl g d id) s (arrive true d id.toNat)

/-- Quads of the issuing fragment take at least clock `c` (10 R240). -/
def raiseClocks (s : State) (k : Issue) (c : Nat) : State :=
  modWave s k.uid fun w => setClocks w k.f.quads (max c)

/-- Condition codes written at the return of a parking instruction (13 R330). -/
def writeQuadCC (s : State) (k : Issue) (f : CC → CC) : State :=
  modWave s k.uid fun w => writeCC s w k.f.quads (f w.cc) bInt

def waitPhase (cluster : Bool) (id : Nat) (r : Reg) (k : Issue) (s : State) : Eff :=
  if k.w.spawned then .trap .illegalBarrier (k.act s) 0 s
  else
    let s0 := progress s k
    let b := getBarrier s k.w.grid k.w.wg cluster id
    let t := readLane s k.w r.toNat k.low
    if (b.phase - t).toInt ≤ 0 then .park (.barrier cluster id t) s0
    else
      let s1 := match b.done.find? fun p => p.1 == t with | some (_, c) => raiseClocks s0 k c | none => s0
      .done (writeQuadCC s1 k fun cc =>
        cCC cc k.f.quads fun _ => t == b.phase - 1 && b.epilogue == some k.uid)

def execWaitaWg (g : BitVec 2) (id : BitVec 3) (r : Reg) (s : State) : Host.Outcome State Fault Refusal :=
  issueWith (.waitaWg g id r) s (waitPhase false id.toNat r)

def execWaitaCl (g : BitVec 2) (id : BitVec 2) (r : Reg) (s : State) : Host.Outcome State Fault Refusal :=
  issueWith (.waitaCl g id r) s (waitPhase true id.toNat r)

/-! Batches (06 R151, R152). -/

/-- No operation of a batch is in flight. -/
def batchSettled (w : Wave) (b : Nat) : Bool := w.entries.all fun e => e.batch != b || !e.flying

/-- What `BATCH` does with sixteen closed batches pending: waits for the oldest, or reports. -/
def batchHold (k : Issue) (s : State) : Option Eff :=
  if (pendingBatches k.w).length < 16 then none
  else
    let old := (pendingBatches k.w).foldl min k.w.open_
    if batchSettled k.w old then some (.report s) else some (.park .wait s)

def closeBatch (s : State) (u : Nat) : State := modWave s u fun w => { w with open_ := w.open_ + 1 }

def execBatch (g : BitVec 2) (d : Reg) (s : State) : Host.Outcome State Fault Refusal :=
  issueWith (.batch g d) s fun k s =>
    match batchHold k s with
    | some e => e
    | none => .done (writeLanes (closeBatch s k.uid) k d 1 bInt fun _ => BitVec.ofNat 64 (k.w.open_ % 2 ^ 16))

/-- The end of `WAITB` once batches up to `upto` are chosen. -/
def waitUpto (upto : Nat) (k : Issue) (s : State) : Eff :=
  match assocGet s.waves k.uid with
  | none => .done s
  | some w =>
    if w.entries.any fun e => decide (e.batch ≤ upto) && e.flying then .park (.batches upto) s
    else if !faultListEmpty w then .report (modFrag s k.uid k.lead fun f => { f with closed := true, park := .none })
    else .done s

/-- `WAITB`; `r` is the register that names a batch, or none for `.ALL`. -/
def waitBatches (r : Option Reg) (k : Issue) (s : State) : Eff :=
  let s0 := progress s k
  match k.f.park with
  | .batches upto => waitUpto upto k s0
  | _ =>
    let d := match r with
      | none => 0
      | some r => (BitVec.ofNat 16 k.w.open_ - (readLane s k.w r.toNat k.low).extractLsb' 0 16).toNat
    if d = 0 ∨ d ≥ 0x8000 then
      if k.f.closed then waitUpto (k.w.open_ - 1) k s0
      else match batchHold k s0 with
        | some e => e
        | none => waitUpto k.w.open_ k (closeBatch s0 k.uid)
    else if d ≤ 16 ∧ d ≤ k.w.open_ then waitUpto (k.w.open_ - d) k s0
    else if !faultListEmpty k.w then .report (modFrag s0 k.uid k.lead fun f => { f with closed := true })
    else .done s0

def execWaitb (g : BitVec 2) (r : Reg) (s : State) : Host.Outcome State Fault Refusal :=
  issueWith (.waitb g r) s (waitBatches (some r))

def execWaitbAll (g : BitVec 2) (s : State) : Host.Outcome State Fault Refusal :=
  issueWith (.waitbAll g) s (waitBatches none)

/-! Fences (07 R173). -/

def execFence (g : BitVec 2) (scope : BitVec 3) (kind : FenceKind) (s : State) : Host.Outcome State Fault Refusal :=
  issueWith (.fence g scope kind) s fun k s =>
    -- an acquire of die scope or wider drops the slice group's copies (06 R148)
    let s1 := if kind ≠ .rel ∧ 4 ≤ scope.toNat then dropCopies s k.w.core else s
    if kind = .acq then .done s1
    else if releaseWaits k then .park .wait s
    else if releaseStuck k then .report s
    else .done s1

/-! Join words (03 R82 to R84). -/

/-- Some `SPAWN` of the wave numbered below `upto` has neither updated its join word nor been refused: a lane of it is in
a state that `p` names. -/
def spawnsPending (w : Wave) (upto : Nat) (p : LaneSt → Bool) : Bool :=
  w.entries.any fun e => isSpawn e.instr && decide (e.seq < upto) && e.lanes.any fun l => p l.2

/-- Reads of 4 or 8 bytes by the active lanes, each translated and checked: lane, and address or cause. `WAITW` checks the
alignment before it translates (17 R419), `JOIN` as a load does (03 R84). -/
def laneReads (s : State) (k : Issue) (n : Nat) (first : Bool) (adr : Nat → Bool × VA) :
    List (Nat × VA × Except Cause (Nat × Nat)) :=
  (k.actList s).map fun l => (l, (adr l).2,
    if first && !(adr l).1 && (adr l).2.toNat % n != 0 then .error .misaligned
    else globalAddr s k.c (adr l).1 (adr l).2 n .read)

/-- What failing reads of `JOIN` and `WAITW` come to (03 R84, 17 R419): firmware's service, or a precise trap. -/
def readFailure (s : State) (k : Issue) (rs : List (Nat × VA × Except Cause (Nat × Nat))) (home : Nat) : Option Eff :=
  let bad := rs.filterMap fun r => match r.2.2 with | .error e => some (r.1, r.2.1, e) | .ok _ => none
  match bad.find? fun b => firmwareServices k.c b.2.2 b.2.1 with
  | some b =>
    let low := match bad with | a :: _ => if a.1 = b.1 then none else some (a.2.2, a.2.1) | [] => none
    some (.park (.service b.2.1 (lanesMask (bad.map (·.1))) home low) (modFrag s k.uid k.lead fun f => { f with closed := false }))
  | none =>
    match bad with
    | [] => none
    | b :: _ => some (.trap b.2.2 (lanesMask (bad.map (·.1))) b.2.1 (bad.foldl (fun t b => walkFault t k.w.ctx b.2.2 b.2.1) s))

/-- The words read, with A set in their leaves. -/
def readWords (s : State) (n : Nat) (rs : List (Nat × VA × Except Cause (Nat × Nat))) : List (Nat × Nat × Dword) :=
  rs.filterMap fun r => match r.2.2 with
    | .ok (pa, _) => some (r.1, pa, BitVec.ofNat 64 (leNat (physGet s pa n)))
    | .error _ => none

/-- A test reads its words past the slice group, which keeps no older copy of them (06 R148, 07 R175). -/
def dropWords (s : State) (core : Nat) (ws : List (Nat × Nat × Dword)) : State :=
  ws.foldl (fun s r => (Loc.phys r.2.1 0).refresh core s) s

def touchReads (s : State) (rs : List (Nat × VA × Except Cause (Nat × Nat))) : State :=
  rs.foldl (fun s r => match r.2.2 with | .ok (pa, leaf) => (Loc.phys pa leaf).touched false s | .error _ => s) s

/-- The word read by lane `l`. -/
def wordOf (ws : List (Nat × Nat × Dword)) (l : Nat) : Dword := ((assocGet ws l).map (·.2)).getD 0

/-- The fragment's next instruction comes after the acquire of entry `e` (07 R174, R177). -/
def Issue.follows (k : Issue) (e : Entry) : Bool := isAcquire e.instr && e.after.any fun a => a.2 &&& k.f.quads != 0

/-- An access in flight that a read of the words must come after: one of the same lane and bytes (07 R175), or an
acquire of the fragment (07 R177). -/
def readWaits (s : State) (k : Issue) (n : Nat) (ws : List (Nat × Nat × Dword)) : Bool :=
  k.w.entries.any fun e => (isMem e.instr || isSpawn e.instr) && e.lanes.any fun x => match x.2 with
    | .inflight o _ => k.follows e || ws.any fun r => r.1 == x.1 && o.meets s k.c (.load (.phys r.2.1 0) n 0)
    | _ => false

/-- Such an access in the fault list. Of a held one the address is not known before it issues again, so every held access
of a lane that reads counts. The read waits until it is settled (assumption 8). -/
def readStuck (k : Issue) (n : Nat) (rs : List (Nat × VA × Except Cause (Nat × Nat))) : Bool :=
  k.w.entries.any fun e => isMem e.instr && e.lanes.any fun x =>
    (x.2.stuck && k.follows e) || match x.2 with
      | .faulted _ _ page => rs.any fun r => r.1 == x.1 && decide (page.toNat < r.2.1.toNat + n) && decide (r.2.1.toNat < page.toNat + 16)
      | .held => rs.any fun r => r.1 == x.1
      | _ => false

/-- A read of a peer's word leaves (12 R301, 17 R420): its port, and the cycle after which it was sent. -/
def pollWord (s : State) (n : Nat) (x : WaitWord) : State × WaitWord :=
  match portOf s x.pa with
  | some p => (linkSend s x.pa 5 n, { x with port := p, sent := s.cycle + 1 })
  | none => (s, x)

/-- The words of peers among those read. -/
def farWords (rs : List (Nat × VA × Except Cause (Nat × Nat))) : List WaitWord :=
  rs.filterMap fun r => match r.2.2 with
    | .ok (pa, _) => if paRegion pa = 2 then some ⟨r.1, pa, r.2.1, 0, 0, 0, 0⟩ else none
    | .error _ => none

/-- The reads of `bad` have timed out: a precise trap with their lanes (12 R303). -/
def readsTimedOut (k : Issue) (s : State) (bad : List WaitWord) : Eff :=
  .trap .remoteTimeout (lanesMask (bad.map (·.lane)) &&& k.act s) ((bad.head?.map (·.va)).getD 0) s

/-- What holds up an instruction that reads words of peers: its requests are sent, and it waits for the answers (12 R301, R303,
R304). -/
def askReads (k : Issue) (n upto : Nat) (rs : List (Nat × VA × Except Cause (Nat × Nat))) (s : State) : Option Eff :=
  match farWords rs with
  | [] => none
  | x :: r =>
    match k.f.park with
    | .asked ws _ =>
      match ws.filter fun x => portExpired s x.port (x.sent - 1) with
      | [] => if ws.all fun x => portAnswers s x.port (x.sent - 1) then none else some (.park (.asked ws upto) s)
      | bad => some (readsTimedOut k (countTimeouts s (bad.map (·.port))) bad)
    | _ =>
      match (x :: r).filter fun x => (portOf s x.pa).isNone with
      | [] =>
        let sent := (x :: r).foldl (fun a x => let p := pollWord a.1 n x; (p.1, a.2 ++ [p.2])) (s, ([] : List WaitWord))
        some (.park (.asked sent.2 upto) sent.1)
      | bad => some (readsTimedOut k s bad)

/-- The words of a `JOIN` as read: a bad word traps unless the words were found good before, a count that is not zero parks
the fragment, else it returns (03 R84). -/
def joinTest (d : Reg) (k : Issue) (s : State) (ws : List (Nat × Nat × Dword)) : Eff :=
  let bad := ws.filter fun r => bitsOf r.2.2.toNat 30 24 != 0
  if !k.f.closed && !bad.isEmpty then .trap .badJoinWord (lanesMask (bad.map (·.1))) 0 s
  else if ws.any fun r => r.2.2.toNat % 2 ^ 24 != 0 then
    .park (.join (ws.map (·.2.1))) (modFrag (dropWords s k.w.core ws) k.uid k.lead fun f => { f with closed := true })
  else
    let act := k.act s
    let pois (q : Nat) := ws.any fun r => r.1 / 4 == q && r.2.2.getLsbD 31
    let s1 := writeLanes (dropCopies s k.w.core) k d 1 bInt fun l => wordOf ws l
    .done (writeQuadCC s1 k fun cc => zcCC cc k.f.quads (fun q => quadBits act q == 0) pois)

def execJoin (g : BitVec 2) (d a : Reg) (s : State) : Host.Outcome State Fault Refusal :=
  issueWith (.join g d a) s fun k s =>
    let s0 := progress s k
    let upto := match k.f.park with | .spawns n => n | .asked _ n => n | _ => k.w.nextSeq
    if k.act s = 0 then .done (writeQuadCC s0 k fun cc => zcCC cc k.f.quads (fun _ => true) fun _ => false)
    else if !k.f.closed && spawnsPending k.w upto (· != .done) then .park (.spawns upto) s0
    else
      let rs := laneReads s k 4 false fun l => (tripleBad s k.w a.toNat l, readTriple s k.w a.toNat l)
      let ws := readWords s 4 rs
      match readFailure s0 k rs 31 with
      | some e => e
      | none =>
        if readWaits s k 4 ws || readStuck k 4 rs then .park (.spawns upto) s0
        else match askReads k 4 upto rs s0 with
          | some e => e
          | none => joinTest d k (touchReads s0 rs) ws

/-! Tickets (03 R85 to R88). -/

/-- Tickets are numbered 4 × workgroup + id; ticket 0 of a sequence is granted at once. -/
def ticketAt (s : State) (g k id : Nat) : Ticket :=
  match assocGet s.grids g with
  | some gr => (assocGet gr.tickets (4 * k + id)).getD ⟨k == 0, false, false, 0, none⟩
  | none => ⟨false, false, false, 0, none⟩

def setTicket (s : State) (g k id : Nat) (t : Ticket) : State :=
  modGrid s g fun gr => { gr with tickets := assocSet gr.tickets (4 * k + id) t }

/-- Ticket `k` is granted with a status; a release recorded before takes effect directly (03 R88). -/
def grantTicket (s : State) (g k id st : Nat) (fuel : Nat) : State :=
  match fuel with
  | 0 => s
  | fuel + 1 =>
    let t := ticketAt s g k id
    match t.early with
    | none => setTicket s g k id { t with granted := true, status := st }
    | some e => grantTicket (setTicket s g k id { t with granted := true, released := true, status := st, early := none })
        g (k + 1) id e fuel

/-- Number of tickets that a grant can run through. -/
def ticketFuel (s : State) (g : Nat) : Nat :=
  match assocGet s.grids g with | some gr => gr.tickets.length + 2 | none => 1

/-- Ticket `k` is released, and ticket `k` + 1 granted with status `st`. -/
def releaseTicket (s : State) (g k id st : Nat) : State :=
  let s1 := setTicket s g k id { ticketAt s g k id with held := false, released := true }
  grantTicket s1 g (k + 1) id st (ticketFuel s1 g)

def execTicketAcq (g : BitVec 2) (d : Reg) (id : BitVec 2) (s : State) : Host.Outcome State Fault Refusal :=
  issueWith (.ticketAcq g d id) s fun k s =>
    if k.w.spawned then .trap .illegalTicket (k.act s) 0 s
    else
      let t := ticketAt s k.w.grid k.w.wg id.toNat
      if t.released && !k.f.retry then .trap .ticketReused (k.act s) 0 s
      else if !t.granted then .park .wait s
      else if !k.turn s then .park .turn s
      else
        let s1 := dropCopies (setTicket s k.w.grid k.w.wg id.toNat { t with held := t.held || !t.released }) k.w.core
        let s2 := writeLanes s1 k d 1 bInt fun _ => BitVec.ofNat 64 t.status
        .done (writeQuadCC s2 k fun cc =>
          { z := ccBit cc.z k.f.quads fun _ => t.status == 0, n := ccBit cc.n k.f.quads fun _ => k.w.wg == 0,
            c := ccBit cc.c k.f.quads fun _ => t.status == 1, v := ccBit cc.v k.f.quads fun _ => t.status == 2 })

/-- `TICKET.REL`: that the ticket is held is tested once, before its release. -/
def execTicketRel (g : BitVec 2) (id : BitVec 2) (s : State) : Host.Outcome State Fault Refusal :=
  issueWith (.ticketRel g id) s fun k s =>
    if k.w.spawned then .trap .illegalTicket (k.act s) 0 s
    else if !k.f.closed && !(ticketAt s k.w.grid k.w.wg id.toNat).held then .trap .ticketNotHeld (k.act s) 0 s
    else if releaseWaits k then .park .wait (modFrag s k.uid k.lead fun f => { f with closed := true })
    else if releaseStuck k then .park .faults (modFrag s k.uid k.lead fun f => { f with closed := true })
    else .done (releaseTicket s k.w.grid k.w.wg id.toNat 0)

end Sys2Proof.Machine
end

