-- ==== Sys2Proof/Machine/Memory.lean ====
section
/-!
DEFINITION. Lane accesses: `LD`, `ST`, `ATOM`, `RST`, `WAITW` and their completion; semaphores (06 R138, R144 to
R149, R154; 07 R174 to R177; 08 R208, R209; 15 R358 to R361; 16 R391 to R393; 17 R406, R407, R411 to R413, R418 to
R420).
-/

namespace Sys2Proof.Machine

/-! Batched issue (06 R154). -/

/-- Some entry holds the lane as faulted. -/
def laneStuck (w : Wave) (seq l : Nat) : Bool :=
  w.entries.any fun e => decide (e.seq < seq) && e.lanes.any fun x => x.1 == l && x.2.stuck

/-- What one lane of a batched instruction comes to when it issues or issues again. -/
abbrev LaneIssue := Entry → Issue → Nat → State → State × LaneSt

/-- One lane issued in an entry already listed: held behind its own faults, else as `f` says. -/
def issueLane (f : LaneIssue) (e : Entry) (k : Issue) (s : State) (l : Nat) : State :=
  let r := if laneStuck k.w e.seq l then (s, LaneSt.held) else f e k l s
  modWave (r.2.walked r.1 k.w.ctx) k.uid fun w =>
    { w with entries := w.entries.map fun x =>
        if x.seq = e.seq then { x with lanes := assocSet x.lanes l r.2 } else x }

/-- Entries with an operation not complete; the others' reservations are released. -/
def openEntries (w : Wave) : Wave := { w with entries := w.entries.filter fun e => e.lanes.any fun l => l.2 != .done }

/-- The entry numbered `seq` of wave `u`. -/
def entryOf (s : State) (u seq : Nat) : Option Entry := (assocGet s.waves u).bind fun w => w.entries.find? (·.seq == seq)

/-- The entry that a batched instruction reserves. -/
def Issue.entry (k : Issue) (s : State) (i : Instr) : Entry :=
  ⟨k.w.nextSeq, k.f.pc, k.w.open_, i, k.f.quads, clockOf k.w k.lead, [], [], s.cycle, none, none, none,
    [(k.w.nextSeq, k.f.quads)], [], []⟩

/-- A batched instruction over `lanes`: an entry is reserved, or the fragment waits or reports. What it claims at its issue
(`claim`) it claims whether or not its lane is held (08 R200, R204). -/
def batchClaim (i : Instr) (lanes : List Nat) (f : LaneIssue) (claim : State → State) (k : Issue) (s : State) : Eff :=
  if k.w.entries.length ≥ 64 then
    if k.w.entries.all Entry.stuck then .report s else .park .wait s
  else
    let e := k.entry s i
    let s1 := claim (modWave s k.uid fun w => { w with entries := w.entries ++ [e], nextSeq := w.nextSeq + 1 })
    let s2 := lanes.foldl (issueLane f ((entryOf s1 k.uid e.seq).getD e) k) s1
    .done (modWave s2 k.uid openEntries)

def batchOver (i : Instr) (lanes : List Nat) (f : LaneIssue) (k : Issue) (s : State) : Eff := batchClaim i lanes f id k s

/-- A per-lane batched instruction with `n` destination registers from `d`. -/
def batchOp (i : Instr) (d n : Nat) (f : LaneIssue) (k : Issue) (s : State) : Eff :=
  let s1 := if n = 0 then s else modWave s k.uid fun w => markBatch s w d n (k.act s) w.open_
  match batchOver i (k.actList s) f k s1 with
  | .done t => .done t
  | .park p _ => .park p s
  | .report _ => .report s
  | e => e

/-! Resolving an access (06 R138, R144, R146). -/

/-- A lane's access that fails: cause, `TVAL`, virtual address touched. -/
abbrev AccErr := Cause × VA × VA

def off80 (o : Word) : VA := o.zeroExtend 80

/-- Offset `o` of the spill area. -/
def spillLoc (s : State) (k : Issue) (o : Word) (n : Nat) (a : Acc) : Except AccErr Loc :=
  let va := frameAddr k.c k.w + off80 o
  if o.toNat + n > k.c.spf * 4096 then .error (.spillBound, off80 o, 0)
  else match xlate s k.c va.toNat a with
    | .error e => .error (e, off80 o, va)
    | .ok (pa, leaf) => if o.toNat % n ≠ 0 then .error (.misaligned, off80 o, 0) else .ok (.phys pa leaf)

/-- Offset `o` of the share of workgroup `wg` of the wave's grid. The bound is the offset's own (06 R144); an aligned access
from within it ends within it. -/
def shareLoc (s : State) (w : Wave) (wg : Nat) (o : Word) (n : Nat) : Except AccErr Loc :=
  if w.spawned ∨ shareSize s w.grid ≤ o.toNat then .error (.scratchpadBound, off80 o, 0)
  else if o.toNat % n ≠ 0 then .error (.misaligned, off80 o, 0)
  else .ok (.share w.grid wg o.toNat)

/-- An access of `n` bytes in a space; `bad` and `va` are the triple, `o` the offset. -/
def memLoc (s : State) (k : Issue) (spc : Spc) (n : Nat) (a : Acc) (bad : Bool) (va : VA) (o : Word) : Except AccErr Loc :=
  match spc with
  | .glob =>
    match globalAddr s k.c bad va n a with
    | .error e => .error (e, va, va)
    | .ok (pa, leaf) => .ok (.phys pa leaf)
  | .spl => spillLoc s k o n a
  | .scr => shareLoc s k.w k.w.wg o n

/-- The die a hint names (01 R22). -/
def hintDie (k : Issue) (home : Nat) : Option Nat :=
  if home ≤ 17 then some home else if home = 30 then some (coreDom k.w.core) else none

/-- A hint that names another die than the page's home is counted (01 R23). DESIGN CHOICE (assumption 53): the die that
counts is the issuing core's, and it counts once for each lane, when the lane issues. -/
def countHint (k : Issue) (home : Nat) (l : Loc) (s : State) : State :=
  match hintDie k home, l with
  | some d, .phys pa _ =>
    if paRegion pa = 0 ∧ pa / 2 ^ 36 ≠ d then
      modHub s fun h => { h with hints := assocSet h.hints (coreDom k.w.core) ((assocGet h.hints (coreDom k.w.core)).getD 0 + 1) }
    else s
  | _, _ => s

/-- A lane access: its operation, or its fault. -/
def laneAccess (k : Issue) (home : Nat) (r : Except AccErr Loc) (op : Loc → Op) (addr : VA) (s : State) : State × LaneSt :=
  match r with
  | .error (c, t, p) => (s, .faulted c t p)
  | .ok l => (countHint k home l s, .inflight (op l) addr)

/-! `LD`, `ST`, `RST`, `ATOM`. -/

def ldBytes (t : LdTy) : Nat :=
  match t with | .i8 => 1 | .z8 => 1 | .i16 => 2 | .z16 => 2 | .w32 => 4 | .w64 => 8 | .x128 => 16
def stBytes (t : StTy) : Nat := match t with | .b1 => 1 | .b2 => 2 | .b4 => 4 | .b8 => 8 | .b16 => 16
def wBytes (t : WTy) : Nat := match t with | .w32 => 4 | .w64 => 8

/-- `.inflight`'s address: the triple, or the offset zero-extended (11 R288). -/
def memTval (spc : Spc) (va : VA) (o : Word) : VA := match spc with | .glob => va | _ => off80 o

def ldLane (spc : Spc) (home n a : Nat) (p : Option Perms) : LaneIssue := fun _ k l s =>
  let x := permA p l
  let va := readTriple s k.w a x
  let o := readLane s k.w a x
  laneAccess k home (memLoc s k spc n .read (tripleBad s k.w a x) va o) (fun loc => .load loc n 0) (memTval spc va o) s

/-- Data bytes of a store: `n` bytes from register `d` in the lane itself (17 R411). -/
def storeData (s : State) (w : Wave) (d n l : Nat) : List Byte :=
  ((List.range 4).flatMap fun j => if 4 * j < n then natLe 4 (readLane s w (d + j) l).toNat else []).take n

def stLane (spc : Spc) (home n d a : Nat) (p : Option Perms) : LaneIssue := fun _ k l s =>
  let x := permA p l
  let va := readTriple s k.w a x
  let o := readLane s k.w a x
  laneAccess k home (memLoc s k spc n .write (tripleBad s k.w a x) va o)
    (fun loc => .store loc (storeData s k.w d n l)) (memTval spc va o) s

/-- The workgroup of rank `r` in the writer's cluster; a rank of S or more is out of bound (06 R145). -/
def rankWg (s : State) (w : Wave) (r : Nat) : Option Nat :=
  let n := gridS s w.grid
  if r < n then some (w.wg / n * n + r) else none

/-- `RST` (17 R407): its whole access must lie within the target's share before its alignment is looked at. -/
def rstLane (n : Nat) (x : LongM) : LaneIssue := fun _ k l s =>
  let o := readLane s k.w x.a.toNat (permA x.perm l)
  let loc := match rankWg s k.w (readLane s k.w x.b.toNat (permB x.perm l)).toNat with
    | none => .error (.scratchpadBound, off80 o, 0)
    | some g => if o.toNat + n > shareSize s k.w.grid then .error (.scratchpadBound, off80 o, 0) else shareLoc s k.w g o n
  laneAccess k 31 loc (fun loc => .store loc (storeData s k.w x.d.toNat n l)) (off80 o) s

/-- Atomics reach no host memory (15 R360). -/
def atomLoc (r : Except AccErr Loc) (va : VA) : Except AccErr Loc :=
  match r with
  | .ok (.phys pa leaf) => if paRegion pa = 1 then .error (.physicalRange, va, 0) else .ok (.phys pa leaf)
  | r => r

def atomLane (t : WTy) (x : LongM) : LaneIssue := fun _ k l s =>
  let y := permA x.perm l
  let va := readTriple s k.w x.a.toNat y
  let o := readLane s k.w x.a.toNat y
  let b := readVal s k.w t.regs x.b.toNat (permB x.perm l)
  let c := readVal s k.w t.regs x.c.toNat (permC x.perm l)
  laneAccess k x.m.home.toNat
    (atomLoc (memLoc s k x.m.spc (wBytes t) .write (tripleBad s k.w x.a.toNat y) va o) va)
    (fun loc => .atom loc b c) (memTval x.m.spc va o) s

def execLdA32 (g : BitVec 2) (t : LdTy) (d a : Reg) (s : State) : Host.Outcome State Fault Refusal :=
  issueWith (.ldA32 g t d a) s (batchOp (.ldA32 g t d a) d.toNat t.regs (ldLane .glob 31 (ldBytes t) a.toNat none))

def execLdB64 (t : LdTy) (x : LongM) (s : State) : Host.Outcome State Fault Refusal :=
  issueWith (.ldB64 t x) s
    (batchOp (.ldB64 t x) x.d.toNat t.regs (ldLane x.m.spc x.m.home.toNat (ldBytes t) x.a.toNat x.perm))

def execStA32 (g : BitVec 2) (t : StTy) (d a : Reg) (s : State) : Host.Outcome State Fault Refusal :=
  issueWith (.stA32 g t d a) s (batchOp (.stA32 g t d a) 0 0 (stLane .glob 31 (stBytes t) d.toNat a.toNat none))

def execStB64 (t : StTy) (x : LongM) (s : State) : Host.Outcome State Fault Refusal :=
  issueWith (.stB64 t x) s
    (batchOp (.stB64 t x) 0 0 (stLane x.m.spc x.m.home.toNat (stBytes t) x.d.toNat x.a.toNat x.perm))

def execRst (t : StTy) (x : LongM) (s : State) : Host.Outcome State Fault Refusal :=
  issueWith (.rst t x) s (batchOp (.rst t x) 0 0 (rstLane (stBytes t) x))

def execAtom (t : WTy) (x : LongM) (s : State) : Host.Outcome State Fault Refusal :=
  issueWith (.atom t x) s (batchOp (.atom t x) x.d.toNat t.regs (atomLane t x))

/-! Performing an access (06 R149; 07 R174 to R177; 15 R359). -/

def isAtom (i : Instr) : Bool := match i with | .atom _ _ => true | _ => false

/-- Entry `e` was issued by a fragment that the acquire of entry `d` comes before: the acquire's own, or one that a `REGANG`
merged it into since, in lane `l` (02 R41, 07 R174). -/
def Entry.precedes (d e : Entry) (l : Nat) : Bool := d.after.any fun a => decide (a.1 ≤ e.seq) && (lanesOf a.2).getLsbD l

/-- Lane `l` of entry `e` with operation `op` comes after the operation of lane `m` of entry `d` (07 R174, R175,
R177): the same lane and bytes, a lower lane of one instruction and the same bytes, an atomic after an atomic of its lane
(07 R181), an access of the fragment before its release, an access of the fragment after its acquire, whatever quads have
split off or been merged since. -/
def orderedAfter (s : State) (c : Context) (e : Entry) (l : Nat) (op : Op) (d : Entry) (m : Nat) (st : LaneSt) : Bool :=
  let hit := match st with | .inflight o _ => op.meets s c o | _ => false
  (d.seq == e.seq && decide (m < l) && hit && !(match op with | .load _ _ _ => true | _ => false)) ||
  (decide (d.seq < e.seq) &&
    ((m == l && (hit || (isAtom d.instr && isAtom e.instr))) ||
      (isMem d.instr && ((m == l && isSpawn e.instr) || ((lanesOf e.quads).getLsbD m && isRelease e.instr) ||
        (isAcquire d.instr && d.precedes e l)))))

/-- Some operation in a state that `p` names comes before lane `l` of `e`. -/
def before (s : State) (w : Wave) (e : Entry) (l : Nat) (op : Op) (p : LaneSt → Bool) : Bool :=
  match assocGet s.ctxs w.ctx with
  | some c => w.entries.any fun d => d.lanes.any fun x => p x.2 && orderedAfter s c e l op d x.1 x.2
  | none => false

/-- The new value of an atomic of width `w` bits (15 R359); `.CAS` is decided apart. -/
def atomNew (x : BitVec 4) (w old b : Nat) : Nat :=
  let sg (v : Nat) : Int := if v < 2 ^ (w - 1) then v else (v : Int) - 2 ^ w
  match x.toNat with
  | 0x0 => (old + b) % 2 ^ w
  | 0x1 => if sg old ≤ sg b then old else b
  | 0x2 => if sg old ≥ sg b then old else b
  | 0x3 => min old b
  | 0x4 => max old b
  | 0x5 => old &&& b
  | 0x6 => old ||| b
  | 0x7 => old ^^^ b
  | 0xA => let f := if w = 32 then ftFmt .f32 else ftFmt .f64
           (fpAdd f .rne false (fpDecode f old) (fpDecode f b)).1
  | 0xB => if old ≥ b then 0 else old + 1
  | 0xC => if old = 0 ∨ old > b then b else old - 1
  | _ => b

/-- The value that a load writes, lowest register first (16 R391). -/
def loadWords (t : LdTy) (bs : List Byte) : List Word :=
  let v := leNat bs
  match t with
  | .i8 => [(BitVec.ofNat 8 v).signExtend 32]
  | .z8 => [BitVec.ofNat 32 v]
  | .i16 => [(BitVec.ofNat 16 v).signExtend 32]
  | .z16 => [BitVec.ofNat 32 v]
  | .w32 => [BitVec.ofNat 32 v]
  | .w64 => [BitVec.ofNat 32 v, BitVec.ofNat 32 (v / 2 ^ 32)]
  | .x128 => (List.range (bs.length / 4)).map fun j => BitVec.ofNat 32 (v / 2 ^ (32 * j))

/-- Words written from register `r` up, lane `l`. -/
def writeWords (w : Wave) (r l : Nat) (vs : List Word) : Wave :=
  vs.zipIdx.foldl (fun w v => writeLane w (r + v.2) l v.1) w

/-- One lane of an entry set; requests of its operation have ended. -/
def setLane (s : State) (u seq l : Nat) (st : LaneSt) : State :=
  let s1 := match assocGet s.waves u with | some w => st.walked s w.ctx | none => s
  modWave s1 u fun w => openEntries { w with entries := w.entries.map fun e =>
    if e.seq = seq then { e with lanes := assocSet e.lanes l st, asks := e.asks.filter (·.lane != l) } else e }

/-- A message to a peer. -/
def sendPeer (s : State) (l : Loc) (kind n : Nat) : State :=
  match l with
  | .phys pa _ => if paRegion pa = 2 then linkSend s pa kind n else s
  | .share _ _ _ => s

def ldParts (i : Instr) : Option (LdTy × Nat) :=
  match i with
  | .ldA32 _ t d _ => some (t, d.toNat)
  | .ldB64 t x => some (t, x.d.toNat)
  | _ => none

/-- The half of a 16-byte access performed first, and the one left (07 R175). -/
def firstHalf (s : State) (l : Nat) : Nat := if Config.freeBit s.free (70000 + l) then 8 else 0

def Loc.plus (l : Loc) (n : Nat) : Loc :=
  match l with | .phys pa leaf => .phys (pa + n) leaf | .share g k o => .share g k (o + n)

/-- The scope code of an access; 0 is the package (13 R324). -/
def instrScope (i : Instr) : Nat :=
  let c := match i with
    | .ldB64 _ x => x.m.scope | .stB64 _ x => x.m.scope | .atom _ x => x.m.scope | .rst _ x => x.m.scope
    | _ => 0
  if c = 0 then 5 else c.toNat

/-- An acquire of die scope or wider, which drops the slice group's copies (06 R148). -/
def farAcquire (i : Instr) : Bool := isAcquire i && decide (4 ≤ instrScope i)

/-- A load performed: `resp` is a peer's answer, and `keep` what a part left stays in flight as. -/
def performLoad (s : State) (u : Nat) (w : Wave) (e : Entry) (l : Nat) (loc : Loc) (n reg : Nat) (keep : Op → Op) (addr : VA)
    (resp : BitVec 128) : State :=
  match ldParts e.instr with
  | none => s
  | some (t, d) =>
    let bytes (o m : Nat) : State × List Byte :=
      if loc.peer then (s, natLe m (resp.toNat / 2 ^ (8 * (o + 4 * reg))))
      else if farAcquire e.instr then (dropCopies s w.core, readLoc s (loc.plus o) m)
      else coreRead s w.core (loc.plus o) m
    if n = 16 then
      let h := firstHalf s l
      let (s0, bs) := bytes h 8
      let s1 := loc.touched false (modWave s0 u fun w => writeWords w (d + h / 4) l (loadWords t bs))
      setLane s1 u e.seq l (.inflight (keep (.load (loc.plus (8 - h)) 8 ((8 - h) / 4))) addr)
    else
      let (s0, bs) := bytes 0 n
      setLane (loc.touched false (modWave s0 u fun w => writeWords w (d + reg) l (loadWords t bs))) u e.seq l .done

/-- A plain store that came between the read and the write of an update of this cycle is overwritten (08 R208, 17 R413). -/
def overtaken (s : State) (l : Nat) (loc : Loc) (n : Nat) : State :=
  s.updates.foldl (fun t h =>
    if (Op.load h.1 4 0).overlaps (.load loc n 0) && Config.freeBit s.free (72000 + l) then wordStore t h.1 h.2 else t) s

/-- A store of lane `l` by core `p`. -/
def laneWrite (s : State) (p l : Nat) (loc : Loc) (bs : List Byte) : State := overtaken (coreWrite s p loc bs) l loc bs.length

/-- A store performed. -/
def performStore (s : State) (u : Nat) (w : Wave) (e : Entry) (l : Nat) (loc : Loc) (bs : List Byte) (keep : Op → Op)
    (addr : VA) : State :=
  if bs.length = 16 then
    let h := firstHalf s l
    setLane (loc.touched true (laneWrite s w.core l (loc.plus h) (sliceBytes bs h 8))) u e.seq l
      (.inflight (keep (.store (loc.plus (8 - h)) (sliceBytes bs (8 - h) 8))) addr)
  else setLane (loc.touched true (laneWrite s w.core l loc bs)) u e.seq l .done

/-- A `WAITW` word is written by a store to `loc`. -/
def WaitWord.hit (x : WaitWord) (n : Nat) (loc : Loc) (m : Nat) : Bool :=
  match loc with | .phys pa _ => decide (x.pa < pa + m) && decide (pa < x.pa + n) | .share _ _ _ => false

/-- A word of a peer is polled; every other is read. -/
def WaitWord.polled (x : WaitWord) : Bool := paRegion x.pa == 2

/-- The word as memory now holds it. -/
def WaitWord.read (s : State) (n : Nat) (x : WaitWord) : WaitWord := { x with m := BitVec.ofNat 64 (leNat (physGet s x.pa n)) }

/-- The word as memory now holds it; of a peer's, what its last poll answered. -/
def WaitWord.now (s : State) (n : Nat) (x : WaitWord) : WaitWord := if x.polled then x else x.read s n

/-- In deterministic mode an atomic of the domain wakes the `WAITW` fragments whose words it writes and whose test
then holds; they rejoin with its clock (10 R240). -/
def wakeDomain (s : State) (w : Wave) (loc : Loc) (m clk : Nat) : State :=
  let dom := (domainWaves s w).map (·.1)
  { s with waves := s.waves.map fun e =>
      if dom.contains e.1 then
        (e.1, { e.2 with frags := e.2.frags.map fun f =>
          match f.park with
          | .waitw i ws n left false =>
            if ws.any fun x => x.hit n loc m then
              let now := ws.map (WaitWord.read s n)
              if now.all fun x => x.m != x.vb then { f with park := .waitw i now n left true, wakeClock := clk }
              else { f with park := .waitw i now n left false }
            else f
          | _ => f })
      else e }

/-- The scope `c` of a lane of wave `a` holds a lane of wave `b` (07 R171). -/
def scopeHolds (s : State) (c u : Nat) (a : Wave) (v : Nat) (b : Wave) : Bool :=
  let wave := u == v
  let group := if a.spawned || b.spawned then wave else a.grid == b.grid && a.wg == b.wg
  let cluster := if a.spawned || b.spawned then wave else a.grid == b.grid && a.wg / gridS s a.grid == b.wg / gridS s b.grid
  match c with
  | 1 => wave | 2 => group | 3 => cluster | 4 => coreDom a.core == coreDom b.core | _ => true

def atomBytes (i : Instr) : Nat := match i with | .atom t _ => wBytes t | _ => 0

/-- Another `ATOM` of inclusive scope and the same width has read the location and not yet written it (07 R176, 15 R361). -/
def atomBlocked (s : State) (u : Nat) (w : Wave) (e : Entry) (loc : Loc) : Bool :=
  s.waves.any fun v => v.2.entries.any fun d =>
    atomBytes d.instr == atomBytes e.instr && scopeHolds s (instrScope e.instr) u w v.1 v.2 &&
    scopeHolds s (instrScope d.instr) v.1 v.2 u w && d.lanes.any fun x => match x.2 with
      | .inflight (.atomWrite m _ _ _) _ => (Op.load m 1 0).overlaps (.load loc 1 0)
      | _ => false

/-- What an atomic that read `old` writes, if it writes (15 R359). -/
def atomValue (x : LongM) (n old : Nat) (b c : Dword) : Option Nat :=
  if x.m.opx = 9 then (if old = c.toNat then some b.toNat else none) else some (atomNew x.m.opx (8 * n) old b.toNat)

/-- The write of an atomic, which ends it: it stores its value and gives the one read to its destination (15 R359, R360). -/
def atomEnd (s : State) (u : Nat) (w : Wave) (e : Entry) (l : Nat) (loc : Loc) (old : Nat) (b c : Dword) : State :=
  match e.instr with
  | .atom t x =>
    let n := wBytes t
    let v := atomValue x n old b c
    let s1 := loc.refresh w.core (match v with | some v => writeLoc s loc (natLe n v) | none => s)
    let s2 := loc.touched v.isSome (modWave s1 u fun w => writeVal w t.regs x.d.toNat l (BitVec.ofNat 64 old))
    let s3 := setLane s2 u e.seq l .done
    if v.isSome && turnWave w then wakeDomain s3 w loc n (e.clock + 1) else s3
  | _ => s

def Loc.inShare (l : Loc) : Bool := match l with | .phys _ _ => false | .share _ _ _ => true

/-- An atomic performed (15 R359 to R361). On a share, and at a peer, it is one step. On memory of the package a free bit
says whether its write follows in a step of its own: toward plain writes, and atomics not of inclusive scope or of another
width, it is a separate read and write (07 R176). -/
def performAtom (s : State) (u : Nat) (w : Wave) (e : Entry) (l : Nat) (loc : Loc) (b c : Dword) (addr : VA)
    (resp : BitVec 128) : State :=
  let n := atomBytes e.instr
  let s1 := if farAcquire e.instr then dropCopies s w.core else s
  if loc.peer then atomEnd s1 u w e l loc (resp.toNat % 2 ^ (8 * n)) b c
  else
    let old := leNat (readLoc s loc n)
    if !loc.inShare && Config.freeBit s.free (71000 + l) then
      setLane (loc.touched false (loc.refresh w.core s1)) u e.seq l (.inflight (.atomWrite loc old b c) addr)
    else atomEnd s1 u w e l loc old b c

/-! Requests to peers (12 R300, R301, R303; 07 R191). -/

/-- The peer address an access travels to. -/
def Op.peerPa (o : Op) : Option Nat :=
  match o.span with
  | some (.phys pa _, _) => if paRegion pa = 2 then some pa else none
  | _ => none

def Op.writes (o : Op) : Bool :=
  match o with
  | .store _ _ => true | .atom _ _ _ => true | .atomWrite _ _ _ _ => true
  | .sent _ _ _ o => o.writes
  | _ => false

/-- Requests sent to peers and not yet ended: those of lane accesses, those that entries list, and those of join counts. -/
def outAsks (s : State) : List Ask :=
  s.waves.flatMap fun w => w.2.leaving.filterMap (·.2.2.2) ++ w.2.entries.flatMap fun e => e.asks ++ e.lanes.filterMap fun l => match l.2 with
    | .inflight (.sent p c n o) _ => o.peerPa.map fun pa => ⟨l.1, p, c, n, paPeer pa, o.writes⟩
    | _ => none

/-- The next number in the order of sending. -/
def nextAsk (s : State) : Nat := (outAsks s).foldl (fun m x => max m x.num) 0 + 1

/-- An answer to a request may come: its timer has not expired, and of two writes to one peer through one port the one sent
first is performed first (12 R301, 07 R191). -/
def Ask.answers (a : Ask) (s : State) : Bool :=
  portAnswers s a.port a.cycle && (!a.wr || (outAsks s).all fun x =>
    !(x.wr && x.port == a.port && x.peer == a.peer && decide (x.num < a.num)))

/-- A request leaves on the port that its address names now; a peer without ports is unreachable, and the request ends as
one whose port went down (12 R304). -/
def sendAccess (s : State) (u seq l : Nat) (op : Op) (addr : VA) (pa : Nat) : Option State :=
  match portOf s pa with
  | none => some (setLane s u seq l (.faulted .remoteTimeout addr addr))
  | some p =>
    if portSends s p then
      let n := match op.span with | some (_, n) => n | none => 0
      some (setLane (linkSend s pa (if op.writes then 4 else 5) n) u seq l (.inflight (.sent p s.cycle (nextAsk s) op) addr))
    else none

/-- An answer to the request of a lane's access may come. -/
def answerable (s : State) (p c num : Nat) (op : Op) : Bool :=
  match op.peerPa with
  | some pa => Ask.answers ⟨0, p, c, num, paPeer pa, op.writes⟩ s
  | none => portAnswers s p c

/-! Requests of engines, of `SPAWN` and of the device (12 R300, R301). What an operation asks of one peer through one port counts
as one request (assumption 14). -/

/-- Addresses at peers of a range of a context, one for each line, as many as there are ports. -/
def rangePas (s : State) (c : Context) (r : Nat × Nat) : List Nat :=
  (List.range ((r.1 + r.2) / 2 ^ 16 + 1 - r.1 / 2 ^ 16)).flatMap fun i =>
    let a := max r.1 ((r.1 / 2 ^ 16 + i) * 2 ^ 16)
    let b := min (r.1 + r.2) ((r.1 / 2 ^ 16 + i + 1) * 2 ^ 16)
    match xlate s c (a % 2 ^ 80) .read with
    | .ok (pa, _) =>
      if paRegion pa = 2 ∧ a < b then (List.range (min ((pa % 128 + (b - a) + 127) / 128) 18)).map fun j => pa + 128 * j else []
    | .error _ => []

/-- The request for `pa` of lane `l`, added to those that leave with it. -/
def addAsk (s : State) (l num : Nat) (wr : Bool) (as : List Ask) (pa : Nat) : List Ask :=
  match portOf s pa with
  | none => as
  | some p =>
    if as.any fun a => a.port == p && a.peer == paPeer pa then
      as.map fun a => if a.port = p ∧ a.peer = paPeer pa then { a with wr := a.wr || wr } else a
    else as ++ [⟨l, p, s.cycle, num, paPeer pa, wr⟩]

/-- The requests of an operation of lane `l` that reads and writes the ranges `rs`. -/
def asksOf (s : State) (c : Context) (l : Nat) (rs : List ((Nat × Nat) × Bool)) : List Ask :=
  rs.foldl (fun as r => (rangePas s c r.1).foldl (addAsk s l (nextAsk s) r.2) as) []

/-- The requests leave, and the entry lists them. -/
def sendAsks (s : State) (u seq : Nat) (as : List Ask) : State :=
  modWave (as.foldl (fun t a =>
      modPort (modHub t fun h => { h with sent := (a.peer, if a.wr then 4 else 5, 0) :: h.sent }) a.port fun r => r.push t.free 0) s) u
    fun w => { w with entries := w.entries.map fun e => if e.seq = seq then { e with asks := e.asks ++ as } else e }

/-- An operation of lane `l` that reaches the ranges `rs` goes on: it first sends its requests to peers, and ends as `go` says
once they may be answered. -/
def asking (s : State) (u : Nat) (e : Entry) (c : Context) (l : Nat) (rs : List ((Nat × Nat) × Bool)) (go : Option State) :
    Option State :=
  match e.asks.filter (·.lane == l) with
  | [] => match asksOf s c l rs with
    | [] => go
    | as => if as.all fun a => portSends s a.port then some (sendAsks s u e.seq as) else none
  | as => if as.all fun a => a.answers s then go else none

/-- A lane's access performed. -/
def performNow (s : State) (u : Nat) (w : Wave) (e : Entry) (l : Nat) (op : Op) (keep : Op → Op) (addr : VA)
    (resp : BitVec 128) : Option State :=
  match op with
  | .load loc n r => some (performLoad s u w e l loc n r keep addr resp)
  | .store loc bs => some (performStore s u w e l loc bs keep addr)
  | .atom loc b c => if atomBlocked s u w e loc then none else some (performAtom s u w e l loc b c addr resp)
  | .atomWrite loc old b c => some (atomEnd s u w e l loc old b c)
  | _ => none

/-- One lane's access goes on, where what must come before it has been: it is performed, or its request to a peer is sent,
or answered with `resp`. A lane that comes after a faulted or held access by a release or an acquire is held
(assumption 8). -/
def performAccess (s : State) (u seq l : Nat) (resp : BitVec 128) : Option State :=
  match assocGet s.waves u with
  | none => none
  | some w =>
    match w.entries.find? (·.seq == seq) with
    | none => none
    | some e =>
      match assocGet e.lanes l with
      | some (.inflight (.sent p c num op) addr) =>
        if answerable s p c num op then performNow s u w e l op (.sent p c num) addr resp else none
      | some (.inflight (.atomWrite loc old b c) addr) => performNow s u w e l (.atomWrite loc old b c) id addr resp
      | some (.inflight op addr) =>
        if op.span.isNone || before s w e l op LaneSt.flying || !laneTurn s u w e l then none
        else if before s w e l op LaneSt.stuck || laneStuck w seq l then some (setLane s u seq l .held)
        else match op.peerPa with
          | some pa => sendAccess s u seq l op addr pa
          | none => performNow s u w e l op id addr resp
      | _ => none

/-! Accesses of engines at virtual addresses of a context (07 R182). -/

/-- Where an engine's access lands. At a peer without ports it ends as timed out (12 R304). -/
def engLoc (s : State) (c : Context) (a : Nat) (k : Acc) : Except AccErr Loc :=
  match xlate s c a k with
  | .error e => .error (e, BitVec.ofNat 80 a, BitVec.ofNat 80 a)
  | .ok (pa, leaf) =>
    if paRegion pa = 2 ∧ portOf s pa = none then .error (.remoteTimeout, BitVec.ofNat 80 a, BitVec.ofNat 80 a)
    else .ok (.phys pa leaf)

/-- As `globalAddr`; an access of a peer without ports ends as timed out (12 R304). -/
def farAddr (s : State) (c : Context) (bad : Bool) (va : VA) (n : Nat) (k : Acc) : Except Cause (Nat × Nat) :=
  match globalAddr s c bad va n k with
  | .ok (pa, leaf) => if paRegion pa = 2 ∧ portOf s pa = none then .error .remoteTimeout else .ok (pa, leaf)
  | .error e => .error e

/-- Bytes that an engine reads: those of a core through its slice group, the others at the home point (07 R182). -/
def engGet (s : State) (p : Option Nat) (l : Loc) (n : Nat) : State × List Byte :=
  match p with | some p => coreRead s p l n | none => (s, readLoc s l n)
def engPut (s : State) (p : Option Nat) (l : Loc) (bs : List Byte) : State :=
  match p with | some p => coreWrite s p l bs | none => writeLoc s l bs

/-- `n` bytes read by an engine at `va`, sixteen to a translation. -/
def engRead (s : State) (p : Option Nat) (c : Context) (va n : Nat) : Except AccErr (State × List Byte) :=
  (List.range ((n + 15) / 16)).foldl (fun (r : Except AccErr (State × List Byte)) i => match r with
    | .error e => .error e
    | .ok (s, bs) =>
      let a := (va + 16 * i) % 2 ^ 80
      match engLoc s c a .read with
      | .error e => .error e
      | .ok l => let x := engGet (l.touched false s) p l (min 16 (n - 16 * i)); .ok (x.1, bs ++ x.2))
    (.ok (s, []))

/-- Bytes within one page written by an engine. -/
def engWrite (s : State) (p : Option Nat) (c : Context) (va : Nat) (bs : List Byte) : Except AccErr State :=
  match engLoc s c (va % 2 ^ 80) .write with
  | .error e => .error e
  | .ok l => .ok (l.touched true (engPut s p l bs))

/-- A batched instruction of a wave, with its context. -/
def findEntry (s : State) (u seq : Nat) : Option (Wave × Entry × Context) :=
  match assocGet s.waves u with
  | none => none
  | some w =>
    match w.entries.find? (·.seq == seq), assocGet s.ctxs w.ctx with
    | some e, some c => some (w, e, c)
    | _, _ => none

/-! `WAITW` (17 R418 to R420). -/

/-- What a fragment parked in `WAITW` last saw of lane `l`'s word. -/
def seenWord (f : Frag) (l : Nat) : Option WaitWord :=
  match f.park with | .waitw _ ws _ _ _ => ws.find? (·.lane == l) | _ => none

/-- The words that a `WAITW` parks on: those of peers are polled, where no poll is out. -/
def pollWords (s : State) (n : Nat) (ws : List WaitWord) : State × List WaitWord :=
  ws.foldl (fun r x => if x.polled && x.sent == 0 then
      let p := pollWord r.1 n x
      (p.1, r.2 ++ [p.2])
    else (r.1, r.2 ++ [x])) (s, [])

/-- The words of a `WAITW` as its test sees them. A peer's word is what its last poll answered; before the first answer it
counts as not yet changed, but in deterministic mode it is read at the turn, and then as the atomic that woke the fragment
left it (10 R239, R240). -/
def waitWords (k : Issue) (va : Nat → VA) (vb : Nat → Dword) (ws : List (Nat × Nat × Dword)) : List WaitWord :=
  ws.map fun r =>
    let old := seenWord k.f r.1
    let m := if paRegion r.2.1 = 2 then (match old with | some x => x.m | none => if turnWave k.w then r.2.2 else vb r.1) else r.2.2
    ⟨r.1, r.2.1, va r.1, vb r.1, m, ((old.map (·.port)).getD 0), ((old.map (·.sent)).getD 0)⟩

/-- A `WAITW` that cannot test yet keeps its words and its time. -/
def waitHold (k : Issue) (p : Park) (s : State) : Eff :=
  .park (match k.f.park with | .waitw i ws n left _ => .waitw i ws n left true | _ => p) s

/-- The reads that the first test of a `WAITW` in deterministic mode waits for. -/
def waitAsks (k : Issue) (n : Nat) (rs : List (Nat × VA × Except Cause (Nat × Nat))) (s : State) : Option Eff :=
  if turnWave k.w then (match k.f.park with | .waitw _ _ _ _ _ => none | _ => askReads k n 0 rs s) else none

/-- The test of a `WAITW`: it returns, or parks on its words (17 R419). -/
def waitTest (t : WTy) (x : Long) (k : Issue) (rs : List (Nat × VA × Except Cause (Nat × Nat))) (words : List WaitWord) (s : State) :
    Eff :=
  let n := wBytes t
  if words.all fun v => v.m != v.vb then
    let s1 := dropCopies (raiseClocks (touchReads s rs) k k.f.wakeClock) k.w.core
    .done (writeLanes s1 k x.d t.regs bInt fun l => ((words.find? (·.lane == l)).map (·.m)).getD 0)
  else
    let left := match k.f.park with
      | .waitw _ _ _ left _ => left
      | _ =>
        let c := (srcC s k.w x 1 k.low).toNat
        if c = 0 then none else some c
    let s1 := dropWords (touchReads s rs) k.w.core (words.map fun v => (v.lane, v.pa, v.m))
    let p := if turnWave k.w then (s1, words) else pollWords s1 n words
    .park (.waitw (.waitw t x) p.2 n left false) (modFrag p.1 k.uid k.lead fun f => { f with wakeClock := 0, stall := 0 })

def execWaitw (t : WTy) (x : Long) (s : State) : Host.Outcome State Fault Refusal :=
  issueWith (.waitw t x) s fun k s =>
    let s0 := progress s k
    let n := wBytes t
    let adr (l : Nat) := (tripleBad s k.w x.a.toNat (permA x.perm l), readTriple s k.w x.a.toNat (permA x.perm l))
    let rs := laneReads s k n true adr
    let ws := readWords s n rs
    let words := waitWords k (fun l => (adr l).2) (srcB s k.w x .int t.regs) ws
    match readFailure s0 k rs 31 with
    | some e => e
    | none =>
      if k.act s = 0 then .done s0
      else if readWaits s k n ws then waitHold k .wait s0
      else if readStuck k n rs then waitHold k .faults s0
      else if !k.turn s then waitHold k .turn s0
      else match waitAsks k n rs s0 with
        | some e => e
        | none =>
          match words.filter fun v => v.polled && (portOf s v.pa).isNone && !turnWave k.w with
          | [] => waitTest t x k rs words s0
          | bad => readsTimedOut k s0 bad

/-- The fragment of wave `u` that `quad` leads. -/
def fragAt (s : State) (u quad : Nat) : Option (Wave × Frag) :=
  match assocGet s.waves u with
  | none => none
  | some w => (w.frag? quad).map fun f => (w, f)

/-- An answered poll: the word as the peer holds it, and the next poll sent. -/
def answerPoll (s : State) (n : Nat) (x : WaitWord) : State × WaitWord :=
  if x.polled && x.sent != 0 && portAnswers s x.port (x.sent - 1) then pollWord s n { x.read s n with sent := 0 } else (s, x)

/-- The words of a fragment parked in `WAITW` are tested again: after a write, at a poll of host memory, or as a peer's
answers come (17 R420). In deterministic mode only an atomic of the domain does that (10 R240). -/
def waitwTest (s : State) (u quad : Nat) : Option State :=
  match fragAt s u quad with
  | none => none
  | some (w, f) =>
    match f.park with
    | .waitw i ws n left false =>
      let (s1, now) := ws.foldl (fun r x =>
        let a := answerPoll r.1 n (x.now s n)
        (a.1, r.2 ++ [a.2])) (s, [])
      if turnWave w || now == ws then none
      else some (modFrag (dropWords s1 w.core (ws.map fun x => (x.lane, x.pa, x.m))) u quad fun f =>
        { f with park := .waitw i now n left (now.all fun x => x.m != x.vb), stall := 0 })
    | _ => none

/-- The destination of the `WAITW` at the fragment's pc: it is kept with the words' lanes by the timeout. -/
def waitDest (i : Instr) : Option (Nat × Nat) :=
  match i with
  | .waitw t x => some (x.d.toNat, t.regs)
  | _ => none

def execWaitwRetest (u quad : Nat) (s : State) : Host.Outcome State Fault Refusal := evStep s (waitwTest s u quad)

/-! Semaphores (08 R208, R209). -/

/-- The word a semaphore instruction names: workgroup and offset, or its trap. -/
def semWord (s : State) (k : Issue) (o : Reg) (rank : Option Reg) : Except Cause (Nat × Nat) :=
  let off := (readLane s k.w o.toNat k.low).toNat
  let wg := match rank with
    | none => some k.w.wg
    | some r => rankWg s k.w (readLane s k.w r.toNat k.low).toNat
  if off % 4 ≠ 0 then .error .misaligned
  else match wg with
    | none => .error .scratchpadBound
    | some g => if k.w.spawned ∨ off + 4 > shareSize s k.w.grid then .error .scratchpadBound else .ok (g, off)

/-- A semaphore operation writes its word and wakes the word's waiters. -/
def semPut (s : State) (g k off v : Nat) : State := wakeSem (wordPut s (.share g k off) v) g k off

/-- The word registered to the triple of a role wave, unless the triple has sixteen others (08 R209). -/
def semRegister (s : State) (k : Issue) (off : Nat) : Option State :=
  match roleOf s k.w with
  | none => some s
  | some (t, _) =>
    match (wgOf s k.w.grid k.w.wg).bind fun g => g.triples[t]? with
    | none => some s
    | some tr =>
      if tr.words.contains off then some s
      else if tr.words.length ≥ 16 then none
      else some (modWg s k.w.grid k.w.wg fun g =>
        { g with triples := listMod g.triples t fun tr => { tr with words := tr.words ++ [off] } })

def execSemi (g : BitVec 2) (d a : Reg) (s : State) : Host.Outcome State Fault Refusal :=
  issueWith (.semi g d a) s fun k s =>
    match semWord s k d none with
    | .error e => .trap e (k.act s) 0 s
    | .ok (wg, off) =>
      match semRegister s k off with
      | none => .trap .semaphoreTable (k.act s) 0 s
      | some s1 =>
        .done (semPut (modWg s1 k.w.grid wg fun g => { g with far := g.far.filter (· != off) }) k.w.grid wg off
          (readLane s k.w a.toNat k.low).toNat)

/-- `SEMS` and `SEMS.CL`. DESIGN CHOICE (assumption 53): the share of a rank whose workgroup has retired is empty, so the word reads
as 0, its ceiling is 0, and the signal traps with semaphore overflow. -/
def semSignal (n : Nat) (o : Reg) (rank : Option Reg) (k : Issue) (s : State) : Eff :=
  match semWord s k o rank with
  | .error e => .trap e (k.act s) 0 s
  | .ok (wg, off) =>
    if releaseWaits k then .park .wait s
    else if releaseStuck k then .park .faults s
    else
      let v := semGet s k.w.grid wg off
      if semCount v + n > semCeil v then .trap .semaphoreOverflow (k.act s) 0 s
      else .done (semPut s k.w.grid wg off (v + n))

def execSems (g : BitVec 2) (n : BitVec 8) (a : Reg) (s : State) : Host.Outcome State Fault Refusal :=
  issueWith (.sems g n a) s (semSignal n.toNat a none)

def execSemsCl (g : BitVec 1) (n : BitVec 8) (a b : Reg) (s : State) : Host.Outcome State Fault Refusal :=
  issueWith (.semsCl g n a b) s (semSignal n.toNat a (some b))

/-- `SEMW`, and `SEMW.T` with `t`. -/
def semWait (t : Bool) (n : Nat) (o : Reg) (k : Issue) (s : State) : Eff :=
  let s0 := progress s k
  match semWord s k o none with
  | .error e => .trap e (k.act s) 0 s0
  | .ok (wg, off) =>
    let v := semGet s k.w.grid wg off
    -- a waiter that was given its count while it was parked takes no other
    let taken (s : State) : Eff :=
      .done (writeQuadCC (semAcquire s k.w.core k.w.grid wg off) k fun cc => cCC cc k.f.quads fun _ => false)
    if k.f.closed then taken s0
    else if semCount v ≥ n then taken (semPut s0 k.w.grid wg off (v - n))
    else if n > semCeil v then .trap .semaphoreRange (k.act s) 0 s0
    else if semClosed v then
      if t then .done (writeQuadCC s0 k fun cc => cCC cc k.f.quads fun _ => true)
      else .trap .pipelineClosed (k.act s) 0 s0
    else .park (.sem k.w.grid wg off n s.free) s0

def execSemw (g : BitVec 2) (n : BitVec 8) (a : Reg) (s : State) : Host.Outcome State Fault Refusal :=
  issueWith (.semw g n a) s (semWait false n.toNat a)

def execSemwT (g : BitVec 2) (n : BitVec 8) (a : Reg) (s : State) : Host.Outcome State Fault Refusal :=
  issueWith (.semwT g n a) s (semWait true n.toNat a)

end Sys2Proof.Machine
end

