-- ==== Sys2Proof/Machine/Tensor.lean ====
section
/-!
DEFINITION. Rings, tensor records, the copy engine, matrix arrays, result queues, multicast and guide tiles (06 R161
to R164; 08 R192 to R213; 05 R115, R129, R130).
-/

namespace Sys2Proof.Machine

/-! Rings (08 R195 to R197). -/

/-- The ring `j` of the wave's bank. -/
def ringKey (w : Wave) (j : Nat) : Nat := 8 * bankKey w + j

def Ring.ownedBy (r : Ring) (w : Wave) : Bool := !w.spawned && r.grid == w.grid && r.wg == w.wg

/-- The ring, where the issuing workgroup owns it. -/
def ownRing (s : State) (k : Issue) (j : Nat) : Option Ring :=
  match getRing s (ringKey k.w j) with
  | some r => if r.ownedBy k.w then some r else none
  | none => none

/-- Ring configurations whose bound has passed take effect (08 R197). -/
def settleRings (cycle : Nat) (b : Bank) : Bank :=
  b.ringPend.foldl (fun b p =>
    if p.2.2 ≤ cycle then
      { b with rings := match p.2.1 with | some r => assocSet b.rings p.1 r | none => assocDel b.rings p.1 }
    else b) { b with ringPend := b.ringPend.filter fun p => decide (cycle < p.2.2) }

/-- Ring keys of the pushes of an entry that are not complete: of a `COPY.R` and a `COPY.GT` the one ring, of an `MCAST` those
of its receivers. -/
def Entry.pushes (e : Entry) : List Nat :=
  let keys (rest : List Nat) : List Nat := (List.range (rest.length / 4)).flatMap fun i =>
    if rest.getD (4 * i + 1) 0 = 0 then [rest.getD (4 * i + 2) 0] else []
  match e.instr with
  | .copyR _ _ _ => (e.slot.map fun x => [x.1]).getD []
  | .copyGt _ _ _ _ _ => e.lanes.flatMap fun l => match l.2 with | .inflight (.engine (_ :: rk :: _)) _ => [rk] | _ => []
  | .mcast _ _ _ _ _ => (e.rest.map keys).getD []
  | _ => []

/-- A push or a claim on the ring is in flight (08 R197), if only of an owner that has retired. -/
def ringBusy (s : State) (rk : Nat) : Bool :=
  (s.waves.any fun w => w.2.entries.any fun e => e.pushes.contains rk) ||
  (assocGet s.banks (rk / 8)).any fun b => b.arrays.any fun a => a.2.pend.any fun o => match o with
    | .mma _ _ _ _ x y _ => x.rk == rk || y.rk == rk
    | _ => false

def execRingsSet (g : BitVec 1) (j : BitVec 3) (a b : Reg) (s : State) : Host.Outcome State Fault Refusal :=
  issueWith (.ringsSet g j a b) s fun k s =>
    let base := (readLane s k.w a.toNat k.low).toNat
    let sh := (readLane s k.w b.toNat k.low).toNat
    let old := getRing s (ringKey k.w j.toNat)
    let n := bitsOf sh 21 16 + 1
    let bytes := sh % 2 ^ 16 * 256
    let put (r : Option Ring) : Eff :=
      .done (modBank (modWave s k.uid fun w => { w with boundMax := max w.boundMax (s.cycle + bInt) }) (bankKey k.w) fun b =>
        { b with ringPend := b.ringPend ++ [(j.toNat, r, s.cycle + bInt)] })
    if old.any fun r => !r.ownedBy k.w then .trap .ringOwner (k.act s) 0 s
    else if ringBusy s (ringKey k.w j.toNat) || old.any (fun r => r.slots.any (· != .free)) then .trap .ringBusy (k.act s) 0 s
    else if sh / 2 ^ 22 ≠ 0 ∨ base % 256 ≠ 0 then .trap .ringConfig (k.act s) 0 s
    else if bytes = 0 then put none
    else if k.w.spawned ∨ base + n * bytes > shareSize s k.w.grid then .trap .ringConfig (k.act s) 0 s
    else put (some ⟨k.w.grid, k.w.wg, (roleOf s k.w).map (·.1), base, bytes, 0, 0, 0, List.replicate n .free, []⟩)

/-- The word of `RINGS.Q` (08 R197). -/
def ringWord (s : State) (w : Wave) (r : Ring) : Nat :=
  r.head * 2 ^ 24 + (if r.closedIn s then 2 ^ 23 else 0) + r.tail * 2 ^ 16 + 2 ^ 15 + (if r.ownedBy w then 2 ^ 14 else 0) +
    (r.slots.filter (· == .filled)).length * 2 ^ 7 + (r.slots.filter (· != .free)).length

def execRingsQ (g : BitVec 2) (d : Reg) (j : BitVec 3) (s : State) : Host.Outcome State Fault Refusal :=
  issueWith (.ringsQ g d j) s fun k s =>
    .done (writeLanes s k d 1 bInt fun _ =>
      match getRing s (ringKey k.w j.toNat) with
      | some r => BitVec.ofNat 64 (ringWord s k.w r)
      | none => 0)

/-- A reader of core `p` claims the slot at READ: an acquire, of package scope where an engine of another die filled the slot
(08 R196, 07 R185). -/
def claimSlot (s : State) (p rk : Nat) (r : Ring) : State :=
  setRing (if r.far.contains r.read then dropCopies s p else s) rk r.claim

/-- `RINGS.POP`. Freeing the slot is a release that covers the reader's accesses (08 R196). -/
def execRingsPop (g : BitVec 2) (j : BitVec 3) (s : State) : Host.Outcome State Fault Refusal :=
  issueWith (.ringsPop g j) s fun k s =>
    match ownRing s k j.toNat with
    | none => .trap .ringOwner (k.act s) 0 s
    | some r =>
      if r.empty then (if r.closedIn s then .trap .pipelineClosed (k.act s) 0 s else .park .wait s)
      else if releaseWaits k then .park .wait s
      else if releaseStuck k then .park .faults s
      else .done (setRing (claimSlot s k.w.core (ringKey k.w j.toNat) r) (ringKey k.w j.toNat) (r.claim.freeSlot r.read))

/-! Tensor records (06 R161, R162). -/

structure TRec where
  base : Nat
  fmt : Nat
  rank : Nat
  dims : List Nat
  sds : List Nat
  sbase : Nat
  xsds : List Nat
deriving DecidableEq, Repr

def TRec.dim (r : TRec) (i : Nat) : Nat := (r.dims[i]?).getD 1
def TRec.mx (r : TRec) : Bool := r.fmt == 7 || r.fmt == 8 || r.fmt == 9
/-- Two elements to a byte. -/
def TRec.nibble (r : TRec) : Bool := r.fmt == 5 || r.fmt == 9
/-- Element size in bytes, rounded up to 1. -/
def TRec.size (r : TRec) : Nat :=
  if r.fmt = 0 then 4 else if r.fmt = 1 ∨ r.fmt = 2 then 2 else if r.fmt = 10 then 8 else 1

def parseRec (bs : List Byte) : TRec :=
  ⟨fieldAt bs 0 10, fieldAt bs 10 1 % 16, fieldAt bs 10 1 / 16 % 4 + 1, (List.range 4).map fun i => fieldAt bs (12 + 3 * i) 3,
    0 :: (List.range 3).map fun i => fieldAt bs (24 + 5 * i) 5, fieldAt bs 39 10,
    0 :: (List.range 3).map fun i => fieldAt bs (49 + 5 * i) 5⟩

/-- The record keeps the rules of 06 R162. -/
def recOk (bs : List Byte) (r : TRec) : Bool :=
  decide (r.fmt ≤ 11) && fieldAt bs 10 1 / 64 == 0 && fieldAt bs 11 1 == 0 &&
  ((List.range 4).all fun i => r.dim i != 0 && (decide (i < r.rank) ||
    (r.dim i == 1 && (r.sds[i]?).getD 0 == 0 && (r.xsds[i]?).getD 0 == 0))) &&
  r.base % r.size == 0 && r.sds.all (fun d => d % r.size == 0) &&
  (!r.nibble || r.dim 0 % 2 == 0) && (!r.mx || r.dim 0 % 32 == 0) &&
  (r.mx || (r.sbase == 0 && r.xsds.all (· == 0)))

/-- The pieces a record moves in: an element, or the byte of two nibbles; then, for MX, the scales. -/
def TRec.rowN (r : TRec) : Nat := if r.nibble then r.dim 0 / 2 else r.dim 0
def TRec.outer (r : TRec) : Nat := r.dim 1 * r.dim 2 * r.dim 3
def TRec.dataN (r : TRec) : Nat := r.rowN * r.outer
def TRec.pieces (r : TRec) : Nat := r.dataN + (if r.mx then r.dim 0 / 32 * r.outer else 0)

/-- Offset of row `j` by strides. -/
def rowOff (r : TRec) (sds : List Nat) (j : Nat) : Nat :=
  j % r.dim 1 * (sds[1]?).getD 0 + j / r.dim 1 % r.dim 2 * (sds[2]?).getD 0 + j / (r.dim 1 * r.dim 2) * (sds[3]?).getD 0

/-- Address and size of piece `i`, in ascending linear index (06 R162, R163). -/
def TRec.piece (r : TRec) (i : Nat) : Nat × Nat :=
  if i < r.dataN then ((r.base + i % r.rowN * r.size + rowOff r r.sds (i / r.rowN)) % 2 ^ 80, r.size)
  else
    let j := i - r.dataN
    let b := r.dim 0 / 32
    ((r.sbase + j % b + rowOff r r.xsds (j / b)) % 2 ^ 80, 1)

/-- Offset of piece `i` in the dense image, and the image's size (08 R198). -/
def TRec.dense (r : TRec) (i : Nat) : Nat := if i < r.dataN then i * r.size else r.dataN * r.size + (i - r.dataN)
def TRec.image (r : TRec) : Nat := r.dataN * r.size + (r.pieces - r.dataN)

/-- A record read by an engine of the context, of core `p` or none. -/
def readRec (s : State) (p : Option Nat) (c : Context) (bad : Bool) (va : VA) : Except AccErr (State × TRec) :=
  if bad then .error (.nonCanonical, va, va)
  else if va.toNat % 64 ≠ 0 then .error (.tensorRecord, va, va)
  else match engLoc s c va.toNat .read with
    | .error e => .error e
    | .ok l =>
      let x := engGet (l.touched false s) p l 64
      let r := parseRec x.2
      if recOk x.2 r then .ok (x.1, r) else .error (.tensorRecord, va, va)

/-! Moving pieces (06 R163, R164). -/

/-- A side of a copy: a record, or a dense image in a share. -/
inductive Side where
  | record (r : TRec)
  | image (g wg off : Nat) (r : TRec)
deriving DecidableEq, Repr

def Side.loc (s : State) (c : Context) (x : Side) (a : Acc) (i : Nat) : Except AccErr (Loc × Nat) :=
  match x with
  | .record r =>
    let (va, n) := r.piece i
    match engLoc s c va a with
    | .error e => .error e
    | .ok l => .ok (l, n)
  | .image g k off r => .ok (.share g k (off + r.dense i), (r.piece i).2)

/-- Piece `i` of the destination shares a byte with a later piece already written (06 R163). -/
def Side.shadowed (x : Side) (rest : List Nat) (i : Nat) : Bool :=
  match x with
  | .record r => decide (rest.length < r.pieces) && (List.range r.pieces).any fun j => decide (i < j) && !rest.contains j &&
      decide ((r.piece j).1 < (r.piece i).1 + (r.piece i).2) && decide ((r.piece i).1 < (r.piece j).1 + (r.piece j).2)
  | .image _ _ _ _ => false

/-- Pieces moved in ascending order by an engine of core `p`; those that fail are left, with the first failure. -/
def movePieces (p : Nat) (c : Context) (src dst : Side) (all : List Nat) (todo : List Nat) (s : State) : State × List Nat × Option AccErr :=
  todo.foldl (fun (acc : State × List Nat × Option AccErr) i =>
    let (s, left, err) := acc
    match src.loc s c .read i, dst.loc s c .write i with
    | .ok (a, n), .ok (b, _) =>
      let (s1, bs) := coreRead (a.touched false s) p a n
      if dst.shadowed all i then (s1, left, err)
      else (b.touched true (coreWrite s1 p b bs), left, err)
    | .error e, _ => (s, left ++ [i], err.or (some e))
    | .ok _, .error e => (s, left ++ [i], err.or (some e))) (s, [], none)

/-- The fragment-level operation of an entry: its lane and arguments, in flight. -/
def engineLane (e : Entry) : Option (Nat × List Nat) :=
  e.lanes.findSome? fun l => match l.2 with | .inflight (.engine args) _ => some (l.1, args) | _ => none

def modEntry (s : State) (u seq : Nat) (f : Entry → Entry) : State :=
  modWave s u fun w => { w with entries := w.entries.map fun e => if e.seq = seq then f e else e }

/-- The ranges of a share that the pieces of `todo` outside `left` take. -/
def Side.wrote (x : Side) (todo left : List Nat) : List (Nat × Nat) :=
  match x with
  | .record _ => []
  | .image _ _ off r => (todo.filter fun i => !left.contains i).map fun i => (off + r.dense i, (r.piece i).2)

/-- The operation ends: with parts left it faults, having written the ranges `wr`, else it is complete and its ring slot
filled (08 R200). -/
def endCopy (s : State) (u seq l : Nat) (slot : Option (Nat × Nat)) (left : List Nat) (wr : List (Nat × Nat)) (err : Option AccErr) :
    State :=
  match err with
  | some (c, t, p) =>
    setLane (modEntry s u seq fun e => { e with rest := some left, wrote := e.wrote ++ wr }) u seq l (.faulted c t p)
  | none =>
    let s1 := match slot with | some (rk, i) => fillSlot s rk i | none => s
    setLane s1 u seq l .done

/-- The sides of a copy, from the arguments its issue left: kind, then its operands. -/
def copySides (s : State) (w : Wave) (c : Context) (args : List Nat) : Except AccErr (State × Side × Side) :=
  let va (n : Nat) : VA := BitVec.ofNat 80 n
  match args with
  | [0, db, d, sb, a] =>
    match readRec s (some w.core) c (sb == 1) (va a) with
    | .error e => .error e
    | .ok (s1, r) =>
      match readRec s1 (some w.core) c (db == 1) (va d) with
      | .error e => .error e
      | .ok (s2, q) =>
        if r.fmt = q.fmt ∧ r.dims = q.dims then .ok (s2, .record r, .record q) else .error (.tensorRecord, va d, va d)
  | [1, o, sb, a] =>
    match readRec s (some w.core) c (sb == 1) (va a) with
    | .error e => .error e
    | .ok (s1, r) =>
      if w.spawned ∨ o + r.image > shareSize s w.grid then .error (.scratchpadBound, va o, 0)
      else .ok (s1, .record r, .image w.grid w.wg o r)
  | [2, db, d, o] =>
    match readRec s (some w.core) c (db == 1) (va d) with
    | .error e => .error e
    | .ok (s1, r) =>
      if w.spawned ∨ o + r.image > shareSize s w.grid then .error (.scratchpadBound, va o, 0)
      else .ok (s1, .image w.grid w.wg o r, .record r)
  | [3, g, k, o, bytes, sb, a] =>
    match readRec s (some w.core) c (sb == 1) (va a) with
    | .error e => .error e
    | .ok (s1, r) =>
      if r.image > bytes then .error (.scratchpadBound, va o, 0) else .ok (s1, .record r, .image g k o r)
  | _ => .error (.tensorRecord, 0, 0)

/-- Pieces a copy has to move. -/
def Side.count (x : Side) : Nat := match x with | .record r => r.pieces | .image _ _ _ r => r.pieces

/-- A copy runs from start to end (06 R161, R164; 08 R199, R200). -/
def runCopy (s : State) (u : Nat) (w : Wave) (e : Entry) (c : Context) (l : Nat) (args : List Nat) : State :=
  let slot := e.slot.map fun x => (x.1, x.2.1)
  match copySides s w c args with
  | .error x => setLane s u e.seq l (.faulted x.1 x.2.1 x.2.2)
  | .ok (s1, a, b) =>
    let todo := e.rest.getD (List.range a.count)
    let (s2, left, err) := movePieces w.core c a b todo todo s1
    endCopy s2 u e.seq l slot left (b.wrote todo left) err

/-! Issue of the copies. -/

/-- A fragment-level batched instruction: its operation, or its fault, under the lane it reads from (04 R93). -/
def fragOp (i : Instr) (f : LaneIssue) (k : Issue) (s : State) : Eff := batchOver i [k.low] f k s

def flag (b : Bool) : Nat := if b then 1 else 0

def copyLane (d a : Nat) : LaneIssue := fun _ k l s =>
  let v := readTriple s k.w a l
  (s, .inflight (.engine [0, flag (tripleBad s k.w d l), (readTriple s k.w d l).toNat, flag (tripleBad s k.w a l), v.toNat]) v)

def copySLane (d a : Nat) : LaneIssue := fun _ k l s =>
  let v := readTriple s k.w a l
  (s, .inflight (.engine [1, (readLane s k.w d l).toNat, flag (tripleBad s k.w a l), v.toNat]) v)

def copyGLane (d a : Nat) : LaneIssue := fun _ k l s =>
  let v := readTriple s k.w d l
  (s, .inflight (.engine [2, flag (tripleBad s k.w d l), v.toNat, (readLane s k.w a l).toNat]) v)

/-- `COPY.R` reserves the slot at TAIL when it first issues, held or not, and keeps it over a reissue (08 R200). -/
def copyRClaim (j : Nat) (k : Issue) (s : State) : State :=
  let rk := ringKey k.w j
  match getRing s rk with
  | none => s
  | some r => modEntry (setRing s rk r.reserve) k.uid k.w.nextSeq fun e => { e with slot := some (rk, r.tail, 0) }

def copyRLane (a : Nat) : LaneIssue := fun e k l s =>
  let v := readTriple s k.w a l
  match e.slot with
  | none => (s, .done)
  | some (rk, i, _) =>
    match getRing s rk with
    | none => (s, .done)
    | some r => (s, .inflight (.engine [3, r.grid, r.wg, r.base + i * r.bytes, r.bytes, flag (tripleBad s k.w a l), v.toNat]) v)

def execCopy (g : BitVec 2) (d a : Reg) (s : State) : Host.Outcome State Fault Refusal :=
  issueWith (.copy g d a) s (fragOp (.copy g d a) (copyLane d.toNat a.toNat))

def execCopyS (g : BitVec 2) (d a : Reg) (s : State) : Host.Outcome State Fault Refusal :=
  issueWith (.copyS g d a) s (fragOp (.copyS g d a) (copySLane d.toNat a.toNat))

def execCopyG (g : BitVec 2) (d a : Reg) (s : State) : Host.Outcome State Fault Refusal :=
  issueWith (.copyG g d a) s (fragOp (.copyG g d a) (copyGLane d.toNat a.toNat))

def execCopyR (g : BitVec 2) (j : BitVec 3) (a : Reg) (s : State) : Host.Outcome State Fault Refusal :=
  issueWith (.copyR g j a) s fun k s =>
    match ownRing s k j.toNat with
    | none => .trap .ringOwner (k.act s) 0 s
    | some r =>
      if r.full then (if r.closedIn s then .trap .pipelineClosed (k.act s) 0 s else .park .wait s)
      else batchClaim (.copyR g j a) [k.low] (copyRLane a.toNat) (copyRClaim j.toNat k) k s

/-! Guide tiles (08 R212, R213). -/

/-- The target ring is unusable for `n` tiles with its semaphore at `o`. DESIGN CHOICE (assumption 53): 08 R212 speaks of a ring
of another core; a target that is the issuer's own core is judged, and served, like any other. -/
def guideBad (s : State) (p rk o n : Nat) : Bool :=
  !(decide (coreDom p < 18) && dieOnline s.hub (coreDom p) && decide (coreIdx p < domCores (coreDom p))) ||
  match getRing s rk with
  | none => true
  | some r => r.closedIn s || decide (r.bytes < 1024 * n) || decide (o + 4 > shareSize s r.grid)

/-- The arguments of a transfer: target core, ring key, slot, source offset, semaphore offset, tiles. -/
def guideArgs (s : State) (k : Issue) (d a b c : Nat) (l : Nat) : Nat × Nat × Nat × Nat × Nat :=
  let t := (readLane s k.w d l).toNat
  let p := 32 * bitsOf t 4 0 + bitsOf t 9 5
  (p, 8 * (16 * p + k.w.ctx) + bitsOf t 12 10, (readLane s k.w a l).toNat, (readLane s k.w b l).toNat, (readLane s k.w c l).toNat)

def copyGtLane (d a b c : Nat) : LaneIssue := fun e k l s =>
  let (p, rk, o, sem, n) := guideArgs s k d a b c l
  if k.w.spawned ∨ o + 1024 * n > shareSize s k.w.grid then (s, .faulted .scratchpadBound (BitVec.ofNat 80 o) 0)
  else if guideBad s p rk sem n then (s, .faulted .guideTarget 0 0)
  else match getRing s rk with
    | none => (s, .faulted .guideTarget 0 0)
    | some r =>
      if r.full then (s, .inflight (.engine [p, rk, 64, o, sem, n]) 0)
      else (modEntry (setRing s rk r.reserve) k.uid e.seq fun e => { e with slot := some (rk, r.tail, 0) },
        .inflight (.engine [p, rk, r.tail, o, sem, n]) 0)

def execCopyGt (g : BitVec 1) (d a b c : Reg) (s : State) : Host.Outcome State Fault Refusal :=
  issueWith (.copyGt g d a b c) s fun k s =>
    let (p, rk, _, sem, n) := guideArgs s k d.toNat a.toNat b.toNat c.toNat k.low
    if (readLane s k.w d.toNat k.low).toNat / 2 ^ 13 ≠ 0 ∨ n = 0 ∨ n > 8 then .trap .guideTarget (k.act s) 0 s
    else if !guideBad s p rk sem n && (getRing s rk).any Ring.full then .park .wait s
    else fragOp (.copyGt g d a b c) (copyGtLane d.toNat a.toNat b.toNat c.toNat) k s

/-- The transfer ends: written and signalled, or failed with its slot free again (08 R213). A reissue that found the
ring full reserves here. DESIGN CHOICE (assumption 53): 08 R212 states no outcome for a semaphore offset that is not a
multiple of 4; the word at that offset is signalled. -/
def guideTransfer (s : State) (u seq : Nat) : Option State :=
  match findEntry s u seq with
  | none => none
  | some (w, e, _) =>
    match e.instr, engineLane e with
    | .copyGt _ _ _ _ _, some (l, [p, rk, i0, o, sem, n]) =>
      match getRing s rk with
      | none => some (setLane s u seq l (.faulted .guideTarget 0 0))
      | some r =>
        let i := if i0 = 64 then r.tail else i0
        let fail (c : Cause) : State := setLane (if i0 = 64 then s else setRing s rk (r.freeSlot i)) u seq l (.faulted c 0 0)
        if guideBad s p rk sem n then some (fail .guideTarget)
        else if i0 = 64 ∧ r.full then none
        else
          let v := semGet s r.grid r.wg sem
          if semCount v + 1 > semCeil v then some (fail .semaphoreOverflow)
          else
            let bs := readLoc s (.share w.grid w.wg o) (1024 * n)
            let r1 := (if i0 = 64 then r.reserve else r).setSlot i .filled
            -- between dies the slot's and the word's releases are of package scope (07 R185)
            let cross := coreDom p != coreDom w.core
            let r2 := if cross then { r1 with far := i :: r1.far } else r1
            let s0 := if cross then modWg s r.grid r.wg fun g => { g with far := sem :: g.far.filter (· != sem) } else s
            let s1 := setRing (writeLoc s0 (.share r.grid r.wg (r.base + i * r.bytes)) bs) rk r2
            some (setLane (semPut s1 r.grid r.wg sem (v + 1)) u seq l .done)
    | _, _ => none

def execGuideTileTransfer (u seq : Nat) (s : State) : Host.Outcome State Fault Refusal := evStep s (guideTransfer s u seq)

/-! Matrix arrays (08 R192 to R194, R202 to R205; 05 R129, R130). -/

def MArray.empty : MArray := ⟨⟨none, []⟩, ⟨none, []⟩, [], [], 0⟩
def getArray (s : State) (bk a : Nat) : MArray :=
  match assocGet s.banks bk with
  | some b => (assocGet b.arrays a).getD MArray.empty
  | none => MArray.empty
def setArray (s : State) (bk a : Nat) (m : MArray) : State := modBank s bk fun b => { b with arrays := assocSet b.arrays a m }

/-- A bound triple of a workgroup on the core holds the array (08 R193). -/
def arrayHeld (s : State) (core a : Nat) : Bool :=
  s.grids.any fun g => ((assocGet s.ctxs g.2.ctx).any (·.resident)) && g.2.wgs.any fun w => w.2.core == core && !w.2.retired && w.2.triples.any (·.arr == a)

/-- The array an instruction uses (08 R193). -/
def pickArray (s : State) (k : Issue) (arr : Bool) : Option Nat :=
  match roleOf s k.w with
  | some (t, _) =>
    if arr then none else (((wgOf s k.w.grid k.w.wg).bind fun g => g.triples[t]?).map (·.arr))
  | none => if arrayHeld s k.w.core (flag arr) then none else some (flag arr)

def mmaMx (f : MmaFmt) : Bool := match f with | .mxe4m3 => true | .mxe5m2 => true | .mxe2m1 => true | _ => false
/-- K of one `MMA` (05 R130). -/
def mmaK (f : MmaFmt) : Nat :=
  match f with
  | .f16 => 32 | .bf16 => 32 | .e2m1 => 128 | .mxe2m1 => 128
  | .e4m3 => 64 | .e5m2 => 64 | .i8 => 64 | .mxe4m3 => 64 | .mxe5m2 => 64
def mmaElt (f : MmaFmt) : Fmt :=
  match f with
  | .f16 => fmtF16 | .bf16 => fmtBF16 | .e2m1 => fmtE2M1 | .mxe2m1 => fmtE2M1
  | .e4m3 => fmtE4M3 | .mxe4m3 => fmtE4M3 | .e5m2 => fmtE5M2 | .mxe5m2 => fmtE5M2 | .i8 => fmtE4M3
/-- Bytes a slot must hold (08 R203). -/
def mmaNeed (f : MmaFmt) : Nat := 8192 + (if mmaMx f then 128 * (mmaK f / 32) else 0)

/-- Bits of element `i` of a 64-byte line. -/
def lineBits (f : MmaFmt) (line : List Byte) (i : Nat) : Nat :=
  match mmaK f with
  | 32 => fieldAt line (2 * i) 2
  | 64 => fieldAt line i 1
  | _ => fieldAt line (i / 2) 1 / (if i % 2 = 0 then 1 else 16) % 16

/-- Exact product and sum (05 R129, R130). -/
def exactMul (a b : FVal) : FVal :=
  match a, b with
  | .nan x, _ => .nan x
  | _, .nan y => .nan y
  | .inf x, .inf y => .inf (x != y)
  | .inf x, .fin y m _ => if m = 0 then .nan false else .inf (x != y)
  | .fin x m _, .inf y => if m = 0 then .nan false else .inf (x != y)
  | .fin x m e, .fin y n g => .fin (x != y) (m * n) (e + g)

def exactAdd (a b : FVal) : FVal :=
  match a, b with
  | .nan x, _ => .nan x
  | _, .nan y => .nan y
  | .inf x, .inf y => if x = y then .inf x else .nan false
  | .inf x, _ => .inf x
  | _, .inf y => .inf y
  | .fin x m e, .fin y n g =>
    let (r, h) := addExact x m e y n g
    .fin (decide (r < 0)) r.natAbs h

/-- One rounding of a group sum; an exact zero is +0. -/
def roundGroup (v : FVal) : Nat :=
  match v with
  | .nan _ => fpNaN fmtF32
  | .inf n => fpInf fmtF32 n
  | .fin n m e => if m = 0 then 0 else (fpRound fmtF32 .rne false n m 1 e).1

/-- 2^(X − 127); X = 0xFF is NaN (05 R115). -/
def e8m0 (x : Nat) : FVal := if x = 255 then .nan false else .fin false 1 ((x : Int) - 127)

/-- Group `g` of a line pair, as FP32 (05 R129). -/
def groupSum (f : MmaFmt) (a b : List Byte) (xa xb : Nat) (g : Nat) : Nat :=
  let v (line : List Byte) (k : Nat) := fpDecode (mmaElt f) (lineBits f line k)
  let s := (List.range 32).foldl (fun t j => exactAdd t (exactMul (v a (32 * g + j)) (v b (32 * g + j)))) (.fin false 0 0)
  roundGroup (if mmaMx f then exactMul (exactMul s (e8m0 xa)) (e8m0 xb) else s)

/-- INT8 element `i` of a line. -/
def lineInt (line : List Byte) (i : Nat) : Int := (line.getD i 0).toInt

/-- Group `g` of INT8 operands (05 R130). -/
def groupInt (a b : List Byte) (g : Nat) : Int :=
  (List.range 32).foldl (fun t j => t + lineInt a (32 * g + j) * lineInt b (32 * g + j)) 0

/-- One accumulator element updated by one line pair (05 R129). -/
def mmaElement (f : MmaFmt) (c : Word) (a b : List Byte) (xa xb : List Nat) : Word :=
  (List.range (mmaK f / 32)).foldl (fun c g =>
    match f with
    | .i8 => BitVec.ofInt 32 (c.toInt + groupInt a b g)
    | _ => BitVec.ofNat 32 (fpAdd fmtF32 .rne false (fpDecode fmtF32 c.toNat)
        (fpDecode fmtF32 (groupSum f a b ((xa[g]?).getD 0) ((xb[g]?).getD 0) g))).1) c

/-- Element 128 × row + column of an image; an undefined one is free. -/
def imgAt (s : State) (m : Image) (i : Nat) : Word :=
  match assocGet m.cells i with
  | some v => v
  | none => m.rest.getD (Config.freeWord s.free (80000 + i))

/-- The ring that a claimed slot belongs to still stands: its owner has not retired (08 R197). -/
def SlotRef.ring (s : State) (x : SlotRef) : Option Ring :=
  (getRing s x.rk).filter fun r => r.grid == x.grid && r.wg == x.wg

/-- Bytes of a claimed slot; those of a ring whose owner has retired are undefined. -/
def SlotRef.bytesAt (s : State) (x : SlotRef) (o n : Nat) : List Byte :=
  match x.ring s with
  | some _ => shareGet s x.grid x.wg (x.base + x.slot * x.bytes + o) n
  | none => (List.range n).map fun j => (Config.freeWord s.free (2 ^ 92 + 2 ^ 32 * (64 * x.rk + x.slot) + o + j)).extractLsb' 0 8

/-- Line `i` of a slot and its scales. -/
def slotLine (s : State) (f : MmaFmt) (x : SlotRef) (i : Nat) : List Byte × List Nat :=
  (x.bytesAt s (64 * i) 64,
    if mmaMx f then (x.bytesAt s (8192 + i * (mmaK f / 32)) (mmaK f / 32)).map (·.toNat) else [])

/-- The accumulator after an `MMA` on the rows that `rows` (lanes) select (08 R203). -/
def mmaImage (s : State) (f : MmaFmt) (z : Bool) (rows : LaneMask) (ra rb : SlotRef) (m : Image) : Image :=
  let b := (List.range 128).map fun j => slotLine s f rb j
  { m with cells := (List.range 128).flatMap fun i =>
      let a := slotLine s f ra i
      b.zipIdx.filterMap fun col =>
        let n := 128 * i + col.2
        if rows.getLsbD (i / 2) then
          some (n, mmaElement f (if z then 0 else imgAt s m n) a.1 col.1.1 a.2 col.1.2)
        else (assocGet m.cells n).map fun v => (n, v) }

def MArray.acc (m : MArray) (b : Bool) : Image := if b then m.acc1 else m.acc0
def MArray.setAcc (m : MArray) (b : Bool) (x : Image) : MArray := if b then { m with acc1 := x } else { m with acc0 := x }
def MArray.queue (m : MArray) (q : Nat) : List ResEntry := (assocGet m.queues q).getD []
def MArray.modQueue (m : MArray) (q : Nat) (f : List ResEntry → List ResEntry) : MArray :=
  { m with queues := assocSet m.queues q (f (m.queue q)) }

/-- The slot that a reader of ring `rk` claims. -/
def Ring.claimed (r : Ring) (rk : Nat) : SlotRef := ⟨rk, r.read, r.grid, r.wg, r.base, r.bytes⟩

def execMma (g : BitVec 2) (z arr acc : Bool) (f : MmaFmt) (rb ra : BitVec 3) (s : State) : Host.Outcome State Fault Refusal :=
  issueWith (.mma g z arr acc f rb ra) s fun k s =>
    match pickArray s k arr with
    | none => .trap .arrayOwned (k.act s) 0 s
    | some y =>
      match ownRing s k ra.toNat, ownRing s k rb.toNat with
      | none, _ => .trap .ringOwner (k.act s) 0 s
      | some p, none => .trap (if p.bytes < mmaNeed f then .ringConfig else .ringOwner) (k.act s) 0 s
      | some p, some q =>
        if p.bytes < mmaNeed f ∨ q.bytes < mmaNeed f then .trap .ringConfig (k.act s) 0 s
        else if (p.empty && p.closedIn s) || (q.empty && q.closedIn s) then .trap .pipelineClosed (k.act s) 0 s
        else if p.empty || q.empty || decide ((getArray s (bankKey k.w) y).pend.length ≥ 2) then .park .wait s
        else
          let ka := ringKey k.w ra.toNat
          let kb := ringKey k.w rb.toNat
          let s1 := claimSlot s k.w.core ka p
          let s2 := if ra = rb then s1 else claimSlot s1 k.w.core kb q
          let m := getArray s2 (bankKey k.w) y
          .done (setArray s2 (bankKey k.w) y
            { m with pend := m.pend ++ [.mma acc z f (k.act s) (p.claimed ka) (q.claimed kb) false] })

/-- The oldest accepted instruction, an `MMA`, executes (05 R129, 08 R203). -/
def mmaRun (s : State) (bk a : Nat) : Option State :=
  let m := getArray s bk a
  match m.pend with
  | .mma acc z f rows ra rb false :: r =>
    some (setArray s bk a { m.setAcc acc (mmaImage s f z rows ra rb (m.acc acc)) with
      pend := .mma acc z f rows ra rb true :: r })
  | _ => none

/-- An executed `MMA` completes: its slots, where their rings still stand, and its place are free (08 R194, R195). -/
def mmaEnd (s : State) (bk a : Nat) : Option State :=
  let m := getArray s bk a
  match m.pend with
  | .mma _ _ _ _ ra rb true :: r =>
    let free (s : State) (x : SlotRef) : State := match x.ring s with | some r => setRing s x.rk (r.freeSlot x.slot) | none => s
    let s1 := setArray s bk a { m with pend := r }
    let s2 := free s1 ra
    some (if ra = rb then s2 else free s2 rb)
  | _ => none

def execMmaExecute (bank arr : Nat) (s : State) : Host.Outcome State Fault Refusal := evStep s (mmaRun s bank arr)
def execMmaComplete (bank arr : Nat) (s : State) : Host.Outcome State Fault Refusal := evStep s (mmaEnd s bank arr)

/-- `MDRAIN` (08 R205). -/
def drainTo (z arr acc sat : Bool) (f : DrainFmt) (q : Nat) (k : Issue) (s : State) : Eff :=
  match pickArray s k arr with
  | none => .trap .arrayOwned (k.act s) 0 s
  | some y =>
    let m := getArray s (bankKey k.w) y
    if (m.queue q).length ≥ 4 then .trap .queueOverflow (k.act s) 0 s
    else if m.pend.length ≥ 2 then .park .wait s
    else
      let m1 := m.modQueue q fun es => es ++ [⟨f, .draining, ⟨none, []⟩, m.nextId⟩]
      .done (setArray s (bankKey k.w) y
        { m1 with pend := m1.pend ++ [.drain acc z sat f q m.nextId], nextId := m.nextId + 1 })

def execMdrainA32 (g : BitVec 2) (z arr acc : Bool) (f : DrainFmt) (q : BitVec 2) (s : State) : Host.Outcome State Fault Refusal :=
  issueWith (.mdrainA32 g z arr acc f q) s (drainTo z arr acc false f q.toNat)

def execMdrainB64 (g : BitVec 1) (z arr acc : Bool) (f : DrainFmt) (q : BitVec 2) (sat : Bool) (s : State) :
    Host.Outcome State Fault Refusal :=
  issueWith (.mdrainB64 g z arr acc f q sat) s (drainTo z arr acc sat f q.toNat)

def drainFmt (f : DrainFmt) : Option Fmt :=
  match f with
  | .w32 => none | .f16 => some fmtF16 | .bf16 => some fmtBF16 | .e4m3 => some fmtE4M3 | .e5m2 => some fmtE5M2

/-- An accumulator element in an entry's format (08 R205). -/
def drainWord (f : DrainFmt) (sat : Bool) (v : Word) : Word :=
  match drainFmt f with
  | none => v
  | some x => BitVec.ofNat 32 (fpConvert x .rne sat (fpDecode fmtF32 v.toNat)).1

/-- The oldest accepted instruction, an `MDRAIN`, executes and leaves the array. -/
def drainRun (s : State) (bk a : Nat) : Option State :=
  let m := getArray s bk a
  match m.pend with
  | .drain acc z sat f q id :: r =>
    let img : Image := ⟨none, (List.range 16384).map fun i => (i, drainWord f sat (imgAt s (m.acc acc) i))⟩
    let m1 := m.modQueue q fun es => es.map fun e => if e.id = id then { e with st := .ready, img := img } else e
    let m2 := if z then m1.setAcc acc ⟨some 0, []⟩ else m1
    some (setArray s bk a { m2 with pend := r })
  | _ => none

def execMdrainExecute (bank arr : Nat) (s : State) : Host.Outcome State Fault Refusal := evStep s (drainRun s bank arr)

/-! Result queues (08 R204, R206, R207). -/

/-- The oldest unclaimed entry: none is an underflow; one still draining is waited for. -/
def oldestEntry (m : MArray) (q : Nat) : Option ResEntry := (m.queue q).find? fun e => e.st != .claimed

/-- An instruction that takes entries: `f` gets the array and the ready entry. -/
def withEntry (arr : Bool) (q : Nat) (k : Issue) (s : State) (f : Nat → ResEntry → Eff) : Eff :=
  match pickArray s k arr with
  | none => .trap .arrayOwned (k.act s) 0 s
  | some y =>
    match oldestEntry (getArray s (bankKey k.w) y) q with
    | none => .trap .queueUnderflow (k.act s) 0 s
    | some e => if e.st == .draining then .park .wait s else f y e

def dropEntry (s : State) (bk y q id : Nat) : State :=
  setArray s bk y ((getArray s bk y).modQueue q fun es => es.filter (·.id != id))
def claimEntry (s : State) (bk y q id : Nat) : State :=
  setArray s bk y ((getArray s bk y).modQueue q fun es => es.map fun e => if e.id = id then { e with st := .claimed } else e)

def execMpop (g : BitVec 2) (arr last : Bool) (d : Reg) (q : BitVec 2) (c : BitVec 5) (s : State) :
    Host.Outcome State Fault Refusal :=
  issueWith (.mpop g arr last d q c) s fun k s =>
    withEntry arr q.toNat k s fun y e =>
      let at_ (i m : Nat) : Word := imgAt s e.img (128 * i + 4 * c.toNat + m)
      let s1 := writeLanesL s k d 8 bFloat fun l =>
        (List.range 4).map (at_ (2 * l)) ++ (List.range 4).map (at_ (2 * l + 1))
      .done (if last then dropEntry s1 (bankKey k.w) y q.toNat e.id else s1)

def drainSize (f : DrainFmt) : Nat := match f with | .w32 => 4 | .f16 => 2 | .bf16 => 2 | .e4m3 => 1 | .e5m2 => 1

/-- `STQ` claims its entry when it first issues, held or not, and keeps it over a reissue (08 R204). -/
def stqClaim (y q id : Nat) (k : Issue) (s : State) : State :=
  modEntry (claimEntry s (bankKey k.w) y q id) k.uid k.w.nextSeq fun e => { e with slot := some (y, q, id) }

def stqLane (a : Nat) : LaneIssue := fun e k l s =>
  let v := readTriple s k.w a l
  match e.slot with
  | none => (s, .done)
  | some x => (s, .inflight (.engine [x.1, x.2.1, x.2.2, flag (tripleBad s k.w a l), v.toNat]) v)

def execStq (g : BitVec 2) (arr : Bool) (q : BitVec 2) (a : Reg) (s : State) : Host.Outcome State Fault Refusal :=
  issueWith (.stq g arr q a) s fun k s =>
    withEntry arr q.toNat k s fun y e => batchClaim (.stq g arr q a) [k.low] (stqLane a.toNat) (stqClaim y q.toNat e.id k) k s

/-- Elements of an image stored by core `p` in ascending order as pieces of a record; those that fail are left, with the first
failure. -/
def storePieces (p : Nat) (c : Context) (r : TRec) (img : Image) (all : List Nat) (todo : List Nat) (s : State) : State × List Nat × Option AccErr :=
  todo.foldl (fun (acc : State × List Nat × Option AccErr) i =>
    let (s, left, err) := acc
    match (Side.record r).loc s c .write i with
    | .ok (b, n) =>
      if (Side.record r).shadowed all i then (s, left, err)
      else (b.touched true (coreWrite s p b (natLe n (imgAt s img i).toNat)), left, err)
    | .error f => (s, left ++ [i], err.or (some f))) (s, [], none)

/-- `STQ` writes its entry through its record (08 R206). -/
def runStq (s : State) (u : Nat) (w : Wave) (e : Entry) (c : Context) (l : Nat) (args : List Nat) : State :=
  match args with
  | [y, q, id, bad, va] =>
    match readRec s (some w.core) c (bad == 1) (BitVec.ofNat 80 va), ((getArray s (bankKey w) y).queue q).find? (·.id == id) with
    | .error x, _ => setLane s u e.seq l (.faulted x.1 x.2.1 x.2.2)
    | .ok _, none => setLane s u e.seq l .done
    | .ok (s1, r), some x =>
      let a := BitVec.ofNat 80 va
      if r.fmt ≠ x.fmt.code ∨ r.rank < 2 ∨ r.dims ≠ [128, 128, 1, 1] then setLane s1 u e.seq l (.faulted .tensorRecord a a)
      else
        let todo := e.rest.getD (List.range 16384)
        let (s2, left, err) := storePieces w.core c r x.img todo todo s1
        let s3 := if err.isNone then dropEntry s2 (bankKey w) y q id else s2
        endCopy s3 u e.seq l none left [] err
  | _ => setLane s u e.seq l .done

/-- The rows of a record, and of its scales, as ranges (address, length): what its pieces take. -/
def TRec.rows (r : TRec) : List (Nat × Nat) :=
  ((List.range r.outer).map fun j => ((r.base + rowOff r r.sds j) % 2 ^ 80, r.rowN * r.size)) ++
    if r.mx then (List.range r.outer).map fun j => ((r.sbase + rowOff r r.xsds j) % 2 ^ 80, r.dim 0 / 32) else []

/-- The tensor record at `va`, and its rows, or those of its pieces that are left, as virtual ranges with whether they are
written. -/
def recRanges (s : State) (c : Context) (wr : Bool) (bad va : Nat) (todo : Option (List Nat)) : List ((Nat × Nat) × Bool) :=
  ((va, 64), false) :: match readRec s none c (bad == 1) (BitVec.ofNat 80 va) with
    | .ok (_, r) => ((todo.map fun l => l.map r.piece).getD r.rows).map fun x => (x, wr)
    | .error _ => []

/-- Ranges of global memory that a copy, an `STQ` or a `CRED` names; `todo` are the pieces that a copy has left. -/
def engRanges (s : State) (c : Context) (i : Instr) (todo : Option (List Nat)) (args : List Nat) : List ((Nat × Nat) × Bool) :=
  match i, args with
  | .stq _ _ _ _, [_, _, _, bad, va] => recRanges s c true bad va todo
  | .cred _ _ _ _, [db, d, _, cv, sb, a] => ((cv, 256), false) :: recRanges s c true db d none ++ recRanges s c false sb a none
  | .copy _ _ _, [_, db, d, sb, a] => recRanges s c true db d todo ++ recRanges s c false sb a todo
  | .copyS _ _ _, [_, _, sb, a] => recRanges s c false sb a todo
  | .copyG _ _ _, [_, db, d, _] => recRanges s c true db d todo
  | .copyR _ _ _, [_, _, _, _, _, sb, a] => recRanges s c false sb a todo
  | _, _ => []

/-- A copy names the buffer. -/
def Buffer.named (b : Buffer) (s : State) (c : Context) (i : Instr) (args : List Nat) : Bool :=
  isCopy i && (engRanges s c i none args).any fun r => decide (r.1.1 < b.va + b.len) && decide (b.va < r.1.1 + r.1.2)

/-- A migration holds the copy: it started after the hold of a buffer that it names (06 R168). -/
def copyHeld (s : State) (c : Context) (e : Entry) (args : List Nat) : Bool :=
  c.bufs.any fun b => b.hold.any (fun h => decide (h < e.issued)) && b.named s c e.instr args

/-- COPY_COMPLETE: a copy or an `STQ` runs and ends (08 R199, R206), after the answers of the peers it reaches. -/
def copyEnd (s : State) (u seq : Nat) : Option State :=
  match findEntry s u seq with
  | none => none
  | some (w, e, c) =>
    match engineLane e with
    | none => none
    | some (l, args) =>
      if copyHeld s c e args then none else
      asking s u e c l (engRanges s c e.instr e.rest args) <| match e.instr with
        | .copy _ _ _ => some (runCopy s u w e c l args)
        | .copyS _ _ _ => some (runCopy s u w e c l args)
        | .copyG _ _ _ => some (runCopy s u w e c l args)
        | .copyR _ _ _ => some (runCopy s u w e c l args)
        | .stq _ _ _ _ => some (runStq s u w e c l args)
        | _ => none

def execCopyComplete (u seq : Nat) (s : State) : Host.Outcome State Fault Refusal := evStep s (copyEnd s u seq)

/-! Multicast (08 R207). -/

/-- The ring key of rank `m` of the wave's cluster. -/
def rankRing (s : State) (w : Wave) (m j : Nat) : Option (Nat × Wg) :=
  match rankWg s w m with
  | none => none
  | some g => (wgOf s w.grid g).map fun x => (8 * (16 * x.core + w.ctx) + j, x)

/-- Why rank `m` cannot receive into ring `j`. -/
def rankBad (s : State) (w : Wave) (m j : Nat) : Option Cause :=
  match rankRing s w m j with
  | none => some .ringConfig
  | some (rk, x) =>
    match getRing s rk with
    | none => some .ringConfig
    | some r =>
      if x.retired ∨ r.grid ≠ w.grid ∨ some r.wg ≠ rankWg s w m ∨ r.bytes < 8192 then some .ringConfig
      else if r.closedIn s then some .pipelineClosed else none

/-- Rank `m` takes the line images now, or needs none. -/
def rankFree (s : State) (w : Wave) (m j : Nat) : Bool :=
  (rankBad s w m j).isSome || match rankRing s w m j with
    | some (rk, _) => (getRing s rk).any fun r => !r.full
    | none => true

/-- Bytes 64c to 64c + 63 of the 128 rows of an entry. -/
def chunkBytes (s : State) (e : ResEntry) (c : Nat) : List Byte :=
  let n := drainSize e.fmt
  (List.range 128).flatMap fun i =>
    (List.range (64 / n)).flatMap fun j => natLe n (imgAt s e.img (128 * i + 64 / n * c + j)).toNat

def maskRanks (v : Nat) : List Nat := (List.range 12).filter (bitOf v)

/-- What an `MCAST` keeps of one receiver: rank, state (0 its slot is reserved, 1 unusable with "ring config", 2 with
"pipeline closed", 3 its slot is filled, 4 it waits for its slot, at a reissue), ring key and slot. -/
structure Recv where
  rank : Nat
  st : Nat
  rk : Nat
  slot : Nat
deriving DecidableEq, Repr

def recvList (rest : List Nat) : List Recv :=
  match rest with
  | m :: st :: rk :: i :: r => ⟨m, st, rk, i⟩ :: recvList r
  | _ => []
def recvWords (rs : List Recv) : List Nat := rs.flatMap fun r => [r.rank, r.st, r.rk, r.slot]

/-- Rank `m` as the operation finds it: unusable, or its slot at TAIL reserved, or still to wait for. -/
def takeRank (s : State) (w : Wave) (j m : Nat) : State × Recv :=
  match rankBad s w m j with
  | some .pipelineClosed => (s, ⟨m, 2, 0, 0⟩)
  | some _ => (s, ⟨m, 1, 0, 0⟩)
  | none =>
    match rankRing s w m j with
    | none => (s, ⟨m, 1, 0, 0⟩)
    | some (rk, _) =>
      match getRing s rk with
      | none => (s, ⟨m, 1, 0, 0⟩)
      | some r => if r.full then (s, ⟨m, 4, rk, 0⟩) else (setRing s rk r.reserve, ⟨m, 0, rk, r.tail⟩)

/-- The receivers `ms` of ring `j`: those served before stay served. -/
def takeRanks (s : State) (w : Wave) (j : Nat) (old : List Recv) (ms : List Nat) : State × List Recv :=
  ms.foldl (fun acc m => match old.find? fun r => r.rank == m && r.st == 3 with
    | some r => (acc.1, acc.2 ++ [r])
    | none => ((takeRank acc.1 w j m).1, acc.2 ++ [(takeRank acc.1 w j m).2])) (s, [])

/-- vm names no set of receivers, or bytes, that an `MCAST` can send (08 R207). DESIGN CHOICE (assumption 53): the sender of a
spawned wave has no cluster, and its `MCAST` traps too. -/
def mcastBad (s : State) (w : Wave) (e : ResEntry) (v : Nat) : Bool :=
  v % 4096 == 0 || w.spawned || ((maskRanks v).any fun m => decide (gridS s w.grid ≤ m)) || bitOf v 15 || v / 2 ^ 19 != 0 ||
    decide (128 * drainSize e.fmt ≤ bitsOf v 18 16 * 64)

/-- The entry that an `MCAST` sends, kept from its first issue. -/
def mcastClaim (y q : Nat) (x : ResEntry) (k : Issue) (s : State) : State :=
  modEntry s k.uid k.w.nextSeq fun e =>
    { e with image := some x, slot := if x.st = .claimed then some (y, q, x.id) else none }

/-- The operation's arguments, ring and chunk, from vm as it now stands; its receivers are judged and their slots reserved.
A reissue that finds vm bad faults. -/
def mcastLane (a : Nat) : LaneIssue := fun e k l s =>
  let v := (readLane s k.w a l).toNat
  match e.image with
  | none => (s, .done)
  | some x =>
    if mcastBad s k.w x v then (s, .faulted .multicastShape 0 0)
    else
      let r := takeRanks s k.w (bitsOf v 14 12) (recvList (e.rest.getD [])) (maskRanks v)
      (modEntry r.1 k.uid e.seq fun e => { e with rest := some (recvWords r.2) },
        .inflight (.engine [bitsOf v 14 12, bitsOf v 18 16]) 0)

/-- A queue entry that was taken becomes the oldest unclaimed one again. -/
def unclaim (s : State) (bk y q : Nat) (x : ResEntry) : State :=
  setArray s bk y ((getArray s bk y).modQueue q fun es => es.map fun e => if e.id = x.id then { e with st := .ready } else e)

def execMcast (g : BitVec 2) (arr last : Bool) (q : BitVec 2) (a : Reg) (s : State) : Host.Outcome State Fault Refusal :=
  issueWith (.mcast g arr last q a) s fun k s =>
    let v := (readLane s k.w a.toNat k.low).toNat
    let send (y q' : Nat) (x : ResEntry) (s : State) : Eff :=
      if k.w.entries.length ≥ 64 ∧ k.w.entries.all Entry.stuck = true then .report (unclaim s (bankKey k.w) y q' x)
      else if k.w.entries.length < 64 ∧ ((maskRanks v).all fun m => rankFree s k.w m (bitsOf v 14 12)) = true then
        batchClaim (.mcast g arr last q a) [k.low] (mcastLane a.toNat) (mcastClaim y q' x k) k s
      else .park (.mcast y q' x) s
    match k.f.park with
    | .mcast y q' x => send y q' x s
    | _ =>
      withEntry arr q.toNat k s fun y e =>
        if mcastBad s k.w e v then .trap .multicastShape (k.act s) 0 s
        else if last then send y q.toNat { e with st := .claimed } (claimEntry s (bankKey k.w) y q.toNat e.id)
        else send y q.toNat e s

/-- A receiver's slot is written and filled; without its ring nothing is. -/
def fillRank (data : List Byte) (s : State) (x : Recv) : State :=
  match getRing s x.rk with
  | some r => setRing (writeLoc s (.share r.grid r.wg (r.base + x.slot * r.bytes)) data) x.rk (r.setSlot x.slot .filled)
  | none => s

/-- MULTICAST_TRANSFER: every usable receiver takes the lines, those a reissue waited for included; with one that was found
unusable the operation ends in error. DESIGN CHOICE (assumption 53): with receivers unusable for both reasons the entry's one
cause, which 08 R207 does not fix, is "ring config". -/
def mcastTransfer (s : State) (u seq : Nat) : Option State :=
  match findEntry s u seq with
  | none => none
  | some (w, e, _) =>
    match e.instr, engineLane e, e.image with
    | .mcast _ _ _ _ _, some (l, [j, c]), some x =>
      let rs := recvList (e.rest.getD [])
      if rs.any fun r => r.st == 4 && !rankFree s w r.rank j then none
      else
        let waited := takeRanks s w j [] ((rs.filter (·.st == 4)).map (·.rank))
        let all := rs.filter (·.st != 4) ++ waited.2
        let s1 := (all.filter (·.st == 0)).foldl (fillRank (chunkBytes s x c)) waited.1
        let s2 := modEntry s1 u seq fun e =>
          { e with rest := some (recvWords (all.map fun r => if r.st = 0 then { r with st := 3 } else r)) }
        let s3 := match e.slot with | some (y, q, id) => dropEntry s2 (bankKey w) y q id | none => s2
        some (if all.any (·.st == 1) then setLane s3 u seq l (.faulted .ringConfig 0 0)
          else if all.any (·.st == 2) then setLane s3 u seq l (.faulted .pipelineClosed 0 0)
          else setLane s3 u seq l .done)
    | _, _, _ => none

def execMulticastTransfer (u seq : Nat) (s : State) : Host.Outcome State Fault Refusal := evStep s (mcastTransfer s u seq)

end Sys2Proof.Machine
end

