-- ==== Sys2Proof/Machine/Collective.lean ====
section
/-!
DEFINITION. Collectives: communicator records, the fixed order of combination, and `CRED` (10 R244 to R248).
-/

namespace Sys2Proof.Machine

/-- A communicator record (10 R244). -/
structure Comm where
  cid : Nat
  v : Nat
  g : Nat
  op : Nat
  ty : Nat
  place : List Nat
  nodes : List (Nat × Nat)
deriving DecidableEq, Repr

def parseComm (bs : List Byte) : Comm :=
  let g := fieldAt bs 6 2
  ⟨fieldAt bs 0 4, fieldAt bs 4 2, g, fieldAt bs 8 1, fieldAt bs 9 1, (List.range (min g 64)).map fun i => fieldAt bs (64 + i) 1,
    (List.range (min g 64 - 1)).map fun i => (fieldAt bs (128 + 2 * i) 1, fieldAt bs (129 + 2 * i) 1)⟩

/-- SHAPEID: the CRC of bytes 11:4 followed by bytes 255:128. -/
def shapeOf (bs : List Byte) : Nat := (crc32c (sliceBytes bs 4 8 ++ sliceBytes bs 128 128)).toNat

/-- The record is valid. -/
def commOk (bs : List Byte) (c : Comm) : Bool :=
  let kids := c.nodes.flatMap fun n => [n.1, n.2]
  decide (1 ≤ c.v) && decide (c.v ≤ 4096) && decide (1 ≤ c.g) && decide (c.g ≤ 64) && c.v % max c.g 1 == 0 &&
  decide (c.op ≤ 2) && decide (c.ty ≤ 3) && fieldAt bs 10 2 == 0 && allZero (sliceBytes bs 16 48) && fieldAt bs 254 2 == 0 &&
  allZero (sliceBytes bs (128 + 2 * (c.g - 1)) (126 - 2 * (c.g - 1))) &&
  (c.nodes.zipIdx.all fun n => [n.1.1, n.1.2].all fun k =>
    if k < 64 then decide (k < c.g) else decide (n.2 < k - 64) && decide (k - 64 < c.g - 1)) &&
  (c.g == 1 || (List.range c.g).all fun l => (kids.filter (· == l)).length == 1) &&
  ((List.range (c.g - 1)).all fun n => n == 0 || (kids.filter (· == 64 + n)).length == 1) &&
  fieldAt bs 12 4 == shapeOf bs

/-! Combination (10 R247). A value stands as a pattern: FP32 for types 0 and 2, FP64 for 1, a word for 3. -/

def commFmt (ty : Nat) : Fmt := if ty = 1 then fmtF64 else fmtF32

def widen (ty v : Nat) : Nat := if ty = 2 then (fpConvert fmtF32 .rne false (fpDecode fmtBF16 v)).1 else v
def narrow (ty v : Nat) : Nat := if ty = 2 then (fpConvert fmtBF16 .rne false (fpDecode fmtF32 v)).1 else v

/-- Larger or smaller, −0 below +0, NaN if either is. -/
def commPick (f : Fmt) (mx : Bool) (a b : Nat) : Nat :=
  let x := fpDecode f a
  let y := fpDecode f b
  if x.isNaN || y.isNaN then fpNaN f
  else
    let below := fvCmp x y < 0 || (fvCmp x y == 0 && x.neg && !y.neg)
    if below == mx then b else a

def sgn32 (v : Nat) : Int := (BitVec.ofNat 32 v).toInt

def comb (op ty a b : Nat) : Nat :=
  if ty = 3 then
    match op with
    | 0 => (a + b) % 2 ^ 32
    | 1 => if sgn32 a < sgn32 b then b else a
    | _ => if sgn32 b < sgn32 a then b else a
  else
    let f := commFmt ty
    match op with
    | 0 => (fpAdd f .rne false (fpDecode f a) (fpDecode f b)).1
    | 1 => commPick f true a b
    | _ => commPick f false a b

/-- The value of a child code: a segment's fold or a node's. -/
def treeVal (c : Comm) (seg : Nat → Nat) (fuel code : Nat) : Nat :=
  if code < 64 then seg code
  else match fuel with
    | 0 => 0
    | fuel + 1 =>
      match c.nodes[code - 64]? with
      | some (l, r) => comb c.op c.ty (treeVal c seg fuel l) (treeVal c seg fuel r)
      | none => 0

/-- A NaN as the device writes it (05 R112). -/
def commNaN (ty v : Nat) : Nat := if ty ≠ 3 ∧ (fpDecode (commFmt ty) v).isNaN = true then fpNaN (commFmt ty) else v

/-- The result of one element from the segments' folds; every NaN result is canonical. -/
def commResult (c : Comm) (seg : Nat → Nat) : Nat :=
  narrow c.ty (commNaN c.ty (if c.g = 1 then seg 0 else treeVal c seg 64 64))

/-- The records fit the communicator (10 R247). -/
def commFits (c : Comm) (src dst : TRec) : Bool :=
  let fmt := if c.ty = 1 then 10 else if c.ty = 2 then 2 else 0
  let locals := (c.place.filter (· == 255)).length
  src.fmt == fmt && dst.fmt == fmt && src.rank == dst.rank + 1 &&
    ((List.range dst.rank).all fun i => src.dim i == dst.dim i) && src.dim dst.rank == locals * (c.v / max c.g 1)

/-- All pieces of a record read, in ascending order. -/
def readPieces (s : State) (c : Context) (r : TRec) (n : Nat) : Except AccErr (State × List Nat) :=
  (List.range n).foldl (fun (acc : Except AccErr (State × List Nat)) i => match acc with
    | .error e => .error e
    | .ok (s, vs) =>
      match (Side.record r).loc s c .read i with
      | .error e => .error e
      | .ok (l, m) => .ok (l.touched false s, leNat (readLoc s l m) :: vs)) (.ok (s, []))
    |>.map fun x => (x.1, x.2.reverse)

def writePieces (s : State) (c : Context) (r : TRec) (vs : List Nat) : Except AccErr State :=
  vs.zipIdx.foldl (fun (acc : Except AccErr State) v => match acc with
    | .error e => .error e
    | .ok s =>
      match (Side.record r).loc s c .write v.2 with
      | .error e => .error e
      | .ok (l, m) => .ok (l.touched true (writeLoc s l (natLe m v.1)))) (.ok s)

/-- The places of a record lose their values: they are undefined until they are written (00 R2). -/
def losePieces (s : State) (c : Context) (r : TRec) : State :=
  (List.range r.pieces).foldl (fun s i => match (Side.record r).loc s c .write i with
    | .ok (l, m) => l.lose m s
    | .error _ => s) s

/-- The communicator record read: 64-byte aligned and valid (10 R244, R248). -/
def readComm (s : State) (c : Context) (bad : Bool) (va : VA) : Except AccErr (State × Comm) :=
  if bad then .error (.nonCanonical, va, va)
  else if va.toNat % 64 ≠ 0 then .error (.communicator, va, va)
  else match engRead s none c va.toNat 256 with
    | .error e => .error e
    | .ok (s1, bs) => if commOk bs (parseComm bs) then .ok (s1, parseComm bs) else .error (.communicator, va, va)

/-- Segments and the values that the collective's members contribute: a local segment is folded from the source in
ascending virtual-rank order; another package's comes with its answer. -/
def segVal (c : Comm) (src : List Nat) (count e : Nat) (sums : List (Nat × List Dword)) (g : Nat) : Nat :=
  if (c.place.getD g 0) = 255 then
    let per := c.v / max c.g 1
    let before := ((c.place.take g).filter (· == 255)).length * per
    let x (j : Nat) : Nat := widen c.ty (src.getD (e + (before + j) * count) 0)
    (List.range (per - 1)).foldl (fun a j => comb c.op c.ty a (x (j + 1))) (x 0)
  else ((assocGet sums g).bind fun vs => vs[e]?).getD 0 |>.toNat

/-- Other packages that hold segments of a communicator. -/
def Comm.others (m : Comm) : List Nat := m.place.filter (· != 255)

/-- A member of the collective has become unreachable under the port timer: it has no port left, or its port's timer has run
since the `CRED` issued (10 R248, 12 R304). -/
def memberGone (s : State) (m : Comm) (issued : Nat) : Bool :=
  m.others.any fun p => match assocGet s.hub.peers p with
    | none => true
    | some r => r.ports.isEmpty || r.ports.any fun n => (assocGet s.hub.ports n).any fun t => decide (issued + 2 ^ t.logT ≤ s.cycle)

/-- Every other member may answer: a port to it is up (10 R248, 12 R304). DEDUCED (assumption 29): its part comes when its own
`CRED` issues, which no port timer bounds. -/
def membersAnswer (s : State) (m : Comm) : Bool :=
  m.others.all fun p => (assocGet s.hub.peers p).any fun r => r.ports.any fun n =>
    (assocGet s.hub.ports n).any fun t => t.up && !t.training

/-- A `CRED` that names a communicator is the next of its CID on this package (10 R248), from the moment its record is first read:
its entry keeps CID and number, over a reissue too, and its completion names the entry, so the answers it brings are those of the
other members' `CRED`s of that number. -/
def credNumber (s : State) (u : Nat) (e : Entry) (m : Comm) : State :=
  if e.rest.isSome then s
  else
    let n := (assocGet s.hub.colls m.cid).getD 0 + 1
    modEntry (modHub s fun h => { h with colls := assocSet h.colls m.cid n }) u e.seq fun e => { e with rest := some [m.cid, n] }

/-- The operation ends (10 R248): with its destination written, or with an error and the destination undefined. Only another
member can disagree, and only another member can be lost. -/
def credRun (s : State) (u seq : Nat) (r : CollRemote) : Option State :=
  match findEntry s u seq with
  | none => none
  | some (_, e, c) =>
    match e.instr, engineLane e with
    | .cred _ _ _ _, some (l, [db, d, cb, cv, sb, sv]) =>
      let va (n : Nat) : VA := BitVec.ofNat 80 n
      let fail (s : State) (x : AccErr) : Option State := some (setLane s u seq l (.faulted x.1 x.2.1 x.2.2))
      match readComm s c (cb == 1) (va cv) with
      | .error x => fail s x
      | .ok (s0, m) =>
        let s1 := credNumber s0 u e m
        match readRec s1 none c (sb == 1) (va sv), readRec s1 none c (db == 1) (va d) with
        | .error x, _ => fail s1 x
        | _, .error x => fail s1 x
        | .ok (s2, src), .ok (_, dst) =>
          if !commFits m src dst then fail s1 (.tensorRecord, va d, va d)
          else
            let n := dst.pieces
            let lost (c' : Cause) : Option State := fail (losePieces s2 c dst) (c', 0, 0)
            match r with
            | .mismatch => if m.others.isEmpty then none else lost .collectiveMismatch
            | .memberLost => if memberGone s m e.issued then lost .collectiveMemberLost else none
            | .sums sums =>
              if (List.range m.g).any fun g => m.place.getD g 0 != 255 &&
                  ((assocGet sums g).map (·.length)).getD 0 != n || !membersAnswer s m then none
              else asking s u e c l (engRanges s c e.instr none [db, d, cb, cv, sb, sv]) <| match readPieces s2 c src src.pieces with
                | .error x => fail s1 x
                | .ok (s3, vs) =>
                  match writePieces s3 c dst ((List.range n).map fun i => commResult m (segVal m vs n i sums)) with
                  | .error x => fail s3 x
                  | .ok s4 => some (setLane s4 u seq l .done)
    | _, _ => none

/-- The communicator record is read at the issue and, where that failed, at each reissue. -/
def credRead (b : Nat) (e : Entry) (k : Issue) (s : State) : State :=
  match readComm s k.c (tripleBad s k.w b k.low) (readTriple s k.w b k.low) with
  | .error _ => s
  | .ok (s1, m) => credNumber s1 k.uid e m

def credLane (d a b : Nat) : LaneIssue := fun e k l s =>
  let t (r : Nat) : List Nat := [flag (tripleBad s k.w r l), (readTriple s k.w r l).toNat]
  (credRead a e k s, .inflight (.engine (t d ++ t a ++ t b)) (readTriple s k.w a l))

/-- A `CRED` takes its number when it first issues, held or not. -/
def credClaim (i : Instr) (b : Nat) (k : Issue) (s : State) : State := credRead b (k.entry s i) k s

def execCred (g : BitVec 1) (d a b : Reg) (s : State) : Host.Outcome State Fault Refusal :=
  issueWith (.cred g d a b) s fun k s =>
    batchClaim (.cred g d a b) [k.low] (credLane d.toNat a.toNat b.toNat) (credClaim (.cred g d a b) a.toNat k) k s

def execCollectiveComplete (u seq : Nat) (r : CollRemote) (s : State) : Host.Outcome State Fault Refusal :=
  evStep s (credRun s u seq r)

end Sys2Proof.Machine
end

