-- ==== Sys2Proof/Machine/Journal.lean ====
section
/-!
DEFINITION. Journal streams, the output queue and the frame governor: `JRNL`, `EMIT`, `JTRUNC`, `GOVQ`, and the
events of Larkspur (07 R187; 10 R249 to R261).
-/

namespace Sys2Proof.Machine

/-! Streams (10 R249). -/

def getStream (s : State) (q : Nat) : Option Stream := assocGet s.hub.streams q
def modStream (s : State) (q : Nat) (f : Stream → Stream) : State :=
  modHub s fun h => { h with streams := assocMod h.streams q f }

/-- Place of a sequence number, counted from FIRST − 1 modulo 2^64. -/
def Stream.pos (t : Stream) (x : Dword) : Nat := (x - (t.first - 1)).toNat
/-- `a` is above `b` modulo 2^64. -/
def seqAbove (a b : Dword) : Bool := a != b && !(a - b).getLsbD 63

/-- The counterpart's physical address: offset PAREA of the partner's region (12 R298, R300). -/
def partnerPa (t : Stream) : Nat := 2 * 2 ^ 50 + t.peer * 2 ^ 42 + t.parea

/-- A peer with ports (12 R304). -/
def reachable (s : State) (p : Nat) : Bool := (assocGet s.hub.peers p).any fun r => !r.ports.isEmpty

/-- A message to a peer's address at offset `off`. -/
def sendMsg (s : State) (peer off kind n : Nat) : State := linkSend s (2 * 2 ^ 50 + peer * 2 ^ 42 + off % 2 ^ 42) kind n

/-- The header of an area (10 R249). -/
def areaHeader (t : Stream) (q : Nat) (hseq : Dword) : List Byte :=
  t.wdig ++ natLe 4 t.shapeid.toNat ++ natLe 4 t.mode.toNat ++ natLe 4 q ++ natLe 4 t.cap ++ natLe 8 t.tseq.toNat ++
    natLe 8 t.first.toNat ++ natLe 8 hseq.toNat ++ List.replicate 24 0

/-- Bytes written to the partner's memory. -/
def partnerPut (s : State) (t : Stream) (off : Nat) (bs : List Byte) (n : Nat) : State :=
  sendMsg (physPut s (partnerPa t + off) bs) t.peer (t.parea + off) 2 n

/-- A record (10 R250). -/
def recordOf (q : Nat) (sq : Dword) (token : Word) (ctr : Dword) (routes : List Nat) (gov : Word) (flags : Nat) : List Byte :=
  let body := natLe 4 q ++ natLe 8 sq.toNat ++ natLe 4 token.toNat ++ natLe 8 ctr.toNat ++
    ((List.range 8).flatMap fun i => natLe 2 (routes.getD i 0)) ++ natLe 4 gov.toNat ++ natLe 2 flags ++ List.replicate 14 0
  body ++ natLe 4 (crc32c body).toNat

def recordCrcOk (bs : List Byte) : Bool := fieldAt bs 60 4 == (crc32c (bs.take 60)).toNat

/-- Where record `x` stands in the partner's region. -/
def recordPa (t : Stream) (x : Dword) : Nat :=
  2 * 2 ^ 50 + t.peer * 2 ^ 42 + (t.parea + 128 + 64 * (x.toNat % t.cap)) % 2 ^ 42

/-- The request that hands over record `x` of a lane: the port it leaves on, and the cycle (12 R300, R301). -/
def recordAsk (s : State) (u seq l : Nat) (t : Stream) (x : Dword) : State :=
  let as := match portOf s (recordPa t x) with | some p => [(⟨l, p, s.cycle, 0, t.peer, false⟩ : Ask)] | none => []
  modWave s u fun w => { w with entries := w.entries.map fun e =>
    if e.seq = seq then { e with asks := e.asks.filter (·.lane != l) ++ as } else e }

/-! Operations in flight on a stream. -/

/-- The operation itself, sent or not. -/
def Op.inner (o : Op) : Op := match o with | .sent _ _ _ o => o | o => o

/-- In-flight operations of a stream: wave, entry, lane, operation. -/
def streamOps (s : State) (q : Nat) : List (Nat × Nat × Nat × Op) :=
  s.waves.flatMap fun e => e.2.entries.flatMap fun d => d.lanes.filterMap fun l => match l.2 with
    | .inflight op _ =>
      (match op.inner with
       | .journal k _ _ => if k = q then some (e.1, d.seq, l.1, op.inner) else none
       | .emit k _ _ _ => if k = q then some (e.1, d.seq, l.1, op.inner) else none
       | .truncate k _ _ => if k = q then some (e.1, d.seq, l.1, op.inner) else none
       | _ => none)
    | _ => none

def journalDest (i : Instr) : Nat :=
  match i with
  | .jrnl _ d _ _ => d.toNat | .govqJ _ d _ => d.toNat | .govq _ d _ => d.toNat
  | _ => 0

/-- A journalled operation completes: its number, or the governor's word, is written. -/
def journalDone (s : State) (u seq l : Nat) (sq : Dword) (gov : Option (Word × LaneMask)) : State :=
  match findEntry s u seq with
  | none => s
  | some (_, e, _) =>
    let d := journalDest e.instr
    let wr (w : Wave) : Wave := match gov with
      | none => writeVal w 2 d l sq
      | some (v, ls) => (laneList ls).foldl (fun w m => writeLane w d m v) w
    setLane (modWave s u wr) u seq l .done

/-- Operations fail with cause "journal lost"; an `EMIT` behind a failed record fails with it (10 R255). -/
def journalFail (s : State) (q : Nat) (emits : Bool) : State :=
  let ops := streamOps s q
  let dead := ops.filter fun o => match o.2.2.2 with | .journal _ _ _ => true | .truncate _ _ _ => true | _ => emits
  let recs := (dead.filter fun o => match o.2.2.2 with | .journal _ _ _ => true | _ => false).map fun o => (o.1, o.2.1)
  let follow := ops.filter fun o => match o.2.2.2 with
    | .emit _ _ _ after => !emits && recs.any fun r => r.1 == o.1 && after.contains r.2
    | _ => false
  (dead ++ follow).foldl (fun t o => setLane t o.1 o.2.1 o.2.2.1 (.faulted .journalLost 0 0)) s

/-- `JTRUNC`s whose TSEQ the partner has confirmed its header to carry complete (10 R257). -/
def truncsDone (s : State) (q : Nat) : State :=
  match getStream s q with
  | none => s
  | some t => (streamOps s q).foldl (fun s o => match o.2.2.2 with
      | .truncate _ x true => if t.pos x ≤ t.pos t.peerTseq then setLane s o.1 o.2.1 o.2.2.1 .done else s
      | _ => s) s

/-- `JTRUNC`s in flight on a stream whose TSEQ stands in the local header wait from now on for the partner's confirmation of a
header sent to it. -/
def truncsSent (s : State) (q : Nat) (t : Stream) : State :=
  (streamOps s q).foldl (fun s o => match o.2.2.2, portOf s (partnerPa t) with
    | .truncate _ x true, some p => setLane s o.1 o.2.1 o.2.2.1 (.inflight (.sent p s.cycle 0 (.truncate q x true)) 0)
    | _, _ => s) s

/-- Records that lanes wait for are handed over again. -/
def recordsAsked (s : State) (q : Nat) (t : Stream) : State :=
  (streamOps s q).foldl (fun s o => match o.2.2.2 with
    | .journal _ x _ => recordAsk s o.1 o.2.1 o.2.2.1 t x
    | _ => s) s

/-- The stream's partner is named: header with the current TSEQ written there, records above TSEQ sent again in order
(10 R254). DESIGN CHOICE (assumption 53): the header's HSEQ, which the rule does not give, is TSEQ. -/
def namePartner (s : State) (q peer : Nat) : State :=
  match getStream s q with
  | none => s
  | some t0 =>
    let t := { t0 with st := .open_, peer := peer, peerTseq := t0.first - 1 }
    let s1 := partnerPut (modStream s q fun _ => t) t 0 (areaHeader t q t.tseq) t.tseq.toNat
    let n := (t.next - 1 - t.tseq).toNat
    let s2 := (List.range n).foldl (fun s i =>
      let x := (t.tseq + 1 + BitVec.ofNat 64 i).toNat
      sendMsg s peer (t.parea + 128 + 64 * (x % t.cap)) 0 x) s1
    truncsSent (recordsAsked s2 q t) q t

/-- The partner is lost: sending stops and firmware is notified (10 R254). -/
def loseStream (s : State) (q : Nat) : State :=
  modStream s q fun t => if t.st = .open_ then { t with st := .reassigning } else t

/-- Streams whose partner has no ports left (12 R304). -/
def loseUnreachable (s : State) : State :=
  s.hub.streams.foldl (fun s t => if reachable s t.2.peer then s else loseStream s t.1) s

/-! Records (10 R252, R261). -/

/-- What taking a record comes to. -/
inductive JOut where
  | fault (c : Cause) (addr : VA)
  | pend (s : State) (sq : Dword)
  | done (s : State) (sq : Dword)
deriving Repr

/-- A record written to the local area, with HSEQ, and handed over where the stream is Open. -/
def recordPut (s : State) (c : Context) (q : Nat) (t : Stream) (bs : List Byte) (sendIt : Bool) : Except AccErr State :=
  match engWrite s none c (t.area.toNat + 128 + 64 * (t.next.toNat % t.cap)) bs with
  | .error e => .error e
  | .ok s1 =>
    match engWrite s1 none c (t.area.toNat + 96) (natLe 8 t.next.toNat) with
    | .error e => .error e
    | .ok s2 =>
      let s3 := modStream s2 q fun t => { t with next := t.next + 1 }
      .ok (if sendIt && t.st == .open_ then sendMsg s3 t.peer (t.parea + 128 + 64 * (t.next.toNat % t.cap)) 0 t.next.toNat else s3)

/-- A stream in Replaying whose next number passes HSEQ of the area turns Open (10 R254). -/
def replayTurn (s : State) (q : Nat) : State :=
  match getStream s q with
  | some t =>
    if t.st = .replaying ∧ seqAbove t.next t.srcHseq then namePartner s q t.peer else s
  | none => s

/-- The stream checks shared by the instructions: bound to the context, not diverged, not failed (10 R252, R254). -/
def streamCheck (s : State) (x : Nat) (v : Word) : Except Cause Nat :=
  match getStream s v.toNat with
  | none => .error .journalStream
  | some t =>
    if v.toNat ≥ 4096 ∨ t.ctx ≠ x then .error .journalStream
    else match t.st with
      | .diverged => .error .replayDivergence
      | .failed => .error .journalLost
      | _ => .ok v.toNat

/-- One record numbered and journalled, or checked in replay. `mk` builds it from its number and, in replay, from the
journalled record. -/
def takeRecord (s0 : State) (c : Context) (q : Nat) (mk : Dword → Option (List Byte) → Option (List Byte)) : JOut :=
  let s := replayTurn s0 q
  match getStream s q with
  | none => .fault .journalStream 0
  | some t =>
    if (t.next - t.tseq).toNat > t.cap then .fault .journalFull 0
    else if t.st = .replaying then
      let va := t.src + BitVec.ofNat 80 (128 + 64 * (t.next.toNat % max t.srcCap 1))
      match engRead s none c va.toNat 64 with
      | .error e => .fault e.1 e.2.1
      | .ok (s1, old) =>
        match mk t.next (some old) with
        | some bs =>
          if recordCrcOk old ∧ fieldAt old 4 8 = t.next.toNat ∧ sliceBytes bs 4 56 = sliceBytes old 4 56 then
            match recordPut s1 c q t bs false with
            | .error e => .fault e.1 e.2.1
            | .ok s2 => .done s2 t.next
          else .fault .replayDivergence va
        | none => .fault .replayDivergence va
    else match mk t.next none with
      | none => .fault .journalRecord 0
      | some bs =>
        match recordPut s c q t bs true with
        | .error e => .fault e.1 e.2.1
        | .ok s2 => .pend s2 t.next

/-- After a divergence the stream is Diverged. -/
def journalFault (s : State) (q : Nat) (c : Cause) : State :=
  if c = .replayDivergence then modStream s q fun t => { t with st := .diverged } else s

/-- The record of `JRNL`'s payload, where it keeps 10 R251. -/
def jrnlRecord (ws : List Word) (q : Nat) (sq : Dword) : Option (List Byte) :=
  let w (i : Nat) : Nat := (ws.getD i 0).toNat
  let routes := (List.range 4).flatMap fun i => [w (3 + i) % 2 ^ 16, w (3 + i) / 2 ^ 16]
  let nrt := w 7 % 16
  if nrt > 8 ∨ bitsOf (w 7) 7 4 ≠ 0 ∨ w 7 / 2 ^ 16 ≠ 0 ∨ (routes.drop nrt).any (· != 0) then none
  else some (recordOf q sq (ws.getD 0 0) (ws.getD 2 0 ++ ws.getD 1 0) routes 0 (w 7))

/-- A record just taken is handed over, where its stream is Open. -/
def handOver (s : State) (u seq l q : Nat) (sq : Dword) : State :=
  match getStream s q with
  | some t => if t.st = .open_ then recordAsk s u seq l t sq else s
  | none => s

def jrnlLane (d a b : Nat) : LaneIssue := fun e k l s =>
  let ws := (List.range 8).map fun i => readLane s k.w (b + i) l
  match streamCheck s k.w.ctx (readLane s k.w a l) with
  | .error .journalStream => (s, .faulted .journalStream 0 0)
  | .error e => (s, .faulted (if (jrnlRecord ws 0 0).isNone then .journalRecord else e) 0 0)
  | .ok q =>
    if (jrnlRecord ws q 0).isNone then (s, .faulted .journalRecord 0 0)
    else match takeRecord s k.c q fun sq _ => jrnlRecord ws q sq with
      | .fault c va => (journalFault s q c, .faulted c va va)
      | .pend s1 sq => (handOver s1 k.uid e.seq l q sq, .inflight (.journal q sq none) 0)
      | .done s1 sq => (modWave s1 k.uid fun w => writeVal w 2 d l sq, .done)

/-- The streams of a `JRNL`'s lanes are kept with its entry. -/
def noteStreams (k : Issue) (note : List Nat) (e : Eff) : Eff :=
  match e with
  | .done t => .done (modWave t k.uid fun w => { w with entries := w.entries.map fun d =>
      if d.seq = k.w.nextSeq then { d with rest := some note } else d })
  | e => e

def execJrnl (g : BitVec 1) (d a b : Reg) (s : State) : Host.Outcome State Fault Refusal :=
  issueWith (.jrnl g d a b) s fun k s =>
    noteStreams k ((k.actList s).map fun l => l + 64 * (readLane s k.w a.toNat l).toNat)
      (batchOp (.jrnl g d a b) d.toNat 2 (jrnlLane d.toNat a.toNat b.toNat) k s)

/-! `EMIT` (10 R255, R256). -/

/-- Lanes of an entry that journal on stream `q`. -/
def journalsOn (e : Entry) (q l : Nat) : Bool :=
  match e.instr, e.rest with
  | .jrnl _ _ _ _, some ns => ns.contains (l + 64 * q)
  | .govqJ _ _ _, some [_, k] => k == q
  | _, _ => false

/-- The lane keeps its ordinal for its reissue. -/
def keepOrd (s : State) (u seq l : Nat) (o : Dword) : State :=
  modWave s u fun w => { w with entries := w.entries.map fun d =>
    if d.seq = seq then { d with rest := some (((d.rest.getD []).filter fun n => n % 64 != l) ++ [l + 64 * o.toNat]) } else d }

/-- Earlier entries of the wave with records of `q` not complete. -/
def recordsBefore (w : Wave) (seq q : Nat) : List Nat :=
  (w.entries.filter fun e => decide (e.seq < seq) && e.lanes.any fun l => journalsOn e q l.1 && l.2 != .done).map (·.seq)

/-- A lane with a record of `q` in one of the entries `es` is in a state that `p` names. -/
def recordsAny (w : Wave) (es : List Nat) (q : Nat) (p : LaneSt → Bool) : Bool :=
  w.entries.any fun d => es.contains d.seq && d.lanes.any fun x => journalsOn d q x.1 && p x.2

/-- One of the records ended in error, if only to be discarded (07 R187). -/
def recordLost (w : Wave) (c : Context) (es : List Nat) (q : Nat) : Bool :=
  w.lostRecs.contains q || recordsAny w es q fun x => x.stuck && !x.mends c

/-- A lane of an `EMIT` takes its ordinal once; behind a record that firmware may let complete yet it is held, and behind one that
ended in error it faults (06 R169, 10 R255). -/
def emitLane (a b : Nat) : LaneIssue := fun e k l s =>
  match streamCheck s k.w.ctx (readLane s k.w a l) with
  | .error c => (s, .faulted c 0 0)
  | .ok q =>
    match getStream s q with
    | none => (s, .faulted .journalStream 0 0)
    | some t =>
      let mine := (e.rest.getD []).find? fun n => n % 64 == l
      let o : Dword := match mine with | some n => BitVec.ofNat 64 (n / 64) | none => t.eord
      let s1 := if mine.isSome then s else modStream s q fun t => { t with eord := t.eord + 1 }
      let w := (assocGet s.waves k.uid).getD k.w
      let after := recordsBefore w e.seq q
      if recordLost w k.c after q then (s1, .faulted .journalLost 0 0)
      else if recordsAny w after q (LaneSt.mends k.c) then (keepOrd s1 k.uid e.seq l o, .held)
      else (s1, .inflight (.emit q (readLane s k.w b l) o after) 0)

def execEmit (g : BitVec 2) (d a : Reg) (s : State) : Host.Outcome State Fault Refusal :=
  issueWith (.emit g d a) s (batchOp (.emit g d a) 0 0 (emitLane d.toNat a.toNat))

/-- The entry and TAIL of an output queue written, where it has room: none while it is full. -/
def publish (s : State) (c : Context) (q : Nat) (t : Stream) (v : Word) (o : Dword) : Except AccErr (Option State) :=
  let at_ (n : Nat) := (t.oq.toNat + 2 ^ 80 - n) % 2 ^ 80
  match engRead s none c (at_ 16) 8, engRead s none c (at_ 8) 8 with
  | .error e, _ => .error e
  | _, .error e => .error e
  | .ok (s1, tb), .ok (_, hb) =>
    let tail := leNat tb
    if (tail + 2 ^ 64 - leNat hb) % 2 ^ 64 ≥ t.oqN then .ok none
    else match engWrite s1 none c (t.oq.toNat + 16 * (tail % t.oqN)) (natLe 4 v.toNat ++ natLe 4 q ++ natLe 8 o.toNat) with
      | .error e => .error e
      | .ok s2 =>
        match engWrite s2 none c (at_ 16) (natLe 8 (tail + 1)) with
        | .error e => .error e
        | .ok s3 => .ok (some s3)

/-- One lane of an `EMIT` is published, once the wave's earlier records of the stream are acknowledged, its release
is done, and lower lanes of the `EMIT` on the same stream have published. -/
def emitRun (s : State) (u seq l : Nat) : Option State :=
  match findEntry s u seq with
  | none => none
  | some (w, e, c) =>
    match assocGet e.lanes l with
    | some (.inflight (.emit q v o after) _) =>
      let lower := e.lanes.any fun x => decide (x.1 < l) && match x.2 with | .inflight (.emit k _ _ _) _ => k == q | _ => false
      let keep (s : State) (st : LaneSt) : State := setLane (keepOrd s u seq l o) u seq l st
      if laneStuck w seq l then some (keep s .held)
      else if lower || recordsAny w after q LaneSt.flying || coveredAny w e.quads seq LaneSt.flying then none
      else if recordLost w c after q then some (setLane s u seq l (.faulted .journalLost 0 0))
      else if recordsAny w after q (LaneSt.mends c) || coveredAny w e.quads seq LaneSt.stuck then some (keep s .held)
      else match getStream s q with
        | none => some (setLane s u seq l (.faulted .journalLost 0 0))
        | some t =>
          if t.st = .replaying ∧ o < t.floor then some (setLane s u seq l .done)
          else match publish s c q t v o with
            | .ok none => none
            | .ok (some s1) => some (setLane s1 u seq l .done)
            | .error (x, a, p) => some (keep s (.faulted x a p))
    | _ => none

def execEmitPublication (u seq lane : Nat) (s : State) : Host.Outcome State Fault Refusal := evStep s (emitRun s u seq lane)

/-! `JTRUNC` (10 R257). -/

/-- TSEQ := `x` in the local header. -/
def truncLocal (s : State) (c : Context) (q : Nat) (t : Stream) (x : Dword) : Except AccErr State :=
  match engWrite s none c (t.area.toNat + 80) (natLe 8 x.toNat) with
  | .error e => .error e
  | .ok s1 => .ok (modStream s1 q fun t => { t with tseq := x })

def truncLane (a b : Nat) : LaneIssue := fun _ k l s =>
  match streamCheck s k.w.ctx (readLane s k.w a l) with
  | .error c => (s, .faulted c 0 0)
  | .ok q =>
    match getStream s q with
    | none => (s, .faulted .journalStream 0 0)
    | some t =>
      let x := readPair s k.w b l
      if t.pos t.next ≤ t.pos x then (s, .faulted .journalRange 0 0)
      else if t.pos x ≤ t.pos t.tseq then (s, .done)
      else (s, .inflight (.truncate q x false) 0)

def execJtrunc (g : BitVec 2) (d a : Reg) (s : State) : Host.Outcome State Fault Refusal :=
  issueWith (.jtrunc g d a) s (batchOp (.jtrunc g d a) 0 0 (truncLane d.toNat a.toNat))

/-- The TSEQ of an acknowledged `JTRUNC` is sent to the partner's header. -/
def truncRemote (s : State) (u seq l q : Nat) (t : Stream) (x : Dword) : Option State :=
  if t.pos x ≤ t.pos t.peerTseq then some (setLane s u seq l .done)
  else match portOf s (partnerPa t + 80) with
    | none => none
    | some p =>
      if portSends s p then
        some (setLane (partnerPut s t 80 (natLe 8 x.toNat) x.toNat) u seq l (.inflight (.sent p s.cycle 0 (.truncate q x true)) 0))
      else none

/-- One lane of a `JTRUNC` goes on: the local header after its release, then the partner's, then the partner's
confirmation. -/
def performTrunc (s : State) (u seq l : Nat) : Option State :=
  match findEntry s u seq with
  | none => none
  | some (w, e, c) =>
    match assocGet e.lanes l with
    | some (.inflight (.truncate q x set) _) =>
      match getStream s q with
      | none => some (setLane s u seq l (.faulted .journalLost 0 0))
      | some t =>
        if !set then
          if t.st = .failed ∨ t.st = .diverged then none
          else if laneStuck w seq l then some (setLane s u seq l .held)
          else if coveredAny w e.quads seq LaneSt.flying then none
          else if coveredAny w e.quads seq LaneSt.stuck then some (setLane s u seq l .held)
          else if t.pos x ≤ t.pos t.tseq then some (setLane s u seq l .done)
          else match truncLocal s c q t x with
            | .error (f, a, p) => some (setLane s u seq l (.faulted f a p))
            | .ok s1 => some (setLane s1 u seq l (.inflight (.truncate q x true) 0))
        else if t.st = .open_ ∧ t.pos x ≤ t.pos t.acked then truncRemote s u seq l q t x
        else none
    | some (.inflight (.sent p c _ (.truncate q x _)) _) =>
      match getStream s q with
      | none => some (setLane s u seq l (.faulted .journalLost 0 0))
      | some t =>
        if t.st = .open_ ∧ portAnswers s p c = true then
          some (truncsDone (modStream s q fun t => { t with peerTseq := if t.pos t.peerTseq < t.pos x then x else t.peerTseq }) q)
        else none
    | _ => none

/-! The governor (10 R258, R259). -/

/-- The time between two decisions in picoseconds, the new step count, and the decision word. -/
def govDecide (g : Gov) (now : Nat) : Gov × Word :=
  let p := 1000 * g.p
  let m := match g.last with | some t => now - t | none => p
  let s := if m > p then max g.smin (g.s - 1) else if 8 * m < 7 * p then min g.smax (g.s + 1) else g.s
  ({ g with s := s, last := some now }, BitVec.ofNat 32 ((if m > p then 2 ^ 31 else 0) + s))

def setGov (s : State) (n : Nat) (g : Gov) : State := modHub s fun h => { h with govs := assocSet h.govs n g }

/-- The governor a fragment names, with its stream for `.J`. -/
def govNamed (s : State) (k : Issue) (j : Bool) (v : Word) : Option (Nat × Gov × Word) :=
  let n := bitsOf v.toNat 3 0
  let extra := if j then bitsOf v.toNat 15 4 + v.toNat / 2 ^ 28 else v.toNat / 2 ^ 4
  match assocGet s.hub.govs n with
  | some g => if extra = 0 ∧ g.ctx = k.w.ctx then some (n, g, BitVec.ofNat 32 (bitsOf v.toNat 27 16)) else none
  | none => none

/-- A decision, or its journalled form, for the lanes `ls`: state and operation, or the fault. -/
def govTake (s : State) (k : Issue) (j : Bool) (v : Word) (ls : LaneMask) : Except (State × Cause × VA) (State × Op) :=
  match govNamed s k j v with
  | none => .error (s, .governor, 0)
  | some (n, g, q) =>
    let (g1, w) := govDecide g s.psec
    if !j then .ok (setGov s n g1, .word w ls)
    else match streamCheck s k.w.ctx q with
      | .error c => .error (s, c, 0)
      | .ok q =>
        let gov (old : Option (List Byte)) : Word := match old with | some bs => BitVec.ofNat 32 (fieldAt bs 40 4) | none => w
        let mk (sq : Dword) (old : Option (List Byte)) : Option (List Byte) :=
          some (recordOf q sq 0xFFFFFFFF 0 [] (gov old) 16)
        match takeRecord s k.c q mk with
        | .fault c va => .error (journalFault s q c, c, va)
        | .pend s1 sq => .ok (setGov s1 n g1, .journal q sq (some (w, ls)))
        | .done s1 sq =>
          -- in replay the record just written holds the journalled word
          let word := match (getStream s1 q).map fun t =>
              engRead s1 none k.c (t.src.toNat + 128 + 64 * (sq.toNat % max t.srcCap 1)) 64 with
            | some (.ok (_, bs)) => BitVec.ofNat 32 (fieldAt bs 40 4)
            | _ => w
          .ok (setGov s1 n { g with s := word.toNat % 256, last := some s.psec }, .word word ls)

/-- The decision stands under the first lane that issues; a fault stands in every lane. -/
def govLane (j : Bool) (a : Nat) : LaneIssue := fun e k l s =>
  let ent := (findEntry s k.uid e.seq).map (·.2.1)
  if ent.any fun d => d.lanes.any fun x => x.2.flying then (s, .done)
  else
    let ls : LaneMask := match e.rest with | some (m :: _) => BitVec.ofNat 64 m | _ => k.act s
    match govTake s k j (readLane s k.w a k.low) ls with
    | .error (s1, c, va) => (s1, .faulted c va va)
    | .ok (s1, .word w m) => (s1, .inflight (.word w m) 0)
    | .ok (s1, .journal q sq g) => (handOver s1 k.uid e.seq l q sq, .inflight (.journal q sq g) 0)
    | .ok (s1, op) => (s1, .inflight op 0)

/-- `GOVQ` and `GOVQ.J`: one decision, or a fault in the lanes of the fragment. -/
def govIssue (i : Instr) (j : Bool) (d a : Reg) (k : Issue) (s : State) : Eff :=
  let v := readLane s k.w a.toNat k.low
  let bad := match govTake s k j v (k.act s) with | .error _ => true | .ok _ => false
  let lanes := if bad then (match k.actList s with | [] => [k.low] | ls => ls) else [k.low]
  let s1 := modWave s k.uid fun w => markBatch s w d.toNat 1 (k.act s) w.open_
  match noteStreams k [(k.act s).toNat, bitsOf v.toNat 27 16] (batchOver i lanes (govLane j a.toNat) k s1) with
  | .done t => .done t
  | .park p _ => .park p s
  | .report _ => .report s
  | e => e

def execGovq (g : BitVec 2) (d a : Reg) (s : State) : Host.Outcome State Fault Refusal :=
  issueWith (.govq g d a) s (govIssue (.govq g d a) false d a)

def execGovqJ (g : BitVec 2) (d a : Reg) (s : State) : Host.Outcome State Fault Refusal :=
  issueWith (.govqJ g d a) s (govIssue (.govqJ g d a) true d a)

/-- A governor's word is written at completion. -/
def performWord (s : State) (u seq l : Nat) : Option State :=
  match findEntry s u seq with
  | none => none
  | some (_, e, _) =>
    match assocGet e.lanes l with
    | some (.inflight (.word v ls) _) => some (journalDone s u seq l 0 (some (v, ls)))
    | _ => none

/-! Larkspur's events (10 R253, R254). -/

/-- The cause by which an inbound request of a peer is not performed (12 R302): 1 outside every window, 2 absent. -/
def inboundBad (s : State) (peer pa n : Nat) : Option Nat :=
  match assocGet s.hub.peers peer with
  | none => some 1
  | some p =>
    if !(p.windows.any fun w => decide (w.1 ≤ pa) && decide (pa + n ≤ w.1 + w.2)) then some 1
    else if paRegion pa = 0 && paExists s pa && paExists s (pa + n - 1) then none else some 2

/-- A fault record logged and a NACK sent. -/
def nackInbound (s : State) (peer pa cause : Nat) : State :=
  sendMsg (modHub s fun h => { h with faults := h.faults ++ [(peer, cause, pa)] }) peer pa 3 pa

/-- A record arrives for an area at offset `off` of this package: checked, written, HSEQ raised, acknowledged. -/
def recordArrives (s : State) (peer off : Nat) (bs : List Byte) : Option State :=
  let sq := fieldAt bs 4 8
  let cap := leNat (physGet s (off + 76) 4)
  if !recordCrcOk bs ∨ cap = 0 then none
  else
    let pa := off + 128 + 64 * (sq % cap)
    match inboundBad s peer off 128, inboundBad s peer pa 64 with
    | some c, _ => some (nackInbound s peer off c)
    | none, some c => some (nackInbound s peer pa c)
    | none, none =>
      let s1 := physPut s pa bs
      let s2 := if seqAbove (BitVec.ofNat 64 sq) (BitVec.ofNat 64 (leNat (physGet s1 (off + 96) 8))) then
          physPut s1 (off + 96) (natLe 8 sq)
        else s1
      some (sendMsg s2 peer off 1 sq)

def execJournalRecordArrival (peer off : Nat) (rec : BitVec 512) (s : State) : Host.Outcome State Fault Refusal :=
  evStep s (recordArrives s peer off (natLe 64 rec.toNat))

/-- A record up to `x` that a lane waits for can no longer be answered: its request has ended, or its port is down or trains
(12 R301, R304). -/
def recordEnded (s : State) (q : Nat) (t : Stream) (x : Dword) : Bool :=
  (streamOps s q).any fun o => match o.2.2.2 with
    | .journal _ sq _ => decide (t.pos sq ≤ t.pos x) && (findEntry s o.1 o.2.1).any fun f =>
        f.2.1.asks.any fun a => a.lane == o.2.2.1 && !portAnswers s a.port a.cycle
    | _ => false

/-- An acknowledgement up to `x` from the partner of an Open stream. -/
def acknowledged (s : State) (peer q : Nat) (x : Dword) : Option State :=
  match getStream s q with
  | none => none
  | some t =>
    if t.st ≠ .open_ ∨ t.peer ≠ peer ∨ t.pos t.next ≤ t.pos x ∨ recordEnded s q t x = true then none
    else
      let t1 := if t.pos t.acked < t.pos x then { t with acked := x } else t
      let s1 := modStream s q fun _ => t1
      some ((streamOps s1 q).foldl (fun s o => match o.2.2.2 with
        | .journal _ sq gov => if t.pos sq ≤ t.pos t1.acked then journalDone s o.1 o.2.1 o.2.2.1 sq gov else s
        | _ => s) s1)

def execJournalAcknowledgement (peer stream : Nat) (x : Dword) (s : State) : Host.Outcome State Fault Refusal :=
  evStep s (acknowledged s peer stream x)

/-- Firmware names the first standby peer that is reachable, is not the failed partner and does not refuse the header;
with none the stream fails (10 R254, 12 R297). -/
def reassign (s : State) (q : Nat) (refusing : List Nat) : Option State :=
  match getStream s q with
  | none => none
  | some t =>
    if t.st ≠ .reassigning then none
    else match s.hub.standby.find? fun p => reachable s p && p != t.peer && !refusing.contains p with
      | some p => some (namePartner s q p)
      | none => some (modStream (journalFail s q false) q fun t => { t with st := .failed })

def execStreamReassignment (stream : Nat) (refusing : List Nat) (s : State) : Host.Outcome State Fault Refusal :=
  evStep s (reassign s stream refusing)

def execPartnerReportsLoss (stream : Nat) (s : State) : Host.Outcome State Fault Refusal :=
  evStep s (match getStream s stream with | some t => if t.st = .open_ then some (loseStream s stream) else none | none => none)

end Sys2Proof.Machine
end

