-- ==== Sys2Proof/Machine/Spawn.lean ====
section
/-!
DEFINITION. Spawning: the resources of a core, the start of a wave, places in bins and segments, `SPAWN`, and the
gatherer's launches (03 R63 to R78, R80; 04 R95 to R97; 10 R234; 11 R265, R274, R275).
-/

namespace Sys2Proof.Machine

/-! Resources of a core (04 R95 to R97, 03 R77, R78). -/

/-- Waves that hold resources of core `p`: those of resident contexts (11 R282). -/
def coreWaves (s : State) (p : Nat) : List Wave :=
  (s.waves.filter fun e => e.2.core == p &&
    match assocGet s.ctxs e.2.ctx with | some c => c.resident | none => false).map (·.2)

/-- Banks held on core `p`, with their contexts (11 R273). -/
def coreBanks (s : State) (p : Nat) : List (Nat × Bank × Context) :=
  s.banks.filterMap fun b =>
    if b.1 / 16 = p then
      match assocGet s.ctxs (b.1 % 16) with
      | some c => if c.resident then some (b.1 % 16, b.2, c) else none
      | none => none
    else none

/-- Runs taken out of the 760 granules: ordinary waves and child reserves. -/
def takenRuns (s : State) (p : Nat) : List (Nat × Nat) :=
  ((coreWaves s p).filter (·.level.isNone)).map (fun w => (w.base, w.gran)) ++
    (coreBanks s p).map fun b => (b.2.1.reserve, 112 * b.2.2.gplu)

def runFree (runs : List (Nat × Nat)) (b n : Nat) : Bool :=
  runs.all fun r => decide (r.2 = 0) || decide (r.1 + r.2 ≤ b) || decide (b + n ≤ r.1)

/-- Alignment of a run of `g` granules (04 R96). -/
def granAlign (g : Nat) : Nat := if g ≤ 1 then 1 else if g ≤ 2 then 2 else if g ≤ 4 then 4 else if g ≤ 8 then 8 else 16

/-- The lowest free aligned run of `g` granules from `lo` up to `hi`. -/
def lowRun (runs : List (Nat × Nat)) (g lo hi : Nat) : Option Nat :=
  ((List.range (760 / granAlign g + 1)).map (granAlign g * ·)).find? fun b =>
    decide (lo ≤ b) && decide (b + g ≤ hi) && runFree runs b g

/-- Wave slots of the ordinary pool still free. -/
def freeSlots (s : State) (p : Nat) : Nat :=
  128 - 7 * (coreBanks s p).foldl (fun n b => n + b.2.2.spl) 0 - ((coreWaves s p).filter (·.level.isNone)).length

/-- The lowest free wave slot (11 R275). -/
def lowSlot (s : State) (p : Nat) : Nat :=
  ((List.range 128).find? fun k => !(coreWaves s p).any (·.slot == k)).getD 0

/-- The lowest free spill frame of a context on a core (11 R265). -/
def lowFrame (s : State) (p x : Nat) : Nat :=
  ((List.range 128).find? fun k => !s.waves.any fun e => e.2.core == p && e.2.ctx == x && e.2.frame == k).getD 0

/-- Where a wave's granules come from: reserve level, if one, and first granule. -/
structure Claim where
  level : Option Nat
  base : Nat
deriving DecidableEq, Repr

def claimOrdinary (s : State) (p g : Nat) : Option Claim :=
  if freeSlots s p = 0 then none else (lowRun (takenRuns s p) g 0 760).map fun b => ⟨none, b⟩

/-- A run and a slot of reserve level `d` of the context's bank. -/
def claimLevel (s : State) (p x g d : Nat) : Option Claim :=
  match assocGet s.banks (16 * p + x), assocGet s.ctxs x with
  | some b, some c =>
    let mine := (coreWaves s p).filter fun w => w.ctx == x && w.level == some d
    if mine.length ≥ c.spl then none
    else
      let lo := b.reserve + 16 * c.gplu * (d - 1)
      (lowRun (mine.map fun w => (w.base, w.gran)) g lo (lo + 16 * c.gplu)).map fun b => ⟨some d, b⟩
  | _, _ => none

/-- The die whose group holds cluster `k` of a grid, by its place among the grid's dies (01 R17). -/
def clusterDie (gr : Grid) (k : Nat) : Nat :=
  let n := gr.dies.length
  let c := gr.pkt.w / max gr.pkt.s 1
  ((List.range n).find? fun j => decide (j * c / n ≤ k) && decide (k < (j + 1) * c / n)).bind (gr.dies[·]?) |>.getD 0

/-- The core on which rank `r` of a cluster stands (11 R272). -/
def rankCore (dom cq c0 r : Nat) : Nat := 32 * dom + 4 * cq + (c0 + r) % 4

/-- Ranks of a cluster of `n` workgroups that stand on core `p`. -/
def ranksOn (dom cq c0 n p : Nat) : Nat := ((List.range n).filter fun r => rankCore dom cq c0 r == p).length

/-- Granules that the standing guarded request of a core needs there in total (04 R97, 11 R272). -/
def guardNeed (s : State) (p : Nat) : Option Nat :=
  match (getCore s p).guards with
  | [] => none
  | (g, k) :: _ =>
    match assocGet s.grids g with
    | none => none
    | some gr => (assocGet gr.waits k).map fun v =>
        ranksOn (clusterDie gr k) v.cq v.c0 gr.pkt.s p * gr.pkt.n * gr.pkt.gran

/-- What a spawned candidate of depth `d` and `g` granules can take now (03 R78). -/
def claimSpawned (s : State) (p x g d : Nat) : Option Claim :=
  let ord := match guardNeed s p with
    | some n => if g < n then none else claimOrdinary s p g
    | none => claimOrdinary s p g
  match ord with
  | some c => some c
  | none => (List.range d).findSome? fun k => claimLevel s p x g (k + 1)

/-- The dispatcher and the gatherer launch waves of the context (11 R281, R282). -/
def launches (s : State) (c : Context) : Bool :=
  !s.hub.halted && c.resident && !c.preq && !c.saving && c.cstate == 0

/-! The start of a wave (02 R50, 03 R70). -/

/-- A fragment at a header, as a wave starts. -/
def Frag.start (quads : QuadMask) (pc : VA) (cycle : Nat) : Frag :=
  ⟨quads, pc, pc, pc, 0, true, 0, 0, .none, false, false, cycle, cycle, 0, none, none, 0, 0, none⟩

/-- A wave with a register file of zeros, its CSRs at reset and one fragment at `entry`. -/
def Wave.start (x p slot : Nat) (c : Claim) (gran frame grid wg widx : Nat) (spawned det : Bool) (entry : VA)
    (quads : QuadMask) (mask : LaneMask) (cycle : Nat) : Wave :=
  { ctx := x, core := p, slot := slot, base := c.base, gran := gran, level := c.level, frame := frame, grid := grid,
    wg := wg, widx := widx, spawned := spawned, det := det, nthreads := 64, threads := [], live := quads, mask := mask,
    maskPend := [], cc := ⟨0, 0, 0, 0⟩, ccPend := [], clocks := List.replicate 16 0,
    frags := [Frag.start quads entry cycle], regs := [], undef := [], tlm := 0, tpc := 0, tcause := 0, tval := 0,
    fpstat := 0, fpmode := 0, fpPend := [], csrPend := [], open_ := 0, entries := [], nextSeq := 0, window := none,
    trapWait := none, report := none, watchdog := 0, killed := false, leaving := [], boundMax := 0, trapAt := 0, lostRecs := [],
    csrOwner := [], held := 0 }

/-- Logical order of spawn paths, a proper prefix first (02 R48). -/
def pathBelow (a b : List (Nat × Nat)) : Bool :=
  match a, b with
  | [], [] => false
  | [], _ => true
  | _, [] => false
  | x :: p, y :: q =>
    decide (x.1 < y.1) || (x.1 == y.1 && (decide (x.2 < y.2) || (x.2 == y.2 && pathBelow p q)))

/-- Logical order of threads; of two grids the one admitted first comes first. -/
def Thread.below (a b : Thread) : Bool :=
  decide (a.grid < b.grid) || (a.grid == b.grid && (decide (a.wg < b.wg) || (a.wg == b.wg &&
    (decide (a.widx < b.widx) || (a.widx == b.widx && (decide (a.home < b.home) ||
      (a.home == b.home && pathBelow a.path b.path)))))))

/-- A join handle in registers 4 to 6, and the payload from register 0. -/
def Child.words (t : Child) : List (Nat × Word) :=
  (t.payload.zipIdx.map fun p => (p.2, p.1)) ++
    match t.thread.join with
    | none => []
    | some j => [(4, j.extractLsb' 0 32), (5, j.extractLsb' 32 32), (6, (j.extractLsb' 64 16).zeroExtend 32)]

/-- The threads of a launch in the lanes they take (03 R74). -/
def laneOrder (ts : List Child) : List Child :=
  if ts.any (·.det) then sortBy (fun a b => !b.thread.below a.thread) ts else ts

def childGran (ts : List Child) : Nat := ts.foldl (fun n t => max n t.gran) 0

/-- One wave of the threads `ts` launched on core `p` with claim `c` (03 R70, 10 R234). -/
def launchChildren (s : State) (p x : Nat) (ts : List Child) (c : Claim) : State :=
  match laneOrder ts with
  | [] => s
  | t :: r =>
    let us := t :: r
    let k := us.length
    let low := r.foldl (fun (m u : Child) => if u.thread.below m.thread then u else m) t
    let quads : QuadMask := BitVec.ofNat 16 (2 ^ ((k + 3) / 4) - 1)
    let w := Wave.start x p (lowSlot s p) c (childGran us) (lowFrame s p x) low.thread.grid low.thread.wg 0 true low.det
      t.entry quads (BitVec.ofNat 64 (2 ^ k - 1)) s.cycle
    let clk (q : Nat) := ((us.drop (4 * q)).take 4).foldl (fun n u => max n u.clock) 0
    let w1 := { w with nthreads := k, threads := us.zipIdx.map fun u => (u.2, u.1.thread),
                       clocks := (List.range 16).map clk }
    let w2 := us.zipIdx.foldl (fun w u => u.1.words.foldl (fun w v => writeLane w v.1 u.2 v.2) w) w1
    -- the child's first instruction is an acquire (03 R80)
    { setWave (dropCopies s p) s.nextUid w2 with nextUid := s.nextUid + 1 }

/-! Places for a child (03 R71 to R75). -/

/-- A place for a child: a bin, or the segment of its depth. -/
inductive Place where
  | bin (n : Nat)
  | ring
deriving DecidableEq, Repr

/-- Records of a segment (03 R75, 11 R264). -/
def ringCap (c : Context) : Nat := if c.ocap = 0 then 0 else 2 ^ c.ocap

def segOf (b : Bank) (d : Nat) : List Child := (assocGet b.segs d).getD []

/-- `reserve_place` (03 R74). -/
def reservePlace (b : Bank) (c : Context) (entry : VA) (d : Nat) : Option Place :=
  match b.bins.find? fun e => !e.2.ready && e.2.entry == entry && e.2.depth == d with
  | some e => some (.bin e.1)
  | none =>
    match (List.range 16).find? fun n => (assocGet b.bins n).isNone with
    | some n => some (.bin n)
    | none => if (segOf b d).length < ringCap c then some .ring else none

/-- A child appended to a bin: the timer starts with the first, and the bin is Ready at 64 threads or with TMR 0. -/
def binInsert (cycle tmr : Nat) (b : Bank) (n : Nat) (t : Child) : Bank :=
  let old := (assocGet b.bins n).getD ⟨t.entry, t.thread.depth, [], false, tmr, 0, 0⟩
  let ts := old.threads ++ [t]
  let rdy := decide (ts.length = 64) || decide (old.timer = 0)
  { b with bins := assocSet b.bins n { old with threads := ts, ready := rdy, age := 0, since := cycle } }

/-- Address of record number `i` of segment `d` of core `p` (03 R75). -/
def ringAddr (c : Context) (p d i : Nat) : Nat :=
  (c.orb.toNat + (7 * p + (d - 1)) * ringCap c * 128 + i % max (ringCap c) 1 * 128) % 2 ^ 80

/-- Bytes of a record: its layout is the device's own (03 R75), so they are free values. -/
def recordBytes (s : State) (i : Nat) : List Byte :=
  (List.range 32).flatMap fun j => natLe 4 (Config.freeWord s.free (80000 + 32 * (i % 64) + j)).toNat

/-- Records of the threads `ts` written at the tail of segment `d` (03 R75). -/
def segWrite (s : State) (p x d : Nat) (ts : List Child) : Except Cause State :=
  match assocGet s.banks (16 * p + x), assocGet s.ctxs x with
  | some b, some c => ts.zipIdx.foldl (fun (r : Except Cause State) t => match r with
      | .error e => .error e
      | .ok s => devWrite s x (ringAddr c p d ((assocGet b.segTail d).getD 0 + t.2)) (recordBytes s t.2) (some (coreDom p))) (.ok s)
  | _, _ => .ok s

/-- Children appended to the segment of their depth; a write that faults faults the context (06 R158). -/
def segAppend (s : State) (p x d : Nat) (ts : List Child) : State :=
  match segWrite s p x d ts with
  | .error e => contextFault s x e
  | .ok s1 => modBank s1 (16 * p + x) fun b =>
      { b with segs := assocSet b.segs d (segOf b d ++ ts),
               segSince := if (segOf b d).isEmpty then assocSet b.segSince d s.cycle else b.segSince,
               segTail := assocSet b.segTail d ((assocGet b.segTail d).getD 0 + ts.length) }

/-- `commit` (03 R65). -/
def commitChild (s : State) (p x : Nat) (pl : Place) (t : Child) : State :=
  match pl with
  | .bin n =>
    match assocGet s.ctxs x with
    | some c => modBank s (16 * p + x) fun b => binInsert s.cycle c.bintmr.toNat b n t
    | none => s
  | .ring => segAppend s p x t.thread.depth [t]

/-! `SPAWN` (03 R63 to R66). -/

/-- An entry descriptor read: its granules, none where it refuses, or the fault with the address it names. -/
def readEntry (s : State) (c : Context) (entry : VA) : Except (Cause × VA) (State × Option Nat) :=
  match farAddr s c false (entry - 8) 8 .read with
  | .error e => .error (e, entry - 8)
  | .ok (pa, leaf) =>
    let v := leNat (physGet s pa 8)
    let g := v % 256
    .ok ((Loc.phys pa leaf).touched false s,
      if v / 256 ≠ 0 ∨ g = 0 ∨ g > 32 ∨ g > 16 * c.gplu ∨ c.spl = 0 then none else some g)

/-- The join word's update by core `p`: the status where it refuses (03 R65). -/
def joinUp (s : State) (p : Nat) (c : Context) (j : Option (Bool × VA)) : Except (Cause × VA) (State × Option Nat) :=
  match j with
  | none => .ok (s, none)
  | some (bad, va) =>
    match farAddr s c bad va 4 .write with
    | .error e => .error (e, va)
    | .ok (pa, leaf) =>
      let v := leNat (physGet s pa 4)
      if bitsOf v 30 24 ≠ 0 then .ok (s, some 6)
      else if v % 2 ^ 24 = 0xFFFFFF then .ok (s, some 5)
      else .ok ((Loc.phys pa leaf).touched true ((Loc.phys pa leaf).refresh p (wordPut s (.phys pa 0) (v + 1))), none)

/-- The thread a lane spawns with ordinal `o`. -/
def childThread (t : Thread) (o : Nat) (join : Option VA) (query : Option (Nat × Nat × Nat × Nat)) : Thread :=
  { t with depth := t.depth + 1, next := 0, path := t.path ++ [(t.home, o)], join := join, query := query }

/-- What one placement with ordinal `o` comes to: the fault, or the new state and the status code. -/
def placeChild (s : State) (w : Wave) (l o : Nat) (entry : VA) (bad : Bool) (payload : List Word)
    (join : Option (Bool × VA)) (query : Option (Nat × Nat × Nat × Nat)) (clock : Nat) :
    Except (Cause × VA) (State × Nat) :=
  let t := threadOf w l
  match assocGet s.ctxs w.ctx, assocGet s.banks (bankKey w) with
  | some c, some b =>
    if t.depth ≥ 7 then .ok (s, 3)
    else if bad ∨ entry.toNat % 8 ≠ 0 then .ok (s, 4)
    else match readEntry s c entry with
      | .error e => .error e
      | .ok (s1, none) => .ok (s1, 4)
      | .ok (s1, some g) =>
        match reservePlace b c entry (t.depth + 1) with
        | none => .ok (s1, 2)
        | some pl =>
          match joinUp s1 w.core c join with
          | .error e => .error e
          | .ok (s2, some st) => .ok (s2, st)
          | .ok (s2, none) =>
            let th := childThread t o (join.map (·.2)) query
            .ok (commitChild s2 w.core w.ctx pl ⟨entry, g, w.grid, w.det, th, payload, clock⟩,
              match pl with | .bin _ => 0 | .ring => 1)
  | _, _ => .ok (s, 2)

/-- The next ordinal of a lane's thread advanced. -/
def bumpNext (s : State) (u l : Nat) : State :=
  modWave s u fun w =>
    let t := threadOf w l
    { w with threads := assocSet w.threads l { t with next := t.next + 1 } }

/-- An earlier `SPAWN` of the lane is still in flight. -/
def spawnBefore (w : Wave) (seq l : Nat) : Bool :=
  w.entries.any fun e => decide (e.seq < seq) && isSpawn e.instr &&
    match assocGet e.lanes l with | some (.inflight _ _) => true | _ => false

/-- What a `SPAWN` reaches: its entry descriptor, which it reads, and its join word, which it writes. -/
def spawnRanges (entry : VA) (bad : Bool) (join : Option (Bool × VA)) : List ((Nat × Nat) × Bool) :=
  (if bad then [] else [(((entry - 8).toNat, 8), false)]) ++
    match join with | some (false, va) => [((va.toNat, 4), true)] | _ => []

/-- One lane of a `SPAWN` performed, after the answers of the peers that hold its entry or its join word (03 R65, R66). -/
def performSpawn (s : State) (u seq l : Nat) : Option State :=
  match assocGet s.waves u with
  | none => none
  | some w =>
    match w.entries.find? (·.seq == seq) with
    | none => none
    | some e =>
      match assocGet e.lanes l, e.instr with
      | some (.inflight (.spawn entry bad payload join) _), .spawn _ _ _ _ d _ _ _ =>
        let op := Op.spawn entry bad payload join
        if before s w e l op LaneSt.flying || spawnBefore w seq l || !laneTurn s u w e l then none
        else if before s w e l op LaneSt.stuck || laneStuck w seq l then some (setLane s u seq l .held)
        else
          let o := (threadOf w l).next
          let fin (s : State) (v : Nat) :=
            setLane (modWave s u fun w => writeLane w d.toNat l (BitVec.ofNat 32 v)) u seq l .done
          if o ≥ 0x4000000 then some (fin s 7)
          else (assocGet s.ctxs w.ctx).bind fun c => asking s u e c l (spawnRanges entry bad join) <| match placeChild s w l o entry bad payload join none (e.clock + 2) with
            | .error (c, a) => some (setLane s u seq l (.faulted c a a))
            | .ok (s1, st) => some (fin (bumpNext s1 u l) (64 * o + st))
      | _, _ => none

def spawnLane (perm : Option Perms) (h : Bool) (n : Nat) (a b c : Reg) : LaneIssue := fun _ k l s =>
  let pa := permA perm l
  let entry := readTriple s k.w a.toNat pa
  let pay := (List.range n).map fun i => readLane s k.w (b.toNat + i) (permB perm l)
  let pc := permC perm l
  (s, .inflight (.spawn entry (tripleBad s k.w a.toNat pa) pay
    (if h then some (tripleBad s k.w c.toNat pc, readTriple s k.w c.toNat pc) else none)) entry)

def execSpawn (g : BitVec 1) (perm : Option Perms) (h : Bool) (n : BitVec 2) (d a b c : Reg) (s : State) :
    Host.Outcome State Fault Refusal :=
  issueWith (.spawn g perm h n d a b c) s
    (batchOp (.spawn g perm h n d a b c) d.toNat 1 (spawnLane perm h (n.toNat + 1) a b c))

/-! The gatherer (03 R73, R76, R78). -/

/-- A candidate for launch: context, bin or segment, its number, depth, cycle it became one, threads. -/
structure Cand where
  ctx : Nat
  seg : Bool
  num : Nat
  depth : Nat
  since : Nat
  threads : List Child
deriving DecidableEq, Repr

/-- The head record of a segment and the records after it with the same key, at most 64. -/
def segHead (ts : List Child) : List Child :=
  match ts with
  | [] => []
  | t :: r => (t :: r.takeWhile fun u => u.entry == t.entry).take 64

def candidates (s : State) (p : Nat) : List Cand :=
  (coreBanks s p).flatMap fun e =>
    let (x, b, c) := e
    if launches s c then
      (b.bins.filterMap fun n => if n.2.ready then some ⟨x, false, n.1, n.2.depth, n.2.since, n.2.threads⟩ else none) ++
      (b.segs.filterMap fun d =>
        if d.2.isEmpty then none else some ⟨x, true, d.1, d.1, (assocGet b.segSince d.1).getD 0, segHead d.2⟩)
    else []

def Cand.claim (s : State) (p : Nat) (a : Cand) : Option Claim := claimSpawned s p a.ctx (childGran a.threads) a.depth

/-- Candidate `a` is served before `b`: deeper, or as deep and earlier (03 R78). -/
def Cand.before (a b : Cand) : Bool := decide (a.depth > b.depth) || (a.depth == b.depth && decide (a.since < b.since))

/-- The claim of a candidate that is served now: no other that fits comes before it. -/
def serveCand (s : State) (p : Nat) (a : Cand) : Option Claim :=
  if (candidates s p).any fun b => b.before a && (b.claim s p).isSome then none else a.claim s p

/-- Some candidate of the core fits (11 R274). -/
def candFits (s : State) (p : Nat) : Bool := (candidates s p).any fun a => (a.claim s p).isSome

/-- A bin launches one wave and becomes Empty. -/
def binLaunch (s : State) (p x n : Nat) : Option State :=
  match (candidates s p).find? fun a => a.ctx == x && !a.seg && a.num == n with
  | none => none
  | some a => (serveCand s p a).map fun c =>
      modBank (launchChildren s p x a.threads c) (16 * p + x) fun b => { b with bins := assocDel b.bins n }

/-- The first `n` records of segment `d` read (03 R76). -/
def segRead (s : State) (p x d n : Nat) : Except Cause State :=
  match assocGet s.ctxs x, assocGet s.banks (16 * p + x) with
  | some c, some b => (List.range n).foldl (fun (r : Except Cause State) i => match r with
      | .error e => .error e
      | .ok s => (devRead s x (ringAddr c p d ((assocGet b.segTail d).getD 0 - (segOf b d).length + i)) 128
          (some (coreDom p))).map (·.1)) (.ok s)
  | _, _ => .ok s

/-- Records leave a segment's head into one wave; their reads are accesses of the device (06 R158). -/
def segLaunch (s : State) (p x d : Nat) : Option State :=
  match (candidates s p).find? fun a => a.ctx == x && a.seg && a.num == d with
  | none => none
  | some a => (serveCand s p a).map fun cl =>
      match segRead s p x d a.threads.length with
      | .error e => contextFault s x e
      | .ok s1 => modBank (launchChildren s1 p x a.threads cl) (16 * p + x) fun b =>
          { b with segs := assocSet b.segs d ((segOf b d).drop a.threads.length), segSince := assocSet b.segSince d s.cycle }

def getBin (s : State) (p x n : Nat) : Option (Context × Bank × Bin) :=
  match assocGet s.ctxs x, assocGet s.banks (16 * p + x) with
  | some c, some b => if c.resident then (assocGet b.bins n).map fun v => (c, b, v) else none
  | _, _ => none

/-- A gathering bin whose timer is zero becomes Ready. -/
def binExpire (s : State) (p x n : Nat) : Option State :=
  match getBin s p x n with
  | some (_, _, v) =>
    if v.ready ∨ v.timer ≠ 0 then none
    else some (modBank s (16 * p + x) fun b =>
      { b with bins := assocSet b.bins n { v with ready := true, age := 0, since := s.cycle } })
  | none => none

/-- A Ready bin that stayed unlaunched goes to its segment, all of it or nothing (03 R73). -/
def binOverflow (s : State) (p x n : Nat) : Option State :=
  match getBin s p x n with
  | some (c, b, v) =>
    if v.ready && decide (max c.bintmr.toNat 256 ≤ v.age) &&
        decide ((segOf b v.depth).length + v.threads.length ≤ ringCap c) then
      some (modBank (segAppend s p x v.depth v.threads) (16 * p + x) fun b => { b with bins := assocDel b.bins n })
    else none
  | none => none

def execBinTimerExpiry (core ctx bin : Nat) (s : State) : Host.Outcome State Fault Refusal :=
  evStep s (binExpire s core ctx bin)

def execBinLaunch (core ctx bin : Nat) (s : State) : Host.Outcome State Fault Refusal :=
  evStep s (binLaunch s core ctx bin)

def execBinOverflowWrite (core ctx bin : Nat) (s : State) : Host.Outcome State Fault Refusal :=
  evStep s (binOverflow s core ctx bin)

def execSegmentDrainLaunch (core ctx depth : Nat) (s : State) : Host.Outcome State Fault Refusal :=
  evStep s (segLaunch s core ctx depth)

end Sys2Proof.Machine
end

