-- ==== Sys2Proof/Machine/Ray.lean ====
section
/-!
DEFINITION. The ray engine and the rasteriser (09 R215 to R232). Reals are exact values; an operation rounds to the
format of the query's mode, FP32 or FP64.
-/

namespace Sys2Proof.Machine

/-! Arithmetic of a mode. -/

def precFmt (p : Prec) : Fmt := match p with | .f32 => fmtF32 | .f64 => fmtF64
/-- Registers of one real. -/
def precN (p : Prec) : Nat := match p with | .f32 => 1 | .f64 => 2

def val (d : Dword) : FVal := fpDecode fmtF64 d.toNat
/-- A value as an FP64 pattern; an FP32 value is exact there. -/
def pat (v : FVal) : Dword := BitVec.ofNat 64 (fpConvert fmtF64 .rne false v).1
def infPat : Dword := pat (.inf false)

def rAdd (f : Fmt) (d : Dir) (a b : FVal) : FVal := fpDecode f (fpAdd f d false a b).1
def rSub (f : Fmt) (d : Dir) (a b : FVal) : FVal := rAdd f d a b.flip
def rMul (f : Fmt) (a b : FVal) : FVal := fpDecode f (fpMul f .rne false a b).1
def rDiv (f : Fmt) (d : Dir) (a b : FVal) : FVal := fpDecode f (fpDiv f d a b)

def rLt (a b : FVal) : Bool := !a.isNaN && !b.isNaN && decide (fvCmp a b < 0)
def rLe (a b : FVal) : Bool := !a.isNaN && !b.isNaN && decide (fvCmp a b ≤ 0)
def rZero : FVal := .fin false 0 0
/-- Larger and smaller of two values, as `FMAX` and `FMIN` choose between zeros. -/
def rMax (a b : FVal) : FVal := if rLt a b then b else if rLt b a then a else if a.neg then b else a
def rMin (a b : FVal) : FVal := if rLt a b then a else if rLt b a then b else if a.neg then a else b

def nth (l : List FVal) (k : Nat) : FVal := (l[k]?).getD (.nan false)

/-! `box_enter` (09 R222). -/

/-- Interval of one axis. -/
def boxAxis (f : Fmt) (o d lo hi : FVal) : FVal × FVal :=
  if d.isZero then
    if rLe lo o && rLe o hi then (.inf true, .inf false) else (.inf false, .inf true)
  else if rLt rZero d then
    (rDiv f .rdn (rSub f .rdn lo o) d, rDiv f .rup (rSub f .rup hi o) d)
  else (rDiv f .rdn (rSub f .rup hi o) d, rDiv f .rup (rSub f .rdn lo o) d)

/-- The entry value, where the segment meets the box; an axis with a NaN or min > max makes it empty (09 R219). -/
def boxEnter (f : Fmt) (o d : List FVal) (tmin tmax : FVal) (mn mx : List FVal) : Option FVal :=
  if (List.range 3).any fun k => !rLe (nth mn k) (nth mx k) then none
  else
    let ax := (List.range 3).map fun k => boxAxis f (nth o k) (nth d k) (nth mn k) (nth mx k)
    let enter := ax.foldl (fun m a => rMax m a.1) tmin
    let leave := ax.foldl (fun m a => rMin m a.2) tmax
    if rLe enter leave then some enter else none

/-! `tri_test` (09 R224). -/

/-- a × b − c × d exactly, rounded to FP64; a nonzero value never becomes zero. -/
def exactEdge (a b c d : FVal) : FVal :=
  match a, b, c, d with
  | .fin na ma ea, .fin nb mb eb, .fin nc mc ec, .fin nd md ed =>
    let (r, e) := addExact (na != nb) (ma * mb) (ea + eb) (nc == nd) (mc * md) (ec + ed)
    let v := fpDecode fmtF64 (fpRoundInt fmtF64 .rne false r e ((na != nb) && (nc == nd))).1
    if r ≠ 0 ∧ v.isZero then fpDecode fmtF64 (fpSign fmtF64 (decide (r < 0)) + 1) else v
  | _, _, _, _ => rSub fmtF64 .rne (rMul fmtF64 a b) (rMul fmtF64 c d)

def rAbs (v : FVal) : FVal := if v.neg then v.flip else v

/-- The triangle test: a hit with t, u, v and FRONT. `fl` are the query's flags. -/
def triTest (p : Prec) (o d : List FVal) (tmin tmax : FVal) (fl : Word) (tri : List FVal) : Option (FVal × FVal × FVal × Bool) :=
  let f := precFmt p
  let kz := if rLt (rAbs (nth d 0)) (rAbs (nth d 1)) then (if rLt (rAbs (nth d 1)) (rAbs (nth d 2)) then 2 else 1)
    else if rLt (rAbs (nth d 0)) (rAbs (nth d 2)) then 2 else 0
  let k1 := (kz + 1) % 3
  let k2 := (k1 + 1) % 3
  let sw := rLt (nth d kz) rZero
  let kx := if sw then k2 else k1
  let ky := if sw then k1 else k2
  let dz := nth d kz
  let sx := rDiv f .rne (nth d kx) dz
  let sy := rDiv f .rne (nth d ky) dz
  let sz := rDiv f .rne (.fin false 1 0) dz
  let vert (i : Nat) : FVal × FVal × FVal :=
    let q (k : Nat) := rSub f .rne (nth tri (3 * i + k)) (nth o k)
    (rSub f .rne (q kx) (rMul f sx (q kz)), rSub f .rne (q ky) (rMul f sy (q kz)), rMul f sz (q kz))
  let (ax, ay, az) := vert 0
  let (bx, bby, bz) := vert 1
  let (cx, cy, cz) := vert 2
  let edge (a b c d : FVal) := rSub f .rne (rMul f a b) (rMul f c d)
  let u0 := edge cx bby cy bx
  let v0 := edge ax cy ay cx
  let w0 := edge bx ay bby ax
  let ex := u0.isZero || v0.isZero || w0.isZero
  let g := if ex then fmtF64 else f
  let u := if ex then exactEdge cx bby cy bx else u0
  let v := if ex then exactEdge ax cy ay cx else v0
  let w := if ex then exactEdge bx ay bby ax else w0
  let isN (x : FVal) := rLt x rZero
  let isP (x : FVal) := rLt rZero x
  let det := rAdd g .rne (rAdd g .rne u v) w
  let tt := rAdd g .rne (rAdd g .rne (rMul g u az) (rMul g v bz)) (rMul g w cz)
  if u.isNaN || v.isNaN || w.isNaN || det.isNaN || tt.isNaN then none
  else if (isN u || isN v || isN w) && (isP u || isP v || isP w) then none
  else if det.isZero || (isP det && fl.getLsbD 1) || (isN det && fl.getLsbD 2) then none
  else
    let out (x : FVal) := fpDecode f (fpConvert f .rne false (rDiv g .rne x det)).1
    let t := out tt
    if rLe tmin t && rLe t tmax then some (t, out v, out w, isP det) else none

/-! Hits and their order (09 R223). -/

def Hit.better (h g : Hit) : Bool :=
  rLt (val h.t) (val g.t) || (!rLt (val g.t) (val h.t) &&
    ((!h.user && g.user) || (h.user == g.user &&
      (decide (h.prim < g.prim) || (h.prim == g.prim && decide (h.attr < g.attr))))))

def betterThan (h : Hit) (b : Option Hit) : Bool := match b with | none => true | some g => h.better g

/-! The engine's accesses. A fault discards the query or has it reissued (09 R231). -/

/-- The bytes that two ranges (address, length) share. -/
def rangesMeet (a b : Nat × Nat) : List (Nat × Nat) :=
  let lo := max a.1 b.1
  let hi := min (a.1 + a.2) (b.1 + b.2)
  if lo < hi then [(lo, hi - lo)] else []

/-- Data read for a query: bytes that a log overlaps are noticed (09 R231). -/
def rayRead (s : State) (c : Context) (q : Query) (va n : Nat) : Except AccErr (State × Query × List Byte) :=
  match engRead s (some q.core) c va n with
  | .error e => .error e
  | .ok (s1, bs) =>
    let hits := q.logs.flatMap (rangesMeet (va, n))
    .ok (s1, if hits.isEmpty then q else { q with badRead := true, clash := q.clash ++ hits.filter fun r => !q.clash.contains r }, bs)

/-- Bytes of a context's memory become undefined until they are written (00 R2), page by page. -/
def engLose (s : State) (c : Context) (r : Nat × Nat) : State :=
  (List.range ((r.1 + r.2) / 2 ^ 16 + 1 - r.1 / 2 ^ 16)).foldl (fun s i =>
    let a := max r.1 ((r.1 / 2 ^ 16 + i) * 2 ^ 16)
    let b := min (r.1 + r.2) ((r.1 / 2 ^ 16 + i + 1) * 2 ^ 16)
    match engLoc s c (a % 2 ^ 80) .write with | .ok l => l.lose (b - a) s | .error _ => s) s

/-- Queries in flight of a context: wave, entry number, lane and query. -/
def queriesOf (s : State) (x : Nat) : List (Nat × Nat × Nat × Query) :=
  s.waves.flatMap fun w => if w.2.ctx = x then
      w.2.entries.flatMap fun e => e.lanes.filterMap fun l => match l.2 with
        | .inflight (.query q) _ => some (w.1, e.seq, l.1, q)
        | _ => none
    else []

/-- Every query in flight of a context changed by `f`. -/
def modQueries (s : State) (x : Nat) (f : Query → Query) : State :=
  { s with waves := s.waves.map fun w => if w.2.ctx = x then (w.1, { w.2 with entries := w.2.entries.map fun e =>
      { e with lanes := e.lanes.map fun l => match l.2 with
        | .inflight (.query q) a => (l.1, .inflight (.query (f q)) a)
        | _ => l } }) else w }

/-- The bytes that a query found overlapped become undefined, and those it or another query writes there later (09 R231). -/
def Query.loseClash (q : Query) (x : Nat) (c : Context) (s : State) : State :=
  q.clash.foldl (fun s r => engLose s c r) (if q.clash.isEmpty then s else modQueries s x fun p => { p with clash := p.clash ++ q.clash })

/-! The log (09 R229). -/

/-- A record's bytes: KIND, HIT and FRONT, IDX, T, U, V. DESIGN CHOICE (assumption 53): what the table of 09 R229 does not
give is zero: HIT and FRONT of an end record, U of a node, of a triangle that is missed and of a user record without a
report, and bytes 23:20 of user and end records. -/
def recBytes (kind : Nat) (hit front : Bool) (idx : Nat) (t u v : Dword) : List Byte :=
  natLe 4 (kind + (if hit then 16 else 0) + (if front then 32 else 0)) ++ natLe 4 idx ++ natLe 8 t.toNat ++
    natLe 8 u.toNat ++ natLe 8 v.toNat

/-- Bytes written to the log; those that overlap another log, or data read, are undefined, and so is all that a query writes
once it has read such data (09 R231). -/
def putLog (s : State) (c : Context) (q : Query) (va : Nat) (bs : List Byte) : Except AccErr State :=
  (engWrite s (some q.core) c va bs).map fun s =>
    (if q.badRead then [(va, bs.length)] else q.clash.flatMap (rangesMeet (va, bs.length))).foldl (fun s r => engLose s c r) s

/-- A record written to slot `j`. -/
def putRec (s : State) (c : Context) (q : Query) (log : VA) (j : Nat) (bs : List Byte) : Except AccErr State :=
  putLog s c q (log.toNat + 32 + 32 * j) bs

/-- A traversal record: slots 0 to CAP − 2; one that does not fit is dropped. -/
def rayLog (s : State) (c : Context) (q : Query) (bs : List Byte) : Except AccErr (State × Query × Option Nat) :=
  match q.log with
  | none => .ok (s, q, none)
  | some (_, log) =>
    if q.nrec + 1 < q.cap then
      match putRec s c q log q.nrec bs with
      | .error e => .error e
      | .ok s1 => .ok (s1, { q with nrec := q.nrec + 1 }, some q.nrec)
    else .ok (s, { q with logf := true }, none)

/-! Traversal (09 R221). -/

/-- What a run of a query comes to: its end with a code, or a user leaf whose threads it waits for. -/
inductive RayOut where
  | ended (code : Nat)
  | leaf
deriving DecidableEq, Repr

/-- The code of a query that ends with its best hit or none (09 R217). -/
def hitCode (b : Option Hit) : Nat := match b with | none => 0 | some h => if h.user then 2 else 1

def Query.vals (q : Query) : List FVal × List FVal × FVal × FVal := (q.origin.map val, q.dir.map val, val q.tmin, val q.tmax)
def Query.first (q : Query) : Bool := q.flags.getLsbD 0

/-- Nine coordinates of a triangle. -/
def triVals (p : Prec) (bs : List Byte) : List FVal :=
  let n := 4 * precN p
  (List.range 9).map fun i => fpDecode (precFmt p) (fieldAt bs (n * i) n)

/-- Triangle `i` tested: its hit, if any. -/
def rayTri (s : State) (c : Context) (q : Query) (i : Nat) : Except AccErr (State × Query × Option Hit) :=
  let sz := match q.prec with | .f32 => 48 | .f64 => 80
  match rayRead s c q ((q.tris + sz * i) % 2 ^ 80) (36 * precN q.prec) with
  | .error e => .error e
  | .ok (s1, q1, bs) =>
    let (o, d, lo, hi) := q.vals
    .ok (s1, q1, (triTest q.prec o d lo hi q.flags (triVals q.prec bs)).map fun h =>
      ⟨pat h.1, pat h.2.1, pat h.2.2.1, false, BitVec.ofNat 32 i, 0, h.2.2.2⟩)

/-- The triangles of a leaf, in index order, up to the first accepted hit with FIRST. -/
def rayLeaf (c : Context) (is : List Nat) (s : State) (q : Query) : Except AccErr (State × Query) :=
  match is with
  | [] => .ok (s, q)
  | i :: r =>
    match rayTri s c q i with
    | .error e => .error e
    | .ok (s1, q1, h) =>
      let bs := match h with
        | some h => recBytes 2 true h.front i h.t h.u h.v
        | none => recBytes 2 false false i infPat 0 0
      match rayLog s1 c q1 bs with
      | .error e => .error e
      | .ok (s2, q2, j) =>
        let q3 := match h with
          | some h => if betterThan h q2.best then { q2 with best := some h, bestRec := j } else q2
          | none => q2
        if q3.first && q3.best.isSome then .ok (s2, q3) else rayLeaf c r s2 q3

/-- The children of an interior node that the segment meets: index and entry value, in ascending (enter, child). -/
def rayKids (q : Query) (bs : List Byte) (cnt : Nat) : List (Nat × Dword) :=
  let (o, d, lo, hi) := q.vals
  let f32 (at_ : Nat) : List FVal := (List.range 3).map fun k => fpDecode fmtF32 (fieldAt bs (at_ + 4 * k) 4)
  let hits := (List.range cnt).filterMap fun k =>
    (boxEnter (precFmt q.prec) o d lo hi (f32 (8 + 24 * k)) (f32 (20 + 24 * k))).map fun e => (fieldAt bs (104 + 4 * k) 4, e)
  let ins (x : Nat × FVal) (l : List (Nat × FVal)) : List (Nat × FVal) :=
    l.takeWhile (fun y => !rLt x.2 y.2) ++ x :: l.dropWhile (fun y => !rLt x.2 y.2)
  (hits.foldl (fun l x => ins x l) []).map fun x => (x.1, pat x.2)

/-- The traversal loop. Every turn of it pops a node, and each visit pushes at most four. DESIGN CHOICE (assumption 12): all that a
query reads between its start, its user leaves and its end it reads in one step, although 09 R231 lets each element that another
agent writes meanwhile be old or new. -/
def rayLoop (c : Context) (fuel : Nat) (s : State) (q : Query) : Except AccErr (State × Query × RayOut) :=
  match fuel with
  | 0 => .ok (s, q, .ended 4)
  | fuel + 1 =>
    match q.stack with
    | [] => .ok (s, q, .ended (hitCode q.best))
    | (n, e) :: r =>
      let q0 := { q with stack := r }
      if q.best.any fun b => rLt (val b.t) (val e) then rayLoop c fuel s q0
      else if q.visits + 1 > 2 ^ 24 then .ok (s, q0, .ended 4)
      else
        match rayLog s c { q0 with visits := q.visits + 1 } (recBytes 1 false false n e 0 0) with
        | .error x => .error x
        | .ok (s1, q1, _) =>
          match rayRead s1 c q1 ((q.nodes + 128 * n) % 2 ^ 80) 128 with
          | .error x => .error x
          | .ok (s2, q2, bs) =>
            let ty := fieldAt bs 0 1 % 4
            let cnt := fieldAt bs 0 1 / 4 % 8 + 1
            let first := fieldAt bs 4 4
            match ty with
            | 0 =>
              if cnt > 4 ∨ (List.range cnt).any (fun k => decide (q.nnode ≤ fieldAt bs (104 + 4 * k) 4)) then .ok (s2, q2, .ended 4)
              else
                let kids := rayKids q2 bs cnt
                if kids.length + r.length > 64 then .ok (s2, q2, .ended 5)
                else rayLoop c fuel s2 { q2 with stack := kids ++ r }
            | 1 =>
              if first + cnt > q.ntri then .ok (s2, q2, .ended 4)
              else match rayLeaf c ((List.range cnt).map (first + ·)) s2 q2 with
                | .error x => .error x
                | .ok (s3, q3) =>
                  if q3.first && q3.best.isSome then .ok (s3, q3, .ended (hitCode q3.best)) else rayLoop c fuel s3 q3
            | 2 =>
              if first + cnt > 2 ^ 32 then .ok (s2, q2, .ended 4)
              else if q.flags.getLsbD 3 then
                if q2.first && q2.best.isSome then .ok (s2, q2, .ended (hitCode q2.best)) else rayLoop c fuel s2 q2
              else .ok (s2, { q2 with inLeaf := some (first, cnt), toSpawn := (List.range cnt).map (first + ·), waiting := [],
                                      lost := false, reports := [] }, .leaf)
            | _ => .ok (s2, q2, .ended 4)

/-- Turns that bound every traversal: 2^24 visits, each with its pop and four more. -/
def rayFuel : Nat := 5 * 2 ^ 24 + 8

/-! Replay of a log (09 R230). -/

/-- Records 0 to `n` − 1 up to the end record: whether users stood among those read, and triangle indices in order with the
end record's STAT; none where the log is bad. -/
def logScan (c : Context) (log n j : Nat) (s : State) (q : Query) (tris : List Nat) (usr : Bool) :
    Except AccErr (State × Query × Bool × Option (List Nat × Nat)) :=
  match n with
  | 0 => .ok (s, q, usr, none)
  | n + 1 =>
    match rayRead s c q ((log + 32 + 32 * j) % 2 ^ 80) 32 with
    | .error e => .error e
    | .ok (s1, q1, bs) =>
      let i := fieldAt bs 4 4
      match fieldAt bs 0 1 % 16 with
      | 1 => logScan c log n (j + 1) s1 q1 tris usr
      | 2 => logScan c log n (j + 1) s1 q1 (tris ++ [i]) usr
      | 3 => logScan c log n (j + 1) s1 q1 tris true
      | 4 => .ok (s1, q1, usr, some (tris, fieldAt bs 16 4))
      | _ => .ok (s1, q1, usr, none)

/-- The triangles of a log tested with the new ray; none where an index does not exist. -/
def replayTris (c : Context) (is : List Nat) (s : State) (q : Query) : Except AccErr (State × Query × Bool) :=
  match is with
  | [] => .ok (s, q, true)
  | i :: r =>
    if q.ntri ≤ i then .ok (s, q, false)
    else match rayTri s c q i with
      | .error e => .error e
      | .ok (s1, q1, h) =>
        let q2 := match h with
          | some h => if betterThan h q1.best then { q1 with best := some h } else q1
          | none => q1
        if q2.first && q2.best.isSome then .ok (s1, q2, true) else replayTris c r s1 q2

/-- A replay: the query with its best hit, the code, and USRLOG. DESIGN CHOICE (assumption 53), where 09 R230 leaves it open: with
COUNT above CAP no record is read, and USRLOG is 0; the procedure's result stands also where the logging query had ended with CODE
4 to 7. -/
def rayReplay (s : State) (c : Context) (q : Query) (log : Nat) : Except AccErr (State × Query × Nat × Bool) :=
  match rayRead s c q log 8 with
  | .error e => .error e
  | .ok (s1, q1, bs) =>
    if fieldAt bs 4 4 > fieldAt bs 0 4 then .ok (s1, q1, 4, false)
    else match logScan c log (fieldAt bs 4 4) 0 s1 q1 [] false with
      | .error e => .error e
      | .ok (s2, q2, usr, none) => .ok (s2, q2, 4, usr)
      | .ok (s2, q2, usr, some (is, stat)) =>
        match replayTris c is s2 { q2 with logf := bitOf stat 6 } with
        | .error e => .error e
        | .ok (s3, q3, ok) => .ok (s3, q3, if ok then hitCode q3.best else 4, usr)

/-! The start and the end of a query. -/

/-- The ray is invalid (09 R216). -/
def rayInvalid (q : Query) : Bool :=
  ((q.origin ++ q.dir).any fun d => (val d).isNaN || (val d).isInf) || q.dir.all (fun d => (val d).isZero) ||
    (val q.tmin).isNaN || (val q.tmax).isNaN || decide (q.flags.toNat ≥ 16)

/-- STAT (09 R217). -/
def rayStat (q : Query) (code : Nat) (usr : Bool) : Nat :=
  (if usr then 128 else 0) + (if q.logf then 64 else 0) +
    (if code = 1 ∧ q.best.any (·.front) then 16 else 0) + code

/-- Words of a real in the query's format. -/
def realWords (p : Prec) (d : Dword) : List Word :=
  match p with
  | .f32 => [BitVec.ofNat 32 (fpConvert fmtF32 .rne false (val d)).1]
  | .f64 => [d.extractLsb' 0 32, d.extractLsb' 32 32]

/-- The hit record (09 R217). -/
def hitWords (q : Query) (code : Nat) (usr : Bool) : List Word :=
  let stat : Word := BitVec.ofNat 32 (rayStat q code usr)
  let h : Hit := match q.best with
    | some h => if code = 1 then h else ⟨h.t, 0, 0, true, h.prim, h.attr, false⟩
    | none => ⟨infPat, 0, 0, false, -1, 0, false⟩
  let h := if code = 1 ∨ code = 2 then h else ⟨infPat, 0, 0, false, -1, 0, false⟩
  realWords q.prec h.t ++ realWords q.prec h.u ++ realWords q.prec h.v ++ [h.prim, h.attr, stat]

/-- The end record and COUNT (09 R229): every end of a query that logs writes them. -/
def rayEndLog (s : State) (c : Context) (q : Query) (code : Nat) : Except AccErr (State × Query) :=
  match q.log with
  | none => .ok (s, q)
  | some (_, log) =>
    if q.replay then .ok (s, q)
    else
      let q1 := if q.cap = 0 then { q with logf := true } else q
      let t := match q.best with | some h => if code = 1 ∨ code = 2 then h.t else infPat | none => infPat
      let idx := if code = 1 ∨ code = 2 then q.bestRec.getD 0xFFFFFFFF else 0xFFFFFFFF
      let r := if q.cap = 0 then .ok s
        else putRec s c q log q.nrec (recBytes 4 false false idx t (BitVec.ofNat 64 (rayStat q1 code false)) 0)
      match r with
      | .error e => .error e
      | .ok s1 =>
        match putLog s1 c q (log.toNat + 4) (natLe 4 (if q.cap = 0 then 0 else q.nrec + 1)) with
        | .error e => .error e
        -- what a query that read overlapped data would have logged further is not known (09 R231)
        | .ok s2 => .ok (if q.badRead then engLose s2 c (log.toNat + 32 + 32 * q.nrec, 32 * (q.cap - q.nrec)) else s2, q1)

/-- Bytes that a query of wave `u` found overlapped become undefined. -/
def clashLost (s : State) (u : Nat) (q : Query) : State :=
  match assocGet s.waves u with
  | some w => match assocGet s.ctxs w.ctx with | some c => q.loseClash w.ctx c s | none => s
  | none => s

/-- The lane of a query ends with a fault: the ordinals it took are kept for its reissue (09 R231). -/
def rayFault (s : State) (u : Nat) (e : Entry) (l : Nat) (q : Query) (x : AccErr) : State :=
  let s1 := modWave (clashLost s u q) u fun w => { w with entries := w.entries.map fun d =>
    if d.seq = e.seq then
      { d with rest := some (((d.rest.getD []).filter fun n => n % 64 != l) ++ (q.used ++ q.reuse).map fun o => 64 * o + l) }
    else d }
  setLane s1 u e.seq l (.faulted x.1 x.2.1 x.2.2)

/-- The destination of a query's instruction. -/
def rayDest (i : Instr) : Nat :=
  match i with
  | .rayq _ _ d _ => d.toNat | .rayqL _ _ d _ _ => d.toNat | .rayp _ _ d _ _ => d.toNat
  | .raya _ _ d _ => d.toNat | .rayh _ _ d _ _ _ => d.toNat
  | _ => 0

/-- A query ends with a code: end record, hit record, completion. -/
def rayFinish (s : State) (u : Nat) (e : Entry) (c : Context) (l : Nat) (q : Query) (code : Nat) (usr : Bool) : State :=
  match rayEndLog s c q code with
  | .error x => rayFault s u e l q x
  | .ok (s1, q1) =>
    let ws := hitWords q1 code usr
    -- a result computed from overlapped bytes is undefined until its register is next written (00 R2, 09 R231)
    let put (w : Wave) : Wave := if q1.badRead then markLost w (rayDest e.instr) ws.length (lanesMask [l]) else writeWords w (rayDest e.instr) l ws
    setLane (modWave (clashLost s1 u q1) u put) u e.seq l .done

/-- Threads of a user leaf spawned in index order (09 R226): true once all are placed, or the code that ends it. DESIGN
CHOICE (assumption 53): they take the lane's next ordinals at once; `SPAWN`s of the lane still in flight or faulted take
theirs when they are performed. -/
def raySpawn (u : Nat) (e : Entry) (l : Nat) (ps : List Nat) (s : State) (q : Query) :
    Except (Query × AccErr) (State × Query × Option Nat) :=
  match ps with
  | [] => .ok (s, { q with toSpawn := [] }, none)
  | p :: r =>
    match assocGet s.waves u with
    | none => .ok (s, q, none)
    | some w =>
      let fresh := q.reuse.isEmpty
      let o := (q.reuse.head?).getD (threadOf w l).next
      let t := match q.best with | some h => h.t | none => infPat
      if o ≥ 0x4000000 then .ok (s, q, some 6)
      else
        let pay := [q.handle, BitVec.ofNat 32 p] ++ realWords q.prec t
        match placeChild s w l o q.uent false pay none (some (u, 64 * e.seq + l, q.num, p)) (e.clock + 2) with
        | .error (c, a) => .error (q, (c, a, a))
        | .ok (s1, st) =>
          let s2 := if fresh then bumpNext s1 u l else s1
          let q1 := { q with reuse := q.reuse.drop 1, used := q.used ++ [o] }
          if st = 0 ∨ st = 1 then raySpawn u e l r s2 { q1 with waiting := q1.waiting ++ [p] }
          else if st = 2 then .ok (s2, { q with toSpawn := p :: r, reuse := o :: q.reuse.drop 1 }, none)
          else .ok (s2, q1, some 6)

/-- A query after a run: it ends, or spawns the threads of its leaf and waits. -/
def rayAfter (u : Nat) (e : Entry) (c : Context) (l : Nat) (r : State × Query × RayOut) : State :=
  match r with
  | (s, q, .ended code) => rayFinish s u e c l q code false
  | (s, q, .leaf) =>
    match raySpawn u e l q.toSpawn s q with
    | .error (q1, x) => rayFault s u e l q1 x
    | .ok (s1, q1, some code) => rayFinish s1 u e c l q1 code false
    | .ok (s1, q1, none) => setLane s1 u e.seq l (.inflight (.query q1) q1.header.2)

/-- The header (09 R218) read into the query; none where it is bad. -/
def rayHeader (s : State) (c : Context) (q : Query) : Except AccErr (State × Query × Bool) :=
  let va := q.header.2
  if q.header.1 then .error (.nonCanonical, va, va)
  else if va.toNat % 64 ≠ 0 then .error (.misaligned, va, va)
  else match rayRead s c q va.toNat 64 with
    | .error e => .error e
    | .ok (s1, q1, bs) =>
      let q2 := { q1 with nodes := fieldAt bs 0 10, tris := fieldAt bs 16 10, uent := BitVec.ofNat 80 (fieldAt bs 32 10),
                          nnode := fieldAt bs 48 4, ntri := fieldAt bs 52 4, stack := [(0, q.tmin)] }
      let fmt := match q.prec with | .f32 => 0 | .f64 => 1
      .ok (s1, q2, allZero (sliceBytes bs 10 6) && allZero (sliceBytes bs 26 6) && allZero (sliceBytes bs 42 6) &&
        allZero (sliceBytes bs 57 7) && q2.nnode != 0 && fieldAt bs 56 1 == fmt && q2.nodes % 128 == 0 && q2.tris % 16 == 0)

/-- The log's header read (09 R229). DESIGN CHOICE (assumption 53): a log address that is not 32-byte aligned faults
as misaligned, and a fault of the log stands before the test of the ray for CODE 3. -/
def rayLogHead (s : State) (c : Context) (q : Query) : Except AccErr (State × Query) :=
  match q.log with
  | none => .ok (s, q)
  | some (bad, log) =>
    if bad then .error (.nonCanonical, log, log)
    else if log.toNat % 32 ≠ 0 then .error (.misaligned, log, log)
    else (engRead s (some q.core) c log.toNat 4).map fun r => (r.1, { q with cap := leNat r.2 })

/-- The bytes of a log: its header and CAP records. -/
def logArea (s : State) (c : Context) (log : VA) : List (Nat × Nat) :=
  match engRead s none c log.toNat 4 with | .ok (_, b) => [(log.toNat, 32 + 32 * leNat b)] | .error _ => []

/-- The area that a query logs to. -/
def Query.area (s : State) (c : Context) (q : Query) : List (Nat × Nat) :=
  match q.log with | some (_, log) => if q.replay then [] else logArea s c log | none => []

/-- A query that starts learns the logs in flight, and the queries in flight learn its log (09 R231). -/
def rayLogs (s : State) (x : Nat) (c : Context) (num : Nat) (q : Query) : State × Query :=
  let own := q.area s c
  let rest := ((queriesOf s x).filter fun p => p.2.2.2.num != num).flatMap (fun p => p.2.2.2.area s c) ++ q.others.flatMap (logArea s c)
  (if own.isEmpty then s else modQueries s x fun p => { p with logs := p.logs ++ own, clash := p.clash ++ own.flatMap fun a => (p.area s c).flatMap (rangesMeet a) },
    { q with logs := own ++ rest, clash := q.clash ++ own.flatMap fun a => rest.flatMap (rangesMeet a) })

/-- A query runs from its start (09 R221, R230). -/
def rayStart (s : State) (u x : Nat) (e : Entry) (c : Context) (l : Nat) (q0 : Query) : State :=
  match rayLogHead s c { q0 with started := true } with
  | .error x => rayFault s u e l q0 x
  | .ok (s0, q) =>
    let (s1, q) := rayLogs s0 x c q.num q
    if rayInvalid q then rayFinish s1 u e c l q 3 false
    else match rayHeader s1 c q with
      | .error x => rayFault s u e l q x
      | .ok (s2, q1, false) => rayFinish s2 u e c l q1 4 false
      | .ok (s2, q1, true) =>
        if q.replay then
          match rayReplay s2 c q1 ((q.log.map fun p => p.2.toNat).getD 0) with
          | .error x => rayFault s u e l q x
          | .ok (s3, q2, code, usr) => rayFinish s3 u e c l q2 code usr
        else match rayLoop c rayFuel s2 q1 with
          | .error x => rayFault s u e l q x
          | .ok r => rayAfter u e c l r

/-- The query of a lane. -/
def queryAt (s : State) (u seq l : Nat) : Option (Entry × Context × Query) :=
  match findEntry s u seq with
  | none => none
  | some (_, e, c) =>
    match assocGet e.lanes l with
    | some (.inflight (.query q) _) => some (e, c, q)
    | _ => none

/-- The query of a lane changed; its requests stay out. -/
def modQuery (s : State) (u seq l : Nat) (f : Query → Query) : State :=
  modWave s u fun w => { w with entries := w.entries.map fun e => if e.seq = seq then
    { e with lanes := e.lanes.map fun x => match x with
        | (m, .inflight (.query q) a) => if m = l then (m, .inflight (.query (f q)) a) else x
        | _ => x } else e }

/-- What a query may reach, as virtual ranges with whether they are written: header, log, nodes and triangles. -/
def Query.ranges (q : Query) (s : State) (c : Context) : List ((Nat × Nat) × Bool) :=
  let sz := match q.prec with | .f32 => 48 | .f64 => 80
  ((q.header.2.toNat, 64), false) :: (match q.log with | some (_, log) => (logArea s c log).map fun r => (r, !q.replay) | none => []) ++
    match rayHeader s c q with
    | .ok (_, h, _) => [((h.nodes, 128 * h.nnode), false), ((h.tris, sz * h.ntri), false), (((h.uent - 8).toNat, 8), false)]
    | .error _ => []

/-- A query runs to its end or to a user leaf, after the answers of the peers it reaches; one with threads refused for want of room tries again. One of a saved context
waits for its restore (09 R231). -/
def queryRun (s : State) (u seq l : Nat) : Option State :=
  match queryAt s u seq l with
  | none => none
  | some (e, c, q) =>
    if !c.resident then none
    else if (assocGet s.waves u).any fun w => !q.started && laneStuck w seq l then some (setLane s u seq l .held)
    else if !q.started then asking s u e c l (q.ranges s c) ((assocGet s.waves u).map fun w => rayStart s u w.ctx e c l q)
    else if q.inLeaf.isSome && !q.toSpawn.isEmpty then asking s u e c l (q.ranges s c) (some (rayAfter u e c l (s, q, .leaf)))
    else none

/-- USER records of a leaf, one for each primitive, with the best of its reports (09 R226, R229). -/
def rayUsers (c : Context) (ps : List Nat) (s : State) (q : Query) : Except AccErr (State × Query) :=
  match ps with
  | [] => .ok (s, q)
  | p :: r =>
    let best := (q.reports.filter fun h => h.prim.toNat == p).foldl (fun b h => if betterThan h b then some h else b) none
    let bs := match best with
      | some h => recBytes 3 true false p h.t (h.attr.zeroExtend 64) 0
      | none => recBytes 3 false false p infPat 0 0
    match rayLog s c q bs with
    | .error e => .error e
    | .ok (s1, q1, j) =>
      let q2 := match best with
        | some h => if betterThan h q1.best then { q1 with best := some h, bestRec := j } else q1
        | none => q1
      rayUsers c r s1 q2

/-- Every thread of the leaf has retired: the reports are compared and the traversal goes on. -/
def leafRetired (s : State) (u seq l : Nat) : Option State :=
  match queryAt s u seq l with
  | none => none
  | some (e, c, q) =>
    match q.inLeaf with
    | none => none
    | some (first, cnt) =>
      if !c.resident || !q.toSpawn.isEmpty || !q.waiting.isEmpty then none
      else asking s u e c l (q.ranges s c) <| if q.lost then some (rayFinish s u e c l q 7 false)
      else match rayUsers c ((List.range cnt).map (first + ·)) s { q with inLeaf := none } with
        | .error x => some (rayFault s u e l q x)
        | .ok (s1, q1) =>
          if q1.first && q1.best.isSome then some (rayFinish s1 u e c l q1 (hitCode q1.best) false)
          else match rayLoop c rayFuel s1 { q1 with reports := [] } with
            | .error x => some (rayFault s u e l q x)
            | .ok r => some (rayAfter u e c l r)

def execRayQueryComplete (u seq lane : Nat) (s : State) : Host.Outcome State Fault Refusal := evStep s (queryRun s u seq lane)

def execUserLeafThreadsRetired (u seq lane : Nat) (s : State) : Host.Outcome State Fault Refusal :=
  evStep s (leafRetired s u seq lane)

/-! Issue (09 R215, R216). -/

/-- Real number `i` of a record at register `a`, as an FP64 pattern. -/
def readReal (s : State) (w : Wave) (p : Prec) (a i l : Nat) : Dword :=
  match p with
  | .f32 => pat (fpDecode fmtF32 (readLane s w (a + i) l).toNat)
  | .f64 => readPair s w (a + 2 * i) l

/-- A query as it issues. -/
def rayLane (p : Prec) (replay : Bool) (a : Nat) (log : Option Nat) : LaneIssue := fun e k l s =>
  let n := precN p
  let real (i : Nat) := readReal s k.w p a i l
  let h := a + 8 * n + 1
  let mine : List Nat := ((e.rest.getD []).filter fun o => o % 64 == l).map (· / 64)
  let q : Query :=
    { prec := p, replay := replay, num := s.free,
      handle := Config.queryHandle ((s.free * 2 ^ 32 + e.seq) * 64 + l), core := k.w.core,
      origin := (List.range 3).map real, dir := (List.range 3).map fun i => real (3 + i), tmin := real 6, tmax := real 7,
      flags := readLane s k.w (a + 8 * n) l, header := (tripleBad s k.w h l, readTriple s k.w h l),
      log := log.map fun b => (tripleBad s k.w b l, readTriple s k.w b l),
      others := match log with
        | some b => if replay then [] else ((k.actList s).filter (· != l)).map fun m => readTriple s k.w b m
        | none => [],
      started := false, cap := 0, nodes := 0, tris := 0, uent := 0, nnode := 0, ntri := 0, stack := [], best := none,
      visits := 0, nrec := 0, logf := false, bestRec := none, logs := [], clash := [], badRead := false, toSpawn := [],
      waiting := [], lost := false, reports := [], inLeaf := none, used := [], reuse := mine }
  (s, .inflight (.query q) q.header.2)

/-- Registers of a hit record and of a ray record. -/
def hitN (p : Prec) : Nat := 3 * precN p + 3
def rayN (p : Prec) : Nat := 8 * precN p + 4

def execRayq (g : BitVec 2) (p : Prec) (d a : Reg) (s : State) : Host.Outcome State Fault Refusal :=
  issueWith (.rayq g p d a) s (batchOp (.rayq g p d a) d.toNat (hitN p) (rayLane p false a.toNat none))

def execRayqL (g : BitVec 1) (p : Prec) (d a b : Reg) (s : State) : Host.Outcome State Fault Refusal :=
  issueWith (.rayqL g p d a b) s (batchOp (.rayqL g p d a b) d.toNat (hitN p) (rayLane p false a.toNat (some b.toNat)))

def execRayp (g : BitVec 1) (p : Prec) (d a b : Reg) (s : State) : Host.Outcome State Fault Refusal :=
  issueWith (.rayp g p d a b) s (batchOp (.rayp g p d a b) d.toNat (hitN p) (rayLane p true a.toNat (some b.toNat)))

def rayALane (h : Nat) : LaneIssue := fun _ k l s => (s, .inflight (.rayA (readLane s k.w h l)) 0)

def execRaya (g : BitVec 2) (p : Prec) (d a : Reg) (s : State) : Host.Outcome State Fault Refusal :=
  issueWith (.raya g p d a) s (batchOp (.raya g p d a) d.toNat (rayN p) (rayALane a.toNat))

def rayHLane (p : Prec) (h t x : Nat) : LaneIssue := fun _ k l s =>
  (s, .inflight (.rayH (readLane s k.w h l) (readReal s k.w p t 0 l) (readLane s k.w x l)) 0)

def execRayh (g : BitVec 1) (p : Prec) (d a b c : Reg) (s : State) : Host.Outcome State Fault Refusal :=
  issueWith (.rayh g p d a b c) s (batchOp (.rayh g p d a b c) d.toNat 1 (rayHLane p a.toNat b.toNat c.toNat))

/-! `RAYA` and `RAYH` performed (09 R227, R228). -/

/-- The query of which lane `l` of `w` is an intersection thread, where it still runs: wave, entry number, lane,
primitive, query. -/
def ownQuery (s : State) (w : Wave) (l : Nat) : Option (Nat × Nat × Nat × Nat × Query) :=
  match (threadOf w l).query with
  | none => none
  | some (u, sl, num, prim) =>
    match queryAt s u (sl / 64) (sl % 64) with
    | some (_, _, q) => if q.num = num then some (u, sl / 64, sl % 64, prim, q) else none
    | none => none

/-- The ray record with tmax replaced by the best t (09 R227). -/
def rayRecord (q : Query) : List Word :=
  let tm := match q.best with | some h => h.t | none => q.tmax
  (q.origin ++ q.dir ++ [q.tmin, tm]).flatMap (realWords q.prec) ++
    [q.flags, q.header.2.extractLsb' 0 32, q.header.2.extractLsb' 32 32, (q.header.2.extractLsb' 64 16).zeroExtend 32]

def instrPrec (i : Instr) : Prec :=
  match i with | .raya _ p _ _ => p | .rayh _ p _ _ _ _ => p | _ => .f32

def performRay (s : State) (u seq l : Nat) : Option State :=
  match assocGet s.waves u with
  | none => none
  | some w =>
    match w.entries.find? (·.seq == seq) with
    | none => none
    | some e =>
      let d := rayDest e.instr
      let p := instrPrec e.instr
      if laneStuck w seq l then some (setLane s u seq l .held)
      else match assocGet e.lanes l with
      | some (.inflight (.rayA h) _) =>
        let ws := match ownQuery s w l with
          | some (_, _, _, _, q) => if q.handle = h ∧ q.prec = p then rayRecord q else List.replicate (rayN p) 0
          | none => List.replicate (rayN p) 0
        some (setLane (modWave s u fun w => writeWords w d l ws) u seq l .done)
      | some (.inflight (.rayH h t x) _) =>
        let fin (s : State) (n : Nat) := setLane (modWave s u fun w => writeLane w d l (BitVec.ofNat 32 n)) u seq l .done
        match ownQuery s w l with
        | none => some (fin s 2)
        | some (v, qs, ql, prim, q) =>
          if q.handle ≠ h then some (fin s 2)
          else if q.prec ≠ p then some (fin s 3)
          else if !(rLe (val q.tmin) (val t) && rLe (val t) (val q.tmax)) then some (fin s 1)
          else
            let hit : Hit := ⟨t, 0, 0, true, BitVec.ofNat 32 prim, x, false⟩
            some (fin (modQuery s v qs ql fun q => { q with reports := q.reports ++ [hit] }) 0)
      | _ => none

/-! `TRICOV` (09 R232). -/

def triCoord (w : Word) : Option Int := if -(2 ^ 21) ≤ w.toInt ∧ w.toInt < 2 ^ 21 then some w.toInt else none

/-- Coverage of a tile by a triangle, and whether an operand is bad. -/
def triCover (k : Cull) (xs : List Word) (o : Word) : Dword × Bool :=
  let cs := xs.filterMap triCoord
  if cs.length ≠ 6 ∨ bitsOf o.toNat 15 10 ≠ 0 ∨ bitsOf o.toNat 31 26 ≠ 0 then (0, true)
  else
    let x (i : Nat) : Int := cs.getD (2 * (i % 3)) 0
    let y (i : Nat) : Int := cs.getD (2 * (i % 3) + 1) 0
    let area := (x 2 - x 0) * (y 1 - y 0) - (y 2 - y 0) * (x 1 - x 0)
    let culled := match k with | .off => false | .pos => decide (area > 0) | .neg => decide (area < 0)
    if area = 0 ∨ culled = true then (0, false)
    else
      let sg : Int := if area > 0 then 1 else -1
      let tx : Int := bitsOf o.toNat 9 0
      let ty : Int := bitsOf o.toNat 25 16
      let inside (b : Nat) : Bool :=
        let px := 256 * (8 * tx + (b % 8 : Nat)) + 128
        let py := 256 * (8 * ty + (b / 8 : Nat)) + 128
        (List.range 3).all fun i =>
          let dx := sg * (x (i + 1) - x i)
          let dy := sg * (y (i + 1) - y i)
          let e := (px - x i) * dy - (py - y i) * dx
          decide (0 < e) || (e == 0 && (decide (0 < dy) || (dy == 0 && decide (dx < 0))))
      (lanesMask ((List.range 64).filter inside), false)

def execTricov (g : BitVec 1) (k : Cull) (d a b : Reg) (s : State) : Host.Outcome State Fault Refusal :=
  issueWith (.tricov g k d a b) s fun i s =>
    let cov (l : Nat) := triCover k ((List.range 6).map fun j => readLane s i.w (a.toNat + j) l) (readLane s i.w b.toNat l)
    let rs := (i.actList s).map fun l => (l, cov l)
    let at_ (l : Nat) : Dword × Bool := (assocGet rs l).getD (0, false)
    let s1 := writeLanes s i d 2 bLong fun l => (at_ l).1
    .done (modWave s1 i.uid fun w => writeCC s w i.f.quads
      { z := ccBit w.cc.z i.f.quads fun q => rs.all fun r => r.1 / 4 != q || r.2.1 == 0,
        n := ccBit w.cc.n i.f.quads fun _ => false, c := ccBit w.cc.c i.f.quads fun _ => false,
        v := ccBit w.cc.v i.f.quads fun q => rs.any fun r => r.1 / 4 == q && r.2.2 } bLong)

end Sys2Proof.Machine
end

