-- ==== Sys2Proof/Machine/Trap.lean ====
section
/-!
DEFINITION. Fault lists and their resolution, `TRET`, trap entry that waited, the completion of lane operations,
deterministic turns and stalls, failures of links, and the retirement of waves and workgroups (03 R83, R88; 04 R108 to
R110; 06 R156, R157; 08 R210; 10 R238, R241; 11 R273, R289; 12 R303; 17 R414 to R417).
-/

namespace Sys2Proof.Machine

/-! Reissue (06 R157). -/

/-- How a lane of a batched instruction issues. -/
def laneIssueOf (i : Instr) : Option LaneIssue :=
  match i with
  | .ldA32 _ t _ a => some (ldLane .glob 31 (ldBytes t) a.toNat none)
  | .ldB64 t x => some (ldLane x.m.spc x.m.home.toNat (ldBytes t) x.a.toNat x.perm)
  | .stA32 _ t d a => some (stLane .glob 31 (stBytes t) d.toNat a.toNat none)
  | .stB64 t x => some (stLane x.m.spc x.m.home.toNat (stBytes t) x.d.toNat x.a.toNat x.perm)
  | .rst t x => some (rstLane (stBytes t) x)
  | .atom t x => some (atomLane t x)
  | .copy _ d a => some (copyLane d.toNat a.toNat)
  | .copyS _ d a => some (copySLane d.toNat a.toNat)
  | .copyG _ d a => some (copyGLane d.toNat a.toNat)
  | .copyR _ _ a => some (copyRLane a.toNat)
  | .copyGt _ d a b c => some (copyGtLane d.toNat a.toNat b.toNat c.toNat)
  | .stq _ _ _ a => some (stqLane a.toNat)
  | .mcast _ _ _ _ a => some (mcastLane a.toNat)
  | .cred _ d a b => some (credLane d.toNat a.toNat b.toNat)
  | .rayq _ p _ a => some (rayLane p false a.toNat none)
  | .rayqL _ p _ a b => some (rayLane p false a.toNat (some b.toNat))
  | .rayp _ p _ a b => some (rayLane p true a.toNat (some b.toNat))
  | .raya _ _ _ a => some (rayALane a.toNat)
  | .rayh _ p _ a b c => some (rayHLane p a.toNat b.toNat c.toNat)
  | .spawn _ perm h n _ a b c => some (spawnLane perm h (n.toNat + 1) a b c)
  | .jrnl _ d a b => some (jrnlLane d.toNat a.toNat b.toNat)
  | .emit _ d a => some (emitLane d.toNat a.toNat)
  | .jtrunc _ d a => some (truncLane d.toNat a.toNat)
  | .govq _ _ a => some (govLane false a.toNat)
  | .govqJ _ _ a => some (govLane true a.toNat)
  | _ => none

/-- Destination registers of a batched instruction: first and count. -/
def batchDest (i : Instr) : Option (Nat × Nat) :=
  match i with
  | .ldA32 _ t d _ => some (d.toNat, t.regs)
  | .ldB64 t x => some (x.d.toNat, t.regs)
  | .atom t x => some (x.d.toNat, t.regs)
  | .rayq _ p d _ => some (d.toNat, hitN p)
  | .rayqL _ p d _ _ => some (d.toNat, hitN p)
  | .rayp _ p d _ _ => some (d.toNat, hitN p)
  | .raya _ p d _ => some (d.toNat, rayN p)
  | .rayh _ _ d _ _ _ => some (d.toNat, 1)
  | .spawn _ _ _ _ d _ _ _ => some (d.toNat, 1)
  | .jrnl _ d _ _ => some (d.toNat, 2)
  | .govq _ d _ => some (d.toNat, 1)
  | .govqJ _ d _ => some (d.toNat, 1)
  | _ => none

/-- What stands for a lane between the clearing of the list and its reissue. -/
def reissueMark : LaneSt := .inflight (.engine []) 0

/-- Streams on which the lanes of an entry that `p` picks hold a record. -/
def Entry.streams (e : Entry) (p : Nat × LaneSt → Bool) : List Nat :=
  (e.lanes.filter p).flatMap fun l => match e.instr, e.rest with
    | .jrnl _ _ _ _, some ns => (ns.filter fun n => n % 64 == l.1).map (· / 64)
    | .govqJ _ _ _, some [_, q] => [q]
    | _, _ => []

/-- Lanes of the fault list: those of `gone` lose entry `e`, and a record of theirs stays unacknowledged. -/
def clearList (gone : Nat → Nat → Bool) (w : Wave) : Wave :=
  let w1 := { w with
    entries := w.entries.map fun e =>
      { e with lanes := e.lanes.map fun l => if l.2.stuck then (l.1, if gone e.seq l.1 then .done else reissueMark) else l },
    lostRecs := (w.lostRecs ++ w.entries.flatMap fun e => e.streams fun l => l.2.stuck && gone e.seq l.1).dedup }
  -- destinations of discarded lanes stay undefined until they are next written
  w.entries.foldl (fun w1 e =>
    match batchDest e.instr with
    | none => w1
    | some (d, n) =>
      let ls := lanesMask (e.lanes.filterMap fun l => if l.2.stuck && gone e.seq l.1 then some l.1 else none)
      if ls = 0 then w1 else markLost w1 d n ls) w1

/-- One entry's lanes reissue, reading registers as they now stand. -/
def reissueEntry (u : Nat) (s : State) (seq : Nat) (lanes : List Nat) : State :=
  match findEntry s u seq with
  | none => s
  | some (w, e, c) =>
    match laneIssueOf e.instr with
    | none => s
    | some f =>
      let fr : Frag := { Frag.start e.quads e.pc s.cycle with header := false }
      let s1 := modWave s u fun w => { w with entries := w.entries.map fun d =>
        if d.seq = seq then { d with issued := s.cycle, stalls := d.stalls.filter (fun l => !lanes.contains l.1), lanes := d.lanes.filter fun l => !lanes.contains l.1 } else d }
      lanes.foldl (fun t l =>
        match assocGet t.waves u with
        | none => t
        | some w1 => issueLane f e ⟨u, { w1 with open_ := w.open_ }, fr, c⟩ t l) s1

/-- The fault list is resolved: the lanes of `gone` are discarded, the others reissue, oldest entry first. -/
def resolveList (s : State) (u : Nat) (gone : Nat → Nat → Bool) : State :=
  match assocGet s.waves u with
  | none => s
  | some w =>
    let stuck := (w.entries.filter Entry.stuck).map fun e => (e, (e.lanes.filter fun l => l.2.stuck).map (·.1))
    let s1 := setWave s u (clearList gone w)
    let s2 := stuck.foldl (fun t p => if p.2.all (gone p.1.seq) then discardOp t w p.1 else t) s1
    let s3 := stuck.foldl (fun t p => reissueEntry u t p.1.seq (p.2.filter fun l => !gone p.1.seq l)) s2
    modWave s3 u openEntries

/-- Lanes that `TRET` discards: a lane that `TLM` does not name, from its first unserviced entry on (06 R157). An entry of a
fault that firmware services, and that arose after the report, is none: it reissues. DEDUCED (assumption 30). -/
def tretGone (w : Wave) (c : Context) (tlm : Dword) (seq l : Nat) : Bool :=
  !tlm.getLsbD l && w.entries.any fun e => decide (e.seq ≤ seq) && !e.serviced c && e.faultedLanes.getLsbD l

/-! `TRET` (17 R414 to R417). -/

/-- A granule's registers from its frame bytes, or given back. -/
def reloadGranule (s : State) (pa : Nat) (own : Bool) (g : Nat) (w : Wave) : Wave :=
  (List.range 8).foldl (fun w i =>
    (List.range 64).foldl (fun w l =>
      let r := 8 * g + i
      if own then writeLane w r l (BitVec.ofNat 32 (leNat (physGet s (pa + 256 * (r - 240) + 4 * l) 4)))
      else { w with regs := assocDel w.regs (64 * r + l) }) w) w

/-- The fragment that resumes at `TPC`, after the GAP of the `TRET` (13 R316, 17 R416). -/
def resumeFrag (s : State) (w : Wave) (v : Window) (gap : Nat) (f : Frag) : Frag :=
  let tpc := effTpc s w
  let same := tpc == v.tpc
  let inBlock := same || (decide (v.blk.toNat + 2 ≤ tpc.toNat) && decide (tpc.toNat ≤ v.fin.toNat))
  let f1 := if inBlock then
      { f with pc := tpc, blk := v.blk, fin := v.fin, left := v.left, page0 := v.page0, page1 := v.page1, header := same && v.header }
    else f.atHeader tpc
  { f1 with park := .none, retry := same && v.retry, closed := same && v.closed,
            only := if same && !w.tcause.getLsbD 8 then some (effTlm s w) else none,
            readyAt := max (s.cycle + 1 + gap) w.boundMax, waited := 0, promoted := none, wakeClock := 0, stall := 0, trap := none }

/-- A fragment that holds a trap record enters now (04 R110). -/
def enterPending (s : State) (u : Nat) : State :=
  match assocGet s.waves u with
  | none => s
  | some w =>
    let due (q : Nat) : Bool := (assocGet s.ctxs w.ctx).any fun c => lowerDue c w q
    if w.window.isSome || w.trapWait.isSome || w.report.isSome then s
    else
      match (List.range 16).find? fun q => (w.frag? q).any fun f => f.trap.isSome with
      | none => s
      | some q =>
        match (w.frag? q).bind (·.trap) with
        | some r => if due q then s else takeTrap (modFrag s u q fun f => { f with trap := none }) u q r
        | none => s

/-- What `TRET` leaves of the record of an undefined register: from v240 on it is as written, where entry stored the granule,
and gone with the reserve granule (04 R108). -/
def Undef.afterTret (w : Wave) (v : Window) (x : Undef) : List Undef :=
  if x.reg < 240 then [x]
  else if if x.reg < 248 then v.g30 else v.g31 then
    (match x.why with | .bound _ => [] | _ => x.afterWrite w x.reg (-1)).filter fun y => y.lanes != 0
  else []

/-- The handler's quads get back mask and codes; the window closes; the fault list is resolved after a report. -/
def closeWindow (s : State) (k : Issue) (v : Window) (gap : Nat) : State :=
  let base := frameAddr k.c k.w
  let pa := if v.g30 || v.g31 then xlateService s k.w.ctx base.toNat .read (some (coreDom k.w.core)) else .ok (s, 0)
  match pa with
  | .error _ => endWave s k.uid (some 2)
  | .ok (s1, pa) =>
    let on := v.quads
    let ls := lanesOf on
    let cc := k.w.cc
    let w1 : Wave :=
      { k.w with mask := (k.w.mask &&& ~~~ls) ||| (v.mask &&& ls), maskPend := [],
                 cc := ⟨(cc.z &&& ~~~on) ||| (v.cc.z &&& on), (cc.n &&& ~~~on) ||| (v.cc.n &&& on),
                        (cc.c &&& ~~~on) ||| (v.cc.c &&& on), (cc.v &&& ~~~on) ||| (v.cc.v &&& on)⟩,
                 ccPend := k.w.ccPend.filter (fun p => p.1 &&& on == 0), csrOwner := [],
                 undef := k.w.undef.flatMap (Undef.afterTret k.w v), window := none }
    let w2 := reloadGranule s1 pa v.g31 31 (reloadGranule s1 pa v.g30 30 w1)
    let w3 := w2.modFrag k.lead (resumeFrag s k.w v gap)
    let s2 := setWave s1 k.uid w3
    let s3 := if k.w.tcause.getLsbD 8 then resolveList s2 k.uid (tretGone w3 k.c (effTlm s k.w)) else s2
    enterPending s3 k.uid

def execTret (g : BitVec 2) (s : State) : Host.Outcome State Fault Refusal :=
  issueWith (.tret g) s fun k s =>
    match k.w.window with
    | none => .trap .illegalInstruction (k.act s) 0 s
    | some v =>
      if k.f.quads ≠ v.quads then .moved (endWave s k.uid (some 2))
      -- it waits until the bounds of the handler's instructions have passed
      else if s.cycle < k.w.boundMax then .moved (modFrag s k.uid k.lead fun f => { f with readyAt := k.w.boundMax })
      else
        let k1 := { k with w := setClocks k.w k.f.quads (· + 1) }
        .moved (closeWindow (setWave s k.uid k1.w) k1 v g.toNat)

/-! TRAP_ENTRY of an entry that waited (04 R109, R110). -/

def trapEnter (s : State) (u : Nat) : Option State :=
  match assocGet s.waves u with
  | none => none
  | some w =>
    match w.trapWait with
    | some q =>
      if (trapLine s w.core).head? = some u ∧ reserveUsed s w.core + reserveNeed w ≤ 8 then
        match (w.frag? q).bind (·.trap), assocGet s.ctxs w.ctx with
        | some r, some c =>
          -- the entry is that of the lowest leading quad, and the handler's address is the one that stands now
          let s1 := modWave (modCore s w.core fun k => { k with trapQ := k.trapQ.filter (· != u) }) u fun w => trapRegs w r
          if lowerDue c w q then none
          else some (if c.trapbase = 0 then endWave s1 u (some 1) else openWindow s1 u q true r)
        | _, _ => none
      else none
    | none =>
      let low := (List.range 16).find? fun q => (w.frag? q).any fun f => f.trap.isSome
      if w.window.isNone && w.report.isNone && low.any (fun q => (assocGet s.ctxs w.ctx).any fun c => !lowerDue c w q) then
        some (enterPending s u)
      else none

def execTrapEntry (u : Nat) (s : State) : Host.Outcome State Fault Refusal := evStep s (trapEnter s u)

/-! FAULT_SERVICE_COMPLETE (06 R155, R156, R159). -/

/-- The home hint of an access, for the first touch it makes (01 R20). -/
def instrHome (i : Instr) : Nat :=
  match i with
  | .ldB64 _ x => x.m.home.toNat | .stB64 _ x => x.m.home.toNat | .atom _ x => x.m.home.toNat
  | _ => 31

/-- Firmware services one faulted lane whose cause it services. A serviced lane is as a held one: it reissues. -/
def serviceLane (u : Nat) (core : Nat) (e : Entry) (s : State) (l : Nat × LaneSt) : State :=
  match assocGet s.waves u, l.2 with
  | some w, .faulted .pageFault a page =>
    let put (s : State) (st : LaneSt) : State := modWave s u fun w => { w with entries := w.entries.map fun d =>
      if d.seq = e.seq then { d with lanes := assocSet d.lanes l.1 st } else d }
    if (assocGet s.ctxs w.ctx).any fun x => serviceable x page.toNat then
      match servicePage s w.ctx page.toNat (instrHome e.instr) (some (coreDom core)) with
      | .ok t => put t .held
      | .error x => put s (.faulted x a page)
    else s
  | _, _ => s

def serviceEntry (u core : Nat) (s : State) (e : Entry) : State :=
  match (assocGet s.waves u).bind fun w => assocGet s.ctxs w.ctx with
  | some c => if e.lowest.isSome && e.serviced c then e.lanes.foldl (serviceLane u core e) s else s
  | none => s

/-- A faulted page of the list is being migrated: its service waits (06 R168). -/
def awaitsMove (w : Wave) (c : Context) : Bool :=
  w.entries.any fun e => e.serviced c && e.lanes.any fun l => match l.2 with
    | .faulted .pageFault _ page => migrating c page.toNat
    | _ => false

/-- The fragment parked on firmware's service whose page is not being migrated. -/
def Wave.serviceFrag (w : Wave) (c : Context) : Option Frag :=
  w.frags.find? fun f => match f.park with | .service va _ _ _ => !migrating c va.toNat | _ => false

/-- Lanes of the fault list that firmware may let complete: one whose fault it services, or held ones behind no fault that it does
not. -/
def Wave.mends (w : Wave) (c : Context) : Bool :=
  let lanes := w.entries.flatMap fun e => e.lanes.map (·.2)
  lanes.any fun x => x.mends c && (x != .held || !lanes.any fun y => y.stuck && !y.mends c)

/-- The fragment waits at an instruction that makes no report for lanes of the fault list to be settled (assumption 8). -/
def Frag.awaitsList (f : Frag) : Bool :=
  match f.park with
  | .faults => true | .turn => true | .spawns _ => true | .waitw _ _ _ _ woken => woken
  | _ => false

/-- Firmware services a wave's fault list without a report: a fragment waits for its lanes, or the wave has exited and its
operations go on (06 R155, R169, assumption 8). -/
def Wave.unreported (w : Wave) (c : Context) : Bool :=
  w.window.isNone && w.mends c && (w.frags.any (fun f => f.awaitsList && f.trap.isNone) || (w.live == 0 && !w.killed)) &&
    !(w.entries.any fun e => e.lanes.any fun l => match l.2 with
      | .faulted .pageFault _ page => migrating c page.toNat
      | _ => false)

/-- Held lanes of a wave issue again, oldest entry first. -/
def reissueHeld (s : State) (u : Nat) : State :=
  match assocGet s.waves u with
  | none => s
  | some w =>
    let held (e : Entry) : List Nat := (e.lanes.filter fun l => l.2 == .held).map (·.1)
    let s1 := setWave s u { w with entries := w.entries.map fun e =>
      { e with lanes := e.lanes.map fun l => if l.2 = .held then (l.1, reissueMark) else l } }
    modWave ((w.entries.filter fun e => !(held e).isEmpty).foldl (fun t e => reissueEntry u t e.seq (held e)) s1) u openEntries

def serviceDone (s : State) (u : Nat) : Option State :=
  match assocGet s.waves u with
  | none => none
  | some w =>
    match w.report, (assocGet s.ctxs w.ctx) with
    | _, none => none
    | some q, some c =>
      if awaitsMove w c then none else
      let s1 := w.entries.foldl (serviceEntry u w.core) s
      let s2 := modWave s1 u fun w => { w with report := none }
      match assocGet s2.waves u with
      | none => none
      | some w2 =>
        if w2.entries.any fun e => e.lowest.isSome then some (reportTrap s2 u q)
        else some (enterPending (resolveList s2 u fun _ _ => false) u)
    | none, some c =>
      match w.serviceFrag c with
      | none =>
        if w.unreported c then
          some (reissueHeld (w.entries.foldl (fun t e => e.lanes.foldl (serviceLane u w.core e) t) s) u)
        else none
      | some f =>
        match f.park with
        | .service va lanes home low =>
          let q := leadQuad f.quads
          let s1 := modFrag s u q fun f => { f with park := .none, stamp := s.cycle, readyAt := max f.readyAt (s.cycle + 1) }
          match servicePage s1 w.ctx va.toNat home (some (coreDom w.core)) with
          | .ok s2 => some s2
          | .error e =>
            -- the trap is that of the lowest failing lane (11 R288)
            let (e1, va1) := low.getD (e, va)
            some (freshTrap s1 u q ⟨e1, lanes, va1, false, f.pc, f.header⟩)
        | _ => none

def execFaultServiceComplete (u : Nat) (s : State) : Host.Outcome State Fault Refusal := evStep s (serviceDone s u)

/-! MEMORY_ACCESS_COMPLETE and DETERMINISTIC_TURN. -/

/-- The operation of one lane of an entry. -/
def laneOp (s : State) (u seq l : Nat) : Option (Wave × Entry × Op × VA) :=
  match findEntry s u seq with
  | none => none
  | some (w, e, _) =>
    match assocGet e.lanes l with
    | some (.inflight op a) => some (w, e, op, a)
    | _ => none

/-- A lane's operation is performed; `resp` is what a peer answers. -/
def performOp (s : State) (u seq l : Nat) (resp : BitVec 128) : Option State :=
  match laneOp s u seq l with
  | none => none
  | some (_, _, op, _) =>
    match op with
    | .load _ _ _ => performAccess s u seq l resp
    | .store _ _ => performAccess s u seq l resp
    | .atom _ _ _ => performAccess s u seq l resp
    | .atomWrite _ _ _ _ => performAccess s u seq l resp
    | .sent _ _ _ (.truncate _ _ _) => performTrunc s u seq l
    | .sent _ _ _ _ => performAccess s u seq l resp
    | .spawn _ _ _ _ => performSpawn s u seq l
    | .rayA _ => performRay s u seq l
    | .rayH _ _ _ => performRay s u seq l
    | .truncate _ _ _ => performTrunc s u seq l
    | .word _ _ => performWord s u seq l
    | .query _ => none
    | .journal _ _ _ => none
    | .emit _ _ _ _ => none
    | .engine _ => none

def execMemoryAccessComplete (u seq lane : Nat) (resp : BitVec 128) (s : State) : Host.Outcome State Fault Refusal :=
  evStep s (performOp s u seq lane resp)

/-- A request that waits for a peer's answer. -/
def Op.awaits (o : Op) : Bool := match o with | .sent _ _ _ _ => true | _ => false

/-- A lane event of a deterministic wave whose turn has come. One sent to a peer needs the peer's answer and completes as
any access of a peer does. -/
def turnRun (s : State) (u seq l : Nat) : Option State :=
  match laneOp s u seq l with
  | some (w, e, op, _) => if turnWave w && isTurnInstr e.instr && !op.awaits then performOp s u seq l 0 else none
  | none => none

def execDeterministicTurn (u seq lane : Nat) (s : State) : Host.Outcome State Fault Refusal := evStep s (turnRun s u seq lane)

/-- Cycles of the watchdog limit; none while it is 0 (02 R61). -/
def limitOf (s : State) (w : Wave) : Option Nat :=
  match assocGet s.ctxs w.ctx with
  | some c => if c.wdlim = 0 then none else some (c.wdlim.toNat * 4096)
  | none => none

/-- A lane event, or the `ARRIVE` or `TICKET.ACQ` of the fragment that `lane` belongs to where `seq` names no entry, has
waited past the limit (10 R241). -/
def stallEnd (s : State) (u seq l : Nat) : Option State :=
  match assocGet s.waves u with
  | none => none
  | some w =>
    match limitOf s w with
    | none => none
    | some lim =>
      match laneOp s u seq l with
      | some (_, e, _, a) =>
        if turnWave w && isTurnInstr e.instr && turnStalled s u w (e.key w l) e.quads && decide (lim ≤ (assocGet e.stalls l).getD 0) then
          some (setLane s u seq l (.faulted .deterministicStall a a))
        else none
      | none =>
        match w.frag? (l / 4), assocGet s.ctxs w.ctx with
        | some f, some c =>
          if f.park = .turn ∧ turnStalled s u w (fragKey w f) f.quads = true ∧ lim ≤ f.stall then
            some (freshTrap (modFrag s u (l / 4) fun f => { f with park := .none }) u (l / 4)
              ⟨.deterministicStall, (Issue.mk u w f c).act s, 0, false, f.pc, false⟩)
          else none
        | _, _ => none

def execDeterministicStall (u seq lane : Nat) (s : State) : Host.Outcome State Fault Refusal := evStep s (stallEnd s u seq lane)

/-! Failures of peer accesses (12 R300 to R304). -/

/-- Side `x` reaches a peer with piece `i`. -/
def Side.peer (s : State) (c : Context) (x : Side) (a : Acc) (i : Nat) : Bool :=
  match x.loc s c a i with | .ok (l, _) => l.peer | .error _ => false

/-- A copy or an `STQ` ends with a peer's failure: the pieces that reach no peer are moved, a free bit says of each other
whether it was, and all those are left for a reissue (06 R164, 12 R303). -/
def copyCut (s : State) (u : Nat) (w : Wave) (e : Entry) (c : Context) (l : Nat) (args : List Nat) (x : Cause) (a : VA) : State :=
  let stop (r : State × List Nat × Option AccErr) (todo : List Nat) (dst : Side) (far : Nat → Bool) : State :=
    let left := todo.filter fun i => r.2.1.contains i || far i
    setLane (modEntry r.1 u e.seq fun e => { e with rest := some left, wrote := e.wrote ++ dst.wrote todo left }) u e.seq l (.faulted x a a)
  let some_ (todo : List Nat) (far : Nat → Bool) : List Nat := todo.filter fun i => !far i || Config.freeBit s.free (2 ^ 93 + i)
  match e.instr, args with
  | .stq _ _ _ _, [y, q, id, bad, va] =>
    match readRec s (some w.core) c (bad == 1) (BitVec.ofNat 80 va), ((getArray s (bankKey w) y).queue q).find? (·.id == id) with
    | .ok (s1, r), some m =>
      let todo := e.rest.getD (List.range 16384)
      let far (i : Nat) : Bool := (Side.record r).peer s1 c .write i
      stop (storePieces w.core c r m.img todo (some_ todo far) s1) todo (.record r) far
    | _, _ => setLane s u e.seq l (.faulted x a a)
  | .cred _ _ _ _, [db, d, _, _, _, _] =>
    -- what it wrote of a destination at a peer is not known
    match readRec s none c (db == 1) (BitVec.ofNat 80 d) with
    | .ok (_, r) =>
      let t := (List.range r.pieces).foldl (fun t i => match (Side.record r).loc t c .write i with
        | .ok (m, n) => if m.peer then m.lose n t else t
        | .error _ => t) s
      setLane t u e.seq l (.faulted x a a)
    | .error _ => setLane s u e.seq l (.faulted x a a)
  | _, _ =>
    match copySides s w c args with
    | .ok (s1, p, r) =>
      let todo := e.rest.getD (List.range p.count)
      let far (i : Nat) : Bool := p.peer s1 c .read i || r.peer s1 c .write i
      stop (movePieces w.core c p r todo (some_ todo far) s1) todo r far
    | .error _ => setLane s u e.seq l (.faulted x a a)

/-- A lane's operation ends with a peer's failure (12 R303). A write that timed out may or may not have been performed at
its target. -/
def peerEnds (s : State) (u : Nat) (w : Wave) (e : Entry) (c : Context) (l : Nat) (op : Op) (x : Cause) (a : VA) : State :=
  match op with
  | .query q => rayFault s u e l q (x, a, a)
  | .engine args => copyCut s u w e c l args x a
  | .sent _ _ _ o =>
    let done := x == .remoteTimeout && Config.freeBit s.free (110000 + l)
    let s1 := match o, e.instr with
      | .store loc bs, _ => if done then writeLoc s loc bs else s
      | .atom loc b c, .atom t y =>
        match atomValue y (wBytes t) (leNat (readLoc s loc (wBytes t))) b c with
        | some v => if done then writeLoc s loc (natLe (wBytes t) v) else s
        | none => s
      | _, _ => s
    setLane s1 u e.seq l (.faulted x a a)
  | .spawn entry _ _ join =>
    -- the address is the join word's where that alone lies at a peer
    let at_ : VA := match globalAddr s c false (entry - 8) 8 .read, join with
      | .ok (pa, _), some (_, va) => if paRegion pa = 2 then entry - 8 else va
      | _, _ => entry - 8
    let s1 := match joinUp s w.core c join with
      | .ok (t, none) => if x == .remoteTimeout && Config.freeBit s.free (110000 + l) then t else s
      | _ => s
    setLane s1 u e.seq l (.faulted x at_ at_)
  | _ => s

/-- The fragment of wave `u` that lane `l` belongs to, where it waits in `WAITW` or for answers, with its words. -/
def waitFrag (s : State) (u l : Nat) : Option (Wave × Frag × Context × List WaitWord) :=
  match assocGet s.waves u with
  | none => none
  | some w =>
    match w.frags.find? fun f => f.quads.getLsbD (l / 4), assocGet s.ctxs w.ctx with
    | some f, some c => match f.park with
      | .waitw _ ws _ _ false => some (w, f, c, ws)
      | .asked ws _ => some (w, f, c, ws)
      | _ => none
    | _, _ => none

/-- Reads of a peer's words that are out. -/
def outPolls (ws : List WaitWord) (p : WaitWord → Bool) : List WaitWord := ws.filter fun x => x.polled && x.sent != 0 && p x

/-- The reads `bad` of a fragment that waits failed: it traps there, with their lanes (17 R420, 12 R303). -/
def waitFails (s : State) (u : Nat) (w : Wave) (f : Frag) (c : Context) (bad : List WaitWord) (x : Cause) : State :=
  let q := leadQuad f.quads
  freshTrap (modFrag s u q fun f => { f with park := .none }) u q
    ⟨x, lanesMask (bad.map (·.lane)) &&& (Issue.mk u w f c).act s, (bad.head?.map (·.va)).getD 0, false, f.pc, false⟩

/-- The request of a retired lane's join count, and the wave's context. -/
def leavingAsk (s : State) (u l : Nat) : Option (Nat × Ask) :=
  (assocGet s.waves u).bind fun w => (w.leaving.find? fun v => v.1 == l && v.2.2.2.isSome).bind fun v => v.2.2.2.map fun a => (w.ctx, a)

/-- The count of a retired lane ends in a failure: firmware does not service it, so the context faults and the word keeps its
value (03 R83, 06 R158). -/
def leavingFails (s : State) (u l x : Nat) (cause : Cause) : State :=
  contextFault (modWave s u fun w => { w with leaving := w.leaving.filter fun v => v.1 != l || v.2.2.2.isNone }) x cause

/-- A NACK ends the lane's operation, the read of a `WAITW` or `JOIN`, or a join count: it answers a request sent before its timer
expired. -/
def nacked (s : State) (u seq l : Nat) : Option State :=
  match findEntry s u seq with
  | some (w, e, c) =>
    match assocGet e.lanes l with
    | some (.inflight op a) =>
      let came : Bool := match op with
        | .sent _ _ _ (.truncate _ _ _) => false
        | .sent p t _ _ => portAnswers s p t
        | .journal _ _ _ => false
        | _ => e.asks.any fun x => x.lane == l && portAnswers s x.port x.cycle
      if came then some (peerEnds s u w e c l op .remoteFault a) else none
    | _ => none
  | none =>
    match waitFrag s u l, leavingAsk s u l with
    | some (w, f, c, ws), _ =>
      match outPolls ws fun x => x.lane == l && portAnswers s x.port (x.sent - 1) with
      | [] => none
      | bad => some (waitFails s u w f c bad .remoteFault)
    | none, some (x, a) => if portAnswers s a.port a.cycle then some (leavingFails s u l x .remoteFault) else none
    | none, none => none

def execPeerNack (u seq lane : Nat) (s : State) : Host.Outcome State Fault Refusal := evStep s (nacked s u seq lane)

/-- The stream whose partner has left the lane's record, or its header, unacknowledged for T cycles, or has no port, with the ports
whose timers ran out (10 R254, 12 R301). -/
def streamExpired (s : State) (e : Entry) (l : Nat) (op : Op) : Option (Nat × List Nat) :=
  let due (q : Nat) (ps : List Nat) : Option (Nat × List Nat) :=
    match getStream s q with
    | some t => if t.st = .open_ ∧ (ps ≠ [] ∨ reachable s t.peer = false) then some (q, ps) else none
    | none => none
  match op with
  | .journal q _ _ => due q ((e.asks.filter fun a => a.lane == l && portExpired s a.port a.cycle).map (·.port))
  | .sent p c _ (.truncate q _ _) => due q (if portExpired s p c then [p] else [])
  | _ => none

/-- A request unanswered for T cycles ends (12 R301, R303). Every request of the operation whose timer has run out is counted. -/
def portTimeout (s : State) (u seq l : Nat) : Option State :=
  match findEntry s u seq with
  | some (w, e, c) =>
    match assocGet e.lanes l with
    | some (.inflight op a) =>
      match streamExpired s e l op with
      -- the stream loses its partner, and its operations stay incomplete (10 R254)
      | some (q, ps) => some (countTimeouts (loseStream s q) ps)
      | none =>
        match op with
        | .sent _ _ _ (.truncate _ _ _) => none
        | .journal _ _ _ => none
        | .sent p t _ _ => if portExpired s p t then some (countTimeouts (peerEnds s u w e c l op .remoteTimeout a) [p]) else none
        | _ =>
          match (e.asks.filter fun x => x.lane == l && portExpired s x.port x.cycle).map (·.port) with
          | [] => none
          | ps => some (countTimeouts (peerEnds s u w e c l op .remoteTimeout a) ps)
    | _ => none
  | none =>
    match waitFrag s u l, leavingAsk s u l with
    | some (w, f, c, ws), _ =>
      let bad := outPolls ws fun x => portExpired s x.port (x.sent - 1)
      if bad.any (·.lane == l) then some (waitFails (countTimeouts s (bad.map (·.port))) u w f c bad .remoteTimeout) else none
    | none, some (x, a) =>
      if portExpired s a.port a.cycle then some (leavingFails (countTimeouts s [a.port]) u l x .remoteTimeout) else none
    | none, none => none

def execPortTimerExpiry (u seq lane : Nat) (s : State) : Host.Outcome State Fault Refusal := evStep s (portTimeout s u seq lane)

/-! Retirement (02 R43; 03 R83, R88; 08 R210; 11 R273). -/

/-- `JOIN`s that wait on a word whose count became zero wake (17 R413). -/
def wakeJoins (s : State) (pa : Nat) : State :=
  { s with waves := s.waves.map fun e =>
      (e.1, { e.2 with frags := e.2.frags.map fun f => match f.park with
        | .join pas => if pas.contains pa then { f with park := .none, stamp := s.cycle, readyAt := max f.readyAt (s.cycle + 1) } else f
        | _ => f }) }

/-- The join word's decrement at a thread's retirement: an access of the device (03 R83, 06 R158). -/
def joinDown (s : State) (core x : Nat) (va : VA) (own : Bool) : State :=
  match xlateService s x va.toNat .write (some (coreDom core)) with
  | .error e => contextFault s x e
  | .ok (s1, pa) =>
    let v := leNat (physGet s1 pa 4)
    let n := v % 2 ^ 24
    let poison := !own || n == 0
    let v1 := (if n = 0 then v else v - 1)
    let v2 := if poison && !bitOf v1 31 then v1 + 2 ^ 31 else v1
    let s2 := (Loc.phys pa 0).refresh core (wordPut s1 (.phys pa 0) v2)
    if n = 1 then wakeJoins s2 pa else s2

/-- An intersection thread's retirement told to its query (09 R226). -/
def queryThreadGone (s : State) (t : Nat × Nat × Nat × Nat) (own : Bool) : State :=
  let (u, sl, num, prim) := t
  match queryAt s u (sl / 64) (sl % 64) with
  | some (_, _, q) =>
    if q.num = num then
      modQuery s u (sl / 64) (sl % 64) fun q => { q with waiting := q.waiting.erase prim, lost := q.lost || !own }
    else s
  | none => s

/-- Entries before `seq` whose operations are not complete. A wave that has exited has no report left: a fault counts as complete
then, unless firmware services it (06 R169). -/
def leavingHeld (w : Wave) (c : Context) (seq : Nat) : Bool :=
  w.entries.any fun e => decide (e.seq < seq) &&
    e.lanes.any fun l => l.2.flying || (l.2.stuck && (w.live != 0 || (!w.killed && w.mends c)))

/-- The physical address of a join word that a peer holds. -/
def joinPeer (s : State) (c : Context) (va : VA) : Option Nat :=
  match xlate s c va.toNat .write with
  | .ok (pa, _) => if paRegion pa = 2 then some pa else none
  | .error _ => none

/-- The count of one retired lane: at a peer's word its request is sent first, and the count follows when it may be answered
(03 R83, 12 R301). What stays of the lane, if it is not done. -/
def countLane (w : Wave) (c : Context) (s : State) (v : Nat × Nat × Bool × Option Ask) : State × Option (Nat × Nat × Bool × Option Ask) :=
  match assocGet w.threads v.1 with
  | none => (s, none)
  | some th =>
    let told (s : State) : State := match th.query with | some q => queryThreadGone s q v.2.2.1 | none => s
    match th.join, v.2.2.2 with
    | none, _ => (told s, none)
    | some j, some a => if a.answers s then (told (joinDown s w.core w.ctx j v.2.2.1), none) else (s, some v)
    | some j, none =>
      match joinPeer s c j with
      | none => (told (joinDown s w.core w.ctx j v.2.2.1), none)
      | some pa =>
        match portOf s pa with
        | none => (contextFault s w.ctx .remoteTimeout, none)
        | some p =>
          if portSends s p then
            (linkSend s pa 4 4, some (v.1, v.2.1, v.2.2.1, some ⟨v.1, p, s.cycle, nextAsk s, paPeer pa, true⟩))
          else (s, some v)

/-- The threads of retired lanes whose batches are complete are counted. -/
def countLeaving (s : State) (u : Nat) : State :=
  match assocGet s.waves u with
  | none => s
  | some w =>
    match assocGet s.ctxs w.ctx with
    | none => s
    | some c =>
      w.leaving.foldl (fun t v =>
        if leavingHeld w c v.2.1 then t
        else
          let r := countLane w c t v
          modWave r.1 u fun w => { w with leaving := w.leaving.filter (· != v) ++ r.2.toList }) s

/-- The tickets of a workgroup that it has not released (03 R88). -/
def ticketsAtRetirement (s : State) (g k : Nat) (killed : Bool) : State :=
  let st := if killed then 2 else 1
  (List.range 4).foldl (fun s id =>
    let t := ticketAt s g k id
    if t.released then s
    else if t.granted then releaseTicket s g k id st
    else setTicket s g k id { t with early := some st }) s

/-- A workgroup retires: tickets, rings, arrays of its triples, and what its share leaves behind. -/
def retireWg (s : State) (g k : Nat) : State :=
  match assocGet s.grids g, wgOf s g k with
  | some gr, some wg =>
    let bk := 16 * wg.core + gr.ctx
    let s1 := ticketsAtRetirement s g k wg.anyKilled
    let s2 := modBank s1 bk fun b =>
      { b with rings := b.rings.filter fun r => !(r.2.grid == g && r.2.wg == k),
               ringPend := b.ringPend.filter fun p => !(p.2.1.any fun r => r.grid == g && r.wg == k),
               arrays := b.arrays.map fun a => if wg.triples.any (·.arr == a.1) then
                 (a.1, { acc0 := ⟨none, []⟩, acc1 := ⟨none, []⟩, pend := a.2.pend, queues := [], nextId := a.2.nextId }) else a,
               leftover := (b.leftover.filter fun c => !(decide (wg.shareBase ≤ c.1) && decide (c.1 < wg.shareBase + shareSize s g))) ++
                 wg.share.map (fun c => (wg.shareBase + c.1, c.2)),
               leftUndef := rangesDrop b.leftUndef wg.shareBase (shareSize s g) ++ wg.undef.map fun r => (wg.shareBase + r.1, r.2) }
    modWg s2 g k fun w => { w with retired := true, share := [], triples := [], undef := [], far := [] }
  | _, _ => s

/-- A resident context gives up a bank that nothing needs (11 R273); scheduler credits of the core start again. DESIGN
CHOICE (assumption 53): it also keeps the bank while an array has accepted instructions that have not completed, which the
rule's list does not hold. -/
def giveUpBank (s : State) (p x : Nat) : State :=
  match assocGet s.banks (16 * p + x), assocGet s.ctxs x with
  | some b, some c =>
    let waits := s.grids.any fun g => g.2.ctx == x && g.2.waits.any fun v =>
      decide (0 < ranksOn (clusterDie g.2 v.1) v.2.cq v.2.c0 g.2.pkt.s p)
    if c.resident && !(s.waves.any fun e => e.2.core == p && e.2.ctx == x) && b.bins.isEmpty && b.segs.all (·.2.isEmpty) &&
        b.arrays.all (·.2.pend.isEmpty) && !waits then
      modCore { s with banks := assocDel s.banks (16 * p + x) } p fun k => { k with credits := [] }
    else s
  | _, _ => s

/-- A wave with nothing outstanding leaves its slot, granules, reserve and frame; with the last of its workgroup the
workgroup retires. -/
def releaseWave (s : State) (u : Nat) (w : Wave) : State :=
  let s1 := { discardFaults s u with waves := assocDel (discardFaults s u).waves u }
  let s2 := modCore s1 w.core fun k => { k with trapQ := k.trapQ.filter (· != u) }
  let last := !w.spawned && !(s2.waves.any fun e => !e.2.spawned && e.2.grid == w.grid && e.2.wg == w.wg)
  giveUpBank (if last then retireWg s2 w.grid w.wg else s2) w.core w.ctx

/-- WAVE_RETIREMENT: retired threads are counted, and a wave with no live quad and no operation in flight, nor one that firmware
may let complete, ends. -/
def waveEnd (s : State) (u : Nat) : Option State :=
  match assocGet s.waves u with
  | none => none
  | some w =>
    let s1 := countLeaving (killQuads s u) u
    match assocGet s1.waves u with
    | none => none
    | some w1 =>
      if w1.live == 0 && !(w1.entries.any Entry.flying) && w1.leaving.isEmpty &&
          (w1.killed || !(assocGet s1.ctxs w1.ctx).any w1.mends) then some (releaseWave s1 u w1)
      else if w1.leaving != w.leaving || w1.live != w.live then some s1
      else none

def execWaveRetirement (u : Nat) (s : State) : Host.Outcome State Fault Refusal := evStep s (waveEnd s u)

end Sys2Proof.Machine
end

