-- ==== Sys2Proof/Machine/Grids.lean ====
section
/-!
DEFINITION. The dispatcher: launch packets and their checks, the start and completion of grids, cluster admission
and guarded requests (01 R15, R17; 02 R45, R46, R50, R56; 04 R97; 10 R236; 11 R266 to R274).
-/

namespace Sys2Proof.Machine

/-! Launch packets (11 R268). -/

/-- An 80-bit address at a byte offset. -/
def vaAt (bs : List Byte) (off : Nat) : VA := BitVec.ofNat 80 (fieldAt bs off 10)

def parsePacket (num : Nat) (bs : List Byte) : Packet :=
  let b5 := fieldAt bs 5 1
  let dep (q d : Nat) : List (Nat × Word) :=
    if bitOf (fieldAt bs q 1) 7 then [(fieldAt bs q 1 % 8, BitVec.ofNat 32 (fieldAt bs d 4))] else []
  { num := num, seq := BitVec.ofNat 32 (fieldAt bs 0 4), kind := fieldAt bs 4 1, prio := b5 % 4, det := bitOf b5 2,
    roles := bitsOf b5 4 3, irq := bitOf b5 5, s := fieldAt bs 6 1, n := fieldAt bs 7 1, w := fieldAt bs 8 4,
    dmask := BitVec.ofNat 24 (fieldAt bs 12 3), gran := fieldAt bs 15 1, scr := fieldAt bs 16 4, spl := fieldAt bs 20 2,
    entry := vaAt bs 24, args := vaAt bs 40, pbuf := vaAt bs 56, deps := dep 72 76 ++ dep 73 80 }

/-- A reserved field or code of a packet is not zero (11 R268, R269). -/
def packetReserved (bs : List Byte) : Bool :=
  let b5 := fieldAt bs 5 1
  if fieldAt bs 4 1 = 1 then
    b5 / 64 != 0 || fieldAt bs 14 1 / 4 != 0 || !allZero (sliceBytes bs 22 2) || !allZero (sliceBytes bs 34 6) ||
      !allZero (sliceBytes bs 50 6) || !allZero (sliceBytes bs 66 6) || bitsOf (fieldAt bs 72 1) 6 3 != 0 ||
      bitsOf (fieldAt bs 73 1) 6 3 != 0 || !allZero (sliceBytes bs 74 2) || !allZero (sliceBytes bs 84 44)
  else if fieldAt bs 4 1 = 2 then
    b5 % 32 != 0 || b5 / 64 != 0 || !allZero (sliceBytes bs 6 66) || bitsOf (fieldAt bs 72 1) 6 3 != 0 ||
      bitsOf (fieldAt bs 73 1) 6 3 != 0 || !allZero (sliceBytes bs 74 2) || !allZero (sliceBytes bs 84 44)
  else true

/-- Dies that a packet's mask names, ascending. -/
def Packet.named (p : Packet) : List Nat := (List.range 18).filter p.dmask.getLsbD
/-- Workgroups of a cluster that share one core, at most. -/
def Packet.perCore (p : Packet) : Nat := (p.s + 3) / 4

/-- The checks of a grid packet, codes 4 to 10, first failure first (11 R269). -/
def gridErr (s : State) (c : Context) (p : Packet) : Option Nat :=
  let m := p.perCore
  if p.dmask = 0 then some 4
  else if p.named.any fun d => !dieOnline s.hub d then some 5
  else if p.w = 0 ∨ p.w > 2 ^ 28 ∨ p.n = 0 ∨ p.n > 128 then some 6
  else if p.s = 0 ∨ p.s > 12 ∨ p.w % p.s ≠ 0 ∨ p.s * p.n * 64 > 32768 then some 7
  else if decide (3 * p.roles > p.n) || p.named.any (fun d => decide (p.roles > domArrays d) || decide (m * p.roles > domArrays d)) then some 8
  else if decide (p.gran = 0) || decide (p.gran > 32) || decide (m * p.n > 128) || decide (m * p.n * p.gran > 760 - 112 * c.gplu) ||
      p.named.any (fun d => decide (m * p.scr > domScratch d)) || decide (p.spl = 0) || decide (p.spl > c.spf) then some 9
  else if p.det ≠ c.detmode then some 10
  else none

/-- The first failure of a packet, codes 3 to 11 and 13 (11 R267, R269). -/
def packetErr (s : State) (c : Context) (bs : List Byte) (p : Packet) : Option Nat :=
  if packetReserved bs then some 3
  else match (if p.kind = 1 then gridErr s c p else none) with
    | some e => some e
    | none =>
      if p.deps.any fun d => (assocGet c.queues d.1).isNone then some 11
      else if c.cstate = 3 then some 13
      else none

/-! Queues (11 R266, R267, R270). -/

/-- Device fields of a queue control block written, or the cause of the first write that faults. -/
def qcbSet (s : State) (x : Nat) (qcb : VA) (fs : List (Nat × Nat × Nat)) : Except Cause State :=
  fs.foldl (fun (r : Except Cause State) f => match r with
    | .error e => .error e
    | .ok s => devWrite s x ((qcb.toNat + f.1) % 2 ^ 80) (natLe f.2.1 f.2.2) none) (.ok s)

/-- The fields written and `f` done; a write that faults faults the context, with `g` done (06 R158, 11 R267). -/
def qcbThen (s : State) (x : Nat) (qcb : VA) (fs : List (Nat × Nat × Nat)) (f g : State → State) : State :=
  match qcbSet s x qcb fs with
  | .ok t => f t
  | .error e => contextFault (g s) x e

/-- A packet accepted: copied, the indices advanced. Its read is an acquire at system scope for the grid's waves (07 R190): no
slice group keeps a copy of a host line. -/
def acceptPacket (s : State) (x q : Nat) (k : Queue) (p : Packet) : State :=
  let st := if p.deps.isEmpty then 1 else 2
  qcbThen s x k.qcb [(28, 4, (k.ridx + 1).toNat), (16, 4, (k.rseq + 1).toNat), (11, 1, st)]
    (fun s => modQueue { s with nextGrid := s.nextGrid + 1, hub := { s.hub with lineCopies := [] } } x q fun k =>
      { k with ridx := k.ridx + 1, rseq := k.rseq + 1, state := st, run := some (p, none) }) id

/-- PACKET_READ: a queue that holds no packet reads the slot its read index names. -/
def readPacket (s : State) (x q : Nat) : Option State :=
  match assocGet s.ctxs x with
  | none => none
  | some c =>
    match assocGet c.queues q with
    | none => none
    | some k =>
      if s.hub.halted || k.run.isSome || decide (k.state > 1) || k.widx == k.ridx then none
      else match devRead s x k.qcb.toNat 11 none with
        | .error e => some (contextFault s x e)
        | .ok (s1, h) =>
          let n := 2 ^ fieldAt h 10 1
          if (k.widx - k.ridx).toNat > n then some (stopQueue s1 x q 4 1 k.rseq)
          else match devRead s1 x ((fieldAt h 0 10 + 128 * (k.ridx.toNat % n)) % 2 ^ 80) 128 none with
            | .error e => some (contextFault s1 x e)
            | .ok (s2, bs) =>
              let p := parsePacket s.nextGrid bs
              if p.seq ≠ k.rseq then
                if p.seq = k.rseq + BitVec.ofNat 32 n then some (stopQueue s2 x q 4 1 k.rseq)
                else some (stopQueue s2 x q 3 2 k.rseq)
              else match packetErr s2 c bs p with
                | some e => some (stopQueue s2 x q 3 e k.rseq)
                | none => some (acceptPacket s2 x q k p)

def execPacketRead (ctx q : Nat) (s : State) : Host.Outcome State Fault Refusal := evStep s (readPacket s ctx q)

/-- A packet completes: CSEQ, the queue idle again unless it has stopped, the interrupt. -/
def completePacket (s : State) (x q : Nat) (p : Packet) : State :=
  match (assocGet s.ctxs x).bind fun c => assocGet c.queues q with
  | none => s
  | some k =>
    let st := if k.state ≤ 2 then 0 else k.state
    let fin (s : State) : State := modQueue s x q fun k => { k with run := none, cseq := p.seq, state := st }
    let s2 := qcbThen s x k.qcb ((20, 4, p.seq.toNat) :: if k.state ≤ 2 then [(11, 1, st)] else []) fin fin
    if p.irq then raiseIrq s2 x q else s2

/-- The home die of a packet's primary buffer (01 R17, 11 R268). -/
def packetHome (s : State) (c : Context) (p : Packet) : Option Nat :=
  if p.pbuf = 0 then none
  else match walk s c p.pbuf.toNat with
    | .found pa _ _ => if paRegion pa = 0 then some (pa / 2 ^ 36) else none
    | _ => none

/-- The named dies in order, the home die first (01 R17). -/
def dieOrder (ds : List Nat) (home : Option Nat) : List Nat :=
  match home with
  | some h => if ds.contains h then ds.filter (fun d => decide (h ≤ d)) ++ ds.filter fun d => decide (d < h) else ds
  | none => ds

/-- First cluster of the die group at position `j` of `n` dies (01 R17). -/
def groupStart (clusters n j : Nat) : Nat := j * clusters / n
def Grid.clusters (g : Grid) : Nat := g.pkt.w / max g.pkt.s 1

/-- A grid begins. DESIGN CHOICE (assumption 53): 01 R17 gives no moment at which the home die of the packet's primary buffer is
taken for the order of the dies; it is taken here, when the packet starts. -/
def startGrid (s : State) (x q : Nat) (c : Context) (p : Packet) : State :=
  let ds := dieOrder p.named (packetHome s c p)
  let g : Grid := ⟨x, q, p, p.det, ds, (List.range ds.length).map (groupStart (p.w / max p.s 1) ds.length), [], [], [], [], false⟩
  modQueue { s with grids := assocSet s.grids p.num g } x q fun k => { k with state := 1, run := some (p, some p.num) }

/-- PACKET_START: an accepted packet whose dependences are met starts (11 R270). A dependence on a queue that stands
stopped, or is gone, stops the waiting one too. -/
def startPacket (s : State) (x q : Nat) : Option State :=
  match assocGet s.ctxs x with
  | none => none
  | some c =>
    match assocGet c.queues q with
    | none => none
    | some k =>
      match k.run with
      | some (p, none) =>
        let un := p.deps.filter fun d => !depMet c d
        if s.hub.halted || decide (k.state > 2) then none
        else if un.any fun d => match assocGet c.queues d.1 with | some o => decide (o.state > 2) | none => true then
          some (stopQueue s x q 3 12 p.seq)
        else if !un.isEmpty then none
        else if p.kind = 2 then some (completePacket s x q p)
        else
          some (qcbThen s x k.qcb (if k.state = 1 then [] else [(11, 1, 1)]) (fun t => startGrid t x q c p) id)
      | _ => none

def execPacketStart (ctx q : Nat) (s : State) : Host.Outcome State Fault Refusal := evStep s (startPacket s ctx q)

/-! Banks and places on cores (11 R272, R273; 03 R77; 06 R144). -/

/-- The highest free run of a child reserve. -/
def reserveRun (s : State) (p n : Nat) : Option Nat :=
  if n = 0 then some 0
  else ((List.range 48).map fun i => 16 * (47 - i)).find? fun b => decide (b + n ≤ 752) && runFree (takenRuns s p) b n

/-- The context holds a bank of core `p`, or gains one with its child reserve. -/
def gainBank (s : State) (p x : Nat) : Option State :=
  if (assocGet s.banks (16 * p + x)).isSome then some s
  else match assocGet s.ctxs x with
    | none => none
    | some c =>
      if (coreBanks s p).length ≥ 2 ∨ freeSlots s p < 7 * c.spl then none
      else match reserveRun s p (112 * c.gplu) with
        | none => none
        | some r =>
          let i := if (coreBanks s p).any (·.2.1.index == 0) then 1 else 0
          some (modCore { s with banks := assocSet s.banks (16 * p + x) ⟨i, r, [], [], [], [], [], [], [], [], []⟩ } p fun k =>
            { k with credits := [] })

/-- A bank is held, or one is free. -/
def bankOpen (s : State) (p x : Nat) : Bool :=
  (assocGet s.banks (16 * p + x)).isSome || decide ((coreBanks s p).length < 2)

/-- Cores that receive ranks of a cluster of `n` workgroups. -/
def rankCores (dom cq c0 n : Nat) : List Nat := (List.range (min n 4)).map (rankCore dom cq c0)

def freeGrans (s : State) (p : Nat) : Nat := 760 - (takenRuns s p).foldl (fun n r => n + r.2) 0

/-- Scratchpad ranges in use on a core. -/
def takenShares (s : State) (p : Nat) : List (Nat × Nat) :=
  s.grids.flatMap fun g =>
    if (assocGet s.ctxs g.2.ctx).any (·.resident) then
      g.2.wgs.filterMap fun w => if w.2.core == p && !w.2.retired then some (w.2.shareBase, alignUp g.2.pkt.scr 4096) else none
    else []

/-- The lowest free range of `n` bytes of a core's scratchpad. -/
def lowShare (s : State) (p n : Nat) : Option Nat :=
  let sz := domScratch (coreDom p)
  if n = 0 then some 0
  else ((List.range (sz / 4096)).map (4096 * ·)).find? fun b => decide (b + n ≤ sz) && runFree (takenShares s p) b n

/-- At launch each byte of a share is zero or what an earlier workgroup of the context left there (06 R144). -/
def shareStart (s : State) (p x base n : Nat) : List (Nat × Byte) :=
  match assocGet s.banks (16 * p + x) with
  | some b => b.leftover.filterMap fun c =>
      if decide (base ≤ c.1) && decide (c.1 < base + n) && Config.freeBit s.free (120000 + c.1) then some (c.1 - base, c.2) else none
  | none => []

/-- Bytes of them that an earlier workgroup left undefined (00 R2). -/
def shareUndef (s : State) (p x base n : Nat) : List (Nat × Nat) :=
  match assocGet s.banks (16 * p + x) with
  | some b => b.leftUndef.filterMap fun r =>
      let lo := max base r.1
      let hi := min (base + n) (r.1 + r.2)
      if lo < hi then some (lo - base, hi - lo) else none
  | none => []

/-! Cluster admission. -/

/-- v0:2 hold the argument block's address in every lane (02 R50). -/
def argRegs (a : VA) : List (Nat × Word) :=
  (List.range 3).flatMap fun r => (List.range 64).map fun l => (64 * r + l, (a.zeroExtend 96).extractLsb' (32 * r) 32)

/-- One launched wave takes its slot, granules and frame (02 R50). -/
def launchWave (s : State) (p g k : Nat) (gr : Grid) (widx : Nat) : Option State :=
  (claimOrdinary s p gr.pkt.gran).map fun c =>
    let w := Wave.start gr.ctx p (lowSlot s p) c gr.pkt.gran (lowFrame s p gr.ctx) g k widx false gr.det
      (gr.pkt.entry &&& ~~~1) (-1) (-1) s.cycle
    { setWave s s.nextUid { w with regs := argRegs gr.pkt.args } with nextUid := s.nextUid + 1 }

/-- One workgroup placed on core `p`: share, arrays of its triples, waves in order. -/
def placeWg (s : State) (p g k : Nat) (gr : Grid) : Option State :=
  let n := alignUp gr.pkt.scr 4096
  let arrs := ((List.range (domArrays (coreDom p))).filter fun a => !arrayHeld s p a).take gr.pkt.roles
  match lowShare s p n with
  | none => none
  | some b =>
    if arrs.length < gr.pkt.roles then none
    else
      let wg : Wg := ⟨p, b, shareStart s p gr.ctx b n, [], arrs.map fun a => ⟨a, false, []⟩, false, false, shareUndef s p gr.ctx b n, []⟩
      (List.range gr.pkt.n).foldl (fun (r : Option State) i => r.bind fun t => launchWave t p g k gr i)
        (some (modGrid s g fun gr => { gr with wgs := assocSet gr.wgs k wg }))

/-- Every part of cluster `k` claims its resources on the pair (`cq`, `c0`), in ascending rank and wave index. -/
def placeCluster (s : State) (g : Nat) (gr : Grid) (k cq c0 : Nat) : Option State :=
  let dom := clusterDie gr k
  let s1 := (rankCores dom cq c0 gr.pkt.s).foldl (fun (r : Option State) p => r.bind fun t => gainBank t p gr.ctx) (some s)
  (List.range gr.pkt.s).foldl (fun (r : Option State) i => r.bind fun t =>
    placeWg t (rankCore dom cq c0 i) g (k * gr.pkt.s + i) gr) s1

/-- Granules that a cluster's part on core `p` needs. -/
def partNeed (gr : Grid) (k cq c0 p : Nat) : Nat := ranksOn (clusterDie gr k) cq c0 gr.pkt.s p * gr.pkt.n * gr.pkt.gran

/-- The standing guards of the cores let the cluster, which began to wait at `since`, take its parts (04 R97). -/
def guardsLet (s : State) (g : Nat) (gr : Grid) (k cq c0 : Nat) (since : Option Nat) : Bool :=
  (rankCores (clusterDie gr k) cq c0 gr.pkt.s).all fun p =>
    match (getCore s p).guards, guardNeed s p with
    | (h, j) :: _, some n =>
      (h == g && j == k) || (decide (n ≤ partNeed gr k cq c0 p) &&
        match since, ((assocGet s.grids h).bind fun o => assocGet o.waits j) with
        | some t, some v => decide (t < v.since)
        | _, _ => false)
    | _, _ => true

/-- What the cluster comes to if it takes the pair now. -/
def takePair (s : State) (g : Nat) (gr : Grid) (k cq c0 : Nat) (since : Option Nat) : Option State :=
  if guardsLet s g gr k cq c0 since then placeCluster s g gr k cq c0 else none

/-- The order in which clusters are offered (11 R271). -/
def gridBefore (a b : Nat × Grid) : Bool :=
  decide (a.2.pkt.prio > b.2.pkt.prio) || (a.2.pkt.prio == b.2.pkt.prio && decide (a.1 < b.1))

/-- The next cluster of a grid's die group on die `dom`. -/
def Grid.nextOn (gr : Grid) (dom : Nat) : Option Nat :=
  (List.range gr.dies.length).findSome? fun j =>
    let k := gr.next.getD j 0
    if gr.dies.getD j 99 = dom ∧ k < groupStart gr.clusters gr.dies.length (j + 1) then some k else none

/-- Pairs on which a cluster of the grid could go (11 R272). -/
def candPairs (s : State) (gr : Grid) (dom : Nat) : List (Nat × Nat) :=
  ((List.range (domCores dom / 4)).flatMap fun q => (List.range 4).map fun c => (q, c)).filter fun v =>
    (rankCores dom v.1 v.2 gr.pkt.s).all fun p => bankOpen s p gr.ctx

/-- The pair with the largest sum, the lowest among equals. -/
def bestPair (f : Nat → Nat) (dom n : Nat) (vs : List (Nat × Nat)) : Option (Nat × Nat) :=
  let sum (v : Nat × Nat) := (rankCores dom v.1 v.2 n).foldl (fun t p => t + f p) 0
  vs.foldl (fun m v => match m with
    | none => some v
    | some u => if sum u < sum v then some v else m) none

/-- A waiting cluster that began before (by cycle, then by the order of 11 R271) shares a core and fits now. -/
def earlierFits (s : State) (g : Nat) (gr : Grid) (k : Nat) (cores : List Nat) (since : Option Nat) : Bool :=
  s.grids.any fun h => h.2.waits.any fun v =>
    !(h.1 == g && v.1 == k) &&
    (match since with
      | none => true
      | some t => decide (v.2.since < t) || (v.2.since == t && (gridBefore h (g, gr) || (h.1 == g && decide (v.1 < k))))) &&
    (rankCores (clusterDie h.2 v.1) v.2.cq v.2.c0 h.2.pkt.s).any (cores.contains ·) &&
    (assocGet s.ctxs h.2.ctx).any (launches s) &&
    (takePair s h.1 h.2 v.1 v.2.cq v.2.c0 (some v.2.since)).isSome

/-- The cluster has been placed: the next of its die group is offered, its wait and guards end. -/
def admitted (s : State) (g : Nat) (gr : Grid) (k : Nat) : State :=
  let j := (gr.dies.idxOf (clusterDie gr k))
  { modGrid s g fun gr => { gr with next := listMod gr.next j fun _ => k + 1, waits := assocDel gr.waits k } with
    cores := s.cores.map fun p => (p.1, { p.2 with guards := p.2.guards.filter fun v => !(v.1 == g && v.2 == k) }) }

/-- CLUSTER_ADMISSION (11 R271 to R274): an offered or waiting cluster takes its resources, or begins to wait on a
fixed pair. Spawned candidates of its cores that fit go first. -/
def admitCluster (s : State) (g k : Nat) : Option State :=
  match assocGet s.grids g with
  | none => none
  | some gr =>
    let dom := clusterDie gr k
    if gr.discarded || gr.nextOn dom != some k || !(assocGet s.ctxs gr.ctx).any (launches s) then none
    else
      let free (v : Nat × Nat) (since : Option Nat) :=
        let ps := rankCores dom v.1 v.2 gr.pkt.s
        !(ps.any (candFits s)) && !earlierFits s g gr k ps since
      match assocGet gr.waits k with
      | some v =>
        if free (v.cq, v.c0) (some v.since) then (takePair s g gr k v.cq v.c0 (some v.since)).map fun t => admitted t g gr k
        else none
      | none =>
        if s.grids.any fun h => gridBefore h (g, gr) && !h.2.discarded && (assocGet s.ctxs h.2.ctx).any (launches s) &&
            (match h.2.nextOn dom with | some j => (assocGet h.2.waits j).isNone | none => false) &&
            !(candPairs s h.2 dom).isEmpty then none
        else
          let vs := candPairs s gr dom
          match bestPair (freeSlots s) dom gr.pkt.s (vs.filter fun v => (takePair s g gr k v.1 v.2 none).isSome) with
          | some v =>
            if free v none then (takePair s g gr k v.1 v.2 none).map fun t => admitted t g gr k else none
          | none =>
            match bestPair (freeGrans s) dom gr.pkt.s vs with
            | none => none
            | some v =>
              let s1 := (rankCores dom v.1 v.2 gr.pkt.s).foldl (fun t p => (gainBank t p gr.ctx).getD t) s
              some (modGrid s1 g fun gr => { gr with waits := assocSet gr.waits k ⟨v.1, v.2, s.cycle⟩ })

def execClusterAdmission (grid cidx : Nat) (s : State) : Host.Outcome State Fault Refusal := evStep s (admitCluster s grid cidx)

/-- REQUEST_GUARD (04 R97): the parts of a cluster that has waited 4096 cycles become guarded, after those that
reached 4096 cycles before it. -/
def guardCluster (s : State) (g k : Nat) : Option State :=
  match assocGet s.grids g with
  | none => none
  | some gr =>
    match assocGet gr.waits k with
    | none => none
    | some v =>
      let ps := rankCores (clusterDie gr k) v.cq v.c0 gr.pkt.s
      let first := s.grids.any fun h => h.2.waits.any fun u =>
        (decide (u.2.since < v.since) || (u.2.since == v.since && (gridBefore h (g, gr) || (h.1 == g && decide (u.1 < k))))) &&
        (rankCores (clusterDie h.2 u.1) u.2.cq u.2.c0 h.2.pkt.s).any fun p =>
          ps.contains p && !(getCore s p).guards.contains (h.1, u.1)
      if s.cycle < v.since + 4096 || first || ps.all (fun p => (getCore s p).guards.contains (g, k)) then none
      else some (ps.foldl (fun t p => modCore t p fun c =>
        if c.guards.contains (g, k) then c else { c with guards := c.guards ++ [(g, k)] }) s)

/-- Waiting clusters: cycle, grid and cluster index, in the order in which they began to wait (11 R271, R272). -/
def waitLine (s : State) : List (Nat × Nat × Grid × Nat) :=
  sortBy (fun a b => decide (a.1 < b.1) || (a.1 == b.1 && (gridBefore (a.2.1, a.2.2.1) (b.2.1, b.2.2.1) ||
      (a.2.1 == b.2.1 && decide (a.2.2.2 ≤ b.2.2.2)))))
    (s.grids.flatMap fun g => g.2.waits.map fun v => (v.2.since, g.1, g.2, v.1))

/-- Every request that has waited 4096 cycles is guarded (04 R97). -/
def guardAll (s : State) : State := (waitLine s).foldl (fun t v => (guardCluster t v.2.1 v.2.2.2).getD t) s

/-- A waiting cluster's context gains the banks it lacks on the cluster's cores once its child reserve fits there (11 R272,
R273). -/
def gainBanks (s : State) : State :=
  (waitLine s).foldl (fun t v => match assocGet v.2.2.1.waits v.2.2.2 with
    | some x => (rankCores (clusterDie v.2.2.1 v.2.2.2) x.cq x.c0 v.2.2.1.pkt.s).foldl (fun t p => (gainBank t p v.2.2.1.ctx).getD t) t
    | none => t) s

def execRequestGuard (grid cidx : Nat) (s : State) : Host.Outcome State Fault Refusal := evStep s (guardCluster s grid cidx)

/-- Old parcels that a packet read and not yet started may still fetch (13 R317). -/
def heldPast (s : State) : List (Nat × Nat × Nat) :=
  let held := s.ctxs.flatMap fun c => c.2.queues.filterMap fun k => match k.2.run with | some (p, none) => some p.num | _ => none
  s.past.filter fun v => held.any fun n => decide (n < v.2.1)

/-- GRID_COMPLETION (11 R270): every wave has retired, and every thread spawned from the grid. -/
def finishGrid (s : State) (g : Nat) : Option State :=
  match assocGet s.grids g with
  | none => none
  | some gr =>
    let all := gr.discarded || (List.range gr.dies.length).all fun j =>
      decide (groupStart gr.clusters gr.dies.length (j + 1) ≤ gr.next.getD j 0)
    let kids := s.banks.any fun b => b.2.bins.any (fun n => n.2.threads.any (·.grid == g)) ||
      b.2.segs.any fun d => d.2.any (·.grid == g)
    let joined := s.waves.any fun w => w.2.grid == g || w.2.threads.any fun t => t.2.grid == g
    if !all || kids || joined || s.hub.halted then none
    else
      let gone (s : State) : State :=
        { s with grids := assocDel s.grids g, past := if s.grids.length = 1 then heldPast s else s.past }
      match (assocGet s.ctxs gr.ctx).bind fun c => assocGet c.queues gr.q with
      | some k => some (gone (if k.run == some (gr.pkt, some g) then completePacket s gr.ctx gr.q gr.pkt else s))
      | none => some (gone s)

def execGridCompletion (grid : Nat) (s : State) : Host.Outcome State Fault Refusal := evStep s (finishGrid s grid)

end Sys2Proof.Machine
end

