-- ==== Sys2Proof/Machine/Contexts.lean ====
section
/-!
DEFINITION. Contexts as a whole: ROM command blocks, pre-emption, save and restore, kill, halts of the package, and
the scheduling events of a wave (01 R26, R28; 02 R61, R62; 11 R277, R278 to R284, R289 to R291; 12 R295, R296, R308).
-/

namespace Sys2Proof.Machine

/-! Command blocks (12 R295). -/

/-- Address of a byte of host memory. -/
def hostPa (a : Nat) : Nat := 2 ^ 50 + a % 2 ^ 50

/-- The oldest pending command of a function: its block's address and bytes. -/
def cmdHead (s : State) (fn : Nat) : Option (Nat × List Byte) :=
  match assocGet s.hub.cmds fn with
  | some (a :: _) => some (hostPa a.toNat, physGet s (hostPa a.toNat) 256)
  | _ => none

/-- Results and STATUS written: the result code and the offset of the first field at fault. -/
def blockDone (s : State) (fn pa st off : Nat) (res : List (Nat × List Byte)) : State :=
  let s1 := res.foldl (fun s r => physPut s (pa + r.1) r.2) s
  raiseIrq (physPut s1 (pa + 4) (natLe 4 (st + off * 2 ^ 16))) fn (if fn = 16 then 0 else 9)

/-- The oldest command of a function ends. -/
def cmdDone (s : State) (fn st off : Nat) (res : List (Nat × List Byte)) : State :=
  match cmdHead s fn with
  | none => s
  | some (pa, _) =>
    blockDone (modHub s fun h => { h with cmds := assocMod h.cmds fn fun l => l.drop 1 }) fn pa st off res

/-! Scheduling events of a wave. -/

/-- A fragment that its wave stops: another's trap window, a fault report or a waiting trap entry, or a trap record that
it or, where no window is open, another holds (04 R105, R110; 06 R156). The handler itself starts once the frame is stored. -/
def Frag.heldUp (w : Wave) (f : Frag) : Bool :=
  f.trap.isSome || w.report.isSome || w.trapWait.isSome ||
    match w.window with | some v => f.quads &&& v.quads == 0 || !v.stored | none => w.frags.any (·.trap.isSome)

/-- A fragment that counts as parked (11 R281). -/
def Frag.stopped (w : Wave) (f : Frag) : Bool := f.park != .none || f.heldUp w

/-- The context's waves may issue (11 R281, R282, R290; 01 R28). -/
def issues (s : State) (x : Nat) : Bool :=
  !s.hub.halted && match assocGet s.ctxs x with | some c => c.resident && !c.saving && c.cstate == 0 | none => false

/-- The watchdog counts this cycle (02 R62). DESIGN CHOICE (assumption 53): 02 R62 does not say that a fragment parks which a
`FENCE`, a `BATCH` with sixteen batches pending, a full fault list or the release of an `ARRIVE` holds; it is taken as parked. -/
def watchdogRuns (w : Wave) : Bool := w.window.isNone && w.frags.any fun f => !f.stopped w

/-- The counter has reached LIM × 4096. -/
def watchdogDue (s : State) (w : Wave) : Bool :=
  match limitOf s w with | some n => decide (n ≤ w.watchdog) | none => false

/-- The watchdog's trap, before the instruction that the fragment would issue next. -/
def watchdogTrap (s : State) (u q : Nat) : State :=
  match assocGet s.waves u with
  | none => s
  | some w =>
    match w.frag? q, assocGet s.ctxs w.ctx with
    | some f, some c => takeTrap s u q ⟨.watchdog, (Issue.mk u w f c).act s, 0, false, f.pc, f.header⟩
    | _, _ => s

/-- Fragment `a` is picked before `b` (11 R277): promoted ones in the order of their promotion, then by stamp, slot and
leading quad. -/
def fragBefore (a b : Nat × Wave × Frag) : Bool :=
  let key (x : Nat × Wave × Frag) : Nat × Nat × Nat × Nat × Nat :=
    match x.2.2.promoted with
    | some t => (0, t, x.2.2.stamp, x.2.1.slot, leadQuad x.2.2.quads)
    | none => (1, 0, x.2.2.stamp, x.2.1.slot, leadQuad x.2.2.quads)
  let (p1, p2, p3, p4, p5) := key a
  let (q1, q2, q3, q4, q5) := key b
  decide (p1 < q1) || (p1 == q1 && (decide (p2 < q2) || (p2 == q2 && (decide (p3 < q3) || (p3 == q3 &&
    (decide (p4 < q4) || (p4 == q4 && decide (p5 < q5))))))))

def firstFrag (l : List (Nat × Wave × Frag)) : Option (Nat × Wave × Frag) :=
  l.foldl (fun m x => match m with | none => some x | some y => if fragBefore x y then some x else m) none

/-- The fragment's holds have passed and nothing of its wave stops it. -/
def Frag.free (s : State) (w : Wave) (f : Frag) : Bool := !f.stopped w && decide (f.readyAt ≤ s.cycle)

/-- WATCHDOG: the wave's next fragment traps. -/
def watchdogEvent (s : State) (u : Nat) : Option State :=
  match assocGet s.waves u with
  | none => none
  | some w =>
    if issues s w.ctx && watchdogDue s w then
      (firstFrag ((w.frags.filter (·.free s w)).map fun f => (u, w, f))).map fun x => watchdogTrap s u (leadQuad x.2.2.quads)
    else none

def execWatchdog (u : Nat) (s : State) : Host.Outcome State Fault Refusal := evStep s (watchdogEvent s u)

/-- FRAGMENT_PROMOTION (11 R277). -/
def promote (s : State) (u quad : Nat) : Option State :=
  match fragAt s u quad with
  | none => none
  | some (_, f) =>
    if f.waited < 256 ∨ f.promoted.isSome = true then none
    else some (modFrag s u quad fun f => { f with promoted := some s.cycle })

def execFragmentPromotion (u quad : Nat) (s : State) : Host.Outcome State Fault Refusal := evStep s (promote s u quad)

/-- WAIT_TIMEOUT (11 R291, 17 R419): a last test, outside deterministic mode, wakes the fragment where every word has changed
(17 R420); else the `WAITW` writes the words of the test, retires, and its fragment traps. -/
def waitEnds (s : State) (u quad : Nat) : Option State :=
  match fragAt s u quad with
  | none => none
  | some (w, f) =>
    match f.park, assocGet s.ctxs w.ctx with
    | .waitw i ws n (some 0) false, some c =>
      let open_ := w.window.isNone && w.trapWait.isNone && w.report.isNone && w.frags.all (·.trap.isNone)
      -- it arises where the wave may issue, in its own handler, or in the cycle of another fragment's trap (04 R110)
      if !issues s w.ctx || f.trap.isSome ||
          !(open_ || (w.window.any fun v => v.quads.getLsbD quad) || w.trapAt == s.cycle) then none
      else
        let now := if turnWave w then ws else ws.map (WaitWord.now s n)
        let s0 := if turnWave w then s else dropWords s w.core (ws.map fun x => (x.lane, x.pa, x.m))
        if now.all fun x => x.m != x.vb then
          some (modFrag s0 u quad fun f => { f with park := .waitw i now n (some 0) true, stall := 0 })
        else
          let k : Issue := ⟨u, w, f, c⟩
          let tlm := k.act s
          let ls := ws.map (·.lane)
          let s1 := match waitDest i with
            | none => s0
            | some (d, m) => modWave s0 u fun w =>
                now.foldl (fun w x => writeVal w m d x.lane x.m) (markFixed s w d m (lanesMask ls) bInt)
          let s2 := retire i u quad s1
          some (takeTrap s2 u quad ⟨.waitTimeout, tlm, 0, false, f.pc + BitVec.ofNat 80 (2 * i.parcels), false⟩)
    | _, _ => none

def execWaitTimeout (u quad : Nat) (s : State) : Host.Outcome State Fault Refusal := evStep s (waitEnds s u quad)

/-! Pre-emption (11 R281, R282, R284). -/

def ctxWaves (s : State) (x : Nat) : List (Nat × Wave) := s.waves.filter fun e => e.2.ctx == x

/-- Every fragment of each of its waves is parked. -/
def quiet (s : State) (x : Nat) : Bool := (ctxWaves s x).all fun e => e.2.frags.all fun f => f.stopped e.2

/-- A save begins: issue stops, and the status block says so. -/
def beginSave (s : State) (x : Nat) (forced : Bool) : State :=
  writeCsb (modCtx s x fun c => { c with saving := true, forced := forced, cstate := 1 }) x

/-- A save may begin. -/
def mayBegin (s : State) (c : Context) : Bool := !s.hub.halted && c.preq && c.resident && !c.saving && c.cstate == 0

/-- PREEMPTION_DEADLINE: DL × 64 cycles have passed since REQ became 1. -/
def deadline (s : State) (x : Nat) : Option State :=
  match assocGet s.ctxs x with
  | none => none
  | some c => if mayBegin s c && decide (c.pdl.toNat * 64 ≤ c.reqAge) then some (beginSave s x true) else none

def execPreemptionDeadline (ctx : Nat) (s : State) : Host.Outcome State Fault Refusal := evStep s (deadline s ctx)

/-- An operation that a save does not wait for: a hub engine's, a query that waits on its threads, or a lane of
deterministic mode whose turn has not come. -/
def savesOver (s : State) (u : Nat) (w : Wave) (e : Entry) (l : Nat) (o : Op) : Bool :=
  match o.inner with
  | .journal _ _ _ => true
  | .emit _ _ _ _ => true
  | .truncate _ _ _ => true
  | .word _ _ => match e.instr with | .govqJ _ _ _ => true | _ => false
  | .query q => !q.waiting.isEmpty || !q.toSpawn.isEmpty
  | .engine _ => match e.instr with | .cred _ _ _ _ => true | _ => false
  | _ => turnWave w && isTurnInstr e.instr && !laneTurn s u w e l

/-- Steps 1 to 3 of a save are over. -/
def drained (s : State) (x : Nat) : Bool :=
  ((ctxWaves s x).all fun e =>
    decide (e.2.boundMax ≤ s.cycle) && e.2.report.isNone &&
    e.2.frags.all (fun f => match f.park with | .service _ _ _ _ => false | _ => true) &&
    e.2.entries.all fun d => d.lanes.all fun l => match l.2 with
      | .inflight o _ => savesOver s e.1 e.2 d l.1 o
      | _ => true) &&
  s.banks.all fun b => b.1 % 16 != x || (b.2.arrays.all (·.2.pend.isEmpty) && b.2.ringPend.isEmpty)

/-- The save block of a core: its layout, and how much of it is written, a byte at least, are the device's own (11 R264). -/
def saveBlock (s : State) (p : Nat) : List Byte :=
  (List.range ((Config.freeWord s.free (150000 + p)).toNat % (2 ^ 24 - 1) + 1)).map fun i =>
    (Config.freeWord s.free (200000 + 2 ^ 24 * p + i)).extractLsb' 0 8

def ctxCores (s : State) (x : Nat) : List Nat := (s.banks.filter fun b => b.1 % 16 == x).map fun b => b.1 / 16

/-- Step 4: the save blocks of the context's cores written. DESIGN CHOICE (assumption 53): the first touch of an unplaced page of
a block counts as hub firmware's, not as the core's (01 R20). -/
def writeBlocks (s : State) (x : Nat) (c : Context) : Except Cause State :=
  (ctxCores s x).foldl (fun (r : Except Cause State) p => match r with
    | .error e => .error e
    | .ok s => devWrite s x ((c.save.toNat + 2 ^ 24 * p) % 2 ^ 80) (saveBlock s p) none) (.ok s)

/-- Step 5: the context leaves its cores. -/
def releaseCores (s : State) (x : Nat) : State :=
  let s1 := (ctxCores s x).foldl (fun t p => modCore t p fun k => { k with credits := [] }) s
  writeCsb (modCtx s1 x fun c =>
    { c with resident := false, saving := false, cstate := if c.cstate = 1 then 2 else c.cstate }) x

/-- CONTEXT_SAVE: a quiet context's save begins, and once its operations have drained it ends (11 R281, R282). -/
def saveContext (s : State) (x : Nat) : Option State :=
  match assocGet s.ctxs x with
  | none => none
  | some c =>
    if c.saving && c.resident then
      if drained s x && !s.hub.halted then
        match writeBlocks s x c with
        | .ok t => some (releaseCores t x)
        | .error e => some (releaseCores (contextFault s x e) x)
      else none
    else if mayBegin s c && quiet s x then some (beginSave s x false)
    else none

def execContextSave (ctx : Nat) (s : State) : Host.Outcome State Fault Refusal := evStep s (saveContext s ctx)

/-! Restore (11 R283). -/

/-- All that the context held on core `p` is free there. -/
def coreFits (s : State) (x p : Nat) (c : Context) (b : Bank) : Bool :=
  let ws := (ctxWaves s x).filter (·.2.core == p)
  let ord := ws.filter (·.2.level.isNone)
  let runs := takenRuns s p
  decide ((coreBanks s p).length < 2) && runFree runs b.reserve (112 * c.gplu) &&
  ord.all (fun w => runFree runs w.2.base w.2.gran) &&
  ws.all (fun w => !(coreWaves s p).any (·.slot == w.2.slot)) &&
  decide (7 * c.spl + ord.length ≤ freeSlots s p) &&
  decide (reserveUsed s p + ws.foldl (fun n w => n + w.2.reserve) 0 ≤ 8) &&
  s.grids.all fun g => g.2.ctx != x || g.2.wgs.all fun w => w.2.core != p || w.2.retired ||
    (runFree (takenShares s p) w.2.shareBase (alignUp g.2.pkt.scr 4096) && w.2.triples.all fun t => !arrayHeld s p t.arr)

/-- The restore reads the save blocks. -/
def readBlocks (s : State) (x : Nat) (c : Context) : Except Cause State :=
  (ctxCores s x).foldl (fun (r : Except Cause State) p => match r with
    | .error e => .error e
    | .ok s => (xlateService s x ((c.save.toNat + 2 ^ 24 * p) % 2 ^ 80) .read none).map (·.1)) (.ok s)

/-- The context is on its cores again. -/
def regain (s : State) (x : Nat) : State :=
  let s1 := (ctxCores s x).foldl (fun t p =>
    let i := if (coreBanks t p).any (·.2.1.index == 0) then 1 else 0
    modCore (modBank t (16 * p + x) fun b => { b with index := i }) p fun k => { k with credits := [] }) s
  wakePreempt (modCtx s1 x fun c => { c with resident := true, restoring := none, cstate := 0, reqAge := 0 }) x

/-- CONTEXT_RESTORE_CLAIM. -/
def restoreContext (s : State) (x : Nat) : Option State :=
  match assocGet s.ctxs x with
  | none => none
  | some c =>
    match c.restoring with
    | none => none
    | some fn =>
      if c.resident || c.cstate != 2 || s.hub.halted ||
          !(s.banks.all fun b => b.1 % 16 != x || coreFits s x (b.1 / 16) c b.2) then none
      else match readBlocks s x c with
        | .error e => some (cmdDone (modCtx (contextFault s x e) x fun c => { c with restoring := none, saving := false }) fn 3 8 [])
        | .ok t => some (cmdDone (writeCsb (regain t x) x) fn 0 0 [])

def execContextRestoreClaim (ctx : Nat) (s : State) : Host.Outcome State Fault Refusal := evStep s (restoreContext s ctx)

/-! Kill and destruction (11 R289; 12 R297). -/

/-- Every wave of the context ends, its unlaunched work is discarded, and a save that has begun stops. -/
def killContext (s : State) (x : Nat) : State :=
  let s1 := (ctxWaves s x).foldl (fun t e => endWave t e.1 none) (withdraw s x)
  let s2 := { s1 with
    banks := s1.banks.map fun b => if b.1 % 16 = x then (b.1, { b.2 with bins := [], segs := [], segSince := [] }) else b,
    grids := s1.grids.map fun g => if g.2.ctx = x then (g.1, { g.2 with discarded := true }) else g }
  match assocGet s2.ctxs x with
  | some c =>
    if c.cstate = 1 then writeCsb (modCtx s2 x fun c => { c with saving := false, cstate := 0 }) x
    else modCtx s2 x fun c => { c with saving := false }
  | none => s2

/-- A stream is unbound: its pending operations end with error (10 R254). -/
def unbindStream (s : State) (q : Nat) : State :=
  let s1 := journalFail s q true
  modHub s1 fun h => { h with streams := assocDel h.streams q }

/-- The frames of the context's placed pages in HBM. -/
def ctxFrames (s : State) (c : Context) : List Nat :=
  c.pages.flatMap fun p => if p.placed then
    (List.range p.n).filterMap fun i => match (let a := p.va + i * p.size
        walk (if migrating c a then setValid s c a true else s) c a) with
      | .found pa _ _ => if paRegion pa = 0 then some pa else none
      | _ => none
    else []

/-- Everything a context holds is freed. The level-4 table is left without entries. -/
def freeContext (s : State) (x : Nat) : State :=
  match assocGet s.ctxs x with
  | none => s
  | some c =>
    let s1 := (s.hub.streams.filter fun t => t.2.ctx == x).foldl (fun t q => unbindStream t q.1) s
    let s2 := (ctxFrames s c ++ c.tables ++ [c.ptb / 2 ^ 16 * 2 ^ 16]).foldl frameFree s1
    let held := (c.pages.filter fun p => p.stored.isSome).foldl (fun n p => n + p.n) 0
    let s3 := modHub s2 fun h => { h with govs := h.govs.filter fun g => g.2.ctx != x, zonePages := h.zonePages - held }
    { s3 with mem := memClear s3.mem c.ptb (2 ^ 15), ctxs := assocDel s3.ctxs x,
              banks := s3.banks.filter fun b => b.1 % 16 != x, grids := s3.grids.filter fun g => g.2.ctx != x }

/-! The package halts; power (01 R26, R28; 12 R308). -/

/-- Issue halts on every core, and every context's status block says why. -/
def haltPackage (s : State) (cerr : Nat) : State :=
  let s1 := modHub s fun h => { h with halted := true }
  raiseIrq (s1.ctxs.foldl (fun t c =>
    writeCsb (modCtx t c.1 fun c => { c with cstate := 4, cerr := cerr, nerr := satNerr c.nerr }) c.1) s1) 16 1

def thermal (s : State) (d : Nat) : Option State :=
  if dieOnline s.hub d && !s.hub.halted then some (haltPackage s 4) else none

def execThermalHalt (dom : Nat) (s : State) : Host.Outcome State Fault Refusal := evStep s (thermal s dom)

def loseDie (s : State) (d : Nat) : Option State :=
  if dieOnline s.hub d && decide (d < 18) then
    some (haltPackage (modHub s fun h => { h with online := h.online &&& ~~~((1 : BitVec 19) <<< d) }) 5)
  else none

def execDieLost (dom : Nat) (s : State) : Host.Outcome State Fault Refusal := evStep s (loseDie s dom)

/-- BRIDGE_FAILURE_AT_RUN_TIME: a ring bridge is bypassed; a die without its hub bridge goes offline (12 R308). -/
def bridgeFails (s : State) (a b : Nat) : Option State :=
  if a < 18 ∧ b < 18 ∧ ringDist a b = 1 then
    let at_ := if (ringPos a + 1) % 18 = ringPos b then ringPos a else ringPos b
    if s.hub.bridgesDown.contains at_ then none
    else some (modHub s fun h => { h with bridgesDown := at_ :: h.bridgesDown })
  else if b = 18 then loseDie s a
  else if a = 18 then loseDie s b
  else none

def execBridgeFailureAtRunTime (a b : Nat) (s : State) : Host.Outcome State Fault Refusal := evStep s (bridgeFails s a b)

/-- POWER_WINDOW: the clock of every die steps by 100 MHz, between 1.0 GHz and 2.1 GHz (01 R26, R27). -/
def powerStep (h : Hub) (watts : Nat) : Hub :=
  if watts > h.powerLimit then { h with clockMHz := max 1000 (h.clockMHz - 100) }
  else if watts * 100 < h.powerLimit * 95 then { h with clockMHz := min 2100 (h.clockMHz + 100) }
  else h

def execPowerWindow (watts : Nat) (s : State) : Host.Outcome State Fault Refusal :=
  evStep s (some (modHub s fun h => powerStep h watts))

end Sys2Proof.Machine
end

