-- ==== Sys2Proof/Machine/Int.lean ====
section
/-!
DEFINITION. Integer arithmetic, logic, shifts, bit fields, moves and lane instructions (15 R354 to R357, R362 to
R364, R368; 16 R385 to R388, R390, R395, R397 to R399; 17 R404, R405, R408 to R410, R421).
-/

namespace Sys2Proof.Machine

/-! Values of the integer types (16 R387). -/

def itVal (t : ITy) (v : Dword) : Int :=
  match t with
  | .i32 => (v.extractLsb' 0 32).toInt
  | .u32 => (v.extractLsb' 0 32).toNat
  | .i64 => v.toInt

def itLo (t : ITy) : Int := match t with | .i32 => -2 ^ 31 | .u32 => 0 | .i64 => -2 ^ 63
def itHi (t : ITy) : Int := match t with | .i32 => 2 ^ 31 - 1 | .u32 => 2 ^ 32 - 1 | .i64 => 2 ^ 63 - 1

/-- The exact result clamped with SAT, and taken modulo 2^w (16 R387). -/
def itPut (t : ITy) (sat : Bool) (r : Int) : Dword :=
  BitVec.ofInt 64 (if sat then min (max r (itLo t)) (itHi t) else r)

def btOf (t : BTy) : ITy := match t with | .i32 => .i32 | .i64 => .i64

/-- Relation codes of `ICMP` (16 R388). -/
def relCode (a b : Int) : Dword := if a < b then 1 else if a = b then 2 else 4

/-- An arithmetic instruction of the mould of 16 R386, R387. -/
def intOp (i : Instr) (t : ITy) (x : Long) (f : Int → Int → Int → Int) (s : State) : Host.Outcome State Fault Refusal :=
  issueWith i s fun k s =>
    .done (writeLanes s k x.d t.regs bInt fun l =>
      itPut t (longMod x).sat
        (f (itVal t (srcA s k.w x t.regs l)) (itVal t (srcB s k.w x .int t.regs l)) (itVal t (srcC s k.w x t.regs l))))

/-- A bitwise instruction on 32 or 64 bits (15 R357). -/
def bitOp (i : Instr) (t : BTy) (x : Long) (f : Dword → Dword → Dword) (s : State) : Host.Outcome State Fault Refusal :=
  issueWith i s fun k s =>
    .done (writeLanes s k x.d t.regs bInt fun l => f (srcA s k.w x t.regs l) (srcB s k.w x .int t.regs l))

/-- A unary instruction in long form. -/
def unOpB (i : Instr) (t : BTy) (x : Long) (f : Dword → Dword) (s : State) : Host.Outcome State Fault Refusal :=
  issueWith i s fun k s => .done (writeLanes s k x.d t.regs bInt fun l => f (srcA s k.w x t.regs l))

/-- A unary instruction in A32 form. -/
def unOpA (i : Instr) (t : BTy) (d a : Reg) (f : Dword → Dword) (s : State) : Host.Outcome State Fault Refusal :=
  issueWith i s fun k s => .done (writeLanes s k d t.regs bInt fun l => f (readVal s k.w t.regs a.toNat l))

def btBits (t : BTy) : Nat := match t with | .i32 => 32 | .i64 => 64

/-- Number of 1 bits (16 R398). -/
def popCount (n : Nat) (v : Dword) : Dword := BitVec.ofNat 64 ((List.range n).filter v.getLsbD).length
/-- Zero bits above the highest 1 (15 R368). -/
def leadZeros (n : Nat) (v : Dword) : Dword :=
  BitVec.ofNat 64 (if v.toNat % 2 ^ n = 0 then n else n - 1 - Nat.log2 (v.toNat % 2 ^ n))
/-- Bit order reversed (15 R368). -/
def bitRev (n : Nat) (v : Dword) : Dword :=
  BitVec.ofNat 64 ((List.range n).foldl (fun r k => 2 * r + (if v.getLsbD k then 1 else 0)) 0)

/-- Absolute value; with SAT the largest integer for the most negative one (16 R386, R387). -/
def absVal (t : BTy) (sat : Bool) (v : Dword) : Dword := itPut (btOf t) sat (Int.natAbs (itVal (btOf t) v))

/-- `ADDA` (15 R354): triple plus signed offset modulo 2^80; a non-canonical source stays non-canonical. -/
def addaLane (s : State) (w : Wave) (x : Long) (l : Nat) : List Word :=
  let la := permA x.perm l
  let a := readTriple s w x.a.toNat la
  let r : VA := a + (srcB s w x .int 2 l).signExtend 80
  let h : BitVec 16 := if tripleBad s w x.a.toNat la then 0xFFFF else 0
  [r.extractLsb' 0 32, r.extractLsb' 32 32, h ++ r.extractLsb' 64 16]

/-- Position, width and mask of a field-control word (15 R363). -/
def fieldOf (k : Dword) : Nat × Nat × Nat :=
  let p := k.toNat % 32
  let w := min (min (k.toNat / 256 % 64) 32) (32 - p)
  (p, w, 2 ^ w - 1)

/-- `BFX` (15 R364). -/
def bfxVal (u : Bool) (a k : Dword) : Dword :=
  let (p, w, mask) := fieldOf k
  let f := (a.toNat % 2 ^ 32) / 2 ^ p % (mask + 1)
  if !u && 0 < w && bitOf f (w - 1) then BitVec.ofNat 64 (f + (2 ^ 32 - 1 - mask)) else BitVec.ofNat 64 f

/-- `BFI` (15 R364). -/
def bfiVal (a k c : Dword) : Dword :=
  let (p, _, mask) := fieldOf k
  let m : Dword := BitVec.ofNat 64 (mask * 2 ^ p)
  (c &&& ~~~m) ||| (BitVec.ofNat 64 (a.toNat % (mask + 1) * 2 ^ p))

/-- Shifts by any amount (17 R405). -/
def shlVal (t : BTy) (a : Dword) (n : Nat) : Dword := if btBits t ≤ n then 0 else a <<< n
def shrVal (t : ITy) (a : Dword) (n : Nat) : Dword :=
  match t with
  | .i32 => ((a.extractLsb' 0 32).sshiftRight (min n 31)).signExtend 64
  | .u32 => if 32 ≤ n then 0 else (a.extractLsb' 0 32 >>> n).zeroExtend 64
  | .i64 => a.sshiftRight (min n 63)
def rotVal (a : Dword) (n : Nat) : Dword := ((a.extractLsb' 0 32).rotateLeft (n % 32)).zeroExtend 64

/-- `BALLOT` (15 R362): a bit for each active lane whose value is nonzero. -/
def ballotMask (ls : List Nat) (f : Nat → Word) : LaneMask := lanesMask (ls.filter fun l => f l != 0)

/-- The execution mask loaded in lanes `scope` (17 R409). -/
def setMask (s : State) (w : Wave) (scope new : LaneMask) : Wave :=
  { w with mask := (w.mask &&& ~~~scope) ||| (new &&& scope),
           maskPend := (w.maskPend.filter fun p => decide (s.cycle < p.2.2)) ++ [(w.mask, scope, s.cycle + bInt)],
           boundMax := max w.boundMax (s.cycle + bInt) }

/-- Lanes that hold a thread (17 R409). -/
def threadLanes (w : Wave) : LaneMask := if w.spawned then lanesMask (List.range w.nthreads) else -1

/-- `SETX` (17 R409). -/
def setxOp (i : Instr) (r : Reg) (s : State) : Host.Outcome State Fault Refusal :=
  issueWith i s fun k s =>
    let scope := lanesOf k.f.quads
    let new := lanesMask ((laneList (scope &&& threadLanes k.w)).filter fun l => readLane s k.w r.toNat l != 0)
    .done (modWave s k.uid fun w => setMask s w scope new)

/-- `ANYQ` and `ALLQ` (15 R355, R356). -/
def foldOp (i : Instr) (all : Bool) (r : Reg) (s : State) : Host.Outcome State Fault Refusal :=
  issueWith i s fun k s =>
    let a := k.act s
    let t := lanesMask ((laneList a).filter fun l => readLane s k.w r.toNat l != 0)
    .done (modWave s k.uid fun w => writeCC s w k.f.quads (foldCC w.cc k.f.quads all t a) bInt)

/-- A lane mask written as a pair in every active lane. -/
def maskPair (s : State) (k : Issue) (d : Reg) (m : LaneMask) : Eff := .done (writeLanes s k d 2 bInt fun _ => m)

/-- `IADD` (16 R386, R387). -/
def execIadd (t : ITy) (x : Long) (s : State) : Host.Outcome State Fault Refusal :=
  intOp (.iadd t x) t x (fun a b _ => a + b) s

/-- `ISUB` (16 R386, R387). -/
def execIsub (t : ITy) (x : Long) (s : State) : Host.Outcome State Fault Refusal :=
  intOp (.isub t x) t x (fun a b _ => a - b) s

/-- `IMUL` (16 R386, R387). -/
def execImul (t : ITy) (x : Long) (s : State) : Host.Outcome State Fault Refusal :=
  intOp (.imul t x) t x (fun a b _ => a * b) s

/-- `IMAD` (16 R386, R387): one wrap or clamp of the exact a × b + c. -/
def execImad (t : ITy) (x : Long) (s : State) : Host.Outcome State Fault Refusal :=
  intOp (.imad t x) t x (fun a b c => a * b + c) s

/-- `IMIN` (16 R386, R387). -/
def execImin (t : ITy) (x : Long) (s : State) : Host.Outcome State Fault Refusal :=
  intOp (.imin t x) t x (fun a b _ => min a b) s

/-- `IMAX` (16 R386, R387). -/
def execImax (t : ITy) (x : Long) (s : State) : Host.Outcome State Fault Refusal :=
  intOp (.imax t x) t x (fun a b _ => max a b) s

/-- `IMULH` (16 R386, R387): floor of the product by 2^32. -/
def execImulh (u : Bool) (x : Long) (s : State) : Host.Outcome State Fault Refusal :=
  let t := if u then ITy.u32 else ITy.i32
  intOp (.imulh u x) t x (fun a b _ => a * b / 2 ^ 32) s

/-- `ICMP` (16 R388). -/
def execIcmp (t : ITy) (x : Long) (s : State) : Host.Outcome State Fault Refusal :=
  issueWith (.icmp t x) s fun k s =>
    .done (writeLanes s k x.d 1 bInt fun l =>
      relCode (itVal t (srcA s k.w x t.regs l)) (itVal t (srcB s k.w x .int t.regs l)))

/-- `ADDA` (15 R354). -/
def execAdda (x : Long) (s : State) : Host.Outcome State Fault Refusal :=
  issueWith (.adda x) s fun k s => .done (writeLanesL s k x.d 3 bInt fun l => addaLane s k.w x l)

/-- `AND` (15 R357). -/
def execAnd (t : BTy) (x : Long) (s : State) : Host.Outcome State Fault Refusal :=
  bitOp (.and t x) t x (fun a b => a &&& b) s

/-- `OR` (16 R399). -/
def execOr (t : BTy) (x : Long) (s : State) : Host.Outcome State Fault Refusal :=
  bitOp (.or t x) t x (fun a b => a ||| b) s

/-- `XOR` (17 R421). -/
def execXor (t : BTy) (x : Long) (s : State) : Host.Outcome State Fault Refusal :=
  bitOp (.xor t x) t x (fun a b => a ^^^ b) s

/-- `ANDN` (15 R357). -/
def execAndn (t : BTy) (x : Long) (s : State) : Host.Outcome State Fault Refusal :=
  bitOp (.andn t x) t x (fun a b => a &&& ~~~b) s

/-- `IABS`, A32 (16 R386, R387). -/
def execIabsA32 (g : BitVec 2) (t : BTy) (d a : Reg) (s : State) : Host.Outcome State Fault Refusal :=
  unOpA (.iabsA32 g t d a) t d a (absVal t false) s

/-- `IABS`, B64 and C96 (16 R386, R387). -/
def execIabsB64 (t : BTy) (x : Long) (s : State) : Host.Outcome State Fault Refusal :=
  unOpB (.iabsB64 t x) t x (absVal t (longMod x).sat) s

/-- `NOT`, A32 (16 R398). -/
def execNotA32 (g : BitVec 2) (t : BTy) (d a : Reg) (s : State) : Host.Outcome State Fault Refusal :=
  unOpA (.notA32 g t d a) t d a (fun a => ~~~a) s

/-- `NOT`, B64 and C96 (16 R398). -/
def execNotB64 (t : BTy) (x : Long) (s : State) : Host.Outcome State Fault Refusal :=
  unOpB (.notB64 t x) t x (fun a => ~~~a) s

/-- `POPC`, A32 (16 R398). -/
def execPopcA32 (g : BitVec 2) (t : BTy) (d a : Reg) (s : State) : Host.Outcome State Fault Refusal :=
  unOpA (.popcA32 g t d a) t d a (popCount (btBits t)) s

/-- `POPC`, B64 and C96 (16 R398). -/
def execPopcB64 (t : BTy) (x : Long) (s : State) : Host.Outcome State Fault Refusal :=
  unOpB (.popcB64 t x) t x (popCount (btBits t)) s

/-- `CLZ`, A32 (15 R368). -/
def execClzA32 (g : BitVec 2) (t : BTy) (d a : Reg) (s : State) : Host.Outcome State Fault Refusal :=
  unOpA (.clzA32 g t d a) t d a (leadZeros (btBits t)) s

/-- `CLZ`, B64 and C96 (15 R368). -/
def execClzB64 (t : BTy) (x : Long) (s : State) : Host.Outcome State Fault Refusal :=
  unOpB (.clzB64 t x) t x (leadZeros (btBits t)) s

/-- `BREV`, A32 (15 R368). -/
def execBrevA32 (g : BitVec 2) (t : BTy) (d a : Reg) (s : State) : Host.Outcome State Fault Refusal :=
  unOpA (.brevA32 g t d a) t d a (bitRev (btBits t)) s

/-- `BREV`, B64 and C96 (15 R368). -/
def execBrevB64 (t : BTy) (x : Long) (s : State) : Host.Outcome State Fault Refusal :=
  unOpB (.brevB64 t x) t x (bitRev (btBits t)) s

/-- `MOV`, A32 (16 R395). -/
def execMovA32 (g : BitVec 2) (t : BTy) (d a : Reg) (s : State) : Host.Outcome State Fault Refusal :=
  unOpA (.movA32 g t d a) t d a (fun a => a) s

/-- `MOV`, B64 and C96, of a register or an immediate (16 R395). -/
def execMovB64 (t : BTy) (x : Long) (s : State) : Host.Outcome State Fault Refusal :=
  issueWith (.movB64 t x) s fun k s =>
    .done (writeLanes s k x.d t.regs bInt fun l =>
      match x.tail with
      | .imm _ => srcB s k.w x .int t.regs l
      | .regs _ _ _ => srcA s k.w x t.regs l)

/-- `BFX` (15 R363, R364). -/
def execBfx (u : Bool) (x : Long) (s : State) : Host.Outcome State Fault Refusal :=
  issueWith (.bfx u x) s fun k s =>
    .done (writeLanes s k x.d 1 bInt fun l => bfxVal u (srcA s k.w x 1 l) (srcB s k.w x .int 1 l))

/-- `BFI` (15 R363, R364). -/
def execBfi (x : Long) (s : State) : Host.Outcome State Fault Refusal :=
  issueWith (.bfi x) s fun k s =>
    .done (writeLanes s k x.d 1 bInt fun l => bfiVal (srcA s k.w x 1 l) (srcB s k.w x .int 1 l) (srcC s k.w x 1 l))

/-- `SHL` (17 R404, R405). -/
def execShl (t : BTy) (x : Long) (s : State) : Host.Outcome State Fault Refusal :=
  issueWith (.shl t x) s fun k s =>
    .done (writeLanes s k x.d t.regs bInt fun l => shlVal t (srcA s k.w x t.regs l) (srcB s k.w x .int 1 l).toNat)

/-- `SHR` (17 R404, R405). -/
def execShr (t : ITy) (x : Long) (s : State) : Host.Outcome State Fault Refusal :=
  issueWith (.shr t x) s fun k s =>
    .done (writeLanes s k x.d t.regs bInt fun l => shrVal t (srcA s k.w x t.regs l) (srcB s k.w x .int 1 l).toNat)

/-- `ROT` (17 R404, R405). -/
def execRot (x : Long) (s : State) : Host.Outcome State Fault Refusal :=
  issueWith (.rot x) s fun k s =>
    .done (writeLanes s k x.d 1 bInt fun l => rotVal (srcA s k.w x 1 l) (srcB s k.w x .int 1 l).toNat)

/-- `SEL` (17 R408). -/
def execSel (t : BTy) (x : Long) (s : State) : Host.Outcome State Fault Refusal :=
  issueWith (.sel t x) s fun k s =>
    .done (writeLanes s k x.d t.regs bInt fun l =>
      if srcC s k.w x 1 l != 0 then srcA s k.w x t.regs l else srcB s k.w x .int t.regs l)

/-- `SHUF` (17 R410). -/
def execShuf (x : Long) (s : State) : Host.Outcome State Fault Refusal :=
  issueWith (.shuf x) s fun k s =>
    .done (writeLanes s k x.d 1 bShuf fun l =>
      let i := (srcB s k.w x .int 1 l).toNat
      if 64 ≤ i then 0 else srcA s k.w x 1 i)

/-- `LANE` (16 R390). -/
def execLane (g : BitVec 2) (d : Reg) (s : State) : Host.Outcome State Fault Refusal :=
  issueWith (.lane g d) s fun k s => .done (writeLanes s k d 1 bInt fun l => BitVec.ofNat 64 l)

/-- `GETX` (16 R385, 17 R416). -/
def execGetx (g : BitVec 2) (d : Reg) (s : State) : Host.Outcome State Fault Refusal :=
  issueWith (.getx g d) s fun k s => maskPair s k d (readMask s k.w &&& lanesOf k.f.quads)

/-- `BALLOT`, A32 (15 R362). -/
def execBallotA32 (g : BitVec 2) (d a : Reg) (s : State) : Host.Outcome State Fault Refusal :=
  issueWith (.ballotA32 g d a) s fun k s =>
    maskPair s k d (ballotMask (k.actList s) fun l => readLane s k.w a.toNat l)

/-- `BALLOT`, B64 and C96 (15 R362). -/
def execBallotB64 (x : Long) (s : State) : Host.Outcome State Fault Refusal :=
  issueWith (.ballotB64 x) s fun k s =>
    maskPair s k x.d (ballotMask (k.actList s) fun l => readLane s k.w x.a.toNat (permA x.perm l))

/-- `SETX`, S16 (17 R409). -/
def execSetxS16 (r : Reg) (s : State) : Host.Outcome State Fault Refusal :=
  setxOp (.setxS16 r) r s

/-- `SETX`, A32 (17 R409). -/
def execSetxA32 (g : BitVec 2) (r : Reg) (s : State) : Host.Outcome State Fault Refusal :=
  setxOp (.setxA32 g r) r s

/-- `ANYQ`, S16 (15 R355, R356). -/
def execAnyqS16 (r : Reg) (s : State) : Host.Outcome State Fault Refusal :=
  foldOp (.anyqS16 r) false r s

/-- `ANYQ`, A32 (15 R355, R356). -/
def execAnyqA32 (g : BitVec 2) (r : Reg) (s : State) : Host.Outcome State Fault Refusal :=
  foldOp (.anyqA32 g r) false r s

/-- `ALLQ`, S16 (15 R355, R356). -/
def execAllqS16 (r : Reg) (s : State) : Host.Outcome State Fault Refusal :=
  foldOp (.allqS16 r) true r s

/-- `ALLQ`, A32 (15 R355, R356). -/
def execAllqA32 (g : BitVec 2) (r : Reg) (s : State) : Host.Outcome State Fault Refusal :=
  foldOp (.allqA32 g r) true r s

/-- `NOP` (16 R397): the gap of `retire` counts its n idle cycles. -/
def execNop (n : BitVec 8) (s : State) : Host.Outcome State Fault Refusal :=
  issueWith (.nop n) s fun _ s => .done s

end Sys2Proof.Machine
end

