-- ==== Sys2Proof/Machine/Link.lean ====
section
/-!
DEFINITION. Ossin Link ports, the accesses of host and peers, page compression and migration, and the package's power
and bring-up (06 R166 to R168; 07 R189; 12 R293, R299 to R309, R312).
-/

namespace Sys2Proof.Machine

/-! Flits (12 R299, R305, R306). -/

/-- Flits acknowledged up to `ack` leave the list of those sent. -/
def Port.acks (p : Port) (ack : BitVec 12) : Port :=
  let first := p.fseqOut - BitVec.ofNat 12 p.sent.length
  let n := (ack + 1 - first).toNat
  if 0 < n ∧ n ≤ p.sent.length then { p with sent := p.sent.drop n, acked := ack, idleAck := 0 } else p

/-- A flit that arrives: discarded on a bad CRC or out of order, with all after it until the expected one comes. The
payload layout of credit and audit flits is not stated; what they carry comes with their own events. -/
def Port.receive (p : Port) (flit : BitVec 1024) : Port :=
  let bs := natLe 128 flit.toNat
  let h := fieldAt bs 0 2
  if (crc32c (bs.take 124)).toNat ≠ fieldAt bs 124 4 ∨ h / 4096 > 3 then { p with crcFails := p.crcFails + 1, skipping := true }
  else if h % 4096 ≠ p.fseqIn.toNat then { p with skipping := true }
  else
    let p1 := { p.acks (BitVec.ofNat 12 (fieldAt bs 4 2)) with fseqIn := p.fseqIn + 1, skipping := false, idleRx := 0 }
    if h / 4096 = 1 then
      let v := fieldAt bs 2 1 % 4
      { p1.modVc v fun c => { c with occ := c.occ + 1 } with rx := p1.rx ++ [(v, flit.extractLsb' 64 928)] }
    else p1

/-- A port that is up and trained, changed by `f`. -/
def withPort (s : State) (p : Nat) (f : Port → Option Port) : Option State :=
  match assocGet s.hub.ports p with
  | some r => if r.up && !r.training then (f r).map fun v => modPort s p fun _ => v else none
  | none => none

def execFlitReceive (port : Nat) (flit : BitVec 1024) (s : State) : Host.Outcome State Fault Refusal :=
  evStep s (withPort s port fun p => some (p.receive flit))

/-- The sender sends again from ACKSEQ + 1. -/
def Port.resend (p : Port) : Option Port :=
  if p.idleAck < 2048 ∨ p.sent = [] then none
  else some { p with resent := p.resent + p.sent.length, idleAck := 0 }

def execFlitResend (port : Nat) (s : State) : Host.Outcome State Fault Refusal := evStep s (withPort s port Port.resend)

/-- A return total updates RSEEN, the last one received, and AVAIL, modulo 2^16, and waiting flits go out. -/
def Port.credit (p : Port) (free v : Nat) (total : BitVec 16) : Option Port :=
  if v ≥ 4 then none
  else some ((p.modVc v fun c => { c with rseen := total, avail := c.avail + (total - c.rseen) }).drain free v (p.vc v).wait)

def execCreditFlit (port vc : Nat) (total : BitVec 16) (s : State) : Host.Outcome State Fault Refusal :=
  evStep s (withPort s port fun p => p.credit s.free vc total)

def execAuditSend (port : Nat) (s : State) : Host.Outcome State Fault Refusal :=
  evStep s (withPort s port fun p => p.audit s.free)

/-- The receiver compares O with STOT − RTOT of one channel and repairs its counts (12 R306). -/
def Port.audited (p : Port) (free v : Nat) (stot : BitVec 16) : Option Port :=
  if v ≥ 4 then none
  else
    let c := p.vc v
    let d := stot - c.rtot
    if c.occ = d then some p
    else if c.occ < d then
      some (({ p with mismatches := p.mismatches + 1 }.modVc v fun c => { c with rtot := c.rtot + (d - c.occ) }).emit free 2 3)
    else some ({ p with mismatches := p.mismatches + 1 }.modVc v fun c => { c with withhold := (c.occ - d).toNat })

def execAuditFlit (port vc : Nat) (stot : BitVec 16) (s : State) : Host.Outcome State Fault Refusal :=
  evStep s (withPort s port fun p => p.audited s.free vc stot)

/-- The link layer hands its payloads on: buffers empty, and each is returned unless it is withheld. -/
def Port.handOn (p : Port) (free : Nat) : Port :=
  if p.rx = [] then p
  else
    let p1 := p.rx.foldl (fun p x => p.modVc x.1 fun c =>
      if c.withhold = 0 then { c with occ := c.occ - 1, rtot := c.rtot + 1 }
      else { c with occ := c.occ - 1, withhold := c.withhold - 1 }) p
    { p1 with rx := [] }.emit free 2 3

/-! Ports going down (12 R301, R304). -/

/-- One lane's operation ends as timed out where it has a request on port `p`; a stream loses its partner instead. -/
def endRequest (s : State) (p u seq l : Nat) : State :=
  match findEntry s u seq with
  | none => s
  | some (w, e, c) =>
    match assocGet e.lanes l with
    | some (.inflight op a) =>
      let asked := e.asks.any fun x => x.lane == l && x.port == p
      match op with
      | .sent n _ _ (.truncate q _ _) => if n = p then loseStream s q else s
      | .sent n _ _ _ => if n = p then peerEnds s u w e c l op .remoteTimeout a else s
      | .journal q _ _ => if asked then loseStream s q else s
      | op => if asked then peerEnds s u w e c l op .remoteTimeout a else s
    | _ => s

/-- The polls of a `WAITW` that are out on port `p` end as timed out. -/
def endPolls (s : State) (p u q : Nat) : State :=
  match waitFrag s u (4 * q) with
  | none => s
  | some (w, f, c, ws) =>
    match outPolls ws fun x => x.port == p with
    | [] => s
    | bad => waitFails s u w f c bad .remoteTimeout

/-- Join counts whose request is out on port `p` fail. -/
def endLeaving (s : State) (p : Nat) : State :=
  s.waves.foldl (fun t w => w.2.leaving.foldl (fun t v =>
    if v.2.2.2.any fun a => a.port == p then leavingFails t w.1 v.1 w.2.ctx .remoteTimeout else t) t) s

/-- Every request outstanding on port `p` ends as timed out. -/
def endRequests (s : State) (p : Nat) : State :=
  let s1 := s.waves.foldl (fun t w => w.2.entries.foldl (fun t e => e.lanes.foldl (fun t l => endRequest t p w.1 e.seq l.1) t) t) s
  endLeaving (s1.waves.foldl (fun t w => (List.range 16).foldl (fun t q => endPolls t p w.1 q) t) s1) p

/-- A port goes down: its requests end, and it leaves every peer's set. -/
def downPort (s : State) (p : Nat) : State :=
  let s1 := endRequests s p
  let s2 := s1.hub.streams.foldl (fun t q =>
    if (assocGet s1.hub.peers q.2.peer).any (·.ports.contains p) then loseStream t q.1 else t) s1
  modHub (modPort s2 p fun r => { r with up := false }) fun h =>
    { h with peers := h.peers.map fun q => (q.1, { q.2 with ports := q.2.ports.filter (· != p) }) }

/-- PORT_DOWN: no flit with a valid CRC for T cycles. -/
def portSilent (s : State) (p : Nat) : Option State :=
  match assocGet s.hub.ports p with
  | some r => if r.up && decide (2 ^ r.logT ≤ r.idleRx) then some (downPort s p) else none
  | none => none

def execPortDown (port : Nat) (s : State) : Host.Outcome State Fault Refusal := evStep s (portSilent s port)

def execLossOfSignal (port : Nat) (s : State) : Host.Outcome State Fault Refusal :=
  evStep s (match assocGet s.hub.ports port with
    | some r => if r.training then none else some (modPort s port fun r => { r with training := true })
    | none => none)

def execPortRetrainingComplete (port : Nat) (s : State) : Host.Outcome State Fault Refusal :=
  evStep s (match assocGet s.hub.ports port with
    | some r => if r.training then some (modPort s port fun r =>
        -- a port that stayed up has accepted no flit meanwhile
        { r with training := false, up := true, idleRx := if r.up then r.idleRx else 0 }) else none
    | none => none)

/-! Accesses of the host and of peers (07 R189; 12 R302). -/

/-- Bytes of package HBM. -/
def hbmRange (s : State) (pa n : Nat) : Bool :=
  decide (0 < n) && decide (pa + n ≤ 18 * 2 ^ 36) && (List.range 18).all fun d =>
    dieOnline s.hub d || decide ((d + 1) * 2 ^ 36 ≤ pa) || decide (pa + n ≤ d * 2 ^ 36)

def answer (s : State) (bs : List Byte) : State := modHub s fun h => { h with answers := bs :: h.answers }

def execHostInboundWrite (pa : Nat) (data : List Byte) (s : State) : Host.Outcome State Fault Refusal :=
  evStep s (if s.hub.endpointUp && hbmRange s pa data.length then some (physPut s pa data) else none)

/-- MBSTAT of a function: its pending commands, and MBOVF (12 R293). -/
def mbstat (h : Hub) (fn : Nat) : Nat := ((assocGet h.cmds fn).getD []).length + if h.mbovf.contains fn then 256 else 0

/-- Bytes that the host reads at an offset of a function's BAR: MBSTAT at 8. No other register is read; what such a read gives is
not stated, and free. -/
def barRead (s : State) (fn off n : Nat) : List Byte :=
  (List.range n).map fun i =>
    if 8 ≤ off + i ∧ off + i < 16 then BitVec.ofNat 8 (mbstat s.hub fn / 2 ^ (8 * (off + i - 8)))
    else (Config.freeWord s.free (180000 + off + i)).extractLsb' 0 8

/-- A read by the host, of HBM or, from 2^52 on, of the BARs of the functions, 64 KiB each (assumption 47). -/
def hostRead (s : State) (pa n : Nat) : Option State :=
  if !s.hub.endpointUp then none
  else if hbmRange s pa n then some (answer s (physGet s pa n))
  else if 2 ^ 52 ≤ pa ∧ pa < 2 ^ 52 + 17 * 2 ^ 16 ∧ 0 < n ∧ pa % 2 ^ 16 + n ≤ 2 ^ 16 then
    some (answer s (barRead s ((pa - 2 ^ 52) / 2 ^ 16) (pa % 2 ^ 16) n))
  else none

def execHostInboundRead (pa n : Nat) (s : State) : Host.Outcome State Fault Refusal := evStep s (hostRead s pa n)

/-- An inbound request of a peer: performed and answered, a write with its acknowledgement (07 R191), or not performed, logged and
answered with a NACK. -/
def peerRequest (s : State) (peer pa : Nat) (write : Bool) (n : Nat) (data : List Byte) : State :=
  let m := if write then data.length else n
  match inboundBad s peer pa m with
  | some c => nackInbound s peer pa c
  | none => sendMsg (if write then physPut s pa data else answer s (physGet s pa n)) peer pa 6 m

def execPeerInboundRequest (peer pa : Nat) (write : Bool) (n : Nat) (data : List Byte) (s : State) :
    Host.Outcome State Fault Refusal :=
  evStep s (some (peerRequest s peer pa write n data))

/-! Compression and migration (06 R167, R168). -/

def execPageCompression (ctx : Nat) (va : VA) (s : State) : Host.Outcome State Fault Refusal :=
  evStep s (compressPage s ctx va.toNat)

/-- One page of a buffer, its entry valid again, moves to a new frame, where there is one; all that names the old frame
follows. -/
def movePage (s : State) (x va : Nat) : State :=
  match assocGet s.ctxs x with
  | none => s
  | some c0 =>
    let s0 := setValid s c0 va true
    match assocGet s0.ctxs x with
    | none => s
    | some c =>
      match placedPage s0 c va with
      | none => s0
      | some (p, pa) =>
        match frameOn s0.hub (freeOrder s0.hub) p.size, entryAt s0.mem c.ptb (p.one va).va p.psz 4 with
        | some f, some at_ =>
          let s1 := frameTake s0 f p.size
          let s2 := setMem s1 ((rangeBytes s0.mem pa p.size).foldl (fun m b => memWrite m (f + b.1) b.2) s1.mem)
          let s3 := follow s2 pa p.size f
          -- the entry keeps A and D
          frameFree (entryPut s3 at_ (f + leafBits p + bitsOf (memNat s0.mem at_ 8) 7 6 * 64)) pa
        | _, _ => s0

/-- The pages of a buffer that migrate: address, record and frame of each. -/
def bufPages (s : State) (x : Nat) (c : Context) (b : Buffer) : List (Nat × Pages × Nat) :=
  let vas := (List.range (b.len / 2 ^ 16)).map fun i => b.va + i * 2 ^ 16
  vas.filterMap fun a =>
    if (pageAt c a).any fun p => (p.one a).va == a then
      let t := setValid s c a true
      ((assocGet t.ctxs x).bind fun c1 => placedPage t c1 a).map fun p => (a, p)
    else none

/-- The busy count of a buffer whose migration holds new transfers since cycle `h`. -/
def busyCount (s : State) (x : Nat) (c : Context) (b : Buffer) (h : Nat) : Nat :=
  ((ctxWaves s x).flatMap fun w => w.2.entries.filter fun e => decide (e.issued ≤ h) &&
    match engineLane e with | some (_, args) => b.named s c e.instr args | none => false).length

/-- MIGRATION of the registered buffer at `va` goes one step on (06 R168): new transfers held; then, with none left that
names it, its entries marked; then, once no access made with the old translation is left (06 R143), its pages moved, their
entries rebound and the transfers released. -/
def migrate (s : State) (x va : Nat) : Option State :=
  match assocGet s.ctxs x with
  | none => none
  | some c =>
    match c.bufs.find? (·.covers va) with
    | none => none
    | some b =>
      let put (s : State) (f : Buffer → Buffer) : State :=
        modCtx s x fun c => { c with bufs := c.bufs.map fun d => if d.va = b.va then f d else d }
      let pages := bufPages s x c b
      match b.hold with
      | none => some (put s fun d => { d with hold := some s.cycle })
      | some h =>
        if !b.moving then
          if busyCount s x c b h = 0 then
            some (put (pages.foldl (fun t a => setValid t c a.1 false) s) fun d => { d with moving := true })
          else none
        else if pages.all fun a => rangeIdle s a.2.2 a.2.1.size then
          some (put (pages.foldl (fun t a => movePage t x a.1) s) fun d => { d with hold := none, moving := false })
        else none

def execMigration (ctx : Nat) (va : VA) (s : State) : Host.Outcome State Fault Refusal := evStep s (migrate s ctx va.toNat)

/-! Power and bring-up (12 R309, R312). -/

/-- Host and peer memory, which the package's own power does not touch. -/
def outerMem (m : List Host.Cell) : List Host.Cell := m.filter fun c => decide (paRegion c.1 ≠ 0)

/-- The package without its state: no die, no port, no endpoint link. -/
def downState (s : State) (boot : Option Nat) : State :=
  { State.reset with
    mem := outerMem s.mem, undefMem := s.undefMem.filter fun r => decide (paRegion r.1 ≠ 0), free := s.free, agenda := s.agenda,
    hub := { Hub.reset with online := 0, revs := [], endpointUp := false, bootCmd := boot,
                            ports := Hub.reset.ports.map fun p => (p.1, { p.2 with up := false }) } }

def execPowerRemoved (s : State) : Host.Outcome State Fault Refusal := evStep s (some (downState s none))

/-- The highest revision, of 8 bits, that two ranges (lowest, highest) share; with none the bridge is down (12 R307). -/
def commonRev (a b : Nat × Nat) : Option Nat :=
  let lo := max (a.1 % 256) (b.1 % 256)
  let hi := min (a.2 % 256) (b.2 % 256)
  if lo ≤ hi then some hi else none

/-- The die at place `i` of the ring (01 R13). -/
def ringDie (i : Nat) : Nat := if i % 18 = 0 then 16 else if i % 18 < 9 then i % 18 - 1 else if i % 18 = 9 then 17 else i % 18 - 2

/-- POWER_ON: the bring-up ends with the dies `dies` that passed their self-test, with HBM and bridges trained, and the ports
that trained. `revs` are the revisions that each die supports, the hub's last: every bridge takes the highest that its two dies
share, and one without is down; a die without its hub bridge is offline (12 R307 to R309). -/
def bringUp (s : State) (dies ports : BitVec 18) (revs : List (Nat × Nat)) : Option State :=
  if s.hub.endpointUp then none
  else
    let range (d : Nat) : Nat × Nat := revs.getD d (0, 0)
    let rev (d : Nat) : Option Nat := if dies.getLsbD d then commonRev (range d) (range 18) else none
    let up := (List.range 18).filter fun d => (rev d).isSome
    let s1 := modHub s fun h => { h with
      online := (1 : BitVec 1) ++ (up.foldl (fun m d => m ||| (1 : BitVec 18) <<< d) 0 : BitVec 18), endpointUp := true, bootCmd := none,
      revs := (List.range 19).map fun d => if d = 18 then (up.filterMap rev).foldl min 255 else (rev d).getD 0,
      bridgesDown := (List.range 18).filter fun i =>
        !(dies.getLsbD (ringDie i) && dies.getLsbD (ringDie (i + 1)) && (commonRev (range (ringDie i)) (range (ringDie (i + 1)))).isSome),
      ports := h.ports.map fun p => (p.1, { p.2 with up := ports.getLsbD p.1 }) }
    match s.hub.bootCmd with
    | some pa => some (blockDone s1 16 pa 0 0 [])
    | none => some s1

def execPowerOn (dies ports : BitVec 18) (revs : List (Nat × Nat)) (s : State) : Host.Outcome State Fault Refusal :=
  evStep s (bringUp s dies ports revs)

/-- CONFIGURATION_REQUEST: answered with retry status until the endpoint's link is up. -/
def execConfigurationRequest (s : State) : Host.Outcome State Fault Refusal :=
  evStep s (some (modHub s fun h =>
    if h.endpointUp then { h with configs := h.configs + 1 } else { h with crs := h.crs + 1 }))

/-! Host registers (12 R293, R295). -/

/-- CMDDB: queued, or dropped with MBOVF at sixteen pending commands. -/
def postCommand (h : Hub) (fn : Nat) (addr : Dword) : Hub :=
  let l := (assocGet h.cmds fn).getD []
  if l.length < 16 then { h with cmds := assocSet h.cmds fn (l ++ [addr]) }
  else if h.mbovf.contains fn then h else { h with mbovf := fn :: h.mbovf }

def execCmddb (fn : Nat) (addr : Dword) (s : State) : Host.Outcome State Fault Refusal :=
  evStep s (if s.hub.endpointUp && decide (fn ≤ 16) then some (modHub s fun h => postCommand h fn addr) else none)

/-- A write to MBSTAT. -/
def execMbovfClear (fn : Nat) (w : Dword) (s : State) : Host.Outcome State Fault Refusal :=
  evStep s (if w.getLsbD 8 then some (modHub s fun h => { h with mbovf := h.mbovf.filter (· != fn) }) else none)

/-- A doorbell of a queue that stands. -/
def ringDoorbell (s : State) (x q : Nat) (widx : Word) : Option State :=
  match (assocGet s.ctxs x).bind fun c => assocGet c.queues q with
  | some _ => some (modQueue s x q fun k => { k with widx := widx })
  | none => none

def execQueueDoorbell (ctx q : Nat) (widx : Word) (s : State) : Host.Outcome State Fault Refusal :=
  evStep s (ringDoorbell s ctx q widx)

/-- A write by the host to offset `off` of a function's BAR. -/
def writeRegister (s : State) (fn off : Nat) (w : Dword) : Option State :=
  if !s.hub.endpointUp || decide (fn > 16) then none
  else if off = 0 then some (modHub s fun h => postCommand h fn w)
  else if off = 8 then
    if w.getLsbD 8 then some (modHub s fun h => { h with mbovf := h.mbovf.filter (· != fn) }) else none
  else if fn < 16 ∧ 0x1000 ≤ off ∧ off < 0x1040 ∧ off % 8 = 0 then ringDoorbell s fn ((off - 0x1000) / 8) (w.extractLsb' 0 32)
  else none

def execRegisterWrite (fn off : Nat) (w : Dword) (s : State) : Host.Outcome State Fault Refusal :=
  evStep s (writeRegister s fn off w)

end Sys2Proof.Machine
end

