-- ==== Sys2Proof/Machine/Rom.lean ====
section
/-!
DEFINITION. The ROM commands of hub firmware (10 R249, R254, R258, R260; 11 R264, R278, R283, R289; 12 R295 to R298,
R300, R301, R309, R310).
-/

namespace Sys2Proof.Machine

/-! Reading a command. -/

/-- What firmware comes to with the oldest command: it ends with a status, an offset and results, or it waits. -/
inductive CmdOut where
  | ends (st off : Nat) (res : List (Nat × List Byte)) (s : State)
  | waits (s : Option State)
deriving Repr

/-- Opcodes (12 R297). -/
def romCodes : List Nat :=
  [0x01, 0x02, 0x10, 0x11, 0x12, 0x13, 0x14, 0x18, 0x19, 0x1A, 0x20, 0x21, 0x22, 0x23, 0x25, 0x28, 0x30, 0x31, 0x32, 0x33,
   0x34, 0x38, 0x40, 0x41, 0x48, 0x7F]
/-- Those only the PF issues, and those a halted package executes. -/
def pfCodes : List Nat := [0x10, 0x11, 0x25, 0x28, 0x34, 0x40, 0x41, 0x48, 0x7F]
def haltCodes : List Nat := [0x01, 0x02, 0x48, 0x7F]
/-- Those that name a context in byte 8. -/
def ctxCodes : List Nat := [0x11, 0x12, 0x13, 0x14, 0x18, 0x19, 0x1A, 0x20, 0x21, 0x22, 0x23, 0x30, 0x31, 0x32, 0x33, 0x38]

/-- The bytes that a command's rows name: first and last. -/
def romNamed (op : Nat) (b : List Byte) : List (Nat × Nat) :=
  match op with
  | 0x01 => [(8, 23)]
  | 0x02 => [(8, 83)]
  | 0x10 => [(8, 135)]
  | 0x11 => [(8, 8)]
  | 0x12 => [(8, 9)]
  | 0x13 => [(8, 8)]
  | 0x14 => [(8, 8)]
  | 0x18 => [(8, 9), (16, 29)]
  | 0x19 => [(8, 9), (12, 19)]
  | 0x1A => [(8, 9)]
  | 0x20 => [(8, 10), (12, 41)]
  | 0x21 => [(8, 8), (10, 10), (12, 29)]
  | 0x22 => [(8, 10), (12, 29)]
  | 0x23 => [(8, 9), (12, 29)]
  | 0x25 => [(8, 15)]
  | 0x28 => [(8, 11)]
  | 0x30 => [(8, 13), (16, 41), (48, 71), (128, 191)]
  | 0x31 => [(8, 13), (16, 51), (56, 79), (128, 191)]
  | 0x32 => [(8, 10)]
  | 0x33 => [(8, 10)]
  | 0x34 => [(8, 24)]
  | 0x38 => [(8, 12), (16, 19)]
  | 0x40 => [(8, 13), (16, 15 + 16 * min 8 (fieldAt b 13 1))]
  | 0x41 => [(8, 9)]
  | 0x48 => [(8, 27)]
  | _ => []

/-- Unnamed bytes of ARGS that are not zero, as fields at fault. -/
def romSpare (op : Nat) (b : List Byte) : List (Nat × Bool) :=
  ((List.range 248).map (· + 8)).filterMap fun i =>
    if (romNamed op b).any fun r => decide (r.1 ≤ i) && decide (i ≤ r.2) then none else some (i, fieldAt b i 1 != 0)

/-- The first field at fault: the lowest offset. -/
def firstBad (l : List (Nat × Bool)) : Option Nat :=
  l.foldl (fun m x => if x.2 then (match m with | none => some x.1 | some y => some (min x.1 y)) else m) none

/-- The context a command names. -/
def romCtx (b : List Byte) : Nat := fieldAt b 8 1

/-- A halted package does not execute the command. CTX_RESTORE of a context that has halted ends with the status that 11 R283 gives
it, not the one of 12 R297 (assumption 54). -/
def haltRefused (s : State) (op : Nat) (b : List Byte) : Bool :=
  s.hub.halted && !haltCodes.contains op && !(op == 0x13 && (assocGet s.ctxs (romCtx b)).any (·.cstate == 4))

/-- The oldest command of `fn` executed, where its opcode is `op`: checks of opcode, permission and fields, then `body`.
`fields` are the command's fields with whether each is at fault. -/
def romRun (op fn : Nat) (s : State) (fields : List Byte → State → List (Nat × Bool)) (body : List Byte → State → CmdOut) :
    Host.Outcome State Fault Refusal :=
  evStep s <| match cmdHead s fn with
    | none => none
    | some (_, b) =>
      let code := fieldAt b 0 2
      if !s.hub.endpointUp then none
      else if !romCodes.contains code then some (cmdDone s fn 1 0 [])
      else if code ≠ op then none
      else if haltRefused s op b || (decide (fn < 16) && (pfCodes.contains op ||
          (ctxCodes.contains op && romCtx b != fn))) then some (cmdDone s fn 2 0 [])
      else
        let noCtx := ctxCodes.contains op && (assocGet s.ctxs (romCtx b)).isNone
        match firstBad ((8, noCtx) :: fields b s ++ romSpare op b) with
        | some off => some (cmdDone s fn 3 off [])
        | none =>
          match body b s with
          | .ends st off res t => some (cmdDone t fn st off res)
          | .waits t => t

/-- The named context changed. -/
def withCtx (b : List Byte) (s : State) (f : Nat → Context → CmdOut) : CmdOut :=
  match assocGet s.ctxs (romCtx b) with
  | some c => f (romCtx b) c
  | none => .ends 3 8 [] s

def hostBad (v : Nat) : Bool := decide (2 ^ 50 ≤ v)

/-! IDENTIFY, ATTEST, ERRLOG. -/

/-- A result buffer written, or refused where it is too short. -/
def bufferOut (s t : State) (b : List Byte) (lenOff : Nat) (res : List (Nat × List Byte)) (bs : List Byte) : CmdOut :=
  if fieldAt b lenOff 4 < bs.length then .ends 3 lenOff res s
  else .ends 0 0 res (physPut t (hostPa (fieldAt b (lenOff - 8) 8)) bs)

def portMask (h : Hub) : Nat := h.ports.foldl (fun n p => if p.2.up && !p.2.training then n + 2 ^ p.1 else n) 0
def onlineDies (h : Hub) : List Nat := (List.range 19).filter (dieOnline h)
/-- The lowest negotiated bridge revision. -/
def lowRev (h : Hub) : Nat := ((List.range 18).filter (dieOnline h)).foldl (fun m d => min m (h.revs.getD d 0)) 255

/-- "PX9-1152". -/
def partNumber : List Byte := [0x50, 0x58, 0x39, 0x2D, 0x31, 0x31, 0x35, 0x32]

def identity (h : Hub) : List Byte :=
  partNumber ++ natLe 4 h.online.toNat ++ natLe 4 (portMask h) ++
    (List.range 19).flatMap (fun d => natLe 1 (if d = 18 then lowRev h else h.revs.getD d 0)) ++ List.replicate 29 0 ++
    (List.range 19).flatMap (fun d => natLe 64 (Config.romDigest d).toNat) ++
    natLe 4 Config.certificate.length ++ Config.certificate

def execIdentify (fn : Nat) (s : State) : Host.Outcome State Fault Refusal :=
  romRun 0x01 fn s (fun b _ => [(8, hostBad (fieldAt b 8 8) || fieldAt b 8 8 % 64 != 0)]) fun b s =>
    let bs := identity s.hub
    bufferOut s s b 16 [(20, natLe 4 bs.length)] bs

/-- The attestation report (12 R310). -/
def report (s : State) (fn : Nat) (nonce : List Byte) : List Byte :=
  nonce ++ sha3Bytes ((List.range 19).flatMap fun d => natLe 64 (Config.romDigest d).toNat) ++
    natLe 4 s.hub.online.toNat ++ natLe 4 (lowRev s.hub) ++
    (match (if fn < 16 then assocGet s.ctxs fn else none) with
     | some c => sha3Bytes c.desc
     | none => List.replicate 64 0) ++ List.replicate 56 0

def execAttest (fn : Nat) (s : State) : Host.Outcome State Fault Refusal :=
  romRun 0x02 fn s (fun b _ => [(72, hostBad (fieldAt b 72 8))]) fun b s =>
    let r := report s fn (sliceBytes b 8 64)
    bufferOut s s b 80 [] (r ++ natLe 4627 (Config.sign (sha3 r)).toNat)

/-- Fault records and port blocks (12 R298). -/
def errorLog (h : Hub) : List Byte :=
  h.faults.flatMap (fun f => natLe 1 f.1 ++ natLe 1 f.2.1 ++ List.replicate 6 0 ++ natLe 8 f.2.2 ++ List.replicate 16 0) ++
    (List.range 18).flatMap fun p =>
      let r := (assocGet h.ports p).getD Port.reset
      natLe 8 r.crcFails ++ natLe 8 r.resent ++ natLe 8 r.mismatches ++ natLe 8 r.timeouts

def clearLog (h : Hub) : Hub :=
  { h with faults := [], ports := h.ports.map fun p =>
      (p.1, { p.2 with crcFails := 0, resent := 0, mismatches := 0, timeouts := 0 }) }

def execErrlog (fn : Nat) (s : State) : Host.Outcome State Fault Refusal :=
  romRun 0x48 fn s (fun b _ => [(8, hostBad (fieldAt b 8 8))]) fun b s =>
    let bs := errorLog s.hub
    let fits := decide (bs.length ≤ fieldAt b 16 4)
    bufferOut s (modHub s clearLog) b 16
      [(20, natLe 4 bs.length), (24, natLe 4 (if fits then s.hub.faults.length else 0))] bs

/-! Contexts. -/

def spareAt (d : List Byte) (lo hi : Nat) : List (Nat × Bool) :=
  ((List.range (hi + 1 - lo)).map (· + lo)).map fun i => (8 + i, fieldAt d i 1 != 0)

/-- The limits of a descriptor (11 R264, 03 R77). -/
def descFields (b : List Byte) (s : State) : List (Nat × Bool) :=
  let d := sliceBytes b 8 128
  let f := fieldAt d
  let rsv := f 12 4
  [(8, f 0 8 % 2 ^ 15 != 0 || decide (2 ^ 52 ≤ f 0 8)), (16, decide (1 < f 8 1)),
   (17, decide (15 < f 9 1) || (assocGet s.ctxs (f 9 1)).isSome),
   (18, f 10 1 != 0 && (decide (f 10 1 < 8) || decide (20 < f 10 1))),
   (20, bitsOf rsv 31 20 != 0 || bitsOf rsv 15 4 != 0 || decide (4 < bitsOf rsv 19 16) || decide (8 < rsv % 16)),
   (24, f 16 10 % 2 ^ 16 != 0), (40, f 32 10 % 2 ^ 16 != 0), (50, decide (f 42 2 = 0) || decide (64 < f 42 2)),
   (56, f 48 10 % 2 ^ 16 != 0), (88, decide (2 ^ 8 ≤ f 80 4)), (92, decide (2 ^ 24 ≤ f 84 4)),
   (96, decide (2 ^ 24 ≤ f 88 4)), (100, decide (2 ^ 16 ≤ f 92 4)), (104, decide (1 < f 96 1)),
   (112, f 104 10 % 2 != 0)] ++
  spareAt d 11 11 ++ spareAt d 26 31 ++ spareAt d 44 47 ++ spareAt d 58 63 ++ spareAt d 74 79 ++ spareAt d 97 103 ++
  spareAt d 114 127

/-- The context that a descriptor makes. -/
def newContext (d : List Byte) (tables : List Nat) : Context :=
  let f := fieldAt d
  { ptb := f 0 8, sup := f 8 1 == 1, ocap := f 10 1, gplu := bitsOf (f 12 4) 19 16, spl := f 12 4 % 16,
    orb := vaAt d 16, spa := vaAt d 32, spf := f 42 2, save := vaAt d 48, csb := vaAt d 64, desc := d,
    share := BitVec.ofNat 8 (f 80 4), pdl := BitVec.ofNat 24 (f 84 4), wdlim := BitVec.ofNat 24 (f 88 4),
    bintmr := BitVec.ofNat 16 (f 92 4), detmode := f 96 1 == 1, trapbase := vaAt d 104,
    preq := false, forced := false, reqAge := 0, csrPend := [], cstate := 0, cerr := 0, nerr := 0, cause := 0, where_ := 0,
    resident := true, saving := false, restoring := none, queues := [], pages := [], tables := tables, bufs := [] }

/-- The level-4 table's frame is kept from the allocator where it is free HBM. -/
def tableFrame (h : Hub) (ptb : Nat) : List Nat :=
  let f := ptb / 2 ^ 16 * 2 ^ 16
  if ptb < 18 * 2 ^ 36 && h.frames.all fun r => decide (r.1 + r.2 ≤ f) || decide (f + 2 ^ 16 ≤ r.1) then [f] else []

def execCtxCreate (fn : Nat) (s : State) : Host.Outcome State Fault Refusal :=
  romRun 0x10 fn s descFields fun b s =>
    let d := sliceBytes b 8 128
    let t := tableFrame s.hub (fieldAt d 0 8)
    .ends 0 0 [] (setCtx (modHub s fun h =>
      { h with frames := t.foldl (fun l f => assocSet l f (2 ^ 16)) h.frames }) (fieldAt d 9 1) (newContext d t))

/-- CTX_DESTROY: a kill, and once its waves have retired every resource is freed. -/
def execCtxDestroy (fn : Nat) (s : State) : Host.Outcome State Fault Refusal :=
  romRun 0x11 fn s (fun _ _ => []) fun b s => withCtx b s fun x _ =>
    let ws := ctxWaves s x
    if ws.any fun w => !w.2.killed && w.2.live != 0 then .waits (some (killContext s x))
    else if ws.isEmpty then .ends 0 0 [] (freeContext (killContext s x) x)
    else .waits none

def execCtxPreempt (fn : Nat) (s : State) : Host.Outcome State Fault Refusal :=
  romRun 0x12 fn s (fun b _ => [(9, decide (1 < fieldAt b 9 1))]) fun b s =>
    .ends 0 0 [] (setReq s (romCtx b) (fieldAt b 9 1 == 1))

def execCtxRestore (fn : Nat) (s : State) : Host.Outcome State Fault Refusal :=
  romRun 0x13 fn s (fun _ _ => []) fun b s => withCtx b s fun x c =>
    if c.cstate = 1 ∨ c.cstate = 2 then
      .waits (if c.restoring.isSome then none else some (modCtx s x fun c => { c with restoring := some fn }))
    else .ends 3 8 [] (if c.restoring = some fn then modCtx s x fun c => { c with restoring := none } else s)

def execCtxKill (fn : Nat) (s : State) : Host.Outcome State Fault Refusal :=
  romRun 0x14 fn s (fun _ _ => []) fun b s => .ends 0 0 [] (killContext s (romCtx b))

/-! Queues (11 R266, R267). -/

def ctxQueue (b : List Byte) (s : State) : Option Queue :=
  (assocGet s.ctxs (romCtx b)).bind fun c => assocGet c.queues (fieldAt b 9 1)

def execQueueCreate (fn : Nat) (s : State) : Host.Outcome State Fault Refusal :=
  romRun 0x18 fn s (fun b s =>
      [(9, decide (7 < fieldAt b 9 1) || (ctxQueue b s).isSome), (16, fieldAt b 16 10 % 64 != 0)]) fun b s =>
    let x := romCtx b
    let qcb := vaAt b 16
    let seq := BitVec.ofNat 32 (fieldAt b 26 4)
    match devRead s x qcb.toNat 28 none with
    | .error _ => .ends 3 16 [] s
    | .ok (s1, h) =>
      if fieldAt h 0 10 % 128 ≠ 0 ∨ fieldAt h 10 1 < 4 ∨ fieldAt h 10 1 > 16 ∨ fieldAt h 24 4 ≠ 0 then .ends 3 16 [] s
      else
        let made (s : State) : State :=
          modCtx s x fun c => { c with queues := assocSet c.queues (fieldAt b 9 1) ⟨qcb, 0, 0, 0, seq, seq - 1, none⟩ }
        .ends 0 0 [] (qcbThen s1 x qcb
          [(28, 4, 0), (16, 4, seq.toNat), (20, 4, (seq - 1).toNat), (12, 4, 0), (32, 4, 0), (11, 1, 0)] made made)

/-- The queue stands and is idle, stopped or overrun. -/
def queueField (b : List Byte) (s : State) : List (Nat × Bool) :=
  [(9, match ctxQueue b s with | some k => k.state == 1 || k.state == 2 | none => true)]

def execQueueReset (fn : Nat) (s : State) : Host.Outcome State Fault Refusal :=
  romRun 0x19 fn s queueField fun b s =>
    match ctxQueue b s with
    | none => .ends 3 9 [] s
    | some k =>
      let r := BitVec.ofNat 32 (fieldAt b 12 4)
      let q := BitVec.ofNat 32 (fieldAt b 16 4)
      let set (s : State) : State := modQueue s (romCtx b) (fieldAt b 9 1) fun k => { k with ridx := r, rseq := q, state := 0 }
      .ends 0 0 [] (qcbThen s (romCtx b) k.qcb [(28, 4, r.toNat), (16, 4, q.toNat), (12, 4, 0), (32, 4, 0), (11, 1, 0)] set set)

def execQueueDestroy (fn : Nat) (s : State) : Host.Outcome State Fault Refusal :=
  romRun 0x1A fn s queueField fun b s =>
    let x := romCtx b
    let q := fieldAt b 9 1
    .ends 0 0 [] (stopWaiters (modCtx s x fun c => { c with queues := assocDel c.queues q }) x q 8)

/-! Pages (06 R140, R143; 12 R298). -/

def pszOf (b : List Byte) : Nat := fieldAt b 10 1
/-- Fields PSZ, VA and NPAGES. -/
def spanFields (b : List Byte) : List (Nat × Bool) :=
  let n := pageBytes (pszOf b)
  [(10, decide (2 < pszOf b)), (12, decide (pszOf b ≤ 2) && fieldAt b 12 10 % n != 0),
   (22, fieldAt b 22 8 == 0 || decide (2 ^ 80 < fieldAt b 12 10 + fieldAt b 22 8 * n))]

/-- Addresses of the pages that a command names. -/
def spanPages (b : List Byte) : List Nat :=
  (List.range (fieldAt b 22 8)).map fun i => fieldAt b 12 10 + i * pageBytes (pszOf b)

def mapFields (b : List Byte) (_ : State) : List (Nat × Bool) :=
  let pa := fieldAt b 30 8
  spanFields b ++
  [(9, decide (32 ≤ fieldAt b 9 1)),
   (30, if bitOf (fieldAt b 9 1) 4 then
      !(paRegion pa == 1 || paRegion pa == 2) || pa % pageBytes (pszOf b) != 0 ||
        paRegion (pa + fieldAt b 22 8 * pageBytes (pszOf b) - 1) != paRegion pa
    else pa != 0),
   (38, !bitOf (fieldAt b 9 1) 4 && decide (2 ^ 18 ≤ fieldAt b 38 4))]

/-- The pages that MAP adds to firmware's record. -/
def mapRecord (b : List Byte) : Pages :=
  let fl := fieldAt b 9 1
  { va := fieldAt b 12 10, n := fieldAt b 22 8, psz := pszOf b, w := bitOf fl 0, x := bitOf fl 1, u := bitOf fl 2,
    pin := bitOf fl 3, placed := bitOf fl 4, pref := if bitOf fl 4 then 0 else fieldAt b 38 4, stored := none }

def Pages.meets (p q : Pages) : Bool := decide (p.va < q.va + q.n * q.size) && decide (q.va < p.va + p.n * p.size)

/-- The entry of page `i` of a mapping: a leaf, or one with V = 0 and firmware's own encoding. -/
def mapEntry (s : State) (p : Pages) (pa i : Nat) : Nat :=
  if p.placed then pa + i * p.size + leafBits p else 2 * (Config.freeWord s.free (170000 + i)).toNat

def mapAll (s : State) (x : Nat) (c : Context) (p : Pages) (pa : Nat) : Option State :=
  (List.range p.n).foldl (fun (r : Option State) i =>
    r.bind fun t => putEntry t x c.ptb (p.va + i * p.size) p.psz (mapEntry s p pa i) 4) (some s)

def execMap (fn : Nat) (s : State) : Host.Outcome State Fault Refusal :=
  romRun 0x20 fn s mapFields fun b s => withCtx b s fun x c =>
    let p := mapRecord b
    if c.pages.any p.meets then .ends 3 12 [] s
    else match mapAll s x c p (fieldAt b 30 8) with
      | none => .ends 4 0 [] s
      | some t => .ends 0 0 [] (modCtx t x fun c => { c with pages := p :: c.pages })

/-- Every named page is a mapped page of the named size. -/
def spanMapped (b : List Byte) (c : Context) : Bool :=
  (spanPages b).all fun a => match pageAt c a with
    | some p => p.psz == pszOf b && (p.one a).va == a
    | none => false

/-- One page unmapped: its frame in HBM is freed and its entry removed. -/
def unmapOne (x : Nat) (s : State) (a : Nat) : State :=
  match assocGet s.ctxs x with
  | none => s
  | some c =>
    match pageAt c a with
    | none => s
    | some p =>
      -- a page that was being migrated still has its frame
      let s0 := if migrating c a then setValid s c a true else s
      let s1 := match (if p.placed then walk s0 c a else .absent) with
        | .found pa _ _ => if paRegion pa = 0 then frameFree s pa else s
        | _ => s
      let s2 := if p.stored.isSome then modHub s1 fun h => { h with zonePages := h.zonePages - 1 } else s1
      setCtx ((putEntry s2 x c.ptb a p.psz 0 4).getD s2) x (pageReplace c a [])

def execUnmap (fn : Nat) (s : State) : Host.Outcome State Fault Refusal :=
  romRun 0x21 fn s (fun b _ => spanFields b) fun b s => withCtx b s fun x c =>
    if spanMapped b c then .ends 0 0 [] ((spanPages b).foldl (unmapOne x) s) else .ends 3 12 [] s

/-- W, X, U and PIN of one page changed; A and D stay. -/
def protectOne (x fl : Nat) (s : State) (a : Nat) : State :=
  match assocGet s.ctxs x with
  | none => s
  | some c =>
    match pageAt c a with
    | none => s
    | some p =>
      let q := { p.one a with w := bitOf fl 0, x := bitOf fl 1, u := bitOf fl 2, pin := bitOf fl 3 }
      let s1 := setCtx s x (pageReplace c a [q])
      match (if p.placed then walk (if migrating c a then setValid s c a true else s) c a else .absent) with
      | .found _ leaf e =>
        { s1 with mem := memWrite s1.mem leaf (BitVec.ofNat 8 ((if migrating c a then 2 else 3) + leafBits q - 3 + bitsOf e 7 6 * 64)),
                  undefMem := rangesDrop s1.undefMem leaf 1 }
      | _ => s1

def execProtect (fn : Nat) (s : State) : Host.Outcome State Fault Refusal :=
  romRun 0x22 fn s (fun b _ => (9, decide (16 ≤ fieldAt b 9 1)) :: spanFields b) fun b s => withCtx b s fun x c =>
    if spanMapped b c then .ends 0 0 [] ((spanPages b).foldl (protectOne x (fieldAt b 9 1)) s) else .ends 3 12 [] s

/-! Buffers, the zone, power (06 R167, R168; 01 R26). -/

def execBufRegister (fn : Nat) (s : State) : Host.Outcome State Fault Refusal :=
  romRun 0x23 fn s (fun b s =>
      [(9, decide (1 < fieldAt b 9 1)),
       (12, fieldAt b 12 10 % 2 ^ 16 != 0 || (fieldAt b 9 1 == 1 && !((assocGet s.ctxs (romCtx b)).any fun c =>
          c.bufs.any (·.va == fieldAt b 12 10)))),
       (22, fieldAt b 22 8 % 2 ^ 16 != 0)]) fun b s =>
    let va := fieldAt b 12 10
    -- a buffer being migrated keeps its registration until its pages have moved
    if fieldAt b 9 1 = 1 ∧ ((assocGet s.ctxs (romCtx b)).any fun c => c.bufs.any fun d => d.va == va && d.hold.isSome) = true then .waits none
    else .ends 0 0 [] (modCtx s (romCtx b) fun c =>
      { c with bufs := if fieldAt b 9 1 = 1 then c.bufs.filter (·.va != va) else ⟨va, fieldAt b 22 8, none, false⟩ :: c.bufs })

/-- The hub with a new zone. -/
def zoneHub (h : Hub) (dies : BitVec 18) (n : Nat) : Hub :=
  if n = 0 then { h with zoneDrop := true } else { h with zoneDies := dies, zoneSize := n, zoneDrop := false }

/-- The zone lies on online dies above every frame in use, and has room for the pages it holds. -/
def zoneFits (h : Hub) : Bool :=
  h.zoneDrop || ((List.range 18).all (fun d => !h.zoneDies.getLsbD d || (dieOnline h d && decide (h.zoneSize ≤ 1024))) &&
    h.frames.all (fun f => decide (f.1 + f.2 + zoneBytes h (f.1 / 2 ^ 36) ≤ (f.1 / 2 ^ 36 + 1) * 2 ^ 36)) &&
    decide (h.zonePages * 2 ^ 16 ≤ (List.range 18).foldl (fun n d => n + zoneBytes h d) 0))

def execZoneSet (fn : Nat) (s : State) : Host.Outcome State Fault Refusal :=
  romRun 0x25 fn s (fun b _ => [(8, decide (2 ^ 18 ≤ fieldAt b 8 4))]) fun b s =>
    let h := zoneHub s.hub (BitVec.ofNat 18 (fieldAt b 8 4)) (fieldAt b 12 4)
    if zoneFits h then .ends 0 0 [] { s with hub := h } else .ends 4 0 [] s

def execPowerLimit (fn : Nat) (s : State) : Host.Outcome State Fault Refusal :=
  romRun 0x28 fn s (fun b _ => [(8, decide (fieldAt b 8 4 < 3000) || decide (6200 < fieldAt b 8 4))]) fun b s =>
    .ends 0 0 [] (modHub s fun h => { h with powerLimit := fieldAt b 8 4 })

/-! Streams and governors (10 R249, R254, R258, R260). -/

def streamNo (b : List Byte) : Nat := fieldAt b 9 2

/-- STREAM, PEER, LOGCAP and LOGN of the two bind commands. -/
def bindFields (b : List Byte) (s : State) : List (Nat × Bool) :=
  [(9, decide (4096 ≤ streamNo b) || (getStream s (streamNo b)).isSome), (11, (assocGet s.hub.peers (fieldAt b 11 1)).isNone),
   (12, decide (fieldAt b 12 1 < 8) || decide (20 < fieldAt b 12 1)), (13, fieldAt b 13 1 == 0 || decide (16 < fieldAt b 13 1))]

/-- A bound stream stands: the headers are written in the local area, and on the partner where `both`. -/
def bindStream (s : State) (x q : Nat) (t : Stream) (both : Bool) (areaOff : Nat) : CmdOut :=
  match devWrite s x t.area.toNat (areaHeader t q t.tseq) none with
  | .error _ => .ends 3 areaOff [] s
  | .ok s1 =>
    let s2 := modHub s1 fun h => { h with streams := assocSet h.streams q t }
    .ends 0 0 [] (if both then partnerPut s2 t 0 (areaHeader t q t.tseq) t.tseq.toNat else s2)

def execJstreamBind (fn : Nat) (s : State) : Host.Outcome State Fault Refusal :=
  romRun 0x30 fn s (fun b s => bindFields b s ++
      [(16, fieldAt b 16 10 % 128 != 0), (26, decide (2 ^ 42 ≤ fieldAt b 26 6)),
       (68, match assocGet s.ctxs (romCtx b) with | some c => bitOf (fieldAt b 68 4) 31 != c.detmode | none => false)]) fun b s =>
    let first := BitVec.ofNat 64 (fieldAt b 48 8)
    let t : Stream :=
      { ctx := romCtx b, st := .open_, peer := fieldAt b 11 1, area := vaAt b 16, parea := fieldAt b 26 6,
        cap := 2 ^ fieldAt b 12 1, oq := vaAt b 32, oqN := 2 ^ fieldAt b 13 1, wdig := sliceBytes b 128 64,
        shapeid := BitVec.ofNat 32 (fieldAt b 64 4), mode := BitVec.ofNat 32 (fieldAt b 68 4), first := first, next := first,
        tseq := first - 1, eord := BitVec.ofNat 64 (fieldAt b 56 8), floor := BitVec.ofNat 64 (fieldAt b 56 8),
        acked := first - 1, src := 0, srcHseq := 0, srcCap := 0, peerTseq := first - 1 }
    bindStream s (romCtx b) (streamNo b) t true 16

/-- The checks of a replay bind, in their order (10 R260): the offset of the field reported. -/
def replayBad (h b : List Byte) (c : Context) : Option Nat :=
  let cap := fieldAt h 76 4
  let used := (BitVec.ofNat 64 (fieldAt h 96 8) - BitVec.ofNat 64 (fieldAt h 80 8) : Dword).toNat
  if !allZero (sliceBytes h 104 24) || decide (4096 ≤ fieldAt h 72 4) ||
      !((List.range 13).any fun i => cap == 2 ^ (i + 8)) || decide (cap < used) then some 16
  else if sliceBytes h 0 64 != sliceBytes b 128 64 then some 128
  else if fieldAt h 64 4 ≠ fieldAt b 72 4 then some 72
  else if fieldAt h 68 4 ≠ fieldAt b 76 4 then some 76
  else if !c.detmode then some 76
  else if used > 2 ^ fieldAt b 12 1 then some 12
  else none

def execJstreamReplay (fn : Nat) (s : State) : Host.Outcome State Fault Refusal :=
  romRun 0x31 fn s (fun b s => bindFields b s ++
      [(26, fieldAt b 26 10 % 128 != 0), (36, decide (2 ^ 42 ≤ fieldAt b 36 6))]) fun b s => withCtx b s fun x c =>
    match devRead s x (fieldAt b 16 10) 128 none with
    | .error _ => .ends 3 16 [] s
    | .ok (s1, h) =>
      match replayBad h b c with
      | some off => .ends 3 off [] s
      | none =>
        let tseq := BitVec.ofNat 64 (fieldAt h 80 8)
        let t : Stream :=
          { ctx := x, st := .replaying, peer := fieldAt b 11 1, area := vaAt b 26, parea := fieldAt b 36 6,
            cap := 2 ^ fieldAt b 12 1, oq := vaAt b 42, oqN := 2 ^ fieldAt b 13 1, wdig := sliceBytes b 128 64,
            shapeid := BitVec.ofNat 32 (fieldAt b 72 4), mode := BitVec.ofNat 32 (fieldAt b 76 4),
            first := BitVec.ofNat 64 (fieldAt h 88 8), next := tseq + 1, tseq := tseq,
            eord := BitVec.ofNat 64 (fieldAt b 56 8), floor := BitVec.ofNat 64 (fieldAt b 64 8), acked := tseq,
            src := vaAt b 16, srcHseq := BitVec.ofNat 64 (fieldAt h 96 8), srcCap := fieldAt h 76 4, peerTseq := tseq }
        bindStream s1 x (streamNo b) t false 26

/-- The stream is bound to the named context. -/
def boundField (b : List Byte) (s : State) (p : Stream → Bool) : List (Nat × Bool) :=
  [(9, match getStream s (streamNo b) with | some t => t.ctx != romCtx b || !p t | none => true)]

def execJstreamUnbind (fn : Nat) (s : State) : Host.Outcome State Fault Refusal :=
  romRun 0x32 fn s (fun b s => boundField b s fun _ => true) fun b s => .ends 0 0 [] (unbindStream s (streamNo b))

def execJstreamFail (fn : Nat) (s : State) : Host.Outcome State Fault Refusal :=
  romRun 0x33 fn s (fun b s => boundField b s fun t => t.st == .reassigning) fun b s =>
    .ends 0 0 [] (modStream (journalFail s (streamNo b) false) (streamNo b) fun t => { t with st := .failed })

def execJstandby (fn : Nat) (s : State) : Host.Outcome State Fault Refusal :=
  romRun 0x34 fn s (fun b _ => [(8, decide (16 < fieldAt b 8 1))]) fun b s =>
    .ends 0 0 [] (modHub s fun h => { h with standby := (List.range (fieldAt b 8 1)).map fun i => fieldAt b (9 + i) 1 })

/-- A governor bound or released. -/
def execGovBind (fn : Nat) (s : State) : Host.Outcome State Fault Refusal :=
  romRun 0x38 fn s (fun b s =>
      let g := fieldAt b 9 1
      let own := match assocGet s.hub.govs (g % 16) with | some v => v.ctx == romCtx b | none => decide (g < 128)
      let lo := fieldAt b 10 1
      let hi := fieldAt b 11 1
      if g < 128 then
        [(9, bitsOf g 6 4 != 0 || !own), (10, lo == 0 || decide (hi < lo)),
         (12, decide (fieldAt b 12 1 < lo) || decide (hi < fieldAt b 12 1)), (16, fieldAt b 16 4 == 0)]
      else [(9, bitsOf g 6 4 != 0 || !own)]) fun b s =>
    let g := fieldAt b 9 1 % 16
    if fieldAt b 9 1 < 128 then
      .ends 0 0 [] (setGov s g ⟨romCtx b, fieldAt b 16 4, fieldAt b 10 1, fieldAt b 11 1, fieldAt b 12 1, none⟩)
    else .ends 0 0 [] (modHub s fun h => { h with govs := assocDel h.govs g })

/-! Peers and ports (12 R300, R301, R304). -/

def peerPorts (b : List Byte) : List Nat := (List.range 18).filter (bitOf (fieldAt b 10 3))
def peerWindows (b : List Byte) : List (Nat × Nat) :=
  (List.range (fieldAt b 13 1)).map fun i => (fieldAt b (16 + 16 * i) 8, fieldAt b (24 + 16 * i) 8)

def peerFields (b : List Byte) (_ : State) : List (Nat × Bool) :=
  [(8, fieldAt b 8 1 == 255), (9, decide (1 < fieldAt b 9 1)),
   (10, decide (2 ^ 18 ≤ fieldAt b 10 3) || (fieldAt b 9 1 == 0 && (peerPorts b).isEmpty)), (13, decide (8 < fieldAt b 13 1))] ++
  (List.range (min 8 (fieldAt b 13 1))).flatMap fun i =>
    let base := fieldAt b (16 + 16 * i) 8
    let len := fieldAt b (24 + 16 * i) 8
    [(16 + 16 * i, base % 2 ^ 16 != 0 || decide (2 ^ 50 ≤ base)), (24 + 16 * i, len % 2 ^ 16 != 0 || decide (2 ^ 50 < base + len))]

/-- PEER_MAP: ports that leave the peer's set go down first. -/
def execPeerMap (fn : Nat) (s : State) : Host.Outcome State Fault Refusal :=
  romRun 0x40 fn s peerFields fun b s =>
    let p := fieldAt b 8 1
    let keep := if fieldAt b 9 1 = 1 then [] else peerPorts b
    let gone := match assocGet s.hub.peers p with | some r => r.ports.filter fun n => !keep.contains n | none => []
    let s1 := gone.foldl downPort s
    .ends 0 0 [] (loseUnreachable (modHub s1 fun h =>
      { h with peers := if fieldAt b 9 1 = 1 then assocDel h.peers p else assocSet h.peers p ⟨peerPorts b, peerWindows b⟩ }))

/-- The timer of one port, or of every port. -/
def setTimers (h : Hub) (p t : Nat) : Hub :=
  { h with ports := h.ports.map fun r => if p = 255 ∨ p = r.1 then (r.1, { r.2 with logT := t }) else r }

def execPortTimer (fn : Nat) (s : State) : Host.Outcome State Fault Refusal :=
  romRun 0x41 fn s (fun b _ =>
      [(8, decide (17 < fieldAt b 8 1) && fieldAt b 8 1 != 255), (9, decide (fieldAt b 9 1 < 16) || decide (28 < fieldAt b 9 1))])
    fun b s => .ends 0 0 [] (modHub s fun h => setTimers h (fieldAt b 8 1) (fieldAt b 9 1))

/-- PKG_RESET: everything ends, and the bring-up begins; its end writes the command's STATUS. -/
def execPkgReset (fn : Nat) (s : State) : Host.Outcome State Fault Refusal :=
  romRun 0x7F fn s (fun _ _ => []) fun _ s => .waits ((cmdHead s fn).map fun b => downState s (some b.1))

end Sys2Proof.Machine
end

