-- ==== Sys2Proof/Machine/Trans.lean ====
section
/-!
DEFINITION. Transcendental functions (05 R131 to R134; 15 R372; 16 R394; 17 R401) and the counter-based generator
(05 R135, R136; 17 R402, R403). The six tables are computed by the generation rule of 05 R133: row j of a table is
52 bits, C0 in bits 25:0, C1 in bits 41:26 and C2 in bits 51:42; row 0 is lowest and 32 rows stand in each piece.
-/

namespace Sys2Proof.Machine

/-- The functions of 05 R131. -/
inductive TFn where | exp2 | log2 | rcp | rsq | sin | cos
deriving DecidableEq, Repr

def tableExp20 : Nat := 0x125a3c4bb2bea125a17cb4a16a1219f3cae1ff41219d00a7a77d11d9ac4a137f811d988c9ad15911d965894739411994248e1e9c11991f887d2641158fcc818ee21158da07b54091158b7c7521cc11189586ef821111873868d6fb111851c62be4e10d83045cae0f10d80ec56a63210d7ed850a6ac1097cc84aaf701097ab844c07410578ac3ed9ac10576a438fb0d105749c33248b101729c2d561b1017098278fb31016e9c21d1460fd6ca01c1aca0fd6aa8166c350fd68b410c57a0f966c00b26900f964d0058f6a0f962e4000000
def tableExp21 : Nat := 0x15df331a05575159f07d988e21159edcd90d18d155eb25891fac155e87d81786e151e5d979dbc5151e3397249a3151e09d6ac1f714dde056344b514ddb715bd1ce149d8e1546933149d6514d0ad6145d3c945b6a9145d1413e6c9e141cebd372ca6141cc3d2ff6b5141c9c128cabc13dc74921a8ad13dc4d11a907b139c261138218139bff10c7d76135bd85058288135bb1cfe9141135b8b8f7a993131b658f0cb71131b3f8e9f6cd12db1a0e32b9b12daf48dc69ce12dacf4d5b158129aaa4cf022d129a854c85c3f125a608c1bf83
def tableExp22 : Nat := 0x19e51a2b0daf019e4e6ea79ad519a4b3e9e678519648129540ed19644ea8c26fb19241c683199f1923eaa7a18c618e3b8e71246118e387a683c5c18a35665f60a818a325a5691331862f4e4dcdec1862c4a4516c3182294a3c6ba6182264a33cc8617e23522b395117e205e22b1f617a1d6e1a366717a1a8211c692176179a09626617614b60109d517211d1f8bcce1720ef5f07b4016e0c1de8451d16e0949e01a5416a0679d7fad616a03adcfe69216600e1c7dd7a165fe1dbfdf7e161fb5db7ec8f161f89db0049d15df5e5a8279a
def tableExp23 : Nat := 0x1eec1f7f4f08b1eabe27e9f0601e6ba5bdeff6b1e6b697d41d971e2b2d7c94ace1deaf1bbe86fc1deab63b3d20b1daa7b3a92be91d6a4079e947f1d6a05f940bba1d29cbf8991851d299237f25cd1ce958b74c87d1ca91f76a79811ca8e6b6038c61c68ae35606371c2875f4be1c21c283df41cb531be806737c2d51be7cef2dc8371ba797f23db651b6761319fc4c1b672ab102ad81b26f4b0666f71b26beafcb0971ae6892f307a41ae653ee96c0c1aa61eedfddbd1a65ea2d65ca31a65b5ecce8ae1a2581ac381ca1a254deba27e6
def tableLog20 : Nat := 0x1de52a54064641e2566937124d1ea5a392db1101f25e1524407b1f661fd1ac05b1fe65f511307e20269f50790ae20a6e08fde0b62127224f4205f21a7650ea4f7221e7a8ce06db62267ed8d67af122e8330cc76e82368798c2615f23e8c0cb83a172469094ae00d224e952ca3b55025699d499574f25e9e8c8ee68d266a3588462c426ea83479cbb027aad206f2109282b22064628628ab734598fdc296bc5c4ea8bf29ec19443ace22aac6e4389bf52b2cc442d75a72bed1bc2239a42cad74816e7972d2dcec0b7f282dee2a8000000
def tableLog21 : Nat := 0x14def064f498114df1a247883b151f4423fbc7a155f6ee37e624159f99e30051a15dfc5628193f161ff1220227616601da1820a016a04aa10139e16e078207fb511720a5dffd79a1760d45f7a85717a1035ef6d6717e132de726aa182162dded3fd1861935d6753e18a1c49ce0a4918e1f61c592fb1962285bd0f2f19a25b5b47ebf19e28e9abe1881a22c2da337611a62f759a80241ae32c991bba91b2362988e9c71b63991800a561ba3d05771d2c1c240856e221d1c6440d6518fe1ce47a15c01a41d24b4152dbe01d64eed49a785
def tableLog22 : Nat := 0xf5a7ff341f1a0f5a9e72d7b5a0f9abd326cfee0f9adc7201cc30fdafbf1961c70fdb1b7129ee9101b3b70bd416105b5bb05013b105b7c6fe2644109b9d2f7431f109bbe6f057b810dbdfee963fb111c01ae267d3111c23edb632d115c466d455f4119c692cd4012119c8c2c6217211dcafabef9ff121cd36b7c9a2121cf7ab09045125d1c2a94dd2129d412a2023112dd6669aad4b12dd8be934f09131db1e8be753135dd86847610139dff27cfb27139e26675767f13de4de6de7ff141e75e664f8d145e9e65ead0f149ec72570069
def tableLog23 : Nat := 0xb972cbfa37ca0bd743ff469c20bd75b7ee95de0bd7733e8bc110c178b3e2dc500c17a33dcf68e0c57bbbd70abf0c57d43d118d60c57ecbcb20c80c9805bc522860c981ebbf1e040cd8383b913350cd851bb3020d0cd86b3acea7c0d18853a6cc760d189f7a0a7ee0d58b9b9a7cd40d58d47944b1c0d98ef38e12b60d990a387d3940dd9257818da90dd940f7b40e40dd95cb74ed360e1978b6e92920e1994f6830e70e59b1761c8250e59ce35b583d0e99eb354e11f0e9a0874e62ba0eda25f47dcfe0eda43b414fdb0f1a61b3abb40
def tableRcp0 : Nat := 0x2114bd1385a2a21d50053d91d3225545142da7f23158b148348323d5d294da03524961b5531dec251665958ae0325d6b155e50d82696fe56406c827574d169d03728579d96fad882917ef9759f2329d84317ba5712ad898981c0e02b98ef987f1e02c994898e38e42d99a399496612e9a0059b0ad12f5a5f1a196b2309abfda83a84319b229aef6cb329b879b5cc0f33dbeedbcbadc34dc589c3c3c4361cc45cae759375d329d22635389da39d980f639de16de0f83e3b1e8cde88cb43c9f05df03f043ddf815f80fe03f5fffe000000
def tableRcp1 : Nat := 0x130e5f0ae3da8138e860b1da4613cead4b580ad140ed58b93105144efe4bceb7714cf278c0b02c150f518c47f4f154f7c4c8590b15cfa7ccc3d8d160fd40d02d03169000cd4279a16d02e8d82d8317505ccdc3eed17908c0e05c0c1810bc0e485101890ed0e8ba2f18d11e8ecfb9d1951510f1499019d1848f5a4411a51b8cfa0be81a91ee0fe80c01b122450303031b925b50792ef1c129350c30c31c92cc910dcbe1d1306d1597221d9341d1a60321e537e51f38321ed3bb9241f691f53fa52916201fd439d2e1c9f20947ad333333
def tableRcp2 : Nat := 0xc0a8b04bc44e0c4aa344e6a170c4abc05116020c8ad5053c8250ccaee85680960ccb084593f6a0d0b2245c04b80d4b3cc5ed0980d8b57861a3200d8b72c647c690dcb8e4675c8b0e0baa46a439f0e4bc6c6d31be0e8be387027020e8c00c7323860ecc1e47627620f0c3c47932b50f4c5ac7c45980f8c79c7f60280fcc990828283100cb9085acc5104cd9488df0d108cfa08c197910cd1b88f5c29110d3d492a73c114d5f895fad4118d82499571111cda5c9cbc15120dc9ca02a03124dee4a3a0fd128e134a7212912ce38caaaaab
def tableRcp3 : Nat := 0x8081000202020848204040810084830c061237084841808208208885280a32ff08886380c49ba08c874c0e64c108c886410842108c898012a7e70908a9c14d0210908bc016fcde0948ce8192e2a0948e101b64150988f3c1d9ead098906c1fde0209c91a422222209c92dc246b1d0a0941826b9020a09558290be20a4969c2b63cc0a497e42dc0d10a899343023020a89a84328a700ac9bd834f72c0ac9d343769480b09e9439e0d60b09ff83c5de70b4a1603ee0900b8a2cc4168e20b8a43c43f6f00bca5b4468acf0bca730492492
def tableRsq0 : Nat := 0x2351b19487b412451fa14cf0b7255244951788826529115613362752df95ac14428533055f833b29938356459ab2ad3d8d6945282c143096e464b2d548b1735db72e94e81788c12301547d7dd20b3195aa9833056331610588a7b234967958e38e43616e5993e4b937d755199ac093997c859f8fb43b983f5a590a73d98ba5abafd53f99395b1ee4141d9bc9b84cf8441a445becd13465ad11c56fbc48db629cc36274b9bf95d3219b4e1c959da336f511d379e16d09541ddf9e8cfe5575e8e1f05d915a9f431f817b15e5fffa000000
def tableRsq1 : Nat := 0x114b728d6ec26118b958d9cd2611cbb94dcb6fa124bdd8dfa9cf128c02ce2a5d4130c288e5ab39134c4f4e8ba2f13cc76cebd2e9144c9f0eef59c148cc80f2227d150cf24f559c5158d1d0f89bad160d490fbe86f168d75cff4048170da3d02a377178dd2906123d180e029098cdc188e3390d1399190e65910a6bb19ce99114468c1a4ecd917f3561b0f0351bad691b8f3a51f75141c4f729234aac1ccfac5272e871d8fe792b20fd1e502412f226c1f106253333331fd0a213753b520d0e353b845821912653fc58622916b14417ae
def tableRsq2 : Nat := 0x190c830524f66198cb645576881a4ceac58aaa51b0d20c5bec191bcd5885f3b401c8d91862987b1d4dcc46604301e4e088697ec81f0e46c6d08af200e86870a257210ec88744c37220f0c47806ca230f5207bd290240f9a07fb00f250fe44839fd2265030c87a26c27907f88bb87428d0d108fe28a2a112549421532b917c098757d2d11d609cdfbe2e9232ca160d5301292ca5f98931d2f64aaaaab33935d4af75163553c7cb459b23754364b9596f3954a8cbe754d3b951f8c3ae573dd59b0c905a740161b0ce7c664296a04d413cd
def tableRsq3 : Nat := 0xc081840203050c48310040c290c884a4061b8a0cc863c0831490d087e00a4d870d889900c70660dc8b440e9a090e08d0410ca940e48ecc13022c0e8909c1540f80ec927817871d0f4945c19d4c60f8964c1c2a1c0fc98481e87491049a5020ec7a1089c602359dd1109e8025cfa0114a0ac284df611ca2e02ad50e124a5282d651f128a7782ffe5c130a9d832a0fe138ac48354d3d140aec4380354148b1503ac381150b3f03d8e02158b69c40631a160b95c43430a168bc2c462e1a170bf1049249217cc2044c26bd184c5104f34e9
def tableSin0 : Nat := 0x1deeac4be1d4a1ceee5cb8442a1c2f1dcb263ef1b2f540ac7cd41a6f884a68f12196fbaca09ae5186feb49aa08617b01a094a03116b04708e9a2215b0720888e9314b09b4827dc013f0c287c67e612f0e80764d4011f10b8702e0a10f12d06a0a8110314cc63e2e10f316ac5db7670e3186c5788510d31a0c5155db0c31b8c4b20420b31cf044e7c30a71e343eac9d0971f5c386f0c0872064322f4d077214c2beda0067221425aa4105722c01f656e0472348191f6603b23b812d86502b24040c90ab01b243406487400b2440000000
def tableSin1 : Nat := 0x37a3fa165919236e467d610b753624d415c77bc35a53ed57d69334e5a8153282934260fd4e6cac336676549a44a32a6db544cf3231e73e93fed953127a093affa3306801136058b2fa85fd30ff802ee8bd12bedb22de918d26d0552d2973121a79a2c69cb91c73b42baa2291734d62aea77d11eb3529eacb50c9705292b1d507387a286b6dd01cfc8276bbc8fc5d2726ac098f6e0cb25ec54cf15aea24ec9e4ebcbbb242ce60e63375232d2c4e0924f226d70cdae880216db34d5364120adf44cf7bca1fae334c9b9531eee708c3ef15
def tableSin2 : Nat := 0x48d3ce1d6961748945edd4134d4814eedd17e7747957ddced7af47560c5cc1f0f46d699dc954b24657265c678b345d7b21c38b2f45983cdc08c424518c6dbd7c0b44994f9ba5aa64419d79b72834439a5e9b3e4d4431ae49b090a6429b695ad2bca421bed5a9b663419c701a6309240dcf19a29a7a405d7219ef43f3fddf199b3e043f5e6fd9777ef3e9eed193a2253e1f68d8fbcca3d5fe398bc8073ce05d187c4013c20d5183b0e13ba14c17f8ece3ae1c1d7b5df23a62361771e7639a2a9172d08338e31ad6e744538638b56a09e6
def tableSin3 : Nat := 0x4f009e1fff6214f013bdffd8864f01d9dffa72f4f02779ff621e4ec3151ff09564ec3b2dfe9cdb4ec4501fe1cb04e84ed5fd88da4e858a5fce1604e86275fc26474e46c3dfb57974e47605fa75584e07fc5f97f924e08981f876504dc9339f7599a4d89ce9f6297d4d4a695f4e6044d4b039f38f3b4d0b9d5f2252f4ccc36df0a7f04c8ccfdef178a4c4d681ed740e4c0e001ebbd8d4bce979e9f4154b8f2e5e817bb4b0fc49e6288f4ad05a5e426a54a90ef5e212104a51839dfeae649d2175ddb13b4992aa5db652649533c9d906bd
def tableCos0 : Nat := 0x4952aa5db65264992175ddb13b49d1839dfeae64a50ef5e212104a905a5e426a54acfc49e6288f4b0f2e5e817bb4b8e979e9f4154bce001ebbd8d4c0d681ed740e4c4ccfdef178a4c8c36df0a7f04ccb9d5f2252f4d0b039f38f3b4d4a695f4e6044d49ce9f6297d4d89339f7599a4dc8981f876504e07fc5f97f924e07605fa75584e46c3dfb57974e46275fc26474e858a5fce1604e84ed5fd88da4e84501fe1cb04ec3b2dfe9cdb4ec3151ff09564ec2779ff621e4f01d9dffa72f4f013bdffd8864f009e1fff6214f00002000000
def tableCos1 : Nat := 0x38631ad6e744538e2a9172d08339a2361771e763a61c1d7b5df23ae14c17f8ece3ba0d5183b0e13c205d187c4013cdfe398bc8073d5f68d8fbcca3e1eed193a2253e9e6fd9777ef3f5df199b3e043fdd7219ef43f405cf19a29a7a40dc701a63092419bed5a9b663421b695ad2bca429ae49b090a6431a5e9b3e4d44399d79b7283444194f9ba5aa64498c6dbd7c0b45183cdc08c424597b21c38b2f45d7265c678b3465699dc954b246d60c5cc1f0f47557ddced7af4794eedd17e7748145edd4134d4893ce1d6961748d33c9d906bd
def tableCos2 : Nat := 0x1eee334c9b9531fadf44cf7bca20adb34d53641216d70cdae880226d2c4e0924f232ce60e63375242c9e4ebcbbb24ec54cf15aea25ec098f6e0cb26abbc8fc5d27276b6dd01cfc8286b1d507387a292acb50c970529ea77d11eb352aea2291734d62ba9cb91c73b42c6973121a79a2d2918d26d0552de8bd12bedb22ee85fd30ff802fa801136058b3067a093affa331273e93fed9531e6db544cf3232a676549a44a33660fd4e6cac3425a8153282934e53ed57d69335a4d415c77bc362467d610b7536e3fa165919237a38b56a09e6
def tableCos3 : Nat := 0xb243406487401b24040c90ab02b23b812d86503b2348191f6604722c01f656e057221425aa41067214c2beda00772064322f4d0871f5c386f0c0971e343eac9d0a71cf044e7c30b31b8c4b20420c31a0c5155db0d3186c5788510e316ac5db7670f314cc63e2e110312d06a0a8110f10b8702e0a11f0e80764d4012f0c287c67e613f09b4827dc014b0720888e9315b04708e9a2216b01a094a03117afeb49aa086186fbaca09ae5196f884a68f121a6f540ac7cd41b2f1dcb263ef1c2ee5cb8442a1ceeac4be1d4a1dee708c3ef15

/-- Piece i of a function's table. -/
def tablePiece (fn : TFn) (i : Nat) : Nat :=
  match fn with
  | .exp2 => (match i with | 0 => tableExp20 | 1 => tableExp21 | 2 => tableExp22 | _ => tableExp23)
  | .log2 => (match i with | 0 => tableLog20 | 1 => tableLog21 | 2 => tableLog22 | _ => tableLog23)
  | .rcp => (match i with | 0 => tableRcp0 | 1 => tableRcp1 | 2 => tableRcp2 | _ => tableRcp3)
  | .rsq => (match i with | 0 => tableRsq0 | 1 => tableRsq1 | 2 => tableRsq2 | _ => tableRsq3)
  | .sin => (match i with | 0 => tableSin0 | 1 => tableSin1 | 2 => tableSin2 | _ => tableSin3)
  | .cos => (match i with | 0 => tableCos0 | 1 => tableCos1 | 2 => tableCos2 | _ => tableCos3)

/-- Row j: C0, C1, C2 (05 R132). -/
def tableRow (fn : TFn) (j : Nat) : Nat × Nat × Nat :=
  let r := tablePiece fn (j / 32) / 2 ^ (52 * (j % 32)) % 2 ^ 52
  (r % 2 ^ 26, r / 2 ^ 26 % 2 ^ 16, r / 2 ^ 42)

/-- K × 2^39, W0, sigma1, sigma2 (05 R132). -/
def fnConsts (fn : TFn) : Int × Nat × Int × Int :=
  match fn with
  | .exp2 => (2 ^ 39, 26, 1, 1)
  | .log2 => (0, 26, 1, -1)
  | .rcp => (2 ^ 38, 26, -1, 1)
  | .rsq => (2 ^ 38, 26, -1, 1)
  | .sin => (0, 25, 1, -1)
  | .cos => (0, 25, -1, -1)

/-- y × 2^39 (05 R132). -/
def evalTable (fn : TFn) (j h hw : Nat) : Nat :=
  let (c0, c1, c2) := tableRow fn j
  let (k, w0, s1, s2) := fnConsts fn
  let hs := h * h / 2 ^ (2 * hw - 12)
  (k + (c0 * 2 ^ (39 - w0) : Nat) + s1 * (c1 * h * 2 ^ (17 - hw) : Nat) + s2 * (c2 * hs * 2 ^ 5 : Nat)).toNat

/-- floor(2^320 / 2π), enough for the exact quotient of every FP32 operand. -/
def invTwoPi : Nat := 0x28be60db9391054a7f09d5f47d4d377036d8a5664f10e4107f9458eaf7aef1586dc91b8e909374b8

/-- V of 05 R131: floor(frac(x / 2π) × 2^25) for x = ± m × 2^e. -/
def sinCosV (neg : Bool) (m : Nat) (e : Int) : Nat :=
  let p := if 0 ≤ e then m * 2 ^ e.toNat * invTwoPi else m * invTwoPi / 2 ^ (-e).toNat
  let v := p / 2 ^ 295 % 2 ^ 25
  if neg then 2 ^ 25 - 1 - v else v

/-- `SIN` (shift 0) and `COS` (shift 1) by quadrant (05 R131). -/
def sinCos (shift : Nat) (neg : Bool) (m : Nat) (e : Int) : Nat × Flags :=
  let v := sinCosV neg m e
  let q := (v / 2 ^ 23 + shift) % 4
  let y := evalTable (if q % 2 = 0 then .sin else .cos) (v / 2 ^ 16 % 128) (v % 2 ^ 16) 16
  if y = 0 then (0, 0) else fpRound fmtF32 .rne false (decide (2 ≤ q)) y (2 ^ 39) 0

/-- Exponent and 23-bit fraction of a positive FP32 magnitude m × 2^q, normalised. -/
def normalised (m : Nat) (q : Int) : Int × Nat :=
  let k := Nat.log2 m
  (q + k, (m * 2 ^ (23 - k)) % 2 ^ 23)

/-- Special operands (05 R134): a NaN or an infinity. -/
def transSpecial (fn : TFn) (v : FVal) : Nat × Flags :=
  match v with
  | .nan s => (fpNaN fmtF32, if s then flagNV else 0)
  | .inf n =>
    (match fn with
     | .exp2 => (if n then 0 else fpInf fmtF32 false, 0)
     | .log2 => if n then (fpNaN fmtF32, flagNV) else (fpInf fmtF32 false, 0)
     | .rcp => (fpZero fmtF32 n, 0)
     | .rsq => if n then (fpNaN fmtF32, flagNV) else (0, 0)
     | .sin => (fpNaN fmtF32, flagNV)
     | .cos => (fpNaN fmtF32, flagNV))
  | .fin n _ _ =>
    (match fn with
     | .exp2 => (0x3F800000, 0)
     | .log2 => (fpInf fmtF32 true, flagDZ)
     | .rcp => (fpInf fmtF32 n, flagDZ)
     | .rsq => (fpInf fmtF32 n, flagDZ)
     | .sin => (fpZero fmtF32 n, 0)
     | .cos => (0x3F800000, 0))

/-- x = ± m × 2^e as floor(x × 2^23). -/
def fixed23 (n : Bool) (m : Nat) (e : Int) : Int :=
  let (a, b) := scaled m 1 (-(e + 23))
  if n then -(((a + b - 1) / b : Nat) : Int) else ((a / b : Nat) : Int)

/-- A transcendental function of an FP32 pattern: 05 R134 first, R131 otherwise. -/
def transVal (fn : TFn) (x : Nat) : Nat × Flags :=
  match fpDecode fmtF32 x with
  | .fin n m e =>
    if m = 0 then transSpecial fn (.fin n 0 0)
    else
      let (ex, fr) := normalised m e
      (match fn with
       | .exp2 =>
         if !n && decide (7 ≤ ex) then (fpInf fmtF32 false, flagOF + flagNX)
         else if n && decide (fvCmp (.fin n m e) (.fin true 160 0) < 0) then (0, flagUF + flagNX)
         else
           let xi := fixed23 n m e
           let t := (xi % 2 ^ 23).toNat
           fpRound fmtF32 .rne false false (evalTable .exp2 (t / 2 ^ 16) (t % 2 ^ 16) 16) (2 ^ 39) (xi / 2 ^ 23)
       | .log2 =>
         if n then (fpNaN fmtF32, flagNV)
         else fpRoundInt fmtF32 .rne false (ex * 2 ^ 39 + (evalTable .log2 (fr / 2 ^ 16) (fr % 2 ^ 16) 16 : Nat)) (-39) false
       | .rcp => fpRound fmtF32 .rne false n (evalTable .rcp (fr / 2 ^ 16) (fr % 2 ^ 16) 16) (2 ^ 39) (-ex)
       | .rsq =>
         if n then (fpNaN fmtF32, flagNV)
         else
           let odd := ex % 2 == 1
           let j := fr / 2 ^ 17 + (if odd then 64 else 0)
           let k := if odd then (ex - 1) / 2 else ex / 2
           fpRound fmtF32 .rne false false (evalTable .rsq j (fr % 2 ^ 17) 17) (2 ^ 39) (-k)
       | .sin => if decide (ex < -12) then (x % 2 ^ 32, flagNX) else sinCos 0 n m e
       | .cos => if decide (ex < -12) then (0x3F800000, flagNX) else sinCos 1 n m e)
  | v => transSpecial fn v

/-- `RNDC`'s rotation amounts (05 R135). -/
def rndcRot (r : Nat) : Nat := ([11, 19, 7, 23, 13, 29, 5, 17][r]?).getD 0

/-- One round of `RNDC`. -/
def rndcRound (k0 k1 : Word) (x : Word × Word) (r : Nat) : Word × Word :=
  let ks := if r % 3 = 0 then k0 else if r % 3 = 1 then k1 else k0 ^^^ k1 ^^^ 0x5A3C96E1
  let x0 := x.1 + x.2 + ks
  (x0, ((x.2.rotateLeft (rndcRot r)) ^^^ x0) + BitVec.ofNat 32 (r + 1) * 0x8F3D62A7)

/-- rndc(key, ctr) (05 R135). -/
def rndc (key ctr : Dword) : Word :=
  let x := (List.range 8).foldl (rndcRound (key.extractLsb' 0 32) (key.extractLsb' 32 32))
    (ctr.extractLsb' 0 32, ctr.extractLsb' 32 32)
  x.1 ^^^ x.2.rotateLeft 16

/-- A transcendental in A32 form. -/
def transA (i : Instr) (fn : TFn) (d a : Reg) (s : State) : Host.Outcome State Fault Refusal :=
  fpOp i d 1 bLong (fun s k l => fpOut (transVal fn (readLane s k.w a.toNat l).toNat)) s

/-- A transcendental in long form. -/
def transB (i : Instr) (fn : TFn) (x : Long) (s : State) : Host.Outcome State Fault Refusal :=
  fpOp i x.d 1 bLong (fun s k l => fpOut (transVal fn (fsrcA s k x fmtF32 1 l))) s

/-- `EXP2`, A32 (15 R372). -/
def execExp2A32 (g : BitVec 2) (d a : Reg) (s : State) : Host.Outcome State Fault Refusal :=
  transA (.exp2A32 g d a) .exp2 d a s

/-- `EXP2`, B64 and C96 (15 R372). -/
def execExp2B64 (x : Long) (s : State) : Host.Outcome State Fault Refusal :=
  transB (.exp2B64 x) .exp2 x s

/-- `LOG2`, A32 (16 R394). -/
def execLog2A32 (g : BitVec 2) (d a : Reg) (s : State) : Host.Outcome State Fault Refusal :=
  transA (.log2A32 g d a) .log2 d a s

/-- `LOG2`, B64 and C96 (16 R394). -/
def execLog2B64 (x : Long) (s : State) : Host.Outcome State Fault Refusal :=
  transB (.log2B64 x) .log2 x s

/-- `RCP`, A32 (17 R401). -/
def execRcpA32 (g : BitVec 2) (d a : Reg) (s : State) : Host.Outcome State Fault Refusal :=
  transA (.rcpA32 g d a) .rcp d a s

/-- `RCP`, B64 and C96 (17 R401). -/
def execRcpB64 (x : Long) (s : State) : Host.Outcome State Fault Refusal :=
  transB (.rcpB64 x) .rcp x s

/-- `RSQ`, A32 (17 R401). -/
def execRsqA32 (g : BitVec 2) (d a : Reg) (s : State) : Host.Outcome State Fault Refusal :=
  transA (.rsqA32 g d a) .rsq d a s

/-- `RSQ`, B64 and C96 (17 R401). -/
def execRsqB64 (x : Long) (s : State) : Host.Outcome State Fault Refusal :=
  transB (.rsqB64 x) .rsq x s

/-- `SIN`, A32 (17 R401). -/
def execSinA32 (g : BitVec 2) (d a : Reg) (s : State) : Host.Outcome State Fault Refusal :=
  transA (.sinA32 g d a) .sin d a s

/-- `SIN`, B64 and C96 (17 R401). -/
def execSinB64 (x : Long) (s : State) : Host.Outcome State Fault Refusal :=
  transB (.sinB64 x) .sin x s

/-- `COS`, A32 (15 R372). -/
def execCosA32 (g : BitVec 2) (d a : Reg) (s : State) : Host.Outcome State Fault Refusal :=
  transA (.cosA32 g d a) .cos d a s

/-- `COS`, B64 and C96 (15 R372). -/
def execCosB64 (x : Long) (s : State) : Host.Outcome State Fault Refusal :=
  transB (.cosB64 x) .cos x s

/-- `RNDC` (17 R402, R403). -/
def execRndc (f : Bool) (x : Long) (s : State) : Host.Outcome State Fault Refusal :=
  issueWith (.rndc f x) s fun k s =>
    .done (writeLanes s k x.d 1 bLong fun l =>
      let o := rndc (srcA s k.w x 2 l) (srcB s k.w x .int 2 l)
      if f then BitVec.ofNat 64 (fpRound fmtF32 .rne false false (o.toNat / 2 ^ 8) (2 ^ 24) 0).1
      else o.zeroExtend 64)

end Sys2Proof.Machine
end

