-- ==== Sys2Proof/Machine/Dispatch.lean ====
section
/-! DEFINITION. One arm per instruction and event of the opcode table: a direct call of its meaning. -/

namespace Sys2Proof.Machine

/-- The meaning of one instruction or event. -/
def exec (i : Instr) (s : State) : Host.Outcome State Fault Refusal :=
  match i with
  | .nop n => Sys2Proof.Machine.execNop n s
  | .exit => Sys2Proof.Machine.execExit s
  | .setxS16 r => Sys2Proof.Machine.execSetxS16 r s
  | .setxA32 g r => Sys2Proof.Machine.execSetxA32 g r s
  | .anyqS16 r => Sys2Proof.Machine.execAnyqS16 r s
  | .anyqA32 g r => Sys2Proof.Machine.execAnyqA32 g r s
  | .allqS16 r => Sys2Proof.Machine.execAllqS16 r s
  | .allqA32 g r => Sys2Proof.Machine.execAllqA32 g r s
  | .brA32 g c off => Sys2Proof.Machine.execBrA32 g c off s
  | .brB64 g c off => Sys2Proof.Machine.execBrB64 g c off s
  | .brx g c a => Sys2Proof.Machine.execBrx g c a s
  | .callA32 g d off => Sys2Proof.Machine.execCallA32 g d off s
  | .callB64 g d off => Sys2Proof.Machine.execCallB64 g d off s
  | .callx g d a => Sys2Proof.Machine.execCallx g d a s
  | .yield g => Sys2Proof.Machine.execYield g s
  | .pchk g => Sys2Proof.Machine.execPchk g s
  | .tret g => Sys2Proof.Machine.execTret g s
  | .csrr g sup num d => Sys2Proof.Machine.execCsrr g sup num d s
  | .csrw g sup num r => Sys2Proof.Machine.execCsrw g sup num r s
  | .regang g r => Sys2Proof.Machine.execRegang g r s
  | .arriveWg g d id => Sys2Proof.Machine.execArriveWg g d id s
  | .arriveCl g d id => Sys2Proof.Machine.execArriveCl g d id s
  | .waitaWg g id r => Sys2Proof.Machine.execWaitaWg g id r s
  | .waitaCl g id r => Sys2Proof.Machine.execWaitaCl g id r s
  | .adda x => Sys2Proof.Machine.execAdda x s
  | .iadd t x => Sys2Proof.Machine.execIadd t x s
  | .isub t x => Sys2Proof.Machine.execIsub t x s
  | .imul t x => Sys2Proof.Machine.execImul t x s
  | .imulh u x => Sys2Proof.Machine.execImulh u x s
  | .imad t x => Sys2Proof.Machine.execImad t x s
  | .imin t x => Sys2Proof.Machine.execImin t x s
  | .imax t x => Sys2Proof.Machine.execImax t x s
  | .iabsA32 g t d a => Sys2Proof.Machine.execIabsA32 g t d a s
  | .iabsB64 t x => Sys2Proof.Machine.execIabsB64 t x s
  | .icmp t x => Sys2Proof.Machine.execIcmp t x s
  | .and t x => Sys2Proof.Machine.execAnd t x s
  | .or t x => Sys2Proof.Machine.execOr t x s
  | .xor t x => Sys2Proof.Machine.execXor t x s
  | .andn t x => Sys2Proof.Machine.execAndn t x s
  | .notA32 g t d a => Sys2Proof.Machine.execNotA32 g t d a s
  | .notB64 t x => Sys2Proof.Machine.execNotB64 t x s
  | .bfx u x => Sys2Proof.Machine.execBfx u x s
  | .bfi x => Sys2Proof.Machine.execBfi x s
  | .popcA32 g t d a => Sys2Proof.Machine.execPopcA32 g t d a s
  | .popcB64 t x => Sys2Proof.Machine.execPopcB64 t x s
  | .clzA32 g t d a => Sys2Proof.Machine.execClzA32 g t d a s
  | .clzB64 t x => Sys2Proof.Machine.execClzB64 t x s
  | .brevA32 g t d a => Sys2Proof.Machine.execBrevA32 g t d a s
  | .brevB64 t x => Sys2Proof.Machine.execBrevB64 t x s
  | .shl t x => Sys2Proof.Machine.execShl t x s
  | .shr t x => Sys2Proof.Machine.execShr t x s
  | .rot x => Sys2Proof.Machine.execRot x s
  | .movA32 g t d a => Sys2Proof.Machine.execMovA32 g t d a s
  | .movB64 t x => Sys2Proof.Machine.execMovB64 t x s
  | .sel t x => Sys2Proof.Machine.execSel t x s
  | .getx g d => Sys2Proof.Machine.execGetx g d s
  | .ballotA32 g d a => Sys2Proof.Machine.execBallotA32 g d a s
  | .ballotB64 x => Sys2Proof.Machine.execBallotB64 x s
  | .lane g d => Sys2Proof.Machine.execLane g d s
  | .shuf x => Sys2Proof.Machine.execShuf x s
  | .fadd t x => Sys2Proof.Machine.execFadd t x s
  | .fsub t x => Sys2Proof.Machine.execFsub t x s
  | .fmul t x => Sys2Proof.Machine.execFmul t x s
  | .ffma t x => Sys2Proof.Machine.execFfma t x s
  | .fmin t x => Sys2Proof.Machine.execFmin t x s
  | .fmax t x => Sys2Proof.Machine.execFmax t x s
  | .fcmp t x => Sys2Proof.Machine.execFcmp t x s
  | .fclassA32 g t d a => Sys2Proof.Machine.execFclassA32 g t d a s
  | .fclassB64 t x => Sys2Proof.Machine.execFclassB64 t x s
  | .frintA32 g t d a => Sys2Proof.Machine.execFrintA32 g t d a s
  | .frintB64 t x => Sys2Proof.Machine.execFrintB64 t x s
  | .fcvt dt st x => Sys2Proof.Machine.execFcvt dt st x s
  | .ftoi it ft x => Sys2Proof.Machine.execFtoi it ft x s
  | .itof ft it x => Sys2Proof.Machine.execItof ft it x s
  | .mxcvt t x => Sys2Proof.Machine.execMxcvt t x s
  | .exp2A32 g d a => Sys2Proof.Machine.execExp2A32 g d a s
  | .exp2B64 x => Sys2Proof.Machine.execExp2B64 x s
  | .log2A32 g d a => Sys2Proof.Machine.execLog2A32 g d a s
  | .log2B64 x => Sys2Proof.Machine.execLog2B64 x s
  | .rcpA32 g d a => Sys2Proof.Machine.execRcpA32 g d a s
  | .rcpB64 x => Sys2Proof.Machine.execRcpB64 x s
  | .rsqA32 g d a => Sys2Proof.Machine.execRsqA32 g d a s
  | .rsqB64 x => Sys2Proof.Machine.execRsqB64 x s
  | .sinA32 g d a => Sys2Proof.Machine.execSinA32 g d a s
  | .sinB64 x => Sys2Proof.Machine.execSinB64 x s
  | .cosA32 g d a => Sys2Proof.Machine.execCosA32 g d a s
  | .cosB64 x => Sys2Proof.Machine.execCosB64 x s
  | .rndc f x => Sys2Proof.Machine.execRndc f x s
  | .ldA32 g t d a => Sys2Proof.Machine.execLdA32 g t d a s
  | .ldB64 t x => Sys2Proof.Machine.execLdB64 t x s
  | .stA32 g t d a => Sys2Proof.Machine.execStA32 g t d a s
  | .stB64 t x => Sys2Proof.Machine.execStB64 t x s
  | .atom t x => Sys2Proof.Machine.execAtom t x s
  | .rst t x => Sys2Proof.Machine.execRst t x s
  | .waitw t x => Sys2Proof.Machine.execWaitw t x s
  | .semi g d a => Sys2Proof.Machine.execSemi g d a s
  | .sems g n a => Sys2Proof.Machine.execSems g n a s
  | .semsCl g n a b => Sys2Proof.Machine.execSemsCl g n a b s
  | .semw g n a => Sys2Proof.Machine.execSemw g n a s
  | .semwT g n a => Sys2Proof.Machine.execSemwT g n a s
  | .batch g d => Sys2Proof.Machine.execBatch g d s
  | .waitb g r => Sys2Proof.Machine.execWaitb g r s
  | .waitbAll g => Sys2Proof.Machine.execWaitbAll g s
  | .fence g scope k => Sys2Proof.Machine.execFence g scope k s
  | .ringsSet g k a b => Sys2Proof.Machine.execRingsSet g k a b s
  | .ringsQ g d k => Sys2Proof.Machine.execRingsQ g d k s
  | .ringsPop g k => Sys2Proof.Machine.execRingsPop g k s
  | .copy g d a => Sys2Proof.Machine.execCopy g d a s
  | .copyS g d a => Sys2Proof.Machine.execCopyS g d a s
  | .copyG g d a => Sys2Proof.Machine.execCopyG g d a s
  | .copyR g k a => Sys2Proof.Machine.execCopyR g k a s
  | .copyGt g d a b c => Sys2Proof.Machine.execCopyGt g d a b c s
  | .mma g z arr acc f rb ra => Sys2Proof.Machine.execMma g z arr acc f rb ra s
  | .mdrainA32 g z arr acc f q => Sys2Proof.Machine.execMdrainA32 g z arr acc f q s
  | .mdrainB64 g z arr acc f q sat => Sys2Proof.Machine.execMdrainB64 g z arr acc f q sat s
  | .mpop g arr last d q c => Sys2Proof.Machine.execMpop g arr last d q c s
  | .stq g arr q a => Sys2Proof.Machine.execStq g arr q a s
  | .mcast g arr last q a => Sys2Proof.Machine.execMcast g arr last q a s
  | .cred g d a b => Sys2Proof.Machine.execCred g d a b s
  | .rayq g p d a => Sys2Proof.Machine.execRayq g p d a s
  | .rayqL g p d a b => Sys2Proof.Machine.execRayqL g p d a b s
  | .rayp g p d a b => Sys2Proof.Machine.execRayp g p d a b s
  | .raya g p d a => Sys2Proof.Machine.execRaya g p d a s
  | .rayh g p d a b c => Sys2Proof.Machine.execRayh g p d a b c s
  | .tricov g k d a b => Sys2Proof.Machine.execTricov g k d a b s
  | .spawn g perm h n d a b c => Sys2Proof.Machine.execSpawn g perm h n d a b c s
  | .join g d a => Sys2Proof.Machine.execJoin g d a s
  | .ticketAcq g d id => Sys2Proof.Machine.execTicketAcq g d id s
  | .ticketRel g id => Sys2Proof.Machine.execTicketRel g id s
  | .jrnl g d a b => Sys2Proof.Machine.execJrnl g d a b s
  | .emit g d a => Sys2Proof.Machine.execEmit g d a s
  | .jtrunc g d a => Sys2Proof.Machine.execJtrunc g d a s
  | .govq g d a => Sys2Proof.Machine.execGovq g d a s
  | .govqJ g d a => Sys2Proof.Machine.execGovqJ g d a s
  | .trapEntry u => Sys2Proof.Machine.execTrapEntry u s
  | .faultServiceComplete u => Sys2Proof.Machine.execFaultServiceComplete u s
  | .memoryAccessComplete u seq lane resp => Sys2Proof.Machine.execMemoryAccessComplete u seq lane resp s
  | .waveRetirement u => Sys2Proof.Machine.execWaveRetirement u s
  | .copyComplete u seq => Sys2Proof.Machine.execCopyComplete u seq s
  | .guideTileTransfer u seq => Sys2Proof.Machine.execGuideTileTransfer u seq s
  | .multicastTransfer u seq => Sys2Proof.Machine.execMulticastTransfer u seq s
  | .mmaExecute bank arr => Sys2Proof.Machine.execMmaExecute bank arr s
  | .mmaComplete bank arr => Sys2Proof.Machine.execMmaComplete bank arr s
  | .mdrainExecute bank arr => Sys2Proof.Machine.execMdrainExecute bank arr s
  | .rayQueryComplete u seq lane => Sys2Proof.Machine.execRayQueryComplete u seq lane s
  | .userLeafThreadsRetired u seq lane => Sys2Proof.Machine.execUserLeafThreadsRetired u seq lane s
  | .collectiveComplete u seq r => Sys2Proof.Machine.execCollectiveComplete u seq r s
  | .emitPublication u seq lane => Sys2Proof.Machine.execEmitPublication u seq lane s
  | .journalRecordArrival peer off rec => Sys2Proof.Machine.execJournalRecordArrival peer off rec s
  | .journalAcknowledgement peer stream r => Sys2Proof.Machine.execJournalAcknowledgement peer stream r s
  | .streamReassignment stream refusing => Sys2Proof.Machine.execStreamReassignment stream refusing s
  | .binTimerExpiry core ctx bin => Sys2Proof.Machine.execBinTimerExpiry core ctx bin s
  | .binLaunch core ctx bin => Sys2Proof.Machine.execBinLaunch core ctx bin s
  | .binOverflowWrite core ctx bin => Sys2Proof.Machine.execBinOverflowWrite core ctx bin s
  | .segmentDrainLaunch core ctx depth => Sys2Proof.Machine.execSegmentDrainLaunch core ctx depth s
  | .requestGuard grid cidx => Sys2Proof.Machine.execRequestGuard grid cidx s
  | .packetRead ctx q => Sys2Proof.Machine.execPacketRead ctx q s
  | .packetStart ctx q => Sys2Proof.Machine.execPacketStart ctx q s
  | .clusterAdmission grid cidx => Sys2Proof.Machine.execClusterAdmission grid cidx s
  | .gridCompletion grid => Sys2Proof.Machine.execGridCompletion grid s
  | .fragmentPromotion u quad => Sys2Proof.Machine.execFragmentPromotion u quad s
  | .watchdog u => Sys2Proof.Machine.execWatchdog u s
  | .deterministicTurn u seq lane => Sys2Proof.Machine.execDeterministicTurn u seq lane s
  | .deterministicStall u seq lane => Sys2Proof.Machine.execDeterministicStall u seq lane s
  | .waitwRetest u quad => Sys2Proof.Machine.execWaitwRetest u quad s
  | .waitTimeout u quad => Sys2Proof.Machine.execWaitTimeout u quad s
  | .preemptionDeadline ctx => Sys2Proof.Machine.execPreemptionDeadline ctx s
  | .contextSave ctx => Sys2Proof.Machine.execContextSave ctx s
  | .contextRestoreClaim ctx => Sys2Proof.Machine.execContextRestoreClaim ctx s
  | .powerWindow watts => Sys2Proof.Machine.execPowerWindow watts s
  | .thermalHalt dom => Sys2Proof.Machine.execThermalHalt dom s
  | .dieLost dom => Sys2Proof.Machine.execDieLost dom s
  | .powerOn dies ports revs => Sys2Proof.Machine.execPowerOn dies ports revs s
  | .pageCompression ctx va => Sys2Proof.Machine.execPageCompression ctx va s
  | .migration ctx va => Sys2Proof.Machine.execMigration ctx va s
  | .hostInboundWrite pa data => Sys2Proof.Machine.execHostInboundWrite pa data s
  | .hostInboundRead pa n => Sys2Proof.Machine.execHostInboundRead pa n s
  | .peerInboundRequest peer pa write n data => Sys2Proof.Machine.execPeerInboundRequest peer pa write n data s
  | .peerNack u seq lane => Sys2Proof.Machine.execPeerNack u seq lane s
  | .portTimerExpiry u seq lane => Sys2Proof.Machine.execPortTimerExpiry u seq lane s
  | .flitReceive port flit => Sys2Proof.Machine.execFlitReceive port flit s
  | .flitResend port => Sys2Proof.Machine.execFlitResend port s
  | .creditFlit port vc total => Sys2Proof.Machine.execCreditFlit port vc total s
  | .auditSend port => Sys2Proof.Machine.execAuditSend port s
  | .auditFlit port vc stot => Sys2Proof.Machine.execAuditFlit port vc stot s
  | .portDown port => Sys2Proof.Machine.execPortDown port s
  | .lossOfSignal port => Sys2Proof.Machine.execLossOfSignal port s
  | .cmddb fn addr => Sys2Proof.Machine.execCmddb fn addr s
  | .mbovfClear fn w => Sys2Proof.Machine.execMbovfClear fn w s
  | .queueDoorbell ctx q widx => Sys2Proof.Machine.execQueueDoorbell ctx q widx s
  | .registerWrite fn off w => Sys2Proof.Machine.execRegisterWrite fn off w s
  | .identify fn => Sys2Proof.Machine.execIdentify fn s
  | .attest fn => Sys2Proof.Machine.execAttest fn s
  | .ctxCreate fn => Sys2Proof.Machine.execCtxCreate fn s
  | .ctxDestroy fn => Sys2Proof.Machine.execCtxDestroy fn s
  | .ctxPreempt fn => Sys2Proof.Machine.execCtxPreempt fn s
  | .ctxRestore fn => Sys2Proof.Machine.execCtxRestore fn s
  | .ctxKill fn => Sys2Proof.Machine.execCtxKill fn s
  | .queueCreate fn => Sys2Proof.Machine.execQueueCreate fn s
  | .queueReset fn => Sys2Proof.Machine.execQueueReset fn s
  | .queueDestroy fn => Sys2Proof.Machine.execQueueDestroy fn s
  | .map fn => Sys2Proof.Machine.execMap fn s
  | .unmap fn => Sys2Proof.Machine.execUnmap fn s
  | .protect fn => Sys2Proof.Machine.execProtect fn s
  | .bufRegister fn => Sys2Proof.Machine.execBufRegister fn s
  | .zoneSet fn => Sys2Proof.Machine.execZoneSet fn s
  | .powerLimit fn => Sys2Proof.Machine.execPowerLimit fn s
  | .jstreamBind fn => Sys2Proof.Machine.execJstreamBind fn s
  | .jstreamReplay fn => Sys2Proof.Machine.execJstreamReplay fn s
  | .jstreamUnbind fn => Sys2Proof.Machine.execJstreamUnbind fn s
  | .jstreamFail fn => Sys2Proof.Machine.execJstreamFail fn s
  | .jstandby fn => Sys2Proof.Machine.execJstandby fn s
  | .govBind fn => Sys2Proof.Machine.execGovBind fn s
  | .peerMap fn => Sys2Proof.Machine.execPeerMap fn s
  | .portTimer fn => Sys2Proof.Machine.execPortTimer fn s
  | .errlog fn => Sys2Proof.Machine.execErrlog fn s
  | .pkgReset fn => Sys2Proof.Machine.execPkgReset fn s
  | .powerRemoved => Sys2Proof.Machine.execPowerRemoved s
  | .bridgeFailureAtRunTime a b => Sys2Proof.Machine.execBridgeFailureAtRunTime a b s
  | .portRetrainingComplete port => Sys2Proof.Machine.execPortRetrainingComplete port s
  | .partnerReportsLoss stream => Sys2Proof.Machine.execPartnerReportsLoss stream s
  | .configurationRequest => Sys2Proof.Machine.execConfigurationRequest s

end Sys2Proof.Machine
end

