-- ==== Sys2Proof/Machine/Issue.lean ====
section
/-!
DEFINITION. Instruction issue: blocks and fetch, readiness, the schedulers' choice, the passing of cycles, and what
moves when nothing is named (02 R62; 03 R73; 06 R159, R160; 10 R241; 11 R275 to R277, R281, R291; 13 R313 to R318).
-/

namespace Sys2Proof.Machine

/-! Blocks and fetch (13 R313 to R318). -/

/-- What a fragment's issue comes to before its instruction: the instruction, or a state without one. -/
inductive Fetched where
  | run (i : Instr) (s : State)
  | none (s : State)
deriving Repr

/-- Where the parcel at `va` of the fragment's block lies. -/
def Frag.parcelPa (f : Frag) (va : VA) : Nat :=
  (if va.toNat / 2 ^ 16 = f.blk.toNat / 2 ^ 16 then f.page0 else f.page1) + va.toNat % 2 ^ 16

def parcelAt (m : List Host.Cell) (pa : Nat) : Parcel := BitVec.ofNat 16 (memNat m pa 2)

/-- Parcels left in the block from the pc. -/
def Frag.parcelsLeft (f : Frag) : Nat := (f.fin - f.pc).toNat / 2

/-- The latest grid that a thread of the wave belongs to. -/
def Wave.lastGrid (w : Wave) : Nat := w.threads.foldl (fun g t => max g t.2.grid) w.grid

/-- Values that the parcel at `pa` had since the packets of the wave's grids were read. -/
def Wave.oldParcels (w : Wave) (s : State) (pa : Nat) : List Nat :=
  s.past.filterMap fun v => if v.1 = pa ∧ w.lastGrid < v.2.1 then some v.2.2 else none

/-- The parcel that a fetch of physical address `pa` gets: where it has been written since the packet was read, one of its old
values or the new one (13 R317). -/
def Issue.parcel (k : Issue) (s : State) (pa : Nat) : Parcel :=
  let now := leNat (physGet s pa 2)
  match k.w.oldParcels s pa with
  | [] => BitVec.ofNat 16 now
  | os => BitVec.ofNat 16 (os.getD ((Config.freeWord s.free (2 ^ 90 + pa)).toNat % (os.length + 1)) now)

/-- The parcels at the pc as memory now holds them, six at most, and as they are fetched. -/
def Frag.parcels (m : List Host.Cell) (f : Frag) : List Parcel :=
  (List.range (min 6 f.parcelsLeft)).map fun j => parcelAt m (f.parcelPa (f.pc + BitVec.ofNat 80 (2 * j)))
def Issue.parcels (k : Issue) (s : State) : List Parcel :=
  (List.range (min 6 k.f.parcelsLeft)).map fun j => k.parcel s (k.f.parcelPa (k.f.pc + BitVec.ofNat 80 (2 * j)))

/-- A block enters the loop buffer of a scheduler; blocks leave it least recently entered first, unpinned before pinned
(13 R318). -/
def loopEnter (l : List LoopBlk) (b : LoopBlk) (fuel : Nat) : List LoopBlk :=
  let keep := (l.filter fun x => !(x.ctx == b.ctx && x.addr == b.addr)) ++ [b]
  let rec evict (l : List LoopBlk) (fuel : Nat) : List LoopBlk :=
    match fuel with
    | 0 => l
    | fuel + 1 =>
      if l.foldl (fun n x => n + x.parcels) 0 ≤ 512 then l
      else match l.find? (fun x => !x.pin) with
        | some x => evict (l.erase x) fuel
        | none => evict (l.drop 1) fuel
  evict keep fuel

/-- A fetch that failed at `va`: firmware services it, or the fragment traps at the header (06 R159). -/
def fetchFault (s : State) (k : Issue) (e : Cause) (va : VA) : State :=
  let q := k.lead
  if firmwareServices k.c e va then
    modFrag s k.uid q fun f => { f with header := true, park := .service va (k.act s) 31 none, waited := 0, promoted := none }
  else takeTrap (walkFault s k.w.ctx e va) k.uid q ⟨e, k.act s, va, false, k.f.pc, true⟩

/-- `enter_block` at the fragment's pc (13 R315). Where it fails the fragment keeps its block. -/
def enterBlock (s : State) (k : Issue) : Except State State :=
  let h := k.f.pc
  match xlate s k.c h.toNat .fetch with
  | .error e => .error (fetchFault s k e h)
  | .ok (pa, leaf) =>
    let hdr := k.parcel s pa
    let len := (hdr.extractLsb' 8 8).toNat
    if len = 0 ∨ hdr.extractLsb' 0 3 ≠ 0 then .error (takeTrap s k.uid k.lead ⟨.illegalBlock, k.act s, 0, false, h, true⟩)
    else
      let fin := h + 2 + BitVec.ofNat 80 (2 * len)
      let last := fin - 2
      let page := BitVec.ofNat 80 (last.toNat / 2 ^ 16 * 2 ^ 16)
      let second : Except Cause (Option (Nat × Nat)) :=
        if last.toNat / 2 ^ 16 = h.toNat / 2 ^ 16 then .ok none
        else match xlate s k.c page.toNat .fetch with
          | .error e => .error e
          | .ok r => .ok (some r)
      match second with
      | .error e => .error (fetchFault s k e page)
      | .ok r =>
        let s1 := leafTouch s leaf false
        let s2 := match r with | some (_, l2) => leafTouch s1 l2 false | none => s1
        let sch := k.w.slot / 32
        let s3 := modCore s2 k.w.core fun c =>
          { c with loops := assocSet c.loops sch (loopEnter ((assocGet c.loops sch).getD []) ⟨k.w.ctx, h, len + 1, hdr.getLsbD 3⟩ 512) }
        .ok (modFrag s3 k.uid k.lead fun f =>
          { f with blk := h, fin := fin, left := (hdr.extractLsb' 4 4).toNat, pc := h + 2, header := false,
                   page0 := pa - h.toNat % 2 ^ 16, page1 := match r with | some (p1, _) => p1 | none => 0 })

/-- The fragment stands at an instruction of its block: at a header it enters it, at the block's end it starts the next
pass or the block that follows. -/
def atInstr (s : State) (k : Issue) : Except State State :=
  if k.f.header then enterBlock s k
  else if k.f.pc = k.f.fin then
    if k.f.left > 0 then .ok (modFrag s k.uid k.lead fun f => { f with left := f.left - 1, pc := f.blk + 2 })
    else enterBlock s k
  else .ok s

/-- The instruction that fragment `q` of wave `u` issues, and the state it issues in. -/
def fetch (s : State) (u q : Nat) : Fetched :=
  match getIssue { s with cur := some (u, q) } with
  | none => .none s
  | some k =>
    match atInstr { s with cur := some (u, q) } k with
    | .error t => .none t
    | .ok s1 =>
      match getIssue s1 with
      | none => .none s1
      | some k1 =>
        let ps := k1.parcels s1
        if k1.f.parcelsLeft < parcelCount (ps.headD 0) then
          .none (takeTrap s1 u q ⟨.illegalBlock, k1.act s1, 0, false, k1.f.pc, false⟩)
        else match decode ps with
          | .ok i => .run i s1
          | .error _ => .none (takeTrap s1 u q ⟨.illegalInstruction, k1.act s1, 0, false, k1.f.pc, false⟩)

/-! Readiness (11 R275). -/

/-- Parks that end when the instruction, issued again, finds its condition met. -/
def Park.retests (p : Park) : Bool :=
  match p with
  | .wait => true | .faults => true | .spawns _ => true | .asked _ _ => true | .batches _ => true | .mcast _ _ _ => true | .turn => true
  | .waitw _ _ _ _ woken => woken
  | _ => false

/-- The park that the instruction of a parked fragment, issued again, would come to. -/
def retest (s : State) (u q : Nat) : Park :=
  match fetch s u q with
  | .none _ => .none
  | .run i t =>
    match exec i t with
    | .next n => (((assocGet n.waves u).bind fun w => w.frag? q).map (·.park)).getD .none
    | _ => .none

/-- Issued again, the instruction of a fragment with park `p` would return, trap, report, send its requests, or park on what an
event ends. -/
def wouldReturn (s : State) (u q : Nat) (p : Park) : Bool :=
  match retest s u q, p with
  | .asked _ _, .asked _ _ => false
  | .asked _ _, _ => true
  | r, _ => !r.retests

/-- The fragment is ready: nothing of its wave stops it, its holds have passed, and it is not parked, or what it waits
for has come. -/
def ready (s : State) (u : Nat) (w : Wave) (f : Frag) : Bool :=
  issues s w.ctx && !f.heldUp w && decide (f.readyAt ≤ s.cycle) &&
    (f.park == .none || (f.park.retests && wouldReturn s u (leadQuad f.quads) f.park))

/-! The schedulers (11 R275 to R277). -/

/-- A fragment whose wait has ended in this cycle takes the cycle as its stamp (11 R275). -/
def Frag.stamped (f : Frag) (cycle : Nat) : Frag := if f.park != .none && f.waited == 0 then { f with stamp := cycle } else f

/-- The ready fragments of scheduler `sch` of core `p`, as the scheduler compares them. -/
def readyFrags (s : State) (p sch : Nat) : List (Nat × Wave × Frag) :=
  s.waves.flatMap fun e =>
    if e.2.core = p ∧ e.2.slot / 32 = sch then (e.2.frags.filter (ready s e.1 e.2)).map fun f => (e.1, e.2, f.stamped s.cycle) else []

def bankIndex (s : State) (p x : Nat) : Nat := match assocGet s.banks (16 * p + x) with | some b => b.index | none => 0
/-- A context's weight; 0 acts as 1. -/
def weightOf (s : State) (x : Nat) : Int := match assocGet s.ctxs x with | some c => (max 1 c.share.toNat : Nat) | none => 1

/-- The credits after this cycle, and the bank that issues (11 R276). -/
def credit (c : Int × Int) (w0 w1 : Int) : (Int × Int) × Nat :=
  let c0 := c.1 + w0
  let c1 := c.2 + w1
  if c1 > c0 then ((c0, c1 - (w0 + w1)), 1) else ((c0 - (w0 + w1), c1), 0)

/-- The fragment that scheduler `sch` of core `p` issues from this cycle, with the credits updated. -/
def pick (s : State) (p sch : Nat) : Option (Nat × Nat × State) :=
  if (getCore s p).issued.contains sch then none
  else
    let fs := readyFrags s p sch
    let b0 := fs.filter fun x => bankIndex s p x.2.1.ctx == 0
    let b1 := fs.filter fun x => bankIndex s p x.2.1.ctx != 0
    let mark (s : State) := modCore s p fun k => { k with issued := sch :: k.issued }
    match b0, b1 with
    | x :: _, y :: _ =>
      let c := (assocGet (getCore s p).credits sch).getD (0, 0)
      let (c', b) := credit c (weightOf s x.2.1.ctx) (weightOf s y.2.1.ctx)
      let s1 := modCore (mark s) p fun k => { k with credits := assocSet k.credits sch c' }
      (firstFrag (if b = 0 then b0 else b1)).map fun z => (z.1, leadQuad z.2.2.quads, s1)
    | _, _ => (firstFrag fs).map fun z => (z.1, leadQuad z.2.2.quads, mark s)

/-- One scheduler's issue: the fragment it picks stands before its instruction, or traps on the watchdog (02 R62). -/
def issueTurn (s : State) (p sch : Nat) : Fetched :=
  match pick s p sch with
  | none => .none s
  | some (u, q, s1) =>
    if (assocGet s1.waves u).any (watchdogDue s1) then .none (watchdogTrap s1 u q) else fetch s1 u q

/-! The passing of a cycle. -/

/-- Lanes whose turn stays blocked this cycle count it (10 R241). -/
def stallTick (s : State) (u : Nat) (w : Wave) (e : Entry) : Entry :=
  let blocked (l : Nat × LaneSt) : Bool := turnWave w && isTurnInstr e.instr && l.2.flying && turnStalled s u w (e.key w l.1) e.quads
  { e with stalls := (e.lanes.filter blocked).map fun l => (l.1, (assocGet e.stalls l.1).getD 0 + 1) }

/-- A word of a `WAITW` has changed since it was last read, in the region `r`. -/
def wordChanged (s : State) (r n : Nat) (ws : List WaitWord) : Bool :=
  ws.any fun x => paRegion x.pa == r && (x.now s n).m != x.m

/-- The turn of the fragment stays blocked this cycle (10 R241), or a changed word of its `WAITW` awaits its test (17 R420). -/
def Frag.stalls (s : State) (u : Nat) (w : Wave) (f : Frag) (p : Park) : Bool :=
  match p with
  | .turn => turnStalled s u w (fragKey w f) f.quads
  | .waitw _ ws n _ false => !turnWave w && (wordChanged s 0 n ws || wordChanged s 1 n ws)
  | _ => false

/-- One cycle of a fragment. A parked one that finds what it waits for takes the cycle as its stamp (11 R275); one that waits on
takes the park that its instruction comes to now. -/
def fragTick (s : State) (u : Nat) (w : Wave) (f : Frag) : Frag :=
  let go := ready s u w f
  let p := if f.park.retests && !go && !f.heldUp w && decide (f.readyAt ≤ s.cycle) then retest s u (leadQuad f.quads) else f.park
  { f with
    waited := if go then f.waited + 1 else f.waited,
    stamp := if go && f.park != .none && f.waited == 0 then s.cycle else f.stamp,
    stall := if f.stalls s u w p then f.stall + 1 else 0,
    park := match p with
      | .waitw i ws n (some t) wk => .waitw i ws n (some (t - 1)) wk
      | p => p }

/-- The counters of a wave whose context is on its cores and not being saved. -/
def waveTick (s : State) (u : Nat) (w : Wave) : Wave :=
  if issues s w.ctx then
    { w with watchdog := if watchdogRuns w then w.watchdog + 1 else w.watchdog,
             frags := w.frags.map (fragTick s u w), entries := w.entries.map (stallTick s u w) }
  else w

/-- Bin timers run while the context is on its cores and not being saved (03 R73, 11 R284). -/
def binTick (b : Bin) : Bin :=
  if b.ready then { b with age := b.age + 1 } else { b with timer := b.timer - 1 }

def bankTick (s : State) (k : Nat) (b : Bank) : Bank :=
  let b1 := settleRings (s.cycle + 1) b
  if issues s (k % 16) then { b1 with bins := b1.bins.map fun n => (n.1, binTick n.2) } else b1

def ctxTick (c : Context) : Context := if c.preq then { c with reqAge := c.reqAge + 1 } else c

def portTick (free : Nat) (p : Port) : Port :=
  if p.up then { p.handOn free with idleAck := p.idleAck + 1, idleRx := p.idleRx + 1 } else p

/-- A changed word of a parked `WAITW` is tested within 64 cycles in HBM, and within 4096 in host memory (17 R420). -/
def dueTests (s : State) : State :=
  s.waves.foldl (fun t e => if issues s e.2.ctx then
      e.2.frags.foldl (fun t f => match f.park with
        | .waitw _ ws n _ false =>
          if (f.stall ≥ 64 ∧ wordChanged s 0 n ws = true) ∨ f.stall ≥ 4096 then (waitwTest t e.1 (leadQuad f.quads)).getD t else t
        | _ => t) t
    else t) s

/-- Fragments parked for pre-emption of a context whose REQ is clear, and that is not being saved, wake (11 R280). -/
def wakeClear (s : State) : State :=
  s.ctxs.foldl (fun t c => if !c.2.preq && c.2.resident && !c.2.saving && c.2.cstate == 0 then wakePreempt t c.1 else t) s

/-- Timeouts of `WAITW` that are due, lower leading quads first (11 R291). -/
def dueTimeouts (s : State) : State :=
  s.waves.foldl (fun t e =>
    if e.2.frags.any fun f => (match f.park with | .waitw _ _ _ (some 0) _ => true | _ => false) then
      (List.range 16).foldl (fun t q => (waitEnds t e.1 q).getD t) t
    else t) s

/-- Frames of open windows whose bounds have passed are stored (04 R105). -/
def dueStores (s : State) : State := s.waves.foldl (fun t e => storeDue t e.1) s

/-- Ports that have accepted no flit for T cycles go down (12 R301). -/
def duePorts (s : State) : State := s.hub.ports.foldl (fun t p => (portSilent t p.1).getD t) s

/-- What follows a cycle at once: ports that go down, frames stored, guarded requests and banks for clusters that wait, tests and
timeouts that are due, and the wakes of `YIELD` and `PCHK`. -/
def afterTick (s : State) : State := wakeClear (dueTimeouts (dueTests (gainBanks (guardAll (dueStores (duePorts s))))))

/-- One cycle passes. -/
def tick (s : State) : State :=
  let s1 : State :=
    { s with cycle := s.cycle + 1, updates := [], psec := s.psec + 1000000 / max 1 s.hub.clockMHz,
             waves := s.waves.map fun e => (e.1, waveTick s e.1 e.2),
             banks := s.banks.map fun b => (b.1, bankTick s b.1 b.2),
             ctxs := s.ctxs.map fun c => (c.1, ctxTick c.2),
             cores := s.cores.map fun k => (k.1, { k.2 with issued := [] }),
             hub := { s.hub with ports := s.hub.ports.map fun p => (p.1, portTick s.free p.2) } }
  s1.banks.foldl (fun t b => giveUpBank t (b.1 / 16) (b.1 % 16)) (bumpFree (afterTick s1))

def ticks (n : Nat) (s : State) : State :=
  match n with
  | 0 => s
  | n + 1 => ticks n (tick s)

/-! What moves when the state names nothing (MODEL, assumption 6). -/

/-- The event that executes a ROM command. -/
def romEvent (op fn : Nat) : Instr :=
  match op with
  | 0x02 => .attest fn | 0x10 => .ctxCreate fn | 0x11 => .ctxDestroy fn | 0x12 => .ctxPreempt fn | 0x13 => .ctxRestore fn
  | 0x14 => .ctxKill fn | 0x18 => .queueCreate fn | 0x19 => .queueReset fn | 0x1A => .queueDestroy fn | 0x20 => .map fn
  | 0x21 => .unmap fn | 0x22 => .protect fn | 0x23 => .bufRegister fn | 0x25 => .zoneSet fn | 0x28 => .powerLimit fn
  | 0x30 => .jstreamBind fn | 0x31 => .jstreamReplay fn | 0x32 => .jstreamUnbind fn | 0x33 => .jstreamFail fn
  | 0x34 => .jstandby fn | 0x38 => .govBind fn | 0x40 => .peerMap fn | 0x41 => .portTimer fn | 0x48 => .errlog fn
  | 0x7F => .pkgReset fn | _ => .identify fn

def waveEvents (u : Nat) (w : Wave) : List Instr :=
  [.trapEntry u, .faultServiceComplete u, .waveRetirement u] ++
  (w.frags.flatMap fun f => [.waitwRetest u (leadQuad f.quads), .waitTimeout u (leadQuad f.quads),
    .deterministicStall u w.nextSeq (4 * leadQuad f.quads), .fragmentPromotion u (leadQuad f.quads)] ++
    match f.park with
    | .waitw _ ws _ _ _ => (ws.filter (·.polled)).map fun x => .portTimerExpiry u w.nextSeq x.lane
    | .asked ws _ => ws.map fun x => .portTimerExpiry u w.nextSeq x.lane
    | _ => []) ++
  ((w.leaving.filter (·.2.2.2.isSome)).map fun v => .portTimerExpiry u w.nextSeq v.1) ++
  w.entries.flatMap fun e => e.lanes.flatMap fun l => match l.2 with
    | .inflight o _ => .portTimerExpiry u e.seq l.1 :: if o.awaits || e.asks.any (·.lane == l.1) then [] else
        [.memoryAccessComplete u e.seq l.1 0, .copyComplete u e.seq, .guideTileTransfer u e.seq, .multicastTransfer u e.seq,
         .rayQueryComplete u e.seq l.1, .userLeafThreadsRetired u e.seq l.1, .emitPublication u e.seq l.1,
         .deterministicStall u e.seq l.1]
    | _ => []

def bankEvents (k : Nat) (b : Bank) : List Instr :=
  (b.arrays.flatMap fun a => [.mmaExecute k a.1, .mmaComplete k a.1, .mdrainExecute k a.1]) ++
  (b.bins.flatMap fun n => [.binTimerExpiry (k / 16) (k % 16) n.1, .binLaunch (k / 16) (k % 16) n.1,
    .binOverflowWrite (k / 16) (k % 16) n.1]) ++
  b.segs.map fun d => .segmentDrainLaunch (k / 16) (k % 16) d.1

def ctxEvents (x : Nat) (c : Context) : List Instr :=
  [.preemptionDeadline x, .contextSave x, .contextRestoreClaim x] ++
  ((c.bufs.filter (·.hold.isSome)).map fun b => .migration x (BitVec.ofNat 80 b.va)) ++
  c.queues.flatMap fun q => [.packetRead x q.1, .packetStart x q.1]

def gridEvents (g : Nat) (gr : Grid) : List Instr :=
  (gr.next.map (.clusterAdmission g)) ++ (gr.waits.map fun w => .requestGuard g w.1) ++ [.gridCompletion g]

/-- Events of the package's own agents that may be enabled, those of the world outside left out. -/
def ownEvents (s : State) : List Instr :=
  (s.waves.flatMap fun e => waveEvents e.1 e.2) ++ (s.banks.flatMap fun b => bankEvents b.1 b.2) ++
  (s.ctxs.flatMap fun c => ctxEvents c.1 c.2) ++ (s.grids.flatMap fun g => gridEvents g.1 g.2) ++
  s.hub.cmds.filterMap fun c => (cmdHead s c.1).map fun b => romEvent (fieldAt b.2 0 2) c.1

/-- The event happens: every event that does draws a fresh number of free values. -/
def enabled (s : State) (i : Instr) : Bool :=
  match exec i s with
  | .next t => t.free != s.free
  | _ => false

/-- A scheduler that can issue, else an event that can happen, else a cycle. -/
def ownTurn (s : State) : Turn :=
  let ps := (s.waves.map (·.2.core)).dedup
  match (ps.flatMap fun p => (List.range 4).map fun k => (p, k)).find? fun v => (pick s v.1 v.2).isSome with
  | some v => .issue v.1 v.2
  | none =>
    match (ownEvents s).find? (enabled s) with
    | some i => .event i
    | none => .tick 1

/-- One turn. An instruction that has an encoding is no event. -/
def runTurn (t : Turn) (s : State) : Host.Outcome State Fault Refusal :=
  match t with
  | .event i => if (encode i).isNone then exec i s else .next s
  | .issue p k =>
    match issueTurn s p k with
    | .run i s1 => exec i s1
    | .none s1 => .next (bumpFree s1)
  | .tick n => .next (ticks n s)
  | .outer pa b => .next (if paRegion pa = 1 ∨ paRegion pa = 2 then physPut s pa [b] else s)

/-! One instruction placed for the next step (MODEL, assumption 10). -/

/-- Physical memory with a table of five levels from 0 that maps virtual page 0 to the frame at 0x50000, and there a
block of the parcels `ps`. -/
def codeMem (m : List Host.Cell) (ps : List Parcel) : List Host.Cell :=
  let table := (List.range 5).foldl (fun m i =>
    memPut m (0x10000 * i) 8 (0x10000 * (i + 1) + (if i = 4 then 0x3B else 1))) (memClear m 0 0x60000)
  (ps.zipIdx).foldl (fun m p => memPut m (0x50002 + 2 * p.2) 2 p.1.toNat) (memPut table 0x50000 2 (256 * ps.length))

/-- The context, queue-less, that runs it: supervisor, no reserve, no handler. -/
def codeContext : Context :=
  { ptb := 0, sup := true, ocap := 0, gplu := 0, spl := 0, orb := 0, spa := 0, spf := 64, save := 0, csb := 0,
    desc := List.replicate 128 0, share := 1, pdl := 0, wdlim := 0, bintmr := 0, detmode := false, trapbase := 0,
    preq := false, forced := false, reqAge := 0, csrPend := [], cstate := 0, cerr := 0, nerr := 0, cause := 0, where_ := 0,
    resident := true, saving := false, restoring := none, queues := [],
    pages := [⟨0, 1, 0, true, true, true, true, true, 0, none⟩], tables := [], bufs := [] }

def codePacket (g : Nat) : Packet :=
  { num := g, seq := 0, kind := 1, prio := 0, det := false, roles := 0, irq := false, s := 1, n := 1, w := 1, dmask := 0x10000,
    gran := 32, scr := 0x10000, spl := 1, entry := 0, args := 0, pbuf := 0, deps := [] }

/-- Context 0 with one launched wave on core 0 of G0 whose next instruction has the parcels `ps`, and that core's first
scheduler to move next. -/
def placeCode (s : State) (ps : List Parcel) : State :=
  let p := 512
  let g := s.nextGrid
  let u := s.nextUid
  let w := { Wave.start 0 p 0 ⟨none, 0⟩ 32 0 g 0 0 false false 0 (-1) (-1) s.cycle with regs := argRegs 0 }
  let gr : Grid := ⟨0, 0, codePacket g, false, [16], [1], [], [(0, ⟨p, 0, [], [], [], false, false, [], []⟩)], [], [], false⟩
  { s with
    mem := codeMem s.mem ps, undefMem := rangesDrop s.undefMem 0 0x60000, ctxs := assocSet s.ctxs 0 codeContext,
    hub := { s.hub with halted := false, online := s.hub.online ||| 0x10001, frames := assocSet s.hub.frames 0 0x60000 },
    banks := assocSet s.banks (16 * p) ⟨0, 0, [], [], [], [], [], [], [], [], []⟩,
    cores := assocSet s.cores p Core.empty,
    waves := assocSet (s.waves.filter fun e => e.2.core != p) u w, grids := assocSet s.grids g gr,
    nextUid := u + 1, nextGrid := g + 1, agenda := [.issue p 0] }

end Sys2Proof.Machine
end

