-- ==== Sys2Proof/Machine/Step.lean ====
section
/-!
DEFINITION. One step of the package: the turn that the state names first, or where it names none the package's own
next move (assumption 6).
-/

namespace Sys2Proof.Machine

def step (s : State) : Host.Outcome State Fault Refusal :=
  match s.agenda with
  | t :: r => runTurn t { s with agenda := r }
  | [] => runTurn (ownTurn s) s

/-- `s` with the instruction of a table word placed as the next to issue (assumption 10). -/
def State.withFetchWord (s : State) (nbits w : Nat) : State := placeCode s (tableParcels nbits w)

end Sys2Proof.Machine
end

