-- ==== Sys2Proof/Safety.lean ====
section
/-!
DEFINITION. What statements say about a step: when an instruction may run, what a register holds in a lane, and
which parts of a state stay as they are.
-/

namespace Sys2Proof.Machine

/-- A fragment issues `i`, and no cause of 11 R286 stands before the instruction's own. -/
def MayRun (i : Instr) (s : State) (k : Issue) : Prop := getIssue s = some k ∧ preCause i s k = none

/-- The word stored for lane `l` of register `r`, whether or not its latency bound has passed. -/
def held (w : Wave) (r l : Nat) : Word := (assocGet w.regs (64 * r + l)).getD 0

/-- The words of a value of one register, or of two, lowest register first. -/
def valWords (n : Nat) (v : Dword) : List Word :=
  if n = 2 then [v.extractLsb' 0 32, v.extractLsb' 32 32] else [v.extractLsb' 0 32]

/-- Nothing but wave `u` and the counter of free values has changed. -/
def OnlyWave (s t : State) (u : Nat) : Prop :=
  t = { s with waves := t.waves, free := t.free } ∧ ∀ v, v ≠ u → assocGet t.waves v = assocGet s.waves v

/-- Every byte of memory reads as before, and the same bytes are undefined. -/
def SameBytes (s t : State) : Prop := (∀ a, memRead t.mem a = memRead s.mem a) ∧ t.undefMem = s.undefMem

/-- The fragment stands past instruction `i`, the wave's others where they were, and the clock of each of its quads
has advanced by 1. -/
def Advanced (i : Instr) (k : Issue) (w' : Wave) : Prop :=
  (∃ f', w'.frag? k.lead = some f' ∧ f'.quads = k.f.quads ∧ f'.park = .none ∧
    f'.pc = k.f.pc + BitVec.ofNat 80 (2 * i.parcels)) ∧
  (∀ q, q ≠ k.lead → w'.frag? q = k.w.frag? q) ∧
  ∀ q, q < 16 → clockOf w' q = clockOf k.w q + (if k.f.quads.getLsbD q then 1 else 0)

/-- Registers from `d` hold the words `f l` in each lane `l` of `ls`; every other lane of every register is as
before. -/
def RegsHold (w w' : Wave) (d : Nat) (ls : LaneMask) (f : Nat → List Word) : Prop :=
  (∀ l j v, l < 64 → ls.getLsbD l = true → (f l)[j]? = some v → held w' (d + j) l = v) ∧
  ∀ l r, l < 64 → (ls.getLsbD l = false ∨ r < d ∨ d + (f l).length ≤ r) → held w' r l = held w r l

/-- Of the wave, only registers and what belongs to their latency, its fragments and its clocks differ: masks,
condition codes, trap registers, `FPSTAT`, `FPMODE`, batches and the trap window are as before. -/
def RegsOnly (w w' : Wave) : Prop :=
  w' = { w with regs := w'.regs, undef := w'.undef, boundMax := w'.boundMax, clocks := w'.clocks, frags := w'.frags }

/-- Lanes `ls` of registers `d` to `d` + n − 1 are undefined until `b` cycles have passed; from then on they are
not, unless something earlier still makes them so (04 R94, 13 R328). -/
def UndefinedFor (s : State) (w w' : Wave) (d n : Nat) (ls : LaneMask) (b : Nat) : Prop :=
  ∀ r l c, d ≤ r → r < d + n → l < 64 → ls.getLsbD l = true →
    (c < s.cycle + b → undefAt { s with cycle := c } w' r l = true) ∧
    (s.cycle + b ≤ c → (∀ u ∈ w.undef, ¬(u.reg = r ∧ u.lanes.getLsbD l = true)) →
      undefAt { s with cycle := c } w' r l = false)

/-- The fragment issues nothing before the cycles of `GAP` have passed, and its promotion is over (11 R277, 13 R328). -/
def GapHolds (i : Instr) (s : State) (k : Issue) (w' : Wave) : Prop :=
  ∀ f', w'.frag? k.lead = some f' → s.cycle + 1 + gapOf i ≤ f'.readyAt ∧ f'.promoted = none

/-- A register instruction of latency bound `b` has run: the `n` words `f l` in the registers from `d` of each active
lane `l`, and nothing else. -/
def LaneResult (i : Instr) (s t : State) (k : Issue) (d n b : Nat) (f : Nat → List Word) : Prop :=
  OnlyWave s t k.uid ∧ SameBytes s t ∧
  ∃ w', assocGet t.waves k.uid = some w' ∧ Advanced i k w' ∧ RegsOnly k.w w' ∧ RegsHold k.w w' d (k.act s) f ∧
    UndefinedFor s k.w w' d n (k.act s) b ∧ GapHolds i s k w'

/-- Sticky flags as they stand once every bound has passed by cycle `c` (05 R125). -/
def flagsAt (s : State) (w : Wave) (c : Nat) : Word := readFpstat { s with cycle := c } w

/-- As `LaneResult`, with the flags `fl l` of each active lane `l` raised in `FPSTAT` when the bound has passed, and the
fragment held until then while an enable is set (05 R126). -/
def FloatResult (i : Instr) (s t : State) (k : Issue) (d n b : Nat) (f : Nat → List Word) (fl : Nat → Flags) : Prop :=
  OnlyWave s t k.uid ∧ SameBytes s t ∧
  ∃ w', assocGet t.waves k.uid = some w' ∧ Advanced i k w' ∧
    w' = { k.w with regs := w'.regs, undef := w'.undef, boundMax := w'.boundMax, clocks := w'.clocks,
                    frags := w'.frags, fpstat := w'.fpstat, fpPend := w'.fpPend } ∧
    RegsHold k.w w' d (k.act s) f ∧ UndefinedFor s k.w w' d n (k.act s) b ∧ GapHolds i s k w' ∧
    (fpEnables s k.w ≠ 0 → ∀ f', w'.frag? k.lead = some f' → s.cycle + b ≤ f'.readyAt) ∧
    ∀ c, s.cycle + b ≤ c → (∀ p ∈ k.w.fpPend, p.2 ≤ c) → ∀ j, j < 32 →
      (flagsAt s w' c).getLsbD j = ((flagsAt s k.w c).getLsbD j || (k.actList s).any fun l => bitOf (fl l) j)

/-- `exec` answers a next state, and of it `P` holds. -/
def Completes (i : Instr) (s : State) (P : State → Prop) : Prop := ∃ t, exec i s = .next t ∧ P t

/-- The words of an integer modulo 2^32, or modulo 2^64 for `.I64`, lowest first (16 R387). -/
def intWords (t : ITy) (r : Int) : List Word :=
  match t with
  | .i64 => [BitVec.ofInt 32 r, BitVec.ofInt 32 (r / 2 ^ 32)]
  | _ => [BitVec.ofInt 32 r]

/-- An instruction of the integer class with destination `d` of type `t` completes with value `f l` in lane `l`. -/
def IntCompletes (i : Instr) (t : ITy) (d : Reg) (f : State → Issue → Nat → Int) : Prop :=
  ∀ s k, MayRun i s k → Completes i s fun s' => LaneResult i s s' k d.toNat t.regs 4 fun l => intWords t (f s k l)

/-- As `IntCompletes`, with the bits given: `n` registers. -/
def BitsComplete (i : Instr) (n : Nat) (d : Reg) (f : State → Issue → Nat → Dword) : Prop :=
  ∀ s k, MayRun i s k → Completes i s fun s' => LaneResult i s s' k d.toNat n 4 fun l => valWords n (f s k l)

/-- An enabled flag of an active lane makes the instruction trap (05 R127). -/
def TrapsOn (s : State) (k : Issue) (fl : Nat → Flags) (l : Nat) : Prop :=
  (k.act s).getLsbD l = true ∧ k.w.window = none ∧ fl l &&& fpEnables s k.w ≠ 0

/-- The trap frame of a wave stands mapped for access `a`, and does not migrate (04 R106, 06 R168). -/
def FrameMapped (s : State) (c : Context) (w : Wave) (a : Acc) : Prop :=
  migrating c (frameAddr c w).toNat = false ∧ ∃ pa leaf, xlate s c (frameAddr c w).toNat a = .ok (pa, leaf)

/-- The fragment can enter its handler at once: no window is open, nothing of its wave waits, no lower leading quad of it
traps in the same cycle, a handler is set, the reserve suffices, and where the trap frame is needed it is mapped and no page of it migrates
(04 R105, R109, R110; 11 R289). -/
def CanTrap (s : State) (k : Issue) : Prop :=
  k.w.window = none ∧ k.w.trapWait = none ∧ k.w.report = none ∧ lowerDue k.c k.w k.lead = false ∧ k.c.trapbase ≠ 0 ∧
  (reserveNeed k.w = 0 ∨ trapLine s k.w.core = [] ∧ reserveUsed s k.w.core + reserveNeed k.w ≤ 8) ∧
  (30 < k.w.gran → FrameMapped s k.c k.w .write)

/-- The fragment stands at the first instruction of its handler, its window open: what trap entry saves and sets (04
R105, 11 R288, R289). The state `s` is that before the instruction. -/
def Trapped (s t : State) (k : Issue) (c : Cause) (rep : Bool) (tlm : LaneMask) (tval : VA) : Prop :=
  t = { s with waves := t.waves, mem := t.mem, undefMem := t.undefMem, past := t.past, free := t.free } ∧
  (∀ v, v ≠ k.uid → assocGet t.waves v = assocGet s.waves v) ∧
  (k.w.gran ≤ 30 → SameBytes s t) ∧
  ∃ w' f' v, assocGet t.waves k.uid = some w' ∧ w'.frag? k.lead = some f' ∧ w'.window = some v ∧
    w'.tlm = tlm ∧ w'.tpc = k.f.pc ∧ w'.tval = tval ∧
    w'.tcause = BitVec.ofNat 32 (c.code + if rep then 256 else 0) ∧
    f'.quads = k.f.quads ∧ f'.pc = k.c.trapbase ∧ f'.header = true ∧ f'.park = .none ∧
    v.quads = k.f.quads ∧ v.mask = k.w.mask ∧ v.cc = k.w.cc ∧ v.tpc = k.f.pc ∧ v.blk = k.f.blk ∧ v.fin = k.f.fin ∧
    v.left = k.f.left ∧ w'.mask = k.w.mask ∧ w'.cc = k.w.cc ∧ w'.live = k.w.live ∧ w'.clocks = k.w.clocks ∧
    w'.watchdog = 0 ∧ ∀ q, q ≠ k.lead → w'.frag? q = k.w.frag? q

/-- What trap entry changes of the trapping wave: its trap registers, its window, its fragments, the watchdog, and of the registers
only which of `v240` to `v255` are undefined (04 R105, R107; 11 R288). -/
def EntryOf (w w' : Wave) : Prop :=
  w' = { w with tlm := w'.tlm, tpc := w'.tpc, tval := w'.tval, tcause := w'.tcause, trapAt := w'.trapAt, window := w'.window,
                trapWait := w'.trapWait, watchdog := w'.watchdog, csrOwner := w'.csrOwner, undef := w'.undef, frags := w'.frags } ∧
  ∃ us, w'.undef = w.undef ++ us ∧ ∀ x ∈ us, 240 ≤ x.reg

/-- Memory outside the trap frame of a wave, and outside the leaf entry that maps it, reads as before. -/
def OutsideFrame (s t : State) (c : Context) (w : Wave) : Prop :=
  ∀ pa leaf, xlate s c (frameAddr c w).toNat .write = .ok (pa, leaf) →
    ∀ a, a ≠ leaf → a < pa ∨ pa + 4096 ≤ a → memRead t.mem a = memRead s.mem a

/-- The instruction has trapped with none of its own effect: beside what trap entry changes, the wave is as before, its registers,
flags, modes and batches with it, and so is memory outside its trap frame (11 R285, R286, R288). -/
def TrappedOnly (s t : State) (k : Issue) (c : Cause) (rep : Bool) (tlm : LaneMask) (tval : VA) : Prop :=
  Trapped s t k c rep tlm tval ∧ OutsideFrame s t k.c k.w ∧ ∃ w', assocGet t.waves k.uid = some w' ∧ EntryOf k.w w'

/-- A floating-point instruction with destination `d` of `n` registers and bound `b`: where no lane has an enabled flag,
it completes with value and flags `f l` in lane `l`; where some lane has, it traps, the other lanes written, every
lane's flags raised and TRIG set (05 R125 to R127). -/
def FloatCompletes (i : Instr) (d : Reg) (n b : Nat) (f : State → Issue → Nat → Dword × Flags) : Prop :=
  ∀ s k, MayRun i s k →
    ((∀ l, l < 64 → ¬TrapsOn s k (fun l => (f s k l).2) l) → Completes i s fun s' =>
      FloatResult i s s' k d.toNat n b (fun l => valWords n (f s k l).1) fun l => (f s k l).2) ∧
    ∀ m : LaneMask, m ≠ 0 → (∀ l, l < 64 → (m.getLsbD l = true ↔ TrapsOn s k (fun l => (f s k l).2) l)) → CanTrap s k →
      Completes i s fun s' => Trapped s s' k .floatingPoint false m 0 ∧
        ∃ w', assocGet s'.waves k.uid = some w' ∧
          RegsHold k.w w' d.toNat (k.act s &&& ~~~m) (fun l => valWords n (f s k l).1) ∧
          (∀ c, s.cycle + b ≤ c → (∀ p ∈ k.w.fpPend, p.2 ≤ c) → ∀ j, j < 5 →
            (flagsAt s w' c).getLsbD j =
              ((flagsAt s k.w c).getLsbD j || (k.actList s).any fun l => bitOf (f s k l).2 j)) ∧
          ∀ j, j < 5 → w'.fpstat.getLsbD (16 + j) =
            (laneList m).any fun l => bitOf ((f s k l).2 &&& fpEnables s k.w) j

/-- A batched instruction has issued: the fragment goes on, a new entry of the open batch lists the lanes `ls`, each in
flight, faulted or held, and earlier entries are as they were or, with every operation done, gone. Memory, registers,
masks, codes and flags are as before (06 R149 to R154). -/
def JoinsBatch (i : Instr) (s t : State) (k : Issue) (ls : LaneMask) : Prop :=
  SameBytes s t ∧ t.ctxs = s.ctxs ∧ t.grids = s.grids ∧ t.cycle = s.cycle ∧
  (∀ v, v ≠ k.uid → assocGet t.waves v = assocGet s.waves v) ∧
  ∃ w', assocGet t.waves k.uid = some w' ∧ Advanced i k w' ∧ GapHolds i s k w' ∧
    w' = { k.w with entries := w'.entries, nextSeq := k.w.nextSeq + 1, undef := w'.undef, clocks := w'.clocks,
                    frags := w'.frags } ∧
    (∀ e ∈ w'.entries, e.seq ≠ k.w.nextSeq → e ∈ k.w.entries) ∧
    (ls ≠ 0 → ∃ e ∈ w'.entries, e.seq = k.w.nextSeq ∧ e.batch = k.w.open_ ∧ e.instr = i ∧ e.pc = k.f.pc ∧
      e.quads = k.f.quads ∧
      ∀ l, l < 64 → ((∃ st, assocGet e.lanes l = some st ∧ st ≠ .done) ↔ ls.getLsbD l = true))

/-- Lane `l` of entry `seq` of wave `u` is in flight with operation `op`, and may be performed: nothing that comes before
it is in flight, faulted or held, and in deterministic mode its turn has come (07 R174 to R177, 10 R238). -/
def Performable (s : State) (u seq l : Nat) (w : Wave) (e : Entry) (op : Op) (addr : VA) : Prop :=
  assocGet s.waves u = some w ∧ w.entries.find? (·.seq == seq) = some e ∧ assocGet e.lanes l = some (.inflight op addr) ∧
  before s w e l op LaneSt.flying = false ∧ before s w e l op LaneSt.stuck = false ∧ laneStuck w seq l = false ∧
  laneTurn s u w e l = true ∧ (assocGet s.ctxs w.ctx).isSome = true ∧ l < 64

/-- Lane `l` of entry `seq` of wave `u` is in flight with operation `op`. -/
def AccessPending (s : State) (u seq l : Nat) (w : Wave) (e : Entry) (op : Op) (addr : VA) : Prop :=
  assocGet s.waves u = some w ∧ w.entries.find? (·.seq == seq) = some e ∧ assocGet e.lanes l = some (.inflight op addr) ∧
  (assocGet s.ctxs w.ctx).isSome = true

/-- The lane's access is performed next: it reaches no peer and nothing stands before it, or its request to a peer has been
sent and may be answered (12 R301). -/
def AccessDue (s : State) (u seq l : Nat) (w : Wave) (e : Entry) (op : Op) (addr : VA) : Prop :=
  (Performable s u seq l w e op addr ∧ op.peerPa = none) ∨
  ∃ p c num, AccessPending s u seq l w e (.sent p c num op) addr ∧ answerable s p c num op = true ∧ l < 64

/-- The bytes that a load of `n` bytes at `loc` gets: where it is a `peer`'s, its answer's from byte `off`; else those that stand
there, or for package and host memory, unless it is an acquire of die scope or wider, in each line those of its slice group's copy
(06 R147, R148). -/
def LoadBytes (s : State) (w : Wave) (e : Entry) (peer : Bool) (loc : Loc) (n off : Nat) (resp : BitVec 128)
    (bs : List Byte) : Prop :=
  if peer then bs = natLe n (resp.toNat / 2 ^ (8 * off))
  else bs = readLoc s loc n ∨ (farAcquire e.instr = false ∧ ∃ pa leaf parts, loc = .phys pa leaf ∧ paRegion pa < 2 ∧
    bs = parts.flatten ∧ List.Forall₂ (fun v b => b = physGet s v.1 v.2 ∨
      ∃ c, assocGet s.hub.lineCopies (copyKey w.core v.1) = some c ∧ b = sliceBytes c (v.1 % 128) v.2) (lineParts pa n) parts)

/-- No word that shares a byte with the `n` bytes at `loc` was updated in this cycle by a semaphore operation or a join count. -/
def NoUpdateAt (s : State) (loc : Loc) (n : Nat) : Prop := ∀ h ∈ s.updates, (Op.load h.1 4 0).overlaps (.load loc n 0) = false

/-- An operation of lane `l` that reaches the ranges `rs` may end: it reaches no peer, or every request it sent may be answered
(12 R301). -/
def Answered (s : State) (c : Context) (e : Entry) (l : Nat) (rs : List ((Nat × Nat) × Bool)) : Prop :=
  (e.asks.filter (·.lane == l) = [] ∧ asksOf s c l rs = []) ∨
    (e.asks.filter (·.lane == l) ≠ [] ∧ ∀ a ∈ e.asks, a.lane = l → a.answers s = true)

/-- An access performed has set A, and a write D, in the leaf that translated it, where that still is one (06 R141). -/
def LeafMarked (s t : State) (loc : Loc) (wr : Bool) : Prop :=
  match loc with
  | .phys _ leaf => memRead t.mem leaf =
      if (memRead s.mem leaf).toNat % 4 = 3 then memRead s.mem leaf ||| (if wr then 0xC0 else 0x40) else memRead s.mem leaf
  | .share _ _ _ => True

/-- Lane `l` of entry `seq` is done, or the entry is gone. -/
def LaneDone (w : Wave) (seq l : Nat) : Prop := ∀ e ∈ w.entries, e.seq = seq → assocGet e.lanes l = some .done

/-- Context `x` has faulted: CSTATE and CERR are 3, CAUSE names the cause (06 R158, 11 R290). -/
def ContextFaulted (t : State) (x : Nat) (e : Cause) : Prop :=
  ∃ c, assocGet t.ctxs x = some c ∧ c.cstate = 3 ∧ c.cerr = 3 ∧ c.cause = e.code

/-- The oldest command of function `fn` is the block `b` at `pa`, of opcode `op`, and no check of firmware refuses it:
`fields` are the command's own fields with whether each is at fault (12 R295 to R297). -/
def RomAccepts (op fn : Nat) (s : State) (pa : Nat) (b : List Byte) (fields : List (Nat × Bool)) : Prop :=
  cmdHead s fn = some (pa, b) ∧ fieldAt b 0 2 = op ∧ s.hub.endpointUp = true ∧ (s.hub.halted = true → op ∈ haltCodes) ∧
  (fn < 16 → op ∉ pfCodes ∧ (op ∈ ctxCodes → romCtx b = fn)) ∧
  (op ∈ ctxCodes → (assocGet s.ctxs (romCtx b)).isSome = true) ∧ (∀ x ∈ fields ++ romSpare op b, x.2 = false) ∧
  Memory.wf s.mem = true

/-- The command has ended: STATUS holds the result code and the offset of the first field at fault, the block is no longer
pending, and the function's mailbox interrupt is raised. -/
def RomEnds (fn pa st off : Nat) (s t : State) : Prop :=
  memNat t.mem (pa + 4) 4 = st + off * 2 ^ 16 ∧ t.hub.irqs.head? = some (fn, if fn = 16 then 0 else 9) ∧
  ∃ a l, assocGet s.hub.cmds fn = some (a :: l) ∧ assocGet t.hub.cmds fn = some l

/-- Nothing stands before a read of `n` bytes by the lanes `ls`, at `pa` and the virtual addresses `va`: no access of the
same lane to those bytes is in flight or in the fault list, no `SPAWN` of it whose join word shares one is in flight, and no acquire
that comes before the fragment is unperformed (07 R175, R177). -/
def ReadsFree (s : State) (k : Issue) (ls : LaneMask) (n : Nat) (pa : Nat → Nat) (va : Nat → VA) : Prop :=
  ∀ e ∈ k.w.entries, isMem e.instr = true ∨ isSpawn e.instr = true → ∀ x ∈ e.lanes,
    (k.follows e = true → x.2.flying = false ∧ x.2.stuck = false) ∧
    (ls.getLsbD x.1 = true → match x.2 with
      | .inflight o _ => o.meets s k.c (.load (.phys (pa x.1) 0) n 0) = false
      | .faulted _ _ p => isMem e.instr = true → p.toNat + 16 ≤ (va x.1).toNat ∨ (va x.1).toNat + n ≤ p.toNat
      | .held => isMem e.instr = false
      | .done => True)

/-- The address of a location's leaf entry, where it has one. -/
def Loc.leafIs (loc : Loc) (a : Nat) : Prop := match loc with | .phys _ leaf => a = leaf | .share _ _ _ => False

end Sys2Proof.Machine
end

