-- ==== Sys2Proof/Certificates/Slice0/Obligations.lean ====
section
/-!
DEFINITION. What is stated about the model, for the provers: one `def Obligations.<Name> : Prop` each.
-/

open Sys2Proof Sys2Proof.Machine

/-! Integer class (15, 16, 17). -/

/-- 16 R386, R387: the exact result of the row, clamped to the type with SAT, modulo 2^32 or 2^64; `IMULH` gives the
high half. Lanes, latency and everything else as `LaneResult` says; none touches `FPSTAT`. 16 R388: the relation code
of a and b, 1, 2 or 4, in one register. 17 R404, R405: shifts by any amount n of 32 bits. A right shift is the floor
of division by 2^n, so it fills with the sign for `.I32` and `.I64`; `ROT` takes n modulo 32. -/
def Obligations.IntegerArithmeticComparisonAndShifts : Prop :=
  (let put (t : ITy) (x : Long) (r : Int) : Int := if (longMod x).sat then min (max r (itLo t)) (itHi t) else r
   let a (t : ITy) (x : Long) (s : State) (k : Issue) (l : Nat) : Int := itVal t (srcA s k.w x t.regs l)
   let b (t : ITy) (x : Long) (s : State) (k : Issue) (l : Nat) : Int := itVal t (srcB s k.w x .int t.regs l)
   let c (t : ITy) (x : Long) (s : State) (k : Issue) (l : Nat) : Int := itVal t (srcC s k.w x t.regs l)
   let h (u : Bool) : ITy := if u then .u32 else .i32
   ∀ t x g d r u (bt : BTy),
     IntCompletes (.iadd t x) t x.d (fun s k l => put t x (a t x s k l + b t x s k l)) ∧
     IntCompletes (.isub t x) t x.d (fun s k l => put t x (a t x s k l - b t x s k l)) ∧
     IntCompletes (.imul t x) t x.d (fun s k l => put t x (a t x s k l * b t x s k l)) ∧
     IntCompletes (.imad t x) t x.d (fun s k l => put t x (a t x s k l * b t x s k l + c t x s k l)) ∧
     IntCompletes (.imin t x) t x.d (fun s k l => put t x (min (a t x s k l) (b t x s k l))) ∧
     IntCompletes (.imax t x) t x.d (fun s k l => put t x (max (a t x s k l) (b t x s k l))) ∧
     IntCompletes (.imulh u x) (h u) x.d
       (fun s k l => put (h u) x (a (h u) x s k l * b (h u) x s k l / 2 ^ 32)) ∧
     IntCompletes (.iabsB64 bt x) (btOf bt) x.d (fun s k l => put (btOf bt) x |a (btOf bt) x s k l|) ∧
     IntCompletes (.iabsA32 g bt d r) (btOf bt) d (fun s k l => |itVal (btOf bt) (readVal s k.w bt.regs r.toNat l)|)) ∧
  (∀ t x, BitsComplete (.icmp t x) 1 x.d fun s k l =>
     let a := itVal t (srcA s k.w x t.regs l)
     let b := itVal t (srcB s k.w x .int t.regs l)
     if a < b then 0b0001 else if a = b then 0b0010 else 0b0100) ∧
  (∀ t (bt : BTy) x,
     let n (s : State) (k : Issue) (l : Nat) : Nat := (srcB s k.w x .int 1 l).toNat
     IntCompletes (.shl bt x) (btOf bt) x.d
       (fun s k l => itVal (btOf bt) (srcA s k.w x bt.regs l) * 2 ^ n s k l) ∧
     IntCompletes (.shr t x) t x.d (fun s k l => itVal t (srcA s k.w x t.regs l) / 2 ^ n s k l) ∧
     ∃ f : State → Issue → Nat → Dword, BitsComplete (.rot x) 1 x.d f ∧
       ∀ s k l j, j < 32 → (f s k l).getLsbD ((j + n s k l) % 32) = (srcA s k.w x 1 l).getLsbD j)

/-- 15 R357; 16 R398, R399; 17 R421: bitwise operations on 32 or 64 bits, in every form. 16 R390, R395; 17 R408:
copies of a register or an immediate, selection by a nonzero c, and the lane's number. -/
def Obligations.BitwiseMovesSelectAndLane : Prop :=
  (let a (t : BTy) (x : Long) (s : State) (k : Issue) (l : Nat) : Dword := srcA s k.w x t.regs l
   let b (t : BTy) (x : Long) (s : State) (k : Issue) (l : Nat) : Dword := srcB s k.w x .int t.regs l
   ∀ t x g d r,
     BitsComplete (.and t x) t.regs x.d (fun s k l => a t x s k l &&& b t x s k l) ∧
     BitsComplete (.or t x) t.regs x.d (fun s k l => a t x s k l ||| b t x s k l) ∧
     BitsComplete (.xor t x) t.regs x.d (fun s k l => a t x s k l ^^^ b t x s k l) ∧
     BitsComplete (.andn t x) t.regs x.d (fun s k l => a t x s k l &&& ~~~(b t x s k l)) ∧
     BitsComplete (.notB64 t x) t.regs x.d (fun s k l => ~~~(a t x s k l)) ∧
     BitsComplete (.notA32 g t d r) t.regs d (fun s k l => ~~~(readVal s k.w t.regs r.toNat l))) ∧
  (∀ (t : BTy) x g d r,
     BitsComplete (.movA32 g t d r) t.regs d (fun s k l => readVal s k.w t.regs r.toNat l) ∧
     BitsComplete (.movB64 t x) t.regs x.d (fun s k l =>
       match x.tail with
       | .imm v => match t with | .i32 => v.zeroExtend 64 | .i64 => v.signExtend 64
       | .regs _ _ _ => readVal s k.w t.regs x.a.toNat (permA x.perm l)) ∧
     BitsComplete (.sel t x) t.regs x.d (fun s k l =>
       if srcC s k.w x 1 l ≠ 0 then srcA s k.w x t.regs l else srcB s k.w x .int t.regs l) ∧
     BitsComplete (.lane g d) 1 d (fun _ _ l => BitVec.ofNat 64 l))

/-- 15 R368, 16 R398: of a source of n bits, the number of 1 bits; the zero bits above the highest 1, n where there is
none; the bits in reverse order. 15 R363, R364: P is bits 4:0 of the control word and W bits 13:8; the field has
min(W, 32, 32 − P) bits. `BFX` copies it down, sign-filled for `.I32`; `BFI` puts the low bits of a over it in c. -/
def Obligations.BitCountsAndBitFields : Prop :=
  (let ones (n : Nat) (v r : Dword) : Prop := r.toNat = ((Finset.range n).filter fun j => v.getLsbD j = true).card
   let lead (n : Nat) (v r : Dword) : Prop :=
     r.toNat ≤ n ∧ (∀ j, j < n → n - r.toNat ≤ j → v.getLsbD j = false) ∧
       (r.toNat < n → v.getLsbD (n - 1 - r.toNat) = true)
   let rev (n : Nat) (v r : Dword) : Prop := ∀ j, r.getLsbD j = (decide (j < n) && v.getLsbD (n - 1 - j))
   let unary (i : Instr) (t : BTy) (d : Reg) (src : State → Issue → Nat → Dword) (P : Dword → Dword → Prop) : Prop :=
     ∃ f : State → Issue → Nat → Dword, (∀ s k l, P (src s k l) (f s k l)) ∧ BitsComplete i t.regs d f
   ∀ t x g d r,
     let sa (s : State) (k : Issue) (l : Nat) : Dword := readVal s k.w t.regs r.toNat l
     let sb (s : State) (k : Issue) (l : Nat) : Dword := srcA s k.w x t.regs l
     unary (.popcA32 g t d r) t d sa (ones (btBits t)) ∧ unary (.popcB64 t x) t x.d sb (ones (btBits t)) ∧
     unary (.clzA32 g t d r) t d sa (lead (btBits t)) ∧ unary (.clzB64 t x) t x.d sb (lead (btBits t)) ∧
     unary (.brevA32 g t d r) t d sa (rev (btBits t)) ∧ unary (.brevB64 t x) t x.d sb (rev (btBits t))) ∧
  (let p (k : Dword) : Nat := k.toNat % 32
   let w (k : Dword) : Nat := min (k.toNat / 256 % 64) (min 32 (32 - k.toNat % 32))
   ∀ u x,
     (∃ f : State → Issue → Nat → Dword, BitsComplete (.bfx u x) 1 x.d f ∧ ∀ s k l j, j < 32 →
       let a := srcA s k.w x 1 l
       let c := srcB s k.w x .int 1 l
       (f s k l).getLsbD j =
         if j < w c then a.getLsbD (p c + j) else !u && decide (0 < w c) && a.getLsbD (p c + w c - 1)) ∧
     (∃ f : State → Issue → Nat → Dword, BitsComplete (.bfi x) 1 x.d f ∧ ∀ s k l j, j < 32 →
       let c := srcB s k.w x .int 1 l
       (f s k l).getLsbD j =
         if p c ≤ j ∧ j < p c + w c then (srcA s k.w x 1 l).getLsbD (j - p c) else (srcC s k.w x 1 l).getLsbD j))

/-- 15 R362, 16 R385: a pair with a bit for each active lane of nonzero value, or for each lane of the fragment whose
mask bit is 1; other lanes' bits are 0. 17 R410: the word of lane b of operand A, 0 for b above 63, with a bound of 6
cycles. 15 R354: the triple's bits 79:0 plus the signed offset, modulo 2^80; bits 31:16 of the third register are
0xFFFF where the source had any of them set and 0 elsewhere. -/
def Obligations.BallotShuffleAndAddressAdd : Prop :=
  (let pair (i : Instr) (d : Reg) (bit : State → Issue → Nat → Prop) : Prop :=
     ∃ m : State → Issue → LaneMask, (∀ s k l, l < 64 → ((m s k).getLsbD l = true ↔ bit s k l)) ∧
       BitsComplete i 2 d fun s k _ => m s k
   ∀ x g d r,
     pair (.ballotA32 g d r) d (fun s k l => (k.act s).getLsbD l = true ∧ readLane s k.w r.toNat l ≠ 0) ∧
     pair (.ballotB64 x) x.d
       (fun s k l => (k.act s).getLsbD l = true ∧ readLane s k.w x.a.toNat (permA x.perm l) ≠ 0) ∧
     pair (.getx g d) d (fun s k l => k.f.quads.getLsbD (l / 4) = true ∧ (readMask s k.w).getLsbD l = true)) ∧
  (∀ x s k, MayRun (.shuf x) s k → Completes (.shuf x) s fun s' =>
     LaneResult (.shuf x) s s' k x.d.toNat 1 6 fun l =>
       let b := (srcB s k.w x .int 1 l).toNat
       [if b < 64 then readLane s k.w x.a.toNat (permA x.perm b) else 0]) ∧
  (∀ x, ∃ f : State → Issue → Nat → List Word,
     (∀ s k l, ∃ lo mid hi, f s k l = [lo, mid, hi] ∧
       lo.toNat + 2 ^ 32 * mid.toNat + 2 ^ 64 * (hi.toNat % 2 ^ 16) =
         (((readTriple s k.w x.a.toNat (permA x.perm l)).toNat + (srcB s k.w x .int 2 l).toInt) % 2 ^ 80).toNat ∧
       hi.toNat / 2 ^ 16 = if tripleBad s k.w x.a.toNat (permA x.perm l) then 0xFFFF else 0) ∧
     ∀ s k, MayRun (.adda x) s k → Completes (.adda x) s fun s' =>
       LaneResult (.adda x) s s' k x.d.toNat 3 4 (f s k))

/-- 16 R397: `NOP` writes nothing; the fragment issues nothing before n further cycles have passed. 17 R409: `SETX`
loads the mask bits of the fragment's quads, active or not: 1 where the lane holds a thread and its word is not 0. A
reader before the bound of 4 sees each bit old or new, and the other quads' bits stay (13 R329). 15 R356: `ANYQ` and
`ALLQ` write the condition code of every quad of the fragment, from its active lanes with a nonzero word, as readers
from 4 cycles on see it; the other quads' codes stay. -/
def Obligations.NopSetxAndQuadFolds : Prop :=
  (∀ n s k, MayRun (.nop n) s k → Completes (.nop n) s fun s' =>
     OnlyWave s s' k.uid ∧ SameBytes s s' ∧
     ∃ w', assocGet s'.waves k.uid = some w' ∧ Advanced (.nop n) k w' ∧
       w' = { k.w with clocks := w'.clocks, frags := w'.frags } ∧
       ∀ f', w'.frag? k.lead = some f' → s.cycle + 1 + n.toNat ≤ f'.readyAt ∧
         (k.f.readyAt ≤ s.cycle + 1 + n.toNat → f'.readyAt = s.cycle + 1 + n.toNat)) ∧
  (∀ i r, (i = .setxS16 r ∨ ∃ g, i = .setxA32 g r) → ∀ s k, MayRun i s k → Completes i s fun s' =>
     OnlyWave s s' k.uid ∧ SameBytes s s' ∧
     ∃ w', assocGet s'.waves k.uid = some w' ∧ Advanced i k w' ∧
       w' = { k.w with mask := w'.mask, maskPend := w'.maskPend, boundMax := w'.boundMax, clocks := w'.clocks,
                       frags := w'.frags } ∧
       ∀ l, l < 64 →
         let new := if k.f.quads.getLsbD (l / 4) = true then
             decide ((k.w.spawned = true → l < k.w.nthreads) ∧ readLane s k.w r.toNat l ≠ 0)
           else k.w.mask.getLsbD l
         ∀ c, (∀ p ∈ k.w.maskPend, p.2.2 ≤ c) → s.cycle ≤ c →
           (s.cycle + 4 ≤ c → (readMask { s with cycle := c } w').getLsbD l = new) ∧
           ((readMask { s with cycle := c } w').getLsbD l = new ∨
             (readMask { s with cycle := c } w').getLsbD l = k.w.mask.getLsbD l)) ∧
  (∀ i all r,
     ((i = .anyqS16 r ∨ ∃ g, i = .anyqA32 g r) ∧ all = false) ∨ ((i = .allqS16 r ∨ ∃ g, i = .allqA32 g r) ∧ all = true) →
     ∀ s k, MayRun i s k → Completes i s fun s' =>
       OnlyWave s s' k.uid ∧ SameBytes s s' ∧
       ∃ w', assocGet s'.waves k.uid = some w' ∧ Advanced i k w' ∧
         w' = { k.w with cc := w'.cc, ccPend := w'.ccPend, boundMax := w'.boundMax, clocks := w'.clocks,
                         frags := w'.frags } ∧
         ∀ q, q < 16 → ∀ c, (∀ p ∈ k.w.ccPend, p.2 ≤ c) →
           if k.f.quads.getLsbD q = true then
             let act (l : Nat) : Prop := l / 4 = q ∧ (k.act s).getLsbD l = true
             let hit (l : Nat) : Prop := act l ∧ readLane s k.w r.toNat l ≠ 0
             s.cycle + 4 ≤ c →
               ∃ z n cy v, readCC { s with cycle := c } w' q = (z, n, cy, v) ∧ z = !cy ∧ n = false ∧
                 (v = true ↔ ∀ l, ¬act l) ∧
                 (cy = true ↔ if all then (∀ l, act l → hit l) ∧ ∃ l, act l else ∃ l, hit l)
           else readCC { s with cycle := c } w' q = readCC { s with cycle := c } k.w q)

/-! Float class and the transcendentals (05, 15, 16, 17). -/

/-- 15 R376, R377: the operation of the row on the decoded sources, rounded once in the direction of RND or
`FPMODE`.RM with SAT; flags and traps by `FloatCompletes`. 05 R120: NaN, infinity and zero operands of addition,
multiplication and fused multiply-add. 05 R118, R120; 15 R376, R377: of finite operands, the zeros among them, the
sum, the product and the fused result are the exact value rounded once; an exact zero has the sign of both terms, or
where they differ that which the direction gives. How an exact value is rounded, `RoundingSelectsTheRightValue`
states. -/
def Obligations.FloatArithmeticAndSpecialOperands : Prop :=
  (∀ t x,
     let fm := ftFmt t
     let b := match t with | .f64 => 10 | _ => 6
     let a (s : State) (k : Issue) (l : Nat) : FVal := fpDecode fm (fsrcA s k x fm t.regs l)
     let bb (s : State) (k : Issue) (l : Nat) : FVal := fpDecode fm (fsrcB s k x fm t.regs l)
     let cc (s : State) (k : Issue) (l : Nat) : FVal := fpDecode fm (fsrcC s k x fm t.regs l)
     let dir (s : State) (k : Issue) : Dir := dirOf (longMod x).rnd (effFpmode s k.w)
     let sat := (longMod x).sat
     FloatCompletes (.fadd t x) x.d t.regs b (fun s k l => fpOut (fpAdd fm (dir s k) sat (a s k l) (bb s k l))) ∧
     FloatCompletes (.fsub t x) x.d t.regs b (fun s k l => fpOut (fpAdd fm (dir s k) sat (a s k l) (bb s k l).flip)) ∧
     FloatCompletes (.fmul t x) x.d t.regs b (fun s k l => fpOut (fpMul fm (dir s k) sat (a s k l) (bb s k l))) ∧
     FloatCompletes (.ffma t x) x.d t.regs b
       (fun s k l => fpOut (fpFma fm (dir s k) sat (a s k l) (bb s k l) (cc s k l)))) ∧
  (∀ f dir sat (a b c : FVal),
     (a.isNaN || b.isNaN → fpAdd f dir sat a b = (fpNaN f, if a.isSig || b.isSig then flagNV else 0) ∧
       fpMul f dir sat a b = (fpNaN f, if a.isSig || b.isSig then flagNV else 0)) ∧
     (a.isNaN || b.isNaN || c.isNaN → (fpFma f dir sat a b c).1 = fpNaN f ∧
       ((fpFma f dir sat a b c).2 = flagNV ↔
         a.isSig || b.isSig || c.isSig || (a.isInf && b.isZero) || (a.isZero && b.isInf))) ∧
     (a.isInf → b.isInf → a.neg ≠ b.neg → fpAdd f dir sat a b = (fpNaN f, flagNV)) ∧
     (a.isInf → b.isZero → fpMul f dir sat a b = (fpNaN f, flagNV) ∧ fpMul f dir sat b a = (fpNaN f, flagNV)) ∧
     ∀ na ma ea nb, na ≠ nb → fpAdd f dir sat (.fin na ma ea) (.fin nb ma ea) = (fpZero f (dir == .rdn), 0)) ∧
  (∀ f dir sat (na nb nc : Bool) (ma mb mc : Nat) (ea eb ec : Int),
     let val (neg : Bool) (m : Nat) (e : Int) : ℚ := (if neg then -1 else 1) * (m : ℚ) * (2 : ℚ) ^ e
     let rounded (r : Nat × Flags) (x : ℚ) (zneg : Bool) : Prop :=
       (x = 0 → r = (fpZero f zneg, 0)) ∧
       (x ≠ 0 → ∃ (n : Nat) (e : Int), 0 < n ∧ |x| = (n : ℚ) * (2 : ℚ) ^ e ∧ r = fpRound f dir sat (decide (x < 0)) n 1 e)
     rounded (fpAdd f dir sat (.fin na ma ea) (.fin nb mb eb)) (val na ma ea + val nb mb eb)
       (if na = nb then na else dir == .rdn) ∧
     rounded (fpMul f dir sat (.fin na ma ea) (.fin nb mb eb)) (val na ma ea * val nb mb eb) (na != nb) ∧
     rounded (fpFma f dir sat (.fin na ma ea) (.fin nb mb eb) (.fin nc mc ec))
       (val na ma ea * val nb mb eb + val nc mc ec) (if (na != nb) = nc then nc else dir == .rdn))

/-- 05 R118: rounding, in every direction and for every format of 05 R111 with infinities. Where the exact positive or
negative value ±x does not overflow, the result is a value of the format on the side that the direction allows, none
of the format's values lies strictly between, to nearest none lies nearer and a tie goes to the even pattern, NX is
raised just where it differs from x, and an exact result raises no flag. -/
def Obligations.RoundingSelectsTheRightValue : Prop :=
  let val (m : Nat) (e : Int) : ℚ := m * (2 : ℚ) ^ e
  ∀ f dir neg (n d : Nat) e, f ∈ [fmtF64, fmtF32, fmtF16, fmtBF16, fmtE5M2] → 0 < n → 0 < d →
    let x : ℚ := (n : ℚ) / d * (2 : ℚ) ^ e
    let r := fpRound f dir false neg n d e
    bitOf r.2 2 = false →
    ∃ m q, fpDecode f r.1 = .fin neg m q ∧ (bitOf r.2 0 = true ↔ val m q ≠ x) ∧ (val m q = x → r.2 = 0) ∧
      ∀ p m' q', p < 2 ^ fmtBits f → fpDecode f p = .fin neg m' q' →
        let toZero := dir = .rtz ∨ (dir = .rup ∧ neg = true) ∨ (dir = .rdn ∧ neg = false)
        (toZero → val m q ≤ x ∧ (val m' q' ≤ x → val m' q' ≤ val m q)) ∧
        (dir ≠ .rne → ¬toZero → x ≤ val m q ∧ (x ≤ val m' q' → val m q ≤ val m' q')) ∧
        (dir = .rne → |val m q - x| ≤ |val m' q' - x| ∧
          (|val m q - x| = |val m' q' - x| → val m q = val m' q' ∨ r.1 % 2 = 0))

/-- 15 R378: `FMIN` and `FMAX` return the smaller and the larger operand, either of two equal ones, of two zeros of
unlike signs −0 and +0, or the canonical NaN; NV for a signalling NaN is their only flag. 15 R379, R380: the class
mask of the one bit that the table gives, without flags; the relation code of `FCMP`, with NV for a signalling NaN
alone. -/
def Obligations.FloatMinMaxClassAndCompare : Prop :=
  ((∀ t x,
     let fm := ftFmt t
     let b := match t with | .f64 => 10 | _ => 6
     let run (mx : Bool) (s : State) (k : Issue) (l : Nat) : Dword × Flags :=
       fpOut (fpMinMax fm mx (fsrcA s k x fm t.regs l) (fsrcB s k x fm t.regs l))
     FloatCompletes (.fmin t x) x.d t.regs b (run false) ∧ FloatCompletes (.fmax t x) x.d t.regs b (run true)) ∧
   ∀ f mx p q,
     let a := fpDecode f p
     let b := fpDecode f q
     let r := fpMinMax f mx p q
     (a.isSig || b.isSig → r = (fpNaN f, flagNV)) ∧
     (a.isSig = false → b.isSig = false → r.2 = 0 ∧
       (a.isNaN → b.isNaN → r.1 = fpNaN f) ∧ (a.isNaN → b.isNaN = false → r.1 = q) ∧
       (a.isNaN = false → b.isNaN → r.1 = p) ∧
       (a.isNaN = false → b.isNaN = false → (fvCmp a b < 0 → r.1 = if mx then q else p) ∧
         (0 < fvCmp a b → r.1 = if mx then p else q) ∧
         (fvCmp a b = 0 → (r.1 = p ∨ r.1 = q) ∧
           (a.isZero → b.isZero → a.neg ≠ b.neg → r.1 = if mx = a.neg then q else p))))) ∧
  (let cls (f : Fmt) (v : FVal) : Dword :=
     match v with
     | .inf true => 1 <<< 0 | .inf false => 1 <<< 7 | .nan true => 1 <<< 8 | .nan false => 1 <<< 9
     | .fin neg m _ =>
       if m = 0 then (if neg then 1 <<< 3 else 1 <<< 4)
       else if m < 2 ^ f.fb then (if neg then 1 <<< 2 else 1 <<< 5) else (if neg then 1 <<< 1 else 1 <<< 6)
   ∀ t x g d r,
     let fm := ftFmt t
     let b := match t with | .f64 => 10 | _ => 6
     (∀ s k, MayRun (.fclassB64 t x) s k → Completes (.fclassB64 t x) s fun s' =>
       LaneResult (.fclassB64 t x) s s' k x.d.toNat 1 b fun l =>
         valWords 1 (cls fm (fpDecode fm (fsrcA s k x fm t.regs l)))) ∧
     (∀ s k, MayRun (.fclassA32 g t d r) s k → Completes (.fclassA32 g t d r) s fun s' =>
       LaneResult (.fclassA32 g t d r) s s' k d.toNat 1 b fun l =>
         valWords 1 (cls fm (fpDecode fm ((readVal s k.w t.regs r.toNat l).toNat % 2 ^ fmtBits fm)))) ∧
     FloatCompletes (.fcmp t x) x.d 1 b (fun s k l =>
       let p := fpDecode fm (fsrcA s k x fm t.regs l)
       let q := fpDecode fm (fsrcB s k x fm t.regs l)
       (if p.isNaN || q.isNaN then 0b1000 else if fvCmp p q < 0 then 0b0001 else if fvCmp p q = 0 then 0b0010 else 0b0100,
        if p.isSig || q.isSig then flagNV else 0)))

/-- 05 R122; 15 R381 to R383; 16 R389: conversions between float formats, to an integer and from one, and rounding to
an integral value. An integer outside the bounds gives the nearer bound with NV alone, a NaN 0 with NV. 16 R396: each
active lane of a block of 32 receives its element in D and the block's scale in B, from the block's 32 values with +0
for inactive lanes; no flag is raised. -/
def Obligations.FloatAndBlockConversions : Prop :=
  ((∀ dt st (x : Long), FloatCompletes (.fcvt dt st x) x.d dt.regs 6 (fun s k l =>
     fpOut (fpConvert (ctFmt dt) (dirOf (longMod x).rnd (effFpmode s k.w)) (longMod x).sat
       (fpDecode (ctFmt st) (fsrcA s k x (ctFmt st) st.regs l))))) ∧
   (∀ it ft (x : Long), FloatCompletes (.ftoi it ft x) x.d it.regs 6 (fun s k l =>
     let dir := dirOf (longMod x).rnd (effFpmode s k.w)
     let r : Int × Flags := match fpDecode (ftFmt ft) (fsrcA s k x (ftFmt ft) ft.regs l) with
       | .nan _ => (0, flagNV)
       | .inf n => (if n then citLo it else citHi it, flagNV)
       | .fin n m e =>
         let z := fpToInt dir n m e
         if z.1 < citLo it ∨ citHi it < z.1 then (min (max z.1 (citLo it)) (citHi it), flagNV)
         else (z.1, if z.2 then flagNX else 0)
     (BitVec.ofInt 64 r.1, r.2))) ∧
   (∀ ft it (x : Long), FloatCompletes (.itof ft it x) x.d ft.regs 6 (fun s k l =>
     fpOut (intToFp (ftFmt ft) (dirOf (longMod x).rnd (effFpmode s k.w)) (longMod x).sat
       (citVal it (srcA s k.w x it.regs l))))) ∧
   (∀ t (x : Long), FloatCompletes (.frintB64 t x) x.d t.regs (match t with | .f64 => 10 | _ => 6) (fun s k l =>
     fpOut (fpRint (ftFmt t) (dirOf (longMod x).rnd (effFpmode s k.w))
       (fpDecode (ftFmt t) (fsrcA s k x (ftFmt t) t.regs l))))) ∧
   ∀ t g d r, FloatCompletes (.frintA32 g t d r) d t.regs (match t with | .f64 => 10 | _ => 6) (fun s k l =>
     fpOut (fpRint (ftFmt t) (dirOf .mode (effFpmode s k.w))
       (fpDecode (ftFmt t) ((readVal s k.w t.regs r.toNat l).toNat % 2 ^ fmtBits (ftFmt t)))))) ∧
  (∀ t x b c m s k, x.tail = .regs b c m → MayRun (.mxcvt t x) s k → Completes (.mxcvt t x) s fun s' =>
     OnlyWave s s' k.uid ∧ SameBytes s s' ∧
     ∃ w', assocGet s'.waves k.uid = some w' ∧ Advanced (.mxcvt t x) k w' ∧ RegsOnly k.w w' ∧
       ∀ l, l < 64 →
         let blk := mxBlock (mxFmt t) (mxEmax t) ((List.range 32).map fun j =>
           if (k.act s).getLsbD (32 * (l / 32) + j) then fpDecode fmtF32 (fsrcA s k x fmtF32 1 (32 * (l / 32) + j))
           else .fin false 0 0)
         ((k.act s).getLsbD l = true →
           held w' b.toNat l = BitVec.ofNat 32 blk.1 ∧
           (x.d ≠ b → held w' x.d.toNat l = BitVec.ofNat 32 ((blk.2[l % 32]?).getD 0))) ∧
         ∀ r, (k.act s).getLsbD l = false ∨ (r ≠ x.d.toNat ∧ r ≠ b.toNat) → held w' r l = held k.w r l)

/-- 05 R134; 15 R372; 16 R394; 17 R401: the transcendentals on FP32, a bound of 16, in A32 form and with the modifiers
of the long forms; and their results for every special operand of the table. 05 R135, 17 R402: `RNDC` draws by the
eight rounds of the pseudocode from key and counter, where its worked trace differs (assumption 21); `.F32` scales the
top 24 bits to [0, 1), which is exact. It raises no flag (05 R125). -/
def Obligations.TranscendentalsAndRandomDraw : Prop :=
  ((∀ i d (src : State → Issue → Nat → Nat) fn,
     (∃ g a, (∀ s k l, src s k l = (readLane s k.w (a : Reg).toNat l).toNat) ∧
       (i, fn) ∈ [(.exp2A32 g d a, TFn.exp2), (.log2A32 g d a, .log2), (.rcpA32 g d a, .rcp), (.rsqA32 g d a, .rsq),
         (.sinA32 g d a, .sin), (.cosA32 g d a, .cos)]) ∨
     (∃ x : Long, x.d = d ∧ (∀ s k l, src s k l = fsrcA s k x fmtF32 1 l) ∧
       (i, fn) ∈ [(.exp2B64 x, TFn.exp2), (.log2B64 x, .log2), (.rcpB64 x, .rcp), (.rsqB64 x, .rsq), (.sinB64 x, .sin),
         (.cosB64 x, .cos)]) →
     FloatCompletes i d 1 16 fun s k l => fpOut (transVal fn (src s k l))) ∧
   ∀ fn x,
     let nan : Nat × Flags := (fpNaN fmtF32, flagNV)
     let r := transVal fn x
     (∀ g, fpDecode fmtF32 x = .nan g → r = (fpNaN fmtF32, if g then flagNV else 0)) ∧
     (∀ n, fpDecode fmtF32 x = .inf n → r = match fn with
       | .exp2 => (if n then 0 else fpInf fmtF32 false, 0) | .log2 => if n then nan else (fpInf fmtF32 false, 0)
       | .rcp => (fpZero fmtF32 n, 0) | .rsq => if n then nan else (0, 0) | .sin => nan | .cos => nan) ∧
     ∀ n m e, fpDecode fmtF32 x = .fin n m e →
       let v : ℚ := m * (2 : ℚ) ^ e
       (m = 0 → r = match fn with
         | .exp2 => (0x3F800000, 0) | .log2 => (fpInf fmtF32 true, flagDZ) | .rcp => (fpInf fmtF32 n, flagDZ)
         | .rsq => (fpInf fmtF32 n, flagDZ) | .sin => (fpZero fmtF32 n, 0) | .cos => (0x3F800000, 0)) ∧
       (0 < m → n = true → fn = .log2 ∨ fn = .rsq → r = nan) ∧
       (fn = .exp2 → n = false → 128 ≤ v → r = (fpInf fmtF32 false, flagOF + flagNX)) ∧
       (fn = .exp2 → n = true → 160 < v → r = (0, flagUF + flagNX)) ∧
       (0 < m → v < 1 / 2 ^ 12 → (fn = .sin → r = (x % 2 ^ 32, flagNX)) ∧ (fn = .cos → r = (0x3F800000, flagNX)))) ∧
  ((∀ f x s k, MayRun (.rndc f x) s k → Completes (.rndc f x) s fun s' =>
     LaneResult (.rndc f x) s s' k x.d.toNat 1 16 fun l =>
       let o := rndc (srcA s k.w x 2 l) (srcB s k.w x .int 2 l)
       [if f then BitVec.ofNat 32 (fpRound fmtF32 .rne false false (o.toNat / 2 ^ 8) (2 ^ 24) 0).1 else o]) ∧
   (∀ key ctr : Dword, ∃ x y : Nat → Word, x 0 = ctr.extractLsb' 0 32 ∧ y 0 = ctr.extractLsb' 32 32 ∧
     rndc key ctr = x 8 ^^^ (y 8).rotateLeft 16 ∧ ∀ r, r < 8 →
       let k0 : Word := key.extractLsb' 0 32
       let k1 : Word := key.extractLsb' 32 32
       x (r + 1) = x r + y r + (if r % 3 = 0 then k0 else if r % 3 = 1 then k1 else k0 ^^^ k1 ^^^ 0x5A3C96E1) ∧
       y (r + 1) = (((y r).rotateLeft ([11, 19, 7, 23, 13, 29, 5, 17].getD r 0)) ^^^ x (r + 1)) +
         BitVec.ofNat 32 (r + 1) * 0x8F3D62A7) ∧
   ∀ o : Word, ∃ m q, fpDecode fmtF32 (fpRound fmtF32 .rne false false (o.toNat / 2 ^ 8) (2 ^ 24) 0).1 = .fin false m q ∧
     (m : ℚ) * (2 : ℚ) ^ q = (o.toNat / 2 ^ 8 : Nat) / (2 : ℚ) ^ 24)

/-! Exceptions (04, 11). -/

/-- 11 R286, R287: the causes that stand before an instruction's own, in their order, for every encoded instruction: a
trap at the pc that names the active lanes, with none of the instruction's effect: beside what trap entry changes the
wave and memory are as before. -/
def Obligations.CausesBeforeTheInstruction : Prop :=
  ∀ i s k c, (encode i).isSome → getIssue s = some k → CanTrap s k →
    (let unassigned := csrUnassigned i = true
     let absent := (isRay i = true ∧ coreDom k.w.core < 16) ∨
       (usesArr1 i = true ∧ (coreDom k.w.core = 16 ∨ coreDom k.w.core = 17))
     let privileged := namesSup i = true ∧ k.c.sup = false
     let beyond := ∃ r ∈ i.ranges, ∃ j, j < r.2 ∧ 8 * k.w.gran ≤ r.1.toNat + j ∧
       ¬(k.w.window.isSome ∧ 240 ≤ r.1.toNat + j)
     let role := ∃ r t mine, roleClass i = some r ∧ roleOf s k.w = some (t, mine) ∧ r ≠ mine
     (c = .illegalInstruction ∧ unassigned) ∨ (c = .absentUnit ∧ ¬unassigned ∧ absent) ∨
     (c = .privilege ∧ ¬unassigned ∧ ¬absent ∧ privileged) ∨
     (c = .registerBound ∧ ¬unassigned ∧ ¬absent ∧ ¬privileged ∧ beyond) ∨
     (c = .roleSlot ∧ ¬unassigned ∧ ¬absent ∧ ¬privileged ∧ ¬beyond ∧ role)) →
    Completes i s fun s' => TrappedOnly s s' k c false (k.act s) 0

/-- 11 R289, R290: without a handler the wave ends: its fault list goes, its live quads retire once nothing is in
flight, and the context records error 1 with the cause and the place. 04 R110: a cause met by a handler's fragment
ends the wave with error 2. One met by another fragment waits, with its record, at its pc. Of two traps of one cycle
the one of the lower leading quad enters, whichever comes first: the other's record is kept and its fragment stands as
before its entry. 04 R109, R110; 11 R288, R289: a trap that waits for the reserve enters when it is the oldest of its
core and the reserve suffices; one that waited for the lower leading quad of its cycle enters when that one no longer
stands before it. -/
def Obligations.TrapsWithoutOrWithinAHandler : Prop :=
  (∀ i s k c, (encode i).isSome → getIssue s = some k → preCause i s k = some c → k.w.window = none →
     k.w.trapWait = none → k.w.report = none → lowerDue k.c k.w k.lead = false → k.c.trapbase = 0 →
     Completes i s fun s' =>
       (∃ w', assocGet s'.waves k.uid = some w' ∧ w'.killed = true ∧ w'.frags = [] ∧ w'.window = none ∧
         w'.live = (if k.w.entries.any Entry.flying then k.w.live else 0) ∧
         w'.tcause = BitVec.ofNat 32 c.code ∧ w'.tpc = k.f.pc ∧ w'.tlm = k.act s ∧ w'.tval = 0 ∧ faultListEmpty w' = true) ∧
       ∃ c', assocGet s'.ctxs k.w.ctx = some c' ∧ c'.cerr = 1 ∧ c'.nerr = min (k.c.nerr + 1) 0xFFFFFFFF ∧
         c'.cause = c.code ∧ c'.where_ =
           BitVec.ofNat 32 (coreDom k.w.core + 32 * coreIdx k.w.core + 1024 * k.w.slot)) ∧
  (∀ i s k c, (encode i).isSome → getIssue s = some k → preCause i s k = some c →
     (∀ v, k.w.window = some v → v.quads.getLsbD k.lead = true → Completes i s fun s' =>
       (∃ w', assocGet s'.waves k.uid = some w' ∧ w'.killed = true ∧ w'.frags = [] ∧
         w'.live = if k.w.entries.any Entry.flying then k.w.live else 0) ∧
       ∃ c', assocGet s'.ctxs k.w.ctx = some c' ∧ c'.cerr = 2) ∧
     (k.w.window = none → lowerDue k.c k.w k.lead = true → Completes i s fun s' => OnlyWave s s' k.uid ∧ SameBytes s s' ∧
       ∃ w' f', assocGet s'.waves k.uid = some w' ∧ w'.window = none ∧ w'.tcause = k.w.tcause ∧
         w'.frag? k.lead = some f' ∧ f'.pc = k.f.pc ∧ f'.trap = some ⟨c, k.act s, 0, false, k.f.pc, false⟩) ∧
     ∀ v, k.w.window = some v → v.quads.getLsbD k.lead = false →
       (¬(v.opened = s.cycle ∧ k.lead < leadQuad v.quads) → Completes i s fun s' => OnlyWave s s' k.uid ∧ SameBytes s s' ∧
         ∃ w' f', assocGet s'.waves k.uid = some w' ∧ w'.window = some v ∧ w'.tcause = k.w.tcause ∧
           w'.frag? k.lead = some f' ∧ f'.pc = k.f.pc ∧ f'.trap = some ⟨c, k.act s, 0, false, k.f.pc, false⟩) ∧
       (v.opened = s.cycle → k.lead < leadQuad v.quads → k.w.gran ≤ 30 → v.was.quads = v.quads →
         (∃ f ∈ k.w.frags, f.quads = v.quads) → Completes i s fun s' => OnlyWave s s' k.uid ∧ SameBytes s s' ∧
         ∃ w' f' x, assocGet s'.waves k.uid = some w' ∧ w'.window = some x ∧ x.quads = k.f.quads ∧ x.tpc = k.f.pc ∧
           w'.tpc = k.f.pc ∧ w'.tlm = k.act s ∧ w'.tcause = BitVec.ofNat 32 c.code ∧ w'.frag? k.lead = some f' ∧
           f'.pc = k.c.trapbase ∧ f'.header = true ∧ f'.trap = none ∧ v.was ∈ w'.frags)) ∧
  (∀ u s w q f c r, assocGet s.waves u = some w → w.window = none → w.frag? q = some f → f.trap = some r →
     w.report = none → assocGet s.ctxs w.ctx = some c → c.trapbase ≠ 0 → lowerDue c w q = false →
     (30 < w.gran → FrameMapped s c w .write) →
     let enters (waited : Bool) : Prop := Completes (.trapEntry u) s fun s' =>
       (∀ v, v ≠ u → assocGet s'.waves v = assocGet s.waves v) ∧ s'.ctxs = s.ctxs ∧ (w.gran ≤ 30 → SameBytes s s') ∧
       (waited = true → (getCore s' w.core).trapQ = (getCore s w.core).trapQ.filter (· != u)) ∧
       ∃ w' f' v, assocGet s'.waves u = some w' ∧ w'.window = some v ∧ w'.trapWait = none ∧ w'.frag? q = some f' ∧
         f'.pc = c.trapbase ∧ f'.header = true ∧ f'.park = .none ∧ f'.trap = none ∧ w'.tlm = r.tlm ∧ w'.tpc = r.tpc ∧
         w'.tval = r.tval ∧ w'.tcause = BitVec.ofNat 32 (r.cause.code + if r.rep then 256 else 0) ∧
         v.quads = f.quads ∧ v.mask = w.mask ∧ v.cc = w.cc ∧ v.tpc = r.tpc ∧ v.waited = waited ∧ w'.watchdog = 0 ∧
         ∀ p, p ≠ q → w'.frag? p = w.frag? p
     (w.trapWait = some q → (trapLine s w.core).head? = some u → reserveUsed s w.core + reserveNeed w ≤ 8 → enters true) ∧
     (w.trapWait = none → (∀ p, p < q → ∀ g, w.frag? p = some g → g.trap = none) → q < 16 →
       reserveNeed w = 0 ∨ trapLine s w.core = [] ∧ reserveUsed s w.core + reserveNeed w ≤ 8 → enters false))

/-- 13 R316; 17 R414 to R417: `TRET` of the whole handler closes the window: its quads' masks and codes are those of
entry, and the fragment resumes at `TPC`, after the gap of the instruction, once the bounds of the handler's
instructions have passed: at the pc of the trap in the lanes of `TLM` with the block state of entry, within that block
in it, and elsewhere at a header. A granule that entry stored is read back from the frame. 04 R110, 17 R415: after
`TRET` the trap record of another fragment of the wave enters at once. 06 R157, 17 R415: `TRET` from a report resolves
the fault list: a lane that `TLM` does not name is discarded from its first entry on that firmware does not service
(assumption 30 for those that it does), and the others issue again, reading registers as they now stand, as a load
whose address is good shows. The fragment resumes in all its lanes. 17 R414, R415; 04 R110: `TRET` with no window open
is an illegal instruction; one issued by a part of the handler ends the wave; one of the whole handler waits while a
bound of the wave's instructions has not passed, with nothing else changed. -/
def Obligations.HandlersReturn : Prop :=
  (∀ g s k v pa leaf, MayRun (.tret g) s k → k.w.window = some v → k.f.quads = v.quads → k.w.trapWait = none →
     k.w.report = none → (∀ f ∈ k.w.frags, f.trap = none) → k.w.tcause.getLsbD 8 = false → k.w.boundMax ≤ s.cycle →
     (∀ p ∈ k.w.csrPend, p.2.2.1 ≤ s.cycle) →
     (v.g30 = true ∨ v.g31 = true → migrating k.c (frameAddr k.c k.w).toNat = false ∧
       xlate s k.c (frameAddr k.c k.w).toNat .read = .ok (pa, leaf) ∧ ∀ j, j < 4096 → rangesHave s.undefMem (pa + j) = false) →
     Completes (.tret g) s fun s' =>
       (∀ x, x ≠ k.uid → assocGet s'.waves x = assocGet s.waves x) ∧
       (v.g30 = false → v.g31 = false → SameBytes s s') ∧
       ∃ w' f', assocGet s'.waves k.uid = some w' ∧ w'.window = none ∧ w'.frag? k.lead = some f' ∧
         f'.quads = k.f.quads ∧ f'.pc = k.w.tpc ∧ f'.park = .none ∧ (∀ q, q ≠ k.lead → w'.frag? q = k.w.frag? q) ∧
         s.cycle + 1 + g.toNat ≤ f'.readyAt ∧ k.w.boundMax ≤ f'.readyAt ∧
         (k.w.tpc = v.tpc → f'.blk = v.blk ∧ f'.fin = v.fin ∧ f'.left = v.left ∧ f'.header = v.header ∧
           f'.only = some k.w.tlm) ∧
         (k.w.tpc ≠ v.tpc → f'.only = none ∧
           if v.blk.toNat + 2 ≤ k.w.tpc.toNat ∧ k.w.tpc.toNat ≤ v.fin.toNat then
             f'.blk = v.blk ∧ f'.fin = v.fin ∧ f'.left = v.left ∧ f'.header = false
           else f'.header = true) ∧
         (∀ l, l < 64 → w'.mask.getLsbD l = if v.quads.getLsbD (l / 4) then v.mask.getLsbD l else k.w.mask.getLsbD l) ∧
         (∀ cc : CC → QuadMask, cc ∈ [CC.z, CC.n, CC.c, CC.v] → ∀ q, q < 16 →
           (cc w'.cc).getLsbD q = if v.quads.getLsbD q then (cc v.cc).getLsbD q else (cc k.w.cc).getLsbD q) ∧
         (∀ q, q < 16 → clockOf w' q = clockOf k.w q + if k.f.quads.getLsbD q then 1 else 0) ∧
         w'.entries = k.w.entries ∧ w'.fpstat = k.w.fpstat ∧ w'.tcause = k.w.tcause ∧
         (∀ r l, r < 240 → l < 64 → held w' r l = held k.w r l) ∧
         ∀ r l, 240 ≤ r → r < 256 → (if r < 248 then v.g30 else v.g31) = true → l < 64 →
           held w' r l = BitVec.ofNat 32 (memNat s'.mem (pa + 256 * (r - 240) + 4 * l) 4)) ∧
  (∀ g s k v q f r, MayRun (.tret g) s k → k.w.window = some v → k.f.quads = v.quads → k.w.trapWait = none →
     k.w.report = none → k.w.tcause.getLsbD 8 = false → k.w.boundMax ≤ s.cycle →
     (∀ p ∈ k.w.csrPend, p.2.2.1 ≤ s.cycle) →
     v.g30 = false → v.g31 = false → k.w.gran ≤ 30 → q ≠ k.lead → q < 16 → k.w.frag? q = some f → f.trap = some r →
     (∀ p x, p < q → k.w.frag? p = some x → x.trap = none) → lowerDue k.c k.w q = false → k.c.trapbase ≠ 0 →
     trapLine s k.w.core = [] → reserveUsed s k.w.core + 2 ≤ 8 →
     Completes (.tret g) s fun s' => SameBytes s s' ∧ ∃ w' f' fr v', assocGet s'.waves k.uid = some w' ∧
       w'.window = some v' ∧ v'.quads = f.quads ∧ v'.tpc = r.tpc ∧ w'.frag? q = some f' ∧ f'.pc = k.c.trapbase ∧
       f'.header = true ∧ f'.trap = none ∧ w'.tlm = r.tlm ∧ w'.tpc = r.tpc ∧ w'.tval = r.tval ∧
       w'.tcause = BitVec.ofNat 32 (r.cause.code + if r.rep then 256 else 0) ∧ w'.frag? k.lead = some fr ∧ fr.pc = k.w.tpc) ∧
  (∀ g s k v, MayRun (.tret g) s k → k.w.window = some v → k.f.quads = v.quads → k.w.trapWait = none →
     k.w.report = none → (∀ f ∈ k.w.frags, f.trap = none) → k.w.tcause.getLsbD 8 = true → k.w.boundMax ≤ s.cycle →
     (∀ p ∈ k.w.csrPend, p.2.2.1 ≤ s.cycle) → v.g30 = false → v.g31 = false → (k.w.entries.map (·.seq)).Nodup →
     (∀ va, walk s k.c va ≠ .outside) →
     let gone (seq l : Nat) : Prop := k.w.tlm.getLsbD l = false ∧
       ∃ d ∈ k.w.entries, d.seq ≤ seq ∧ d.serviced k.c = false ∧ d.faultedLanes.getLsbD l = true
     Completes (.tret g) s fun s' => ∃ w' f', assocGet s'.waves k.uid = some w' ∧ w'.window = none ∧
       w'.frag? k.lead = some f' ∧ f'.pc = k.w.tpc ∧ f'.only = none ∧
       (∀ e ∈ k.w.entries, ∀ l st, assocGet e.lanes l = some st → st.stuck = true → gone e.seq l → LaneDone w' e.seq l) ∧
       ∀ e ∈ k.w.entries, ∀ h t d a, e.instr = .ldA32 h t d a → (∀ x ∈ k.w.entries, x ≠ e → x.stuck = false) →
         a.toNat < 238 → ∀ l st pa leaf, l < 64 → assocGet e.lanes l = some st → st.stuck = true → ¬gone e.seq l →
         (∀ j, j < 3 → undefAt s k.w (a.toNat + j) l = false) → tripleBad s k.w a.toNat l = false →
         xlate s k.c (readTriple s k.w a.toNat l).toNat .read = .ok (pa, leaf) →
         (readTriple s k.w a.toNat l).toNat % ldBytes t = 0 →
         ∃ e' ∈ w'.entries, e'.seq = e.seq ∧ e'.batch = e.batch ∧
           assocGet e'.lanes l = some (.inflight (.load (.phys pa leaf) (ldBytes t) 0) (readTriple s k.w a.toNat l))) ∧
  (∀ g s k, MayRun (.tret g) s k →
     (CanTrap s k → Completes (.tret g) s fun s' => TrappedOnly s s' k .illegalInstruction false (k.act s) 0) ∧
     (∀ v, k.w.window = some v → k.f.quads = v.quads → s.cycle < k.w.boundMax → Completes (.tret g) s fun s' =>
       OnlyWave s s' k.uid ∧ SameBytes s s' ∧ ∃ w', assocGet s'.waves k.uid = some w' ∧ w' = { k.w with frags := w'.frags } ∧
         w'.frag? k.lead = some { k.f with readyAt := k.w.boundMax } ∧ ∀ q, q ≠ k.lead → w'.frag? q = k.w.frag? q) ∧
     ∀ v, k.w.window = some v → k.f.quads ≠ v.quads → Completes (.tret g) s fun s' =>
       (∃ w', assocGet s'.waves k.uid = some w' ∧ w'.killed = true ∧ w'.frags = [] ∧
         w'.live = if k.w.entries.any Entry.flying then k.w.live else 0) ∧
       ∃ c', assocGet s'.ctxs k.w.ctx = some c' ∧ c'.cerr = 2)

/-! Control flow (02, 15). -/

/-- 02 R33 to R35, 15 R365 to R367: the quads whose condition holds go to the header at the target, the others past
the branch; where both kinds exist the fragment splits. The target is the pc plus twice OFF, or the triple of the
lowest active lane with bit 0 clear. 15 R369, R370: a call writes the end of its block, as a triple, in the active
lanes and enters the target; with no active lane it does nothing but go on. 15 R367, R369: a register target whose
triple is not canonical traps, where the branch or call would use it. -/
def Obligations.BranchesAndCallsMoveQuads : Prop :=
  (∀ i c tgt s k,
     (∃ g off, i = .brA32 g c off ∧ tgt = k.f.pc + 2 * off.signExtend 80) ∨
     (∃ g off, i = .brB64 g c off ∧ tgt = k.f.pc + 2 * off.signExtend 80) ∨
     (∃ g a, i = .brx g c a ∧ tgt = readTriple s k.w a.toNat (targetLane k (k.actAll s)) &&& ~~~1 ∧
       tripleBad s k.w a.toNat (targetLane k (k.actAll s)) = false) →
     MayRun i s k → Completes i s fun s' =>
       OnlyWave s s' k.uid ∧ SameBytes s s' ∧
       ∃ w', assocGet s'.waves k.uid = some w' ∧ w' = { k.w with clocks := w'.clocks, frags := w'.frags } ∧
         (∀ q, q < 16 → clockOf w' q = clockOf k.w q + if k.f.quads.getLsbD q then 1 else 0) ∧
         (∀ f ∈ k.w.frags, leadQuad f.quads ≠ k.lead → f ∈ w'.frags) ∧
         ∀ q, q < 16 → k.f.quads.getLsbD q = true → ∃ f' ∈ w'.frags, f'.quads.getLsbD q = true ∧
           (∀ p, p < 16 → (f'.quads.getLsbD p = true ↔
             k.f.quads.getLsbD p = true ∧ condHolds s k.w c p = condHolds s k.w c q)) ∧
           f'.park = .none ∧
           if condHolds s k.w c q then f'.pc = tgt ∧ f'.header = true
           else f'.pc = k.f.pc + BitVec.ofNat 80 (2 * i.parcels)) ∧
  (∀ i d tgt s k,
     (∃ g off, i = .callA32 g d off ∧ tgt = k.f.pc + 2 * off.signExtend 80) ∨
     (∃ g off, i = .callB64 g d off ∧ tgt = k.f.pc + 2 * off.signExtend 80) ∨
     (∃ g a, i = .callx g d a ∧ tgt = readTriple s k.w a.toNat (targetLane k (k.act s)) &&& ~~~1 ∧
       tripleBad s k.w a.toNat (targetLane k (k.act s)) = false) →
     MayRun i s k → Completes i s fun s' =>
       OnlyWave s s' k.uid ∧ SameBytes s s' ∧
       ∃ w' f', assocGet s'.waves k.uid = some w' ∧ RegsOnly k.w w' ∧ w'.frag? k.lead = some f' ∧
         f'.quads = k.f.quads ∧ f'.park = .none ∧ (∀ q, q ≠ k.lead → w'.frag? q = k.w.frag? q) ∧
         (∀ q, q < 16 → clockOf w' q = clockOf k.w q + if k.f.quads.getLsbD q then 1 else 0) ∧
         RegsHold k.w w' d.toNat (k.act s) (fun _ =>
           [k.f.fin.extractLsb' 0 32, k.f.fin.extractLsb' 32 32, (k.f.fin.extractLsb' 64 16).zeroExtend 32]) ∧
         if k.act s = 0 then f'.pc = k.f.pc + BitVec.ofNat 80 (2 * i.parcels) else f'.pc = tgt ∧ f'.header = true) ∧
  (∀ g a s k, CanTrap s k →
     (∀ c, MayRun (.brx g c a) s k → (∃ q, q < 16 ∧ k.f.quads.getLsbD q = true ∧ condHolds s k.w c q = true) →
       tripleBad s k.w a.toNat (targetLane k (k.actAll s)) = true →
       Completes (.brx g c a) s fun s' => TrappedOnly s s' k .nonCanonical false (k.actAll s) 0) ∧
     ∀ d, MayRun (.callx g d a) s k → k.act s ≠ 0 → tripleBad s k.w a.toNat (targetLane k (k.act s)) = true →
       Completes (.callx g d a) s fun s' => TrappedOnly s s' k .nonCanonical false (k.act s) 0)

/-- 02 R43; 06 R156; 15 R375: `EXIT` retires the fragment's quads and only those; in a handler it ends the wave, and
the last quads of a wave with faulted lanes report them first. 11 R280: with no request `YIELD` and `PCHK` only go on;
with one the fragment parks for pre-emption at the next instruction. `YIELD` is a progress point and renews the
fragment's age. 02 R40 to R42, 10 R234, 13 R316: a fragment whose quads the mask does not name traps. Else it parks,
and where the parked fragments of its address and mask hold every live quad that the mask names, they go on as one
fragment, with the block state of the one with the lowest leading quad and each clock one past the latest; an acquire
that any of them issued then comes before what the one fragment issues, in every lane of it (07 R174). -/
def Obligations.ExitYieldAndRegang : Prop :=
  (∀ s k, MayRun .exit s k →
     (k.w.window = none → (k.w.live = k.f.quads → faultListEmpty k.w = true) → Completes .exit s fun s' =>
       SameBytes s s' ∧ s'.ctxs = s.ctxs ∧
       ∃ w', assocGet s'.waves k.uid = some w' ∧ w'.live = k.w.live &&& ~~~k.f.quads ∧ w'.regs = k.w.regs ∧
         w'.mask = k.w.mask ∧ w'.cc = k.w.cc ∧ w'.killed = k.w.killed) ∧
     (k.w.window.isSome = true → Completes .exit s fun s' =>
       ∃ w' c', assocGet s'.waves k.uid = some w' ∧ w'.killed = true ∧ w'.frags = [] ∧
         w'.live = (if k.w.entries.any Entry.flying then k.w.live else 0) ∧
         assocGet s'.ctxs k.w.ctx = some c' ∧ c'.cerr = 1) ∧
     ∀ e l c a p, k.w.live = k.f.quads → (k.w.entries.filter Entry.stuck).head? = some e → e.lowest = some (l, c, a, p) →
       (∀ e ∈ k.w.entries, e.stuck = true → e.lowest.isSome = true ∧ e.serviced k.c = false) → CanTrap s k →
       Completes .exit s fun s' => Trapped s s' k c true
         ((k.w.entries.filter Entry.stuck).foldl (fun m e => m ||| e.faultedLanes) 0) a) ∧
  (∀ i g s k, i = .yield g ∨ i = .pchk g → MayRun i s k → Completes i s fun s' =>
     OnlyWave s s' k.uid ∧ SameBytes s s' ∧
     ∃ w' f', assocGet s'.waves k.uid = some w' ∧ w'.frag? k.lead = some f' ∧ f'.quads = k.f.quads ∧
       f'.pc = k.f.pc + BitVec.ofNat 80 (2 * i.parcels) ∧
       f'.park = (if (csrWord s k 0x040 k.low).getLsbD 0 then .preempt else .none) ∧
       (i = .yield g → f'.stamp = s.cycle ∧ (k.f.retry = false → w'.watchdog = 0)) ∧
       w' = { k.w with clocks := w'.clocks, frags := w'.frags, watchdog := w'.watchdog }) ∧
  (∀ g r s k, MayRun (.regang g r) s k →
     let m : QuadMask := (readLane s k.w r.toNat k.low).extractLsb' 0 16
     (k.f.quads &&& ~~~m ≠ 0 → CanTrap s k → Completes (.regang g r) s fun s' =>
       TrappedOnly s s' k .regangMismatch false (k.actAll s) 0) ∧
     (k.f.quads &&& ~~~m = 0 → (∀ f ∈ k.w.frags, leadQuad f.quads = k.lead → f = k.f) →
       (∀ f ∈ k.w.frags, leadQuad f.quads ≠ k.lead → f.park.regangAt.isSome = true →
         f.pc = k.f.pc ∧ f.park = .regang m g.toNat) →
       let qs := unionQuads (k.w.frags.filter fun f => leadQuad f.quads == k.lead || f.park.regangAt.isSome)
       Completes (.regang g r) s fun s' =>
         OnlyWave s s' k.uid ∧ SameBytes s s' ∧
         ∃ w', assocGet s'.waves k.uid = some w' ∧
           w' = { k.w with clocks := w'.clocks, frags := w'.frags, entries := w'.entries } ∧
           w'.entries = (if qs = m &&& k.w.live then k.w.entries.map fun e =>
             if ∃ a ∈ e.after, a.2 &&& qs ≠ 0 then { e with after := e.after ++ [(k.w.nextSeq, qs)] } else e else k.w.entries) ∧
           (∀ q, q < 16 → qs.getLsbD q = false → clockOf w' q = clockOf k.w q) ∧
           (∀ f ∈ k.w.frags, leadQuad f.quads ≠ k.lead → f.park.regangAt = none → f.quads &&& qs = 0 → f ∈ w'.frags) ∧
           if qs = m &&& k.w.live then
             (∃ f' ∈ w'.frags, f'.quads = qs ∧ f'.pc = k.f.pc + 4 ∧ f'.park = .none ∧
               s.cycle + 1 + g.toNat ≤ f'.readyAt ∧ ∀ f ∈ k.w.frags, leadQuad f.quads = leadQuad qs →
                 (leadQuad f.quads = k.lead ∨ f.park.regangAt.isSome = true) →
                 (∀ x ∈ k.w.frags, leadQuad x.quads = leadQuad f.quads → x = f) →
                 f'.blk = f.blk ∧ f'.fin = f.fin ∧ f'.left = f.left) ∧
             ∀ q, q < 16 → qs.getLsbD q = true → clockOf w' q = maxClock k.w qs + 1
           else ∃ f', w'.frag? k.lead = some f' ∧ f'.pc = k.f.pc ∧ f'.park = .regang m g.toNat))

/-! Control registers (04, 15). -/

/-- 04 R102, 15 R373: `CSRR` writes the word of the CSR, as each lane sees it, in one register. 01 R9, R10; 02 R49; 03
R68, R77; 04 R102, R103, R107; 05 R123, R124; 06 R150; 10 R235: what reading each CSR gives once no write of it is
within its bound. -/
def Obligations.ControlRegistersRead : Prop :=
  (∀ g sup num d, BitsComplete (.csrr g sup num d) 1 d (fun s k l => (csrWord s k num.toNat l).zeroExtend 64)) ∧
  (∀ s k l, (∀ p ∈ k.w.csrPend, p.2.2.1 ≤ s.cycle) →
     (∀ p ∈ k.c.csrPend, p.2.2.2.1 ≤ s.cycle ∧ p.2.2.2.2 ≤ s.cycle) → (∀ p ∈ k.w.fpPend, p.2 ≤ s.cycle) →
     csrWord s k 0x005 l = k.f.quads.zeroExtend 32 ∧
     csrWord s k 0x011 l ++ csrWord s k 0x010 l = k.w.tlm ∧
     (csrWord s k 0x014 l).extractLsb' 0 16 ++ csrWord s k 0x013 l ++ csrWord s k 0x012 l = k.w.tpc ∧
     csrWord s k 0x015 l = k.w.tcause ∧
     (csrWord s k 0x018 l).extractLsb' 0 16 ++ csrWord s k 0x017 l ++ csrWord s k 0x016 l = k.w.tval ∧
     (csrWord s k 0x01B l).extractLsb' 0 16 ++ csrWord s k 0x01A l ++ csrWord s k 0x019 l = k.c.trapbase ∧
     (csrWord s k 0x01C l = 0 ↔ k.w.window = none) ∧
     csrWord s k 0x020 l = k.w.fpPend.foldl (fun v p => v ||| p.1) k.w.fpstat ∧
     csrWord s k 0x021 l = k.w.fpmode ∧
     (csrWord s k 0x036 l).extractLsb' 0 16 = k.c.bintmr ∧
     ((csrWord s k 0x040 l).getLsbD 0 = k.c.preq ∧ (csrWord s k 0x040 l).getLsbD 1 = k.c.forced) ∧
     (csrWord s k 0x041 l).extractLsb' 0 24 = k.c.pdl ∧ (csrWord s k 0x042 l).extractLsb' 0 8 = k.c.share ∧
     (csrWord s k 0x043 l).extractLsb' 0 24 = k.c.wdlim ∧ (csrWord s k 0x050 l).getLsbD 0 = k.c.detmode ∧
     (k.w.spawned = true → csrWord s k 0x000 l = 0x80000000 ∧ csrWord s k 0x002 l = 0) ∧
     (∀ gr, assocGet s.grids k.w.grid = some gr → k.w.spawned = false → 0 < gr.pkt.s → gr.pkt.s < 16 → 0 < gr.pkt.n →
       gr.pkt.n ≤ 128 → k.w.widx < 128 → k.w.wg < 2 ^ 28 →
       let x := (csrWord s k 0x000 l).toNat
       let y := (csrWord s k 0x002 l).toNat
       x % 2 ^ 8 = k.w.widx ∧ x / 2 ^ 8 % 2 ^ 16 = gr.pkt.n - 1 ∧ x / 2 ^ 24 = gr.pkt.s ∧
       y % 2 ^ 28 = k.w.wg / gr.pkt.s ∧ y / 2 ^ 28 = k.w.wg % gr.pkt.s) ∧
     (k.w.wg < 2 ^ 28 → (csrWord s k 0x001 l).toNat = k.w.wg) ∧
     (k.w.core < 18 * 32 → (csrWord s k 0x003 l).toNat = k.w.core / 32 + (if 16 ≤ k.w.core / 32 then 64 else 0) ∧
       (csrWord s k 0x004 l).toNat = k.w.core % 32) ∧
     (csrWord s k 0x031 l ++ csrWord s k 0x030 l).toNat = clockOf k.w (l / 4) % 2 ^ 64 ∧
     ((pendingBatches k.w).length < 2 ^ 16 → (csrWord s k 0x032 l).toNat =
       k.w.open_ % 2 ^ 16 * 2 ^ 16 + (pendingBatches k.w).length) ∧
     (let t := threadOf k.w l
      t.depth < 8 → (csrWord s k 0x033 l).toNat = t.depth * 2 ^ 29 + (if t.join.isSome then 2 ^ 28 else 0) +
        min (t.next + spawnsFlying k.w l) (2 ^ 26 - 1)) ∧
     csrWord s k 0x034 l = (match (threadOf k.w l).join with | some j => j.extractLsb' 0 32 | none => 0) ∧
     csrWord s k 0x035 l = BitVec.ofNat 32 (k.c.gplu * 2 ^ 16 + k.c.spl) ∧
     (∀ v, k.w.window = some v → (csrWord s k 0x01C l).toNat =
         2 ^ 31 + (if v.waited then 4 else 0) + (if v.g31 then 2 else 0) + (if v.g30 then 1 else 0) ∧
       (csrWord s k 0x01F l).extractLsb' 0 16 ++ csrWord s k 0x01E l ++ csrWord s k 0x01D l = frameAddr k.c k.w) ∧
     (k.w.window = none → csrWord s k 0x01D l = 0 ∧ csrWord s k 0x01E l = 0 ∧ csrWord s k 0x01F l = 0))

/-- 04 R102, R103, 15 R374: `CSRW` of a register of the wave takes the word of the fragment's lowest lane; bits that
the register does not have stay zero; nothing else of the machine changes. Within its bound a reader gets the old or
the new value. Where another fragment of the wave wrote the same register before, with no order between the two,
either value may remain. 04 R101 to R103; 11 R278, R281: a `CSRW` that names no register of the wave. The context's
registers change through the view that may write them; a user-view write of a supervisor field, and a write of a
read-only register, changes nothing; nothing else of the context, of the other contexts, of the wave and of the others
changes. A write of `PREQ`.REQ also withdraws waiting clusters of the context, or wakes its parked fragments. -/
def Obligations.ControlRegistersWritten : Prop :=
  (∀ g sup num r s k, MayRun (.csrw g sup num r) s k → num.toNat ∈ [0x010, 0x011, 0x012, 0x013, 0x014, 0x020, 0x021] →
     Completes (.csrw g sup num r) s fun s' =>
       let v := readLane s k.w r.toNat k.low
       OnlyWave s s' k.uid ∧ SameBytes s s' ∧
       ∃ w', assocGet s'.waves k.uid = some w' ∧ Advanced (.csrw g sup num r) k w' ∧
         w' = { k.w with tlm := w'.tlm, tpc := w'.tpc, fpstat := w'.fpstat, fpmode := w'.fpmode, fpPend := w'.fpPend,
                         csrPend := w'.csrPend, csrOwner := w'.csrOwner, boundMax := w'.boundMax, clocks := w'.clocks, frags := w'.frags } ∧
         (∀ p ∈ k.w.csrPend, s.cycle < p.2.2.1 → p ∈ w'.csrPend) ∧
         ∃ kept : Bool,
           (kept = true → (∃ q, assocGet k.w.csrOwner num.toNat = some q ∧ q &&& k.f.quads = 0) ∧ w'.csrOwner = k.w.csrOwner ∧
             w'.fpPend = k.w.fpPend ∧ w'.tlm = k.w.tlm ∧ w'.tpc = k.w.tpc ∧ w'.fpmode = k.w.fpmode ∧ w'.fpstat = k.w.fpstat) ∧
           (kept = false → w'.csrOwner = assocSet k.w.csrOwner num.toNat k.f.quads ∧
             (num.toNat, waveCsr s k.w num.toNat, s.cycle + 4, k.f.quads) ∈ w'.csrPend ∧
             w'.tlm = (if num.toNat = 0x010 then k.w.tlm.extractLsb' 32 32 ++ v
               else if num.toNat = 0x011 then v ++ k.w.tlm.extractLsb' 0 32 else k.w.tlm) ∧
             w'.tpc = (if num.toNat = 0x012 then k.w.tpc.extractLsb' 32 48 ++ (v &&& ~~~1)
               else if num.toNat = 0x013 then k.w.tpc.extractLsb' 64 16 ++ v ++ k.w.tpc.extractLsb' 0 32
               else if num.toNat = 0x014 then v.extractLsb' 0 16 ++ k.w.tpc.extractLsb' 0 64 else k.w.tpc) ∧
             w'.fpmode = (if num.toNat = 0x021 then v &&& 0x1F03 else k.w.fpmode) ∧
             (num.toNat = 0x020 → w'.fpstat = v &&& 0x1F001F) ∧
             (num.toNat ≠ 0x020 → w'.fpstat = k.w.fpstat ∧ w'.fpPend = k.w.fpPend))) ∧
  (∀ g sup num r s k, MayRun (.csrw g sup num r) s k → num.toNat ∉ [0x010, 0x011, 0x012, 0x013, 0x014, 0x020, 0x021] →
     Completes (.csrw g sup num r) s fun s' =>
       let v := readLane s k.w r.toNat k.low
       let n := num.toNat
       let acts := n ∈ [0x019, 0x01A, 0x01B] ∨ (sup = true ∧ n ∈ [0x036, 0x040, 0x041, 0x042, 0x043, 0x050])
       SameBytes s s' ∧ (¬acts → OnlyWave s s' k.uid) ∧
       (n ≠ 0x040 → s' = { s with waves := s'.waves, ctxs := s'.ctxs, free := s'.free } ∧
         ∀ u, u ≠ k.uid → assocGet s'.waves u = assocGet s.waves u) ∧
       (s' = { s with waves := s'.waves, ctxs := s'.ctxs, grids := s'.grids, cores := s'.cores, free := s'.free } ∧
         (∀ j gr, assocGet s.grids j = some gr → ∃ gr', assocGet s'.grids j = some gr' ∧ gr' = { gr with waits := gr'.waits } ∧
           (gr.ctx ≠ k.w.ctx ∨ v.getLsbD 0 = false → gr' = gr)) ∧
         ∀ u w, u ≠ k.uid → assocGet s.waves u = some w → ∃ w', assocGet s'.waves u = some w' ∧
           w' = { w with frags := w'.frags } ∧ (w.ctx ≠ k.w.ctx → w' = w)) ∧
       (∃ w' f', assocGet s'.waves k.uid = some w' ∧
         w' = { k.w with clocks := w'.clocks, frags := w'.frags, boundMax := w'.boundMax } ∧ (¬acts → w'.boundMax = k.w.boundMax) ∧
         w'.frag? k.lead = some f' ∧ f'.quads = k.f.quads ∧ f'.park = .none ∧
         f'.pc = k.f.pc + BitVec.ofNat 80 (2 * (Instr.csrw g sup num r).parcels) ∧
         (n ≠ 0x040 → Advanced (.csrw g sup num r) k w')) ∧
       (∀ x, x ≠ k.w.ctx → assocGet s'.ctxs x = assocGet s.ctxs x) ∧
       ∃ c', assocGet s'.ctxs k.w.ctx = some c' ∧ (¬acts → c' = k.c) ∧
         (acts → (n, contextCsr k.c n, k.uid, s.cycle + 4, s.cycle + 4 + 64) ∈ c'.csrPend) ∧
         c' = { k.c with
           trapbase := if n = 0x019 then k.c.trapbase.extractLsb' 32 48 ++ (v &&& ~~~1)
             else if n = 0x01A then k.c.trapbase.extractLsb' 64 16 ++ v ++ k.c.trapbase.extractLsb' 0 32
             else if n = 0x01B then v.extractLsb' 0 16 ++ k.c.trapbase.extractLsb' 0 64 else k.c.trapbase
           bintmr := if sup = true ∧ n = 0x036 then v.extractLsb' 0 16 else k.c.bintmr
           preq := if sup = true ∧ n = 0x040 then v.getLsbD 0 else k.c.preq
           pdl := if sup = true ∧ n = 0x041 then v.extractLsb' 0 24 else k.c.pdl
           share := if sup = true ∧ n = 0x042 then v.extractLsb' 0 8 else k.c.share
           wdlim := if sup = true ∧ n = 0x043 then v.extractLsb' 0 24 else k.c.wdlim
           detmode := if sup = true ∧ n = 0x050 then v.getLsbD 0 else k.c.detmode
           csrPend := c'.csrPend
           reqAge := c'.reqAge })

/-! Synchronisation of waves, batches, joins and tickets (02, 03, 06, 07, 08, 15, 17). -/

/-- 02 R53, R54; 10 R240, R242: an arrival is recorded and writes the phase it arrived in; the arrival that completes
the live quads of every participant advances the phase, empties the record, names the epilogue's wave (the completing
one, in deterministic mode the highest that arrived) and wakes the waiters of the phase. While a covered access is in
the fault list it waits (assumption 8). 02 R53 to R55; 10 R240: `WAITA` goes on when the barrier's phase is past the
one it names, its clocks no less than that of the arrival which ended it, and sets C in the quads of the epilogue's
wave; until then it parks. In a spawned wave it traps. -/
def Obligations.ClusterBarriersArriveAndWait : Prop :=
  (∀ i cl d n s k, (∃ g id, i = .arriveWg g d id ∧ cl = false ∧ n = id.toNat) ∨
       (∃ g id, i = .arriveCl g d id ∧ cl = true ∧ n = id.toNat) →
     MayRun i s k →
     (k.w.spawned = true → CanTrap s k → Completes i s fun s' => Trapped s s' k .illegalBarrier false (k.act s) 0) ∧
     let b := getBarrier s k.w.grid k.w.wg cl n
     (k.w.spawned = false → k.f.quads &&& arrivedOf b k.uid ≠ 0 → CanTrap s k →
       Completes i s fun s' => Trapped s s' k .barrierRearrival false (k.act s) 0) ∧
     (k.w.spawned = false → k.f.quads &&& arrivedOf b k.uid = 0 → releaseWaits k = false → releaseStuck k = true →
       Completes i s fun s' => OnlyWave s s' k.uid ∧ SameBytes s s' ∧ ∃ w', assocGet s'.waves k.uid = some w' ∧
         w' = { k.w with frags := w'.frags } ∧
         w'.frag? k.lead = some { k.f with park := .faults, retry := true, waited := 0, promoted := none }) ∧
     (k.w.spawned = false → k.f.quads &&& arrivedOf b k.uid = 0 → releaseWaits k = false → releaseStuck k = false →
       k.turn s = true → (wgOf s k.w.grid k.w.wg).isSome = true →
       let ps := participants s k.w.grid k.w.wg cl
       let all := ∀ p ∈ ps,
         (if p.1 = k.uid then arrivedOf b k.uid ||| k.f.quads else arrivedOf b p.1) &&& p.2.live = p.2.live
       Completes i s fun s' => SameBytes s s' ∧
         (∃ w' f', assocGet s'.waves k.uid = some w' ∧ RegsOnly k.w w' ∧ w'.frag? k.lead = some f' ∧
           f'.quads = k.f.quads ∧ f'.park = .none ∧ f'.pc = k.f.pc + BitVec.ofNat 80 (2 * i.parcels) ∧
           (∀ q, q < 16 → clockOf w' q = clockOf k.w q + if k.f.quads.getLsbD q then 1 else 0) ∧
           (RegsHold k.w w' d.toNat (k.act s) fun _ => [b.phase]) ∧ (¬all → Advanced i k w')) ∧
         let b' := getBarrier s' k.w.grid k.w.wg cl n
         (all → b'.phase = b.phase + 1 ∧ b'.arrived = [] ∧
           (∀ gr, assocGet s.grids k.w.grid = some gr →
             (gr.det = false → b'.epilogue = some k.uid) ∧
             (gr.det = true → ∃ e ∈ b.came ++ [(k.uid, k.w.wg, k.w.widx)], b'.epilogue = some e.1 ∧
               ∀ x ∈ b.came ++ [(k.uid, k.w.wg, k.w.widx)], laterWave x e = false)) ∧
           ∀ v x q f t, (v, x) ∈ ps → assocGet s.waves v = some x → x.frag? q = some f → (v ≠ k.uid ∨ q ≠ k.lead) →
             f.park = .barrier cl n t → 0 < (b.phase + 1 - t).toInt → ∃ x' f', assocGet s'.waves v = some x' ∧
               x'.frag? q = some f' ∧ f'.park = .none ∧ f'.pc = f.pc) ∧
         (¬all → b'.phase = b.phase ∧ arrivedOf b' k.uid = arrivedOf b k.uid ||| k.f.quads ∧
           ∀ v, v ≠ k.uid → arrivedOf b' v = arrivedOf b v))) ∧
  (∀ i cl r n s k, (∃ g id, i = .waitaWg g id r ∧ cl = false ∧ n = id.toNat) ∨
       (∃ g id, i = .waitaCl g id r ∧ cl = true ∧ n = id.toNat) →
     MayRun i s k →
     let b := getBarrier s k.w.grid k.w.wg cl n
     let t := readLane s k.w r.toNat k.low
     (k.w.spawned = true → CanTrap s k → Completes i s fun s' => Trapped s s' k .illegalBarrier false (k.act s) 0) ∧
     (k.w.spawned = false → 0 < (b.phase - t).toInt → Completes i s fun s' => OnlyWave s s' k.uid ∧ SameBytes s s' ∧
       ∃ w' f', assocGet s'.waves k.uid = some w' ∧ w'.frag? k.lead = some f' ∧ f'.quads = k.f.quads ∧ f'.park = .none ∧
         f'.pc = k.f.pc + BitVec.ofNat 80 (2 * i.parcels) ∧ w'.regs = k.w.regs ∧ w'.mask = k.w.mask ∧
         w'.cc.z = k.w.cc.z ∧ w'.cc.n = k.w.cc.n ∧ w'.cc.v = k.w.cc.v ∧
         (∀ q, q < 16 → w'.cc.c.getLsbD q =
           if k.f.quads.getLsbD q then t == b.phase - 1 && b.epilogue == some k.uid else k.w.cc.c.getLsbD q) ∧
         ∀ c, b.done.find? (fun p => p.1 == t) = some (t, c) → ∀ q, q < 16 → k.f.quads.getLsbD q = true →
           clockOf w' q = max (clockOf k.w q) c + 1) ∧
     (k.w.spawned = false → (b.phase - t).toInt ≤ 0 → Completes i s fun s' => OnlyWave s s' k.uid ∧ SameBytes s s' ∧
       ∃ w' f', assocGet s'.waves k.uid = some w' ∧ w'.frag? k.lead = some f' ∧ f'.pc = k.f.pc ∧
         f'.park = .barrier cl n t ∧ w'.regs = k.w.regs))

/-- 06 R150, R151: `BATCH` closes the open batch and writes its number; with sixteen closed batches pending it waits
for the oldest. 06 R151, R152: `WAITB.ALL`, and `WAITB` of the open batch, close it; they go on once no operation of a
batch up to it is in flight and no lane is faulted, and wait for those in flight. `WAITB` of an earlier batch waits
for that one. 06 R152: a number at most sixteen back names a closed batch: `WAITB` goes on once no operation of it or
of an earlier one is in flight and no lane is faulted. -/
def Obligations.BatchesCloseAndComplete : Prop :=
  (∀ g d s k, MayRun (.batch g d) s k →
     ((pendingBatches k.w).length < 16 → Completes (.batch g d) s fun s' => OnlyWave s s' k.uid ∧ SameBytes s s' ∧
       ∃ w', assocGet s'.waves k.uid = some w' ∧ Advanced (.batch g d) k w' ∧ w'.open_ = k.w.open_ + 1 ∧
         w'.entries = k.w.entries ∧ w'.mask = k.w.mask ∧ w'.cc = k.w.cc ∧ w'.fpstat = k.w.fpstat ∧
         RegsHold k.w w' d.toNat (k.act s) fun _ => [BitVec.ofNat 32 (k.w.open_ % 2 ^ 16)]) ∧
     (16 ≤ (pendingBatches k.w).length →
       batchSettled k.w ((pendingBatches k.w).foldl min k.w.open_) = false → Completes (.batch g d) s fun s' =>
         OnlyWave s s' k.uid ∧ ∃ w' f', assocGet s'.waves k.uid = some w' ∧ w'.frag? k.lead = some f' ∧ f'.pc = k.f.pc ∧
           f'.park = .wait ∧ w'.open_ = k.w.open_)) ∧
  (∀ i s k, (∃ g, i = .waitbAll g) ∨ (∃ g r, i = .waitb g r ∧ (readLane s k.w r.toNat k.low).extractLsb' 0 16 = BitVec.ofNat 16 k.w.open_) →
     MayRun i s k → (∀ n, k.f.park ≠ .batches n) → k.f.closed = false → (pendingBatches k.w).length < 16 →
     ((∀ e ∈ k.w.entries, k.w.open_ < e.batch ∨ e.flying = false) → faultListEmpty k.w = true → Completes i s fun s' =>
       OnlyWave s s' k.uid ∧ SameBytes s s' ∧ ∃ w', assocGet s'.waves k.uid = some w' ∧ Advanced i k w' ∧
         w' = { k.w with open_ := k.w.open_ + 1, watchdog := w'.watchdog, clocks := w'.clocks, frags := w'.frags }) ∧
     ((∃ e ∈ k.w.entries, e.batch ≤ k.w.open_ ∧ e.flying = true) → Completes i s fun s' => OnlyWave s s' k.uid ∧
       ∃ w' f', assocGet s'.waves k.uid = some w' ∧ w'.frag? k.lead = some f' ∧ f'.pc = k.f.pc ∧
         f'.park = .batches k.w.open_ ∧ w'.open_ = k.w.open_ + 1)) ∧
  (∀ g r s k, MayRun (.waitb g r) s k → (∀ n, k.f.park ≠ .batches n) →
     let d := (BitVec.ofNat 16 k.w.open_ - (readLane s k.w r.toNat k.low).extractLsb' 0 16).toNat
     1 ≤ d → d ≤ 16 → d ≤ k.w.open_ →
     ((∀ e ∈ k.w.entries, k.w.open_ - d < e.batch ∨ e.flying = false) → faultListEmpty k.w = true →
       Completes (.waitb g r) s fun s' => OnlyWave s s' k.uid ∧ SameBytes s s' ∧
         ∃ w', assocGet s'.waves k.uid = some w' ∧ Advanced (.waitb g r) k w' ∧ w'.open_ = k.w.open_ ∧
           w' = { k.w with watchdog := w'.watchdog, clocks := w'.clocks, frags := w'.frags }) ∧
     ((∃ e ∈ k.w.entries, e.batch ≤ k.w.open_ - d ∧ e.flying = true) → Completes (.waitb g r) s fun s' =>
       OnlyWave s s' k.uid ∧ ∃ w' f', assocGet s'.waves k.uid = some w' ∧ w'.frag? k.lead = some f' ∧
         f'.pc = k.f.pc ∧ f'.park = .batches (k.w.open_ - d)))

/-- 06 R148; 07 R173, R177: an acquire fence only goes on, and at die scope or wider drops the core's slice group's
copies of lines; a release fence goes on once no earlier access of the fragment's lanes is in flight or faulted, and
waits for one in flight. -/
def Obligations.FencesWaitForEarlierAccesses : Prop :=
  ∀ g scope kind s k, MayRun (.fence g scope kind) s k →
    let earlier (p : LaneSt → Bool) : Prop := ∃ e ∈ k.w.entries, e.seq < k.w.nextSeq ∧ isMem e.instr = true ∧
      ∃ l ∈ e.lanes, (lanesOf k.f.quads).getLsbD l.1 = true ∧ p l.2 = true
    (kind = .acq ∨ (¬earlier LaneSt.flying ∧ ¬earlier LaneSt.stuck) → Completes (.fence g scope kind) s fun s' =>
      s' = { s with waves := s'.waves, hub := s'.hub, free := s'.free } ∧
      (∀ v, v ≠ k.uid → assocGet s'.waves v = assocGet s.waves v) ∧
      s'.hub = (if kind ≠ .rel ∧ 4 ≤ scope.toNat then
        { s.hub with lineCopies := s.hub.lineCopies.filter fun c => c.1 / 2 ^ 52 != sliceGroup k.w.core } else s.hub) ∧
      ∃ w', assocGet s'.waves k.uid = some w' ∧ Advanced (.fence g scope kind) k w' ∧
        w' = { k.w with clocks := w'.clocks, frags := w'.frags }) ∧
    (kind ≠ .acq → earlier LaneSt.flying → Completes (.fence g scope kind) s fun s' => OnlyWave s s' k.uid ∧
      ∃ w' f', assocGet s'.waves k.uid = some w' ∧ w'.frag? k.lead = some f' ∧ f'.pc = k.f.pc ∧ f'.park = .wait)

/-- 03 R83, R84: with every earlier `SPAWN` of the wave performed and every active lane's join word at count 0, `JOIN`
writes the words, and sets Z in quads without an active lane and C in quads that read a poisoned word. Z and C of
other quads, and N and V, stay. Without an active lane it waits for nothing; with spawns not yet complete or a count
it parks. 06 R148; 17 R418 to R420: `WAITW` goes on, with the words written, when every active lane's word differs
from its operand; else it parks on the words with C cycles to go, 0 meaning no limit. -/
def Obligations.JoinsAndWordWaits : Prop :=
  (∀ g d a s k (pa leaf : Nat → Nat), MayRun (.join g d a) s k →
     let upto := match k.f.park with | .spawns n => n | .asked _ n => n | _ => k.w.nextSeq
     let spawns : Prop := k.f.closed = false ∧ ∃ e ∈ k.w.entries, isSpawn e.instr = true ∧ e.seq < upto ∧
       ∃ l ∈ e.lanes, l.2 ≠ .done
     (k.act s ≠ 0 → spawns → Completes (.join g d a) s fun s' => OnlyWave s s' k.uid ∧ SameBytes s s' ∧
       ∃ w' f', assocGet s'.waves k.uid = some w' ∧ w'.frag? k.lead = some f' ∧ f'.pc = k.f.pc ∧
         f'.park = .spawns upto) ∧
     ((k.act s ≠ 0 → ¬spawns) →
       (∀ l, l < 64 → (k.act s).getLsbD l = true → tripleBad s k.w a.toNat l = false ∧
         xlate s k.c (readTriple s k.w a.toNat l).toNat .read = .ok (pa l, leaf l) ∧
         (readTriple s k.w a.toNat l).toNat % 4 = 0 ∧ paRegion (pa l) ≠ 2 ∧ (∀ j, j < 4 → rangesHave s.undefMem (pa l + j) = false) ∧
         memNat s.mem (pa l) 4 / 2 ^ 24 % 2 ^ 7 = 0) →
       ReadsFree s k (k.act s) 4 pa (fun l => readTriple s k.w a.toNat l) →
       let reads (s' : State) : Prop := (∃ h, s' = { s with
           mem := s'.mem, undefMem := s'.undefMem, waves := s'.waves, free := s'.free, hub := { s.hub with lineCopies := h } }) ∧ (∀ v, v ≠ k.uid → assocGet s'.waves v = assocGet s.waves v) ∧
         ∀ x, (∀ l, l < 64 → (k.act s).getLsbD l = true → x ≠ leaf l) → memRead s'.mem x = memRead s.mem x
       ((∃ l, l < 64 ∧ (k.act s).getLsbD l = true ∧ memNat s.mem (pa l) 4 % 2 ^ 24 ≠ 0) →
         Completes (.join g d a) s fun s' => reads s' ∧ ∃ w' f' ps, assocGet s'.waves k.uid = some w' ∧
           w'.frag? k.lead = some f' ∧ f'.pc = k.f.pc ∧ f'.park = .join ps ∧ w'.regs = k.w.regs ∧
           ∀ x, x ∈ ps ↔ ∃ l, l < 64 ∧ (k.act s).getLsbD l = true ∧ x = pa l) ∧
       ((∀ l, l < 64 → (k.act s).getLsbD l = true → memNat s.mem (pa l) 4 % 2 ^ 24 = 0) →
         Completes (.join g d a) s fun s' => reads s' ∧
           ∃ w' f', assocGet s'.waves k.uid = some w' ∧ w'.frag? k.lead = some f' ∧ f'.park = .none ∧
             f'.pc = k.f.pc + BitVec.ofNat 80 (2 * (Instr.join g d a).parcels) ∧
             RegsHold k.w w' d.toNat (k.act s) (fun l => [BitVec.ofNat 32 (memNat s.mem (pa l) 4)]) ∧
             w'.mask = k.w.mask ∧ w'.cc.n = k.w.cc.n ∧ w'.cc.v = k.w.cc.v ∧
             ∀ q, q < 16 →
               if k.f.quads.getLsbD q = true then
                 (w'.cc.z.getLsbD q = true ↔ ∀ l, l / 4 = q → (k.act s).getLsbD l = false) ∧
                 (w'.cc.c.getLsbD q = true ↔ ∃ l, l / 4 = q ∧ (k.act s).getLsbD l = true ∧ 2 ^ 31 ≤ memNat s.mem (pa l) 4)
               else w'.cc.z.getLsbD q = k.w.cc.z.getLsbD q ∧ w'.cc.c.getLsbD q = k.w.cc.c.getLsbD q))) ∧
  (∀ t x s k (pa leaf : Nat → Nat), MayRun (.waitw t x) s k → k.act s ≠ 0 → k.turn s = true →
     (∀ l, l < 64 → (k.act s).getLsbD l = true →
       tripleBad s k.w x.a.toNat (permA x.perm l) = false ∧
       xlate s k.c (readTriple s k.w x.a.toNat (permA x.perm l)).toNat .read = .ok (pa l, leaf l) ∧
       (readTriple s k.w x.a.toNat (permA x.perm l)).toNat % wBytes t = 0 ∧ paRegion (pa l) ≠ 2 ∧
       ∀ j, j < wBytes t → rangesHave s.undefMem (pa l + j) = false) →
     ReadsFree s k (k.act s) (wBytes t) pa (fun l => readTriple s k.w x.a.toNat (permA x.perm l)) →
     let m (l : Nat) : Dword := BitVec.ofNat 64 (memNat s.mem (pa l) (wBytes t))
     let go := ∀ l, l < 64 → (k.act s).getLsbD l = true → m l ≠ srcB s k.w x .int t.regs l
     Completes (.waitw t x) s fun s' =>
       (∃ h, s' = { s with
         mem := s'.mem, undefMem := s'.undefMem, waves := s'.waves, free := s'.free, hub := { s.hub with lineCopies := h } }) ∧
       (∀ v, v ≠ k.uid → assocGet s'.waves v = assocGet s.waves v) ∧
       (∀ a, (∀ l, l < 64 → (k.act s).getLsbD l = true → a ≠ leaf l) → memRead s'.mem a = memRead s.mem a) ∧
       ∃ w' f', assocGet s'.waves k.uid = some w' ∧ w'.frag? k.lead = some f' ∧ w'.mask = k.w.mask ∧ w'.cc = k.w.cc ∧
         (go → f'.park = .none ∧ f'.pc = k.f.pc + BitVec.ofNat 80 (2 * (Instr.waitw t x).parcels) ∧
           RegsHold k.w w' x.d.toNat (k.act s) fun l => valWords t.regs (m l)) ∧
         (¬go → f'.pc = k.f.pc ∧ w'.regs = k.w.regs ∧ ∃ ws left, f'.park = .waitw (.waitw t x) ws (wBytes t) left false ∧
           (∀ y ∈ ws, y.pa = pa y.lane ∧ y.m = m y.lane ∧ (k.act s).getLsbD y.lane = true) ∧
           ((∀ i v n p q, k.f.park ≠ .waitw i v n p q) →
             left = if (srcC s k.w x 1 k.low).toNat = 0 then none else some (srcC s k.w x 1 k.low).toNat)))

/-- 03 R85 to R88: `TICKET.ACQ` of a granted ticket takes it and writes its status, with the condition codes of the
status; of one not granted it waits; of one already released when it first issues it traps, and in a spawned wave
always. 03 R86 to R88: `TICKET.REL` of a held ticket, its earlier accesses performed, releases it and grants the next
workgroup's with status 0. Tickets whose release was recorded before are released in turn, each giving the next its
status; every other ticket stays. Without the ticket when it is first tested it traps, and in a spawned wave. -/
def Obligations.TicketsAcquireAndRelease : Prop :=
  (∀ g d id s k, MayRun (.ticketAcq g d id) s k →
     (k.w.spawned = true → CanTrap s k →
       Completes (.ticketAcq g d id) s fun s' => Trapped s s' k .illegalTicket false (k.act s) 0) ∧
     (k.w.spawned = false → (assocGet s.grids k.w.grid).isSome = true →
       let t := ticketAt s k.w.grid k.w.wg id.toNat
       let parked (p : Park) : Prop := Completes (.ticketAcq g d id) s fun s' => OnlyWave s s' k.uid ∧ SameBytes s s' ∧
         ∃ w' f', assocGet s'.waves k.uid = some w' ∧ w'.frag? k.lead = some f' ∧ f'.pc = k.f.pc ∧ f'.park = p
       (t.released = true → k.f.retry = false → CanTrap s k →
         Completes (.ticketAcq g d id) s fun s' => Trapped s s' k .ticketReused false (k.act s) 0) ∧
       (t.released = false ∨ k.f.retry = true →
         (t.granted = false → parked .wait) ∧
         (t.granted = true → k.turn s = false → parked .turn) ∧
         (t.granted = true → k.turn s = true → Completes (.ticketAcq g d id) s fun s' =>
           SameBytes s s' ∧ s'.ctxs = s.ctxs ∧ (∀ v, v ≠ k.uid → assocGet s'.waves v = assocGet s.waves v) ∧
           ticketAt s' k.w.grid k.w.wg id.toNat = { t with held := t.held || !t.released } ∧
           (∀ j n, (j ≠ k.w.wg ∨ n ≠ id.toNat) → n < 4 → ticketAt s' k.w.grid j n = ticketAt s k.w.grid j n) ∧
           ∃ w', assocGet s'.waves k.uid = some w' ∧ Advanced (.ticketAcq g d id) k w' ∧ w'.mask = k.w.mask ∧
             RegsHold k.w w' d.toNat (k.act s) (fun _ => [BitVec.ofNat 32 t.status]) ∧
             ∀ q, q < 16 → if k.f.quads.getLsbD q = true then
               w'.cc.z.getLsbD q = decide (t.status = 0) ∧ w'.cc.n.getLsbD q = decide (k.w.wg = 0) ∧
               w'.cc.c.getLsbD q = decide (t.status = 1) ∧ w'.cc.v.getLsbD q = decide (t.status = 2)
             else w'.cc.z.getLsbD q = k.w.cc.z.getLsbD q ∧ w'.cc.n.getLsbD q = k.w.cc.n.getLsbD q ∧
               w'.cc.c.getLsbD q = k.w.cc.c.getLsbD q ∧ w'.cc.v.getLsbD q = k.w.cc.v.getLsbD q)))) ∧
  (∀ g id s k, MayRun (.ticketRel g id) s k →
     (k.w.spawned = true → CanTrap s k →
       Completes (.ticketRel g id) s fun s' => Trapped s s' k .illegalTicket false (k.act s) 0) ∧
     (k.w.spawned = false → (assocGet s.grids k.w.grid).isSome = true →
       let at_ (t : State) (j : Nat) : Ticket := ticketAt t k.w.grid (k.w.wg + j) id.toNat
       let st (j : Nat) : Nat := if j = 1 then 0 else ((at_ s (j - 1)).early).getD 0
       ((at_ s 0).held = false → k.f.closed = false → CanTrap s k →
         Completes (.ticketRel g id) s fun s' => Trapped s s' k .ticketNotHeld false (k.act s) 0) ∧
       ∀ m, (at_ s 0).held = true → releaseWaits k = false → releaseStuck k = false →
         (∀ j, 1 ≤ j → j ≤ m → (at_ s j).early.isSome = true) → (at_ s (m + 1)).early = none →
         Completes (.ticketRel g id) s fun s' => SameBytes s s' ∧
           at_ s' 0 = { at_ s 0 with held := false, released := true } ∧
           (∀ j, 1 ≤ j → j ≤ m →
             at_ s' j = { at_ s j with granted := true, released := true, status := st j, early := none }) ∧
           at_ s' (m + 1) = { at_ s (m + 1) with granted := true, status := st (m + 1) } ∧
           (∀ j n, n < 4 → (n ≠ id.toNat ∨ j < k.w.wg ∨ k.w.wg + m + 1 < j) →
             ticketAt s' k.w.grid j n = ticketAt s k.w.grid j n) ∧
           (∀ v, v ≠ k.uid → assocGet s'.waves v = assocGet s.waves v) ∧
           ∃ w', assocGet s'.waves k.uid = some w' ∧ Advanced (.ticketRel g id) k w' ∧
             w' = { k.w with clocks := w'.clocks, frags := w'.frags }))

/-- 08 R208 to R211: the semaphore instructions on a word of the wave's share, or with `.CL` on that of a workgroup of
its cluster: `SEMI` stores the word, `SEMS` adds n within the ceiling, `SEMW` and `SEMW.T` subtract n from a count of
at least n and clear C. Fragments that wait on the word are served in the order in which they parked, each that finds
its count. Every byte of memory and every other byte of the share stays. 06 R145; 08 R208 to R211: where a semaphore
instruction traps or waits instead, a rank outside the cluster among the causes, and that a role wave's `SEMI`
registers its word with its triple, which holds sixteen. -/
def Obligations.SemaphoresCountTrapAndWait : Prop :=
  (∀ i s k wg off v', MayRun i s k → k.w.spawned = false → off % 4 = 0 → off + 4 ≤ shareSize s k.w.grid →
     (wgOf s k.w.grid wg).isSome = true → releaseWaits k = false → releaseStuck k = false →
     k.f.closed = false →
     let at_ (r : Reg) : Prop := (readLane s k.w r.toNat k.low).toNat = off
     let v := semGet s k.w.grid wg off
     (∃ g d a, i = .semi g d a ∧ at_ d ∧ wg = k.w.wg ∧ v' = (readLane s k.w a.toNat k.low).toNat ∧
       (∀ t mine, roleOf s k.w = some (t, mine) → ∃ x tr, wgOf s k.w.grid wg = some x ∧ x.triples[t]? = some tr ∧
         (off ∈ tr.words ∨ tr.words.length < 16))) ∨
     (∃ g n a, i = .sems g n a ∧ at_ a ∧ wg = k.w.wg ∧ v % 2 ^ 16 + n.toNat ≤ v / 2 ^ 16 % 2 ^ 15 ∧ v' = v + n.toNat) ∨
     (∃ g n a b, i = .semsCl g n a b ∧ at_ a ∧ rankWg s k.w (readLane s k.w b.toNat k.low).toNat = some wg ∧
       v % 2 ^ 16 + n.toNat ≤ v / 2 ^ 16 % 2 ^ 15 ∧ v' = v + n.toNat) ∨
     (∃ g n a, (i = .semw g n a ∨ i = .semwT g n a) ∧ at_ a ∧ wg = k.w.wg ∧ n.toNat ≤ v % 2 ^ 16 ∧ v' = v - n.toNat) →
     (∀ x, wgOf s k.w.grid wg = some x → Memory.wf x.share = true) →
     (∀ e ∈ semWaiters s k.w.grid wg off, (e.2.1 ≠ k.uid ∨ e.2.2.1 ≠ k.lead) ∧ v' / 2 ^ 31 % 2 = 0 ∧
       e.2.2.2 ≤ v' / 2 ^ 16 % 2 ^ 15 ∧ ∃ x f, assocGet s.waves e.2.1 = some x ∧ x.frag? e.2.2.1 = some f ∧
         f.park = .sem k.w.grid wg off e.2.2.2 e.1) →
     ((semWaiters s k.w.grid wg off).map fun e => (e.2.1, e.2.2.1)).Nodup →
     let served := (semWaiters s k.w.grid wg off).foldl
       (fun (r : Nat × List (Nat × Nat)) e => if e.2.2.2 ≤ r.1 % 2 ^ 16 then (r.1 - e.2.2.2, (e.2.1, e.2.2.1) :: r.2) else r)
       (v' % 2 ^ 32, [])
     let clears := ∃ g n a, i = .semw g n a ∨ i = .semwT g n a
     Completes i s fun s' => SameBytes s s' ∧
       (∃ x x', wgOf s k.w.grid wg = some x ∧ wgOf s' k.w.grid wg = some x' ∧
         (∀ a, a < off ∨ off + 4 ≤ a → memRead x'.share a = memRead x.share a) ∧ leNat (memReadN x'.share off 4) = served.1) ∧
       (∀ e ∈ semWaiters s k.w.grid wg off, ∃ w' f', assocGet s'.waves e.2.1 = some w' ∧ w'.frag? e.2.2.1 = some f' ∧
         (f'.park = .none ↔ (e.2.1, e.2.2.1) ∈ served.2) ∧ ((e.2.1, e.2.2.1) ∈ served.2 → f'.closed = true)) ∧
       ∃ w' f', assocGet s'.waves k.uid = some w' ∧ w'.frag? k.lead = some f' ∧ f'.park = .none ∧
         f'.pc = k.f.pc + BitVec.ofNat 80 (2 * i.parcels) ∧ w'.regs = k.w.regs ∧ w'.mask = k.w.mask ∧
         w'.cc.z = k.w.cc.z ∧ w'.cc.n = k.w.cc.n ∧ w'.cc.v = k.w.cc.v ∧
         ∀ q, q < 16 → (clears → k.f.quads.getLsbD q = true → w'.cc.c.getLsbD q = false) ∧
           (¬clears ∨ k.f.quads.getLsbD q = false → w'.cc.c.getLsbD q = k.w.cc.c.getLsbD q)) ∧
  (∀ g n a s k, releaseWaits k = false → releaseStuck k = false → k.f.closed = false →
     let off := (readLane s k.w a.toNat k.low).toNat
     let v := semGet s k.w.grid k.w.wg off
     let traps (i : Instr) (c : Cause) : Prop := MayRun i s k → CanTrap s k →
       Completes i s fun s' => Trapped s s' k c false (k.act s) 0
     (off % 4 ≠ 0 → traps (.sems g n a) .misaligned ∧ traps (.semw g n a) .misaligned ∧ traps (.semwT g n a) .misaligned ∧
       (∀ b, traps (.semi g a b) .misaligned) ∧ ∀ g1 b, traps (.semsCl g1 n a b) .misaligned) ∧
     (off % 4 = 0 → k.w.spawned = true ∨ shareSize s k.w.grid < off + 4 →
       traps (.sems g n a) .scratchpadBound ∧ traps (.semw g n a) .scratchpadBound ∧ traps (.semwT g n a) .scratchpadBound ∧
       (∀ b, traps (.semi g a b) .scratchpadBound) ∧ ∀ g1 b, traps (.semsCl g1 n a b) .scratchpadBound) ∧
     (off % 4 = 0 → ∀ g1 b, gridS s k.w.grid ≤ (readLane s k.w b.toNat k.low).toNat → traps (.semsCl g1 n a b) .scratchpadBound) ∧
     (off % 4 = 0 → k.w.spawned = false → off + 4 ≤ shareSize s k.w.grid →
       (v / 2 ^ 16 % 2 ^ 15 < v % 2 ^ 16 + n.toNat → traps (.sems g n a) .semaphoreOverflow) ∧
       (v % 2 ^ 16 < n.toNat → v / 2 ^ 16 % 2 ^ 15 < n.toNat →
         traps (.semw g n a) .semaphoreRange ∧ traps (.semwT g n a) .semaphoreRange) ∧
       (v % 2 ^ 16 < n.toNat → n.toNat ≤ v / 2 ^ 16 % 2 ^ 15 → bitOf v 31 = false → ∀ i, i = .semw g n a ∨ i = .semwT g n a →
         MayRun i s k → Completes i s fun s' => SameBytes s s' ∧ OnlyWave s s' k.uid ∧
           ∃ w' f', assocGet s'.waves k.uid = some w' ∧ w'.frag? k.lead = some f' ∧ f'.pc = k.f.pc ∧
             f'.park = .sem k.w.grid k.w.wg off n.toNat s.free) ∧
       (v % 2 ^ 16 < n.toNat → n.toNat ≤ v / 2 ^ 16 % 2 ^ 15 → bitOf v 31 = true → traps (.semw g n a) .pipelineClosed ∧
         (MayRun (.semwT g n a) s k → Completes (.semwT g n a) s fun s' => SameBytes s s' ∧ OnlyWave s s' k.uid ∧
           ∃ w' f', assocGet s'.waves k.uid = some w' ∧ w'.frag? k.lead = some f' ∧ f'.park = .none ∧
             f'.pc = k.f.pc + BitVec.ofNat 80 (2 * (Instr.semwT g n a).parcels) ∧
             ∀ q, q < 16 → k.f.quads.getLsbD q = true → w'.cc.c.getLsbD q = true)) ∧
       ∀ b t mine wg tr, roleOf s k.w = some (t, mine) → wgOf s k.w.grid k.w.wg = some wg → wg.triples[t]? = some tr →
         (off ∉ tr.words → 16 ≤ tr.words.length → traps (.semi g a b) .semaphoreTable) ∧
         (off ∉ tr.words → tr.words.length < 16 → MayRun (.semi g a b) s k → Completes (.semi g a b) s fun s' =>
           SameBytes s s' ∧ ∃ wg' tr', wgOf s' k.w.grid k.w.wg = some wg' ∧ wg'.triples[t]? = some tr' ∧
             tr' = { tr with words := tr.words ++ [off] })))

/-! Memory (06, 07, 15, 16, 17). -/

/-- 03 R63; 06 R138, R154; 09 R215; 15 R358; 16 R391; 17 R407, R411: loads, stores, atomics, remote stores, ray
instructions and spawns issue as one entry of the open batch, a lane held behind its own earlier fault and otherwise
as its access resolves: in flight, or faulted. Nothing of memory or of a register changes then, and the destination is
undefined from then on (04 R94). That holds while the context's tables stand in memory that exists (06 R158). With all
64 entries of the list in use the fragment waits, and with each of them a fault it reports. -/
def Obligations.MemoryInstructionsJoinTheBatch : Prop :=
  ∀ i d n f, (∃ g t r a, i = .ldA32 g t r a ∧ d = r.toNat ∧ n = t.regs ∧ f = ldLane .glob 31 (ldBytes t) a.toNat none) ∨
      (∃ t x, i = .ldB64 t x ∧ d = x.d.toNat ∧ n = t.regs ∧ f = ldLane x.m.spc x.m.home.toNat (ldBytes t) x.a.toNat x.perm) ∨
      (∃ g t r a, i = .stA32 g t r a ∧ n = 0 ∧ f = stLane .glob 31 (stBytes t) r.toNat a.toNat none) ∨
      (∃ t x, i = .stB64 t x ∧ n = 0 ∧ f = stLane x.m.spc x.m.home.toNat (stBytes t) x.d.toNat x.a.toNat x.perm) ∨
      (∃ t x, i = .rst t x ∧ n = 0 ∧ f = rstLane (stBytes t) x) ∨
      (∃ t x, i = .atom t x ∧ d = x.d.toNat ∧ n = t.regs ∧ f = atomLane t x) ∨
      (∃ g p r a, i = .rayq g p r a ∧ d = r.toNat ∧ n = 3 * precN p + 3 ∧ f = rayLane p false a.toNat none) ∨
      (∃ g p r a b, i = .rayqL g p r a b ∧ d = r.toNat ∧ n = 3 * precN p + 3 ∧ f = rayLane p false a.toNat (some b.toNat)) ∨
      (∃ g p r a b, i = .rayp g p r a b ∧ d = r.toNat ∧ n = 3 * precN p + 3 ∧ f = rayLane p true a.toNat (some b.toNat)) ∨
      (∃ g p r a, i = .raya g p r a ∧ d = r.toNat ∧ n = 8 * precN p + 4 ∧ f = rayALane a.toNat) ∨
      (∃ g p r a b c, i = .rayh g p r a b c ∧ d = r.toNat ∧ n = 1 ∧ f = rayHLane p a.toNat b.toNat c.toNat) ∨
      (∃ g p h m r a b c, i = .spawn g p h m r a b c ∧ d = r.toNat ∧ n = 1 ∧ f = spawnLane p h (m.toNat + 1) a b c) →
    ∀ s k, MayRun i s k →
      (k.w.entries.length < 64 → (∀ va, walk s k.c va ≠ .outside) → Completes i s fun s' =>
        JoinsBatch i s s' k (k.act s) ∧ ∃ w', assocGet s'.waves k.uid = some w' ∧
          (∀ r l, d ≤ r → r < d + n → l < 64 → (k.act s).getLsbD l = true → undefAt s' w' r l = true) ∧
          ((∀ e ∈ k.w.entries, e.seq < k.w.nextSeq) → ∀ e ∈ w'.entries, e.seq = k.w.nextSeq →
            ∀ l, l < 64 → (k.act s).getLsbD l = true →
              assocGet e.lanes l = some (if laneStuck k.w k.w.nextSeq l then .held else (f e k l s).2))) ∧
      (64 ≤ k.w.entries.length → (∃ e ∈ k.w.entries, e.stuck = false) → Completes i s fun s' => OnlyWave s s' k.uid ∧
        SameBytes s s' ∧ ∃ w' f', assocGet s'.waves k.uid = some w' ∧ w'.entries = k.w.entries ∧ w'.regs = k.w.regs ∧
          w'.frag? k.lead = some f' ∧ f'.pc = k.f.pc ∧ f'.park = .wait) ∧
      ∀ e r l c a p, 64 ≤ k.w.entries.length → k.w.entries = e :: r → e.lowest = some (l, c, a, p) →
        (∀ x ∈ k.w.entries, x.stuck = true ∧ x.lowest.isSome = true ∧ x.serviced k.c = false) → CanTrap s k →
        Completes i s fun s' => Trapped s s' k c true (k.w.entries.foldl (fun m e => m ||| e.faultedLanes) 0) a

/-- 06 R138 to R146, 16 R392: an access by triple faults when the triple is not canonical, then by its translation,
then when it is not aligned; one by spill or scratchpad offset faults first by its bound. What remains is an access at
the translated address, or at the offset in the wave's own area. A remote store (06 R145, 17 R407) faults first by the
rank of its target in the cluster and by the bound that its whole access must keep, then when it is not aligned; what
remains is a store at the offset of the target's share. 06 R139 to R142: translation walks the table from level 4
down. The entry of a level lies in that level's table at the level's bits of the address. The first entry that is not
a valid one of a lower table decides: a table that lies at no address faults as out of range, an entry without V as
absent, and one with a reserved bit set, a leaf above level 2 or out of line with its size, or a last entry that is no
leaf as malformed. A leaf that does not permit the access faults as protection; else its page of 64 KiB, 512 MiB or 4
TiB gives the address, which must exist. -/
def Obligations.AddressesCheckedAndTranslated : Prop :=
  ((∀ s k n (x : LongM) e l, 0 < n →
     let o := readLane s k.w x.a.toNat (permA x.perm l)
     let r := (readLane s k.w x.b.toNat (permB x.perm l)).toNat
     let size := gridS s k.w.grid
     (rstLane n x e k l s).2 =
       if size ≤ r ∨ shareSize s k.w.grid < o.toNat + n ∨ k.w.spawned = true then .faulted .scratchpadBound (off80 o) 0
       else if o.toNat % n ≠ 0 then .faulted .misaligned (off80 o) 0
       else .inflight (.store (.share k.w.grid (k.w.wg / size * size + r) o.toNat) (storeData s k.w x.d.toNat n l)) (off80 o)) ∧
   ∀ s k spc n a bad va o, memLoc s k spc n a bad va o = match spc with
     | .glob =>
       if bad then .error (.nonCanonical, va, va)
       else (match xlate s k.c va.toNat a with
         | .error e => .error (e, va, va)
         | .ok (pa, leaf) => if va.toNat % n = 0 then .ok (.phys pa leaf) else .error (.misaligned, va, va))
     | .spl =>
       if k.c.spf * 4096 < o.toNat + n then .error (.spillBound, off80 o, 0)
       else (match xlate s k.c (frameAddr k.c k.w + off80 o).toNat a with
         | .error e => .error (e, off80 o, frameAddr k.c k.w + off80 o)
         | .ok (pa, leaf) => if o.toNat % n = 0 then .ok (.phys pa leaf) else .error (.misaligned, off80 o, 0))
     | .scr =>
       if k.w.spawned = true ∨ shareSize s k.w.grid ≤ o.toNat then .error (.scratchpadBound, off80 o, 0)
       else if o.toNat % n = 0 then .ok (.share k.w.grid k.w.wg o.toNat) else .error (.misaligned, off80 o, 0)) ∧
  (∀ s c va a (tab : Nat → Nat) lvl, tab 4 = c.ptb → lvl ≤ 4 →
     let present (p : Nat) : Prop := (p / 2 ^ 50 = 0 ∧ p < 18 * 2 ^ 36 ∧ s.hub.online.getLsbD (p / 2 ^ 36) = true) ∨
       p / 2 ^ 50 = 1 ∨ (p / 2 ^ 50 = 2 ∧ (assocGet s.hub.peers (p / 2 ^ 42 % 256)).isSome = true)
     let at_ (j : Nat) : Nat := tab j + 8 * (va / 2 ^ (16 + 13 * j) % (if j = 4 then 4096 else 8192))
     let e (j : Nat) : Nat := memNat s.mem (at_ j) 8
     let frame (j : Nat) : Nat := e j / 2 ^ 16 % 2 ^ 36 * 2 ^ 16
     let spare (j : Nat) : Prop := e j / 2 ^ 60 ≠ 0 ∨ e j / 2 ^ 8 % 2 ^ 8 ≠ 0 ∨ e j / 2 ^ 2 % 2 = 1
     (∀ j, lvl < j → j ≤ 4 → present (at_ j) ∧ e j % 2 = 1 ∧ ¬spare j ∧ e j / 2 % 2 ^ 7 = 0 ∧ tab (j - 1) = frame j) →
     let leaf := e lvl / 2 % 2 = 1
     let bad := spare lvl ∨ (leaf ∧ (3 ≤ lvl ∨ frame lvl % 2 ^ (16 + 13 * lvl) ≠ 0)) ∨
       (¬leaf ∧ (lvl = 0 ∨ e lvl / 2 ^ 2 % 2 ^ 6 ≠ 0))
     (¬present (at_ lvl) → xlate s c va a = .error .physicalRange) ∧
     (present (at_ lvl) → e lvl % 2 = 0 → xlate s c va a = .error .pageFault) ∧
     (present (at_ lvl) → e lvl % 2 = 1 → bad → xlate s c va a = .error .tableFormat) ∧
     (present (at_ lvl) → e lvl % 2 = 1 → ¬bad → leaf →
       let pa := frame lvl + va % 2 ^ (16 + 13 * lvl)
       let denied := (c.sup = false ∧ e lvl / 2 ^ 5 % 2 = 0) ∨ (a = .write ∧ e lvl / 2 ^ 3 % 2 = 0) ∨
         (a = .fetch ∧ e lvl / 2 ^ 4 % 2 = 0)
       (denied → xlate s c va a = .error .protection) ∧
       (¬denied → present pa → xlate s c va a = .ok (pa, at_ lvl)) ∧
       (¬denied → ¬present pa → xlate s c va a = .error .physicalRange)))

/-- 07 R174, 16 R391, 06 R141: a load of up to eight bytes, performed, writes its lane's words, little-endian and
extended as its code says, and changes no byte but its leaf's, whose A bit it sets. A lane is performed in one step
(assumption 12). From a peer it takes the peer's answer (assumption 14); of package and host memory a load may take,
line by line, the copy that its slice group holds, and an acquire of die scope or wider takes none and drops them (06
R147, R148). 07 R174, 17 R411, 06 R141: a store of up to eight bytes, performed, puts its bytes at its address and
changes no other byte but its leaf's, whose A and D bits it sets; one to a share changes that share alone. Bytes
stored are defined. A word that a semaphore operation or a join count updated in the same cycle may stand over the
bytes stored, since toward a plain store the update is a separate read and write (08 R208, 17 R413). 07 R175: of an
access of sixteen bytes, a store or a load, of memory or of a share, one half of eight is performed, and the other
left in flight. Which is first, a free bit says. -/
def Obligations.LoadsAndStoresPerformed : Prop :=
  (∀ s u seq l resp w e loc n reg addr t d, AccessDue s u seq l w e (.load loc n reg) addr →
     ldParts e.instr = some (t, d) → n ≤ 8 → Memory.wf s.mem = true →
     Completes (.memoryAccessComplete u seq l resp) s fun s' =>
       (∀ v, v ≠ u → assocGet s'.waves v = assocGet s.waves v) ∧ s'.grids = s.grids ∧ s'.ctxs = s.ctxs ∧
       s'.hub = { s.hub with lineCopies := s'.hub.lineCopies } ∧ (∀ a, ¬loc.leafIs a → memRead s'.mem a = memRead s.mem a ∧
         rangesHave s'.undefMem a = rangesHave s.undefMem a) ∧ LeafMarked s s' loc false ∧
       (farAcquire e.instr = true → loc.peer = false → s'.hub.lineCopies =
         s.hub.lineCopies.filter fun c => c.1 / 2 ^ 52 != sliceGroup w.core) ∧
       ∃ w' bs, LoadBytes s w e loc.peer loc n (4 * reg) resp bs ∧ assocGet s'.waves u = some w' ∧ LaneDone w' seq l ∧
         w' = { w with regs := w'.regs, entries := w'.entries } ∧
         (∀ j v, (loadWords t bs)[j]? = some v → held w' (d + reg + j) l = v) ∧
         ∀ r x, x < 64 → (x ≠ l ∨ r < d + reg ∨ d + reg + (loadWords t bs).length ≤ r) → held w' r x = held w r x) ∧
  ((∀ s u seq l resp w e pa leaf bs addr h v, AccessDue s u seq l w e (.store (.phys pa leaf) bs) addr → bs.length ≤ 8 →
     s.updates = [(h, v)] → Completes (.memoryAccessComplete u seq l resp) s fun s' =>
       let stored := writeLoc s (.phys pa leaf) bs
       ∃ t, (t = stored ∨ t = wordStore stored h v ∧ (Op.load h 4 0).overlaps (.load (.phys pa leaf) bs.length 0) = true) ∧
         ∀ a, a ≠ leaf → memRead s'.mem a = memRead t.mem a) ∧
   ∀ s u seq l resp w e loc bs addr, AccessDue s u seq l w e (.store loc bs) addr → bs.length ≤ 8 →
     Memory.wf s.mem = true → NoUpdateAt s loc bs.length →
     Completes (.memoryAccessComplete u seq l resp) s fun s' =>
       (∀ v, v ≠ u → assocGet s'.waves v = assocGet s.waves v) ∧ s'.ctxs = s.ctxs ∧
       (∃ w', assocGet s'.waves u = some w' ∧ LaneDone w' seq l ∧ w' = { w with entries := w'.entries }) ∧
       match loc with
       | .phys pa leaf => s'.grids = s.grids ∧
         (∀ j b, bs[j]? = some b → pa + j ≠ leaf → memRead s'.mem (pa + j) = b ∧ rangesHave s'.undefMem (pa + j) = false) ∧
         (∀ a, a ≠ leaf → (a < pa ∨ pa + bs.length ≤ a) → memRead s'.mem a = memRead s.mem a) ∧
         (∀ a, a ≠ leaf → (a < pa ∨ pa + bs.length ≤ a) → rangesHave s'.undefMem a = rangesHave s.undefMem a) ∧
         ((leaf < pa ∨ pa + bs.length ≤ leaf) → LeafMarked s s' loc true)
       | .share g k off => SameBytes s s' ∧ ∀ x, wgOf s g k = some x → Memory.wf x.share = true →
         ∃ x', wgOf s' g k = some x' ∧ x' = { x with share := x'.share, undef := x'.undef } ∧
           (∀ j b, bs[j]? = some b → memRead x'.share (off + j) = b ∧ rangesHave x'.undef (off + j) = false) ∧
           ∀ a, (a < off ∨ off + bs.length ≤ a) →
             memRead x'.share a = memRead x.share a ∧ rangesHave x'.undef a = rangesHave x.undef a) ∧
  (∀ s u seq l resp w e loc addr, Memory.wf s.mem = true →
     let left (s' : State) (o : Op) : Prop := ∃ w', assocGet s'.waves u = some w' ∧ ∀ e' ∈ w'.entries, e'.seq = seq →
       ∃ o', assocGet e'.lanes l = some (.inflight o' addr) ∧ (o' = o ∨ ∃ p c num, o' = .sent p c num o)
     (∀ bs, AccessDue s u seq l w e (.store loc bs) addr → bs.length = 16 → NoUpdateAt s loc 16 →
       Completes (.memoryAccessComplete u seq l resp) s fun s' => ∃ h, (h = 0 ∨ h = 8) ∧
         left s' (.store (loc.plus (8 - h)) ((bs.drop (8 - h)).take 8)) ∧
         match loc with
         | .phys pa leaf => (leaf < pa ∨ pa + 16 ≤ leaf) →
           (∀ j b, j < 8 → bs[h + j]? = some b → memRead s'.mem (pa + h + j) = b) ∧
           (∀ a, a ≠ leaf → (a < pa + h ∨ pa + h + 8 ≤ a) → memRead s'.mem a = memRead s.mem a) ∧ LeafMarked s s' loc true
         | .share g k off => SameBytes s s' ∧ ∀ x, wgOf s g k = some x → Memory.wf x.share = true →
           ∃ x', wgOf s' g k = some x' ∧ (∀ j b, j < 8 → bs[h + j]? = some b → memRead x'.share (off + h + j) = b) ∧
             ∀ a, (a < off + h ∨ off + h + 8 ≤ a) → memRead x'.share a = memRead x.share a) ∧
     ∀ reg t d, AccessDue s u seq l w e (.load loc 16 reg) addr → ldParts e.instr = some (t, d) →
       Completes (.memoryAccessComplete u seq l resp) s fun s' => ∃ h, (h = 0 ∨ h = 8) ∧
         left s' (.load (loc.plus (8 - h)) 8 ((8 - h) / 4)) ∧
         (∀ a, ¬loc.leafIs a → memRead s'.mem a = memRead s.mem a ∧ rangesHave s'.undefMem a = rangesHave s.undefMem a) ∧
         LeafMarked s s' loc false ∧
         ∃ w' bs, LoadBytes s w e loc.peer (loc.plus h) 8 (h + 4 * reg) resp bs ∧ assocGet s'.waves u = some w' ∧
           (∀ j v, (loadWords t bs)[j]? = some v → held w' (d + h / 4 + j) l = v) ∧
           ∀ r x, x < 64 → (x ≠ l ∨ r < d + h / 4 ∨ d + h / 4 + (loadWords t bs).length ≤ r) → held w' r x = held w r x)

/-- 07 R176; 15 R358 to R361: an atomic, performed, returns the old value in D, and stores the operation's result at
its address; `.CAS` stores only where the old value equals C. On a share and at a peer it is one step, and a peer's
value is the peer's answer (assumption 14). On other memory its write may follow in a step of its own, with the value
read before; another atomic of its width and of inclusive scope waits until then. 15 R359: the new value of each
atomic operation on w bits. -/
def Obligations.AtomicsPerformed : Prop :=
  (∀ s u seq l resp w e loc b c addr t x, e.instr = .atom t x → Memory.wf s.mem = true →
     let n := wBytes t
     let cas := x.m.opx = 9
     let new (old : Nat) : Nat := if cas then b.toNat else atomNew x.m.opx (8 * n) old b.toNat
     let ends (old : Nat) (s' : State) : Prop :=
       (match loc with
        | .phys pa leaf => (leaf < pa ∨ pa + n ≤ leaf) →
          (∀ a, a ≠ leaf → (a < pa ∨ pa + n ≤ a) → memRead s'.mem a = memRead s.mem a) ∧
          (¬cas ∨ old = c.toNat → memNat s'.mem pa n = new old % 2 ^ (8 * n) ∧ LeafMarked s s' loc true) ∧
          (cas → old ≠ c.toNat → memNat s'.mem pa n = memNat s.mem pa n ∧ LeafMarked s s' loc false)
        | .share g k off => SameBytes s s' ∧ ∀ y, wgOf s g k = some y → Memory.wf y.share = true → ∃ y', wgOf s' g k = some y' ∧
          (∀ a, (a < off ∨ off + n ≤ a) → memRead y'.share a = memRead y.share a) ∧
          (¬cas ∨ old = c.toNat → memNat y'.share off n = new old % 2 ^ (8 * n)) ∧
          (cas → old ≠ c.toNat → memNat y'.share off n = memNat y.share off n)) ∧
       (∀ v y, v ≠ u → assocGet s.waves v = some y → ∃ y', assocGet s'.waves v = some y' ∧ y' = { y with frags := y'.frags }) ∧
       ∃ w', assocGet s'.waves u = some w' ∧ LaneDone w' seq l ∧
         (∀ j v, (valWords t.regs (BitVec.ofNat 64 old))[j]? = some v → held w' (x.d.toNat + j) l = v) ∧
         ∀ r y, y < 64 → (y ≠ l ∨ r < x.d.toNat ∨ x.d.toNat + t.regs ≤ r) → held w' r y = held w r y
     (AccessDue s u seq l w e (.atom loc b c) addr →
       (atomBlocked s u w e loc = true → exec (.memoryAccessComplete u seq l resp) s = .next s) ∧
       (atomBlocked s u w e loc = false →
         let old := if loc.peer then resp.toNat % 2 ^ (8 * n) else leNat (readLoc s loc n)
         Completes (.memoryAccessComplete u seq l resp) s fun s' => ends old s' ∨
           (loc.peer = false ∧ loc.inShare = false ∧ (∀ a, ¬loc.leafIs a → memRead s'.mem a = memRead s.mem a) ∧
             ∃ w', assocGet s'.waves u = some w' ∧ w'.regs = w.regs ∧ ∀ e' ∈ w'.entries, e'.seq = seq →
               assocGet e'.lanes l = some (.inflight (.atomWrite loc old b c) addr)))) ∧
     ∀ old, AccessPending s u seq l w e (.atomWrite loc old b c) addr → l < 64 →
       Completes (.memoryAccessComplete u seq l resp) s (ends old)) ∧
  (∀ w old b, w = 32 ∨ w = 64 → old < 2 ^ w → b < 2 ^ w →
     let sg (v : Nat) : Int := (BitVec.ofNat w v).toInt
     atomNew 0 w old b = (old + b) % 2 ^ w ∧
     sg (atomNew 1 w old b) = min (sg old) (sg b) ∧ sg (atomNew 2 w old b) = max (sg old) (sg b) ∧
     atomNew 3 w old b = min old b ∧ atomNew 4 w old b = max old b ∧
     atomNew 5 w old b = old &&& b ∧ atomNew 6 w old b = old ||| b ∧ atomNew 7 w old b = old ^^^ b ∧
     atomNew 8 w old b = b ∧
     atomNew 0xB w old b = (if b ≤ old then 0 else old + 1) ∧
     atomNew 0xC w old b = (if old = 0 ∨ b < old then b else old - 1) ∧
     (w = 32 → atomNew 0xA w old b = (fpAdd fmtF32 .rne false (fpDecode fmtF32 old) (fpDecode fmtF32 b)).1) ∧
     (w = 64 → atomNew 0xA w old b = (fpAdd fmtF64 .rne false (fpDecode fmtF64 old) (fpDecode fmtF64 b)).1) ∧
     ∀ x : BitVec 4, x.toNat < 13 → x ≠ 0xA → atomNew x w old b < 2 ^ w)

/-- 06 R154; 07 R172, R177; 10 R238: a lane's access does not happen while something that comes before it is in flight
or its turn has not come: the event then leaves the state as it is (assumption 6). Behind a faulted or held access of
its lane it is held itself, and so it is where a release or an acquire sets it behind one of another lane (assumption
8). 12 R300, R301, R304; 07 R191: an access of a peer leaves as a request on the port that its address names, where
that port is up and holds a credit, and nothing of memory or of a register changes then; at a peer without ports it
faults as timed out. Its answer comes only while the port is up and before T cycles have passed since the request was
sent, and the answer to a write only after those of the writes sent before it to the same peer through that port. That
one request stands for all that an engine's operation asks of a peer through a port, and that the answer is the
peer's, is the model's choice (assumption 14); that an access with no port ends as timed out is assumption 44's
reading. -/
def Obligations.AccessesKeepTheirOrder : Prop :=
  (∀ s u seq l resp w e op addr, AccessPending s u seq l w e op addr → op.span.isSome = true →
     (∀ p c num o, op ≠ .sent p c num o) → (∀ loc old b c, op ≠ .atomWrite loc old b c) →
     (before s w e l op LaneSt.flying = true ∨ laneTurn s u w e l = false →
       exec (.memoryAccessComplete u seq l resp) s = .next s) ∧
     (before s w e l op LaneSt.flying = false → laneTurn s u w e l = true →
       before s w e l op LaneSt.stuck = true ∨ laneStuck w seq l = true →
       Completes (.memoryAccessComplete u seq l resp) s fun s' => SameBytes s s' ∧
         ∃ w', assocGet s'.waves u = some w' ∧ w'.regs = w.regs ∧
           ∀ e' ∈ w'.entries, e'.seq = seq → assocGet e'.lanes l = some .held)) ∧
  (∀ s u seq l resp w e op addr pa,
     (Performable s u seq l w e op addr → op.peerPa = some pa → op.span.isSome = true →
       (∀ p c num o, op ≠ .sent p c num o) → (∀ loc old b c, op ≠ .atomWrite loc old b c) →
       let lane (s' : State) (st : LaneSt) : Prop := SameBytes s s' ∧ ∃ w', assocGet s'.waves u = some w' ∧
         w'.regs = w.regs ∧ ∀ e' ∈ w'.entries, e'.seq = seq → assocGet e'.lanes l = some st
       (portOf s pa = none → Completes (.memoryAccessComplete u seq l resp) s fun s' =>
         lane s' (.faulted .remoteTimeout addr addr)) ∧
       (∀ p, portOf s pa = some p →
         (portSends s p = false → exec (.memoryAccessComplete u seq l resp) s = .next s) ∧
         (portSends s p = true → Completes (.memoryAccessComplete u seq l resp) s fun s' => ∃ num,
           lane s' (.inflight (.sent p s.cycle num op) addr) ∧ (∀ x ∈ outAsks s, x.num < num) ∧
           s'.hub.sent = (paPeer pa, if op.writes then 4 else 5, (op.span.map (·.2)).getD 0) :: s.hub.sent))) ∧
     ∀ p c num, AccessPending s u seq l w e (.sent p c num op) addr → (∀ q n d, op ≠ .truncate q n d) →
       (∀ r, assocGet s.hub.ports p = some r → r.up = false ∨ r.training = true ∨ c + 2 ^ r.logT ≤ s.cycle) ∨
         (op.writes = true ∧ op.peerPa = some pa ∧
           ∃ a ∈ outAsks s, a.wr = true ∧ a.port = p ∧ a.peer = paPeer pa ∧ a.num < num) →
       exec (.memoryAccessComplete u seq l resp) s = .next s)

/-- 06 R154 to R156, 11 R287, R288: a fragment that waits for batches finds a faulted lane that firmware does not
service: it traps with the cause, and the address of the lowest such lane of the first such entry, `TCAUSE`'s report
bit set and `TLM` naming the faulted lanes of those entries. 06 R155, R156, R159, R168: firmware's service ends. A
report with no faulted lane left ends, and the wave goes on; a fragment that waited for the service of a page goes on
when the page is placed, and traps, in the lanes that failed, where it cannot be; while the page is being migrated the
service waits. -/
def Obligations.FaultReportsTrapAndEnd : Prop :=
  (∀ g s k e c a p l, MayRun (.waitbAll g) s k → (∀ n, k.f.park ≠ .batches n) → k.f.closed = false →
     (pendingBatches k.w).length < 16 → (∀ e ∈ k.w.entries, e.flying = false) →
     (∀ e ∈ k.w.entries, e.stuck = true → e.lowest.isSome = true ∧ e.serviced k.c = false) →
     (k.w.entries.filter Entry.stuck).head? = some e → e.lowest = some (l, c, a, p) → CanTrap s k →
     Completes (.waitbAll g) s fun s' =>
       Trapped s s' k c true
         ((k.w.entries.filter Entry.stuck).foldl (fun m e => m ||| e.faultedLanes) 0) a ∧
       ∃ w' v, assocGet s'.waves k.uid = some w' ∧ w'.window = some v ∧ v.retry = true ∧ v.closed = true ∧
         w'.open_ = k.w.open_ + 1 ∧ w'.entries = k.w.entries) ∧
  (∀ s u w c, assocGet s.waves u = some w → assocGet s.ctxs w.ctx = some c → w.window = none → w.trapWait = none →
     (∀ f ∈ w.frags, f.trap = none) →
     (∀ q, w.report = some q → (∀ e ∈ w.entries, e.stuck = false) →
       Completes (.faultServiceComplete u) s fun s' => SameBytes s s' ∧
         ∃ w', assocGet s'.waves u = some w' ∧ w'.report = none ∧ w'.window = none ∧ w'.frags = w.frags ∧
           w'.regs = w.regs) ∧
     ∀ f va ls home low, w.report = none → w.frags = [f] → f.park = .service va ls home low →
       (migrating c va.toNat = true → w.live ≠ 0 → exec (.faultServiceComplete u) s = .next s) ∧
       (migrating c va.toNat = false →
         let served := servicePage (modFrag s u (leadQuad f.quads) fun f =>
           { f with park := .none, stamp := s.cycle, readyAt := max f.readyAt (s.cycle + 1) }) w.ctx va.toNat home
           (some (coreDom w.core))
         (∀ s2, served = .ok s2 → Completes (.faultServiceComplete u) s fun s' => s'.mem = s2.mem ∧
           ∃ w' f', assocGet s'.waves u = some w' ∧ w'.frags = [f'] ∧ f'.park = .none ∧ f'.pc = f.pc ∧
             f'.stamp = s.cycle ∧ w'.regs = w.regs) ∧
         ∀ x, served = .error x → CanTrap s ⟨u, w, f, c⟩ → Completes (.faultServiceComplete u) s fun s' =>
           Trapped s s' ⟨u, w, f, c⟩ (match low with | some y => y.1 | none => x) false ls
             (match low with | some y => y.2 | none => va)))

/-! Encoding, the step, reset and what every step keeps (12, 13, 14). -/

/-- 13 R319 to R326, 14 R338 to R347: decoding the parcels of a well-formed instruction, whatever follows them, gives
that instruction. -/
def Obligations.DecodeOfEncode : Prop :=
  ∀ i ps rest, i.wf = true → encode i = some ps → decode (ps ++ rest) = .ok i

/-- 14 R338, R348: what decodes is a well-formed instruction, and its parcels are the ones that encode it: each
instruction has one encoding, and no bit of it is ignored. -/
def Obligations.EncodeOfDecode : Prop :=
  ∀ ps i, decode ps = .ok i → i.wf = true ∧ encode i = some (ps.take i.parcels)

/-- 13 R319 to R326: parcels written out from the spec decode to the instruction that it prints beside them. -/
def Obligations.PrintedEncodingsDecode : Prop :=
  decode [0x0007] = .ok (.nop 7) ∧
  decode [0x4E80, 0x1404] = .ok (.ballotA32 0 0x14 0x04) ∧
  decode [0x8831, 0x0802, 0x0001, 0x0000] =
    .ok (.iadd .u32 ⟨0, none, 0x08, 0x02, .imm 1⟩) ∧
  decode [0x9860, 0x0802, 0x0304, 0x4200] =
    .ok (.ffma .f32 ⟨0, none, 0x08, 0x02, .regs 0x03 0x04 { FMod.zero with rnd := .rtz, negA := true }⟩) ∧
  decode [0xCD00, 0x0507, 0x0000, 0x0000, 0x0043, 0x0000] =
    .ok (.movB64 .i32 ⟨0, some ⟨.bc 3, .none, .none⟩, 0x05, 0x07, .regs 0 0 FMod.zero⟩) ∧
  decode [0x6C04, 0x0804] = .ok (.ldA32 0 .w32 0x08 0x04) ∧
  decode [0xAC05, 0x0A04, 0x0000, 0xFD40] =
    .ok (.ldB64 .w64 ⟨0, none, 0x0A, 0x04, 0, 0, ⟨31, 5, .acq, .glob, 0⟩⟩) ∧
  decode [0x7823, 0x0114] = .ok (.copyR 0 1 0x14) ∧
  decode [0xB800, 0x000A, 0x0B00, 0x0000] = .ok (.ringsSet 0 0 0x0A 0x0B)

/-- 11 R275; 13 R313 to R317: a step named for a scheduler runs the instruction that the parcels at the chosen
fragment's pc decode to, in the state with that fragment chosen; an event is run as it stands (assumption 6). Parcels
that are no instruction trap, and an instruction that its block cuts off is an illegal block. A parcel reads as memory
holds it; one written since the packet of the wave's grid was read may be fetched with an old value of it (assumption
11). At the block's end the fragment starts the next pass, or enters what follows as a header. At a header it enters
the block whose length and repeat count the header gives, translating the page of the header and the page after it
where the block reaches there; a header without a length is an illegal block, and a page that cannot be fetched is
placed by firmware, or the fragment traps at the header. 11 R275 to R277; 13 R328: a scheduler picks one ready
fragment of its slots a cycle, where there is one. If both banks have one, each bank's credit grows by its context's
weight, 0 acting as 1, the bank with the greater credit issues, bank 0 of equals, and pays the sum of the weights;
else the credits stay. Of the bank's ready fragments it is the one promoted first, then the one of the smallest stamp,
then of the lowest slot and leading quad; one whose wait has ended in this cycle counts with the cycle as its stamp. A
fragment whose hold has not passed is not picked. -/
def Obligations.StepRunsTheDecodedInstruction : Prop :=
  ((∀ s i r, s.agenda = .event i :: r → encode i = none → step s = exec i { s with agenda := r }) ∧
   (∀ s (k : Issue) pa, (∀ j, j < 2 → rangesHave s.undefMem (pa + j) = false) →
     let old (v : Nat) : Prop := ∃ g, (pa, g, v) ∈ s.past ∧ k.w.grid < g ∧ ∀ t ∈ k.w.threads, t.2.grid < g
     ((∀ v, ¬old v) → k.parcel s pa = BitVec.ofNat 16 (memNat s.mem pa 2)) ∧
     (k.parcel s pa = BitVec.ofNat 16 (memNat s.mem pa 2) ∨ ∃ v, old v ∧ k.parcel s pa = BitVec.ofNat 16 v)) ∧
   ∀ s p h r u q s1 k, s.agenda = .issue p h :: r → pick { s with agenda := r } p h = some (u, q, s1) →
     (assocGet s1.waves u).any (watchdogDue s1) = false → getIssue { s1 with cur := some (u, q) } = some k →
     let t := { s1 with cur := some (u, q) }
     let runs (t : State) (k : Issue) : Prop :=
       let ps := k.parcels t
       (k.f.parcelsLeft < parcelCount (ps.headD 0) → step s = .next (bumpFree
         (takeTrap t u q ⟨.illegalBlock, k.act t, 0, false, k.f.pc, false⟩))) ∧
       (parcelCount (ps.headD 0) ≤ k.f.parcelsLeft →
         (∀ i, decode ps = .ok i → step s = exec i t) ∧
         ∀ e, decode ps = .error e → step s = .next (bumpFree
           (takeTrap t u q ⟨.illegalInstruction, k.act t, 0, false, k.f.pc, false⟩)))
     s1 = { s with agenda := r, cores := s1.cores } ∧
     ((∀ w, (u, w) ∈ s.waves → w = k.w) → (∀ f ∈ k.w.frags, leadQuad f.quads = q → f = k.f) →
       k.f ∈ k.w.frags ∧ ready { s with agenda := r } u k.w k.f = true ∧ k.w.core = p ∧ k.w.slot / 32 = h) ∧
     (k.f.header = false → k.f.pc ≠ k.f.fin → runs t k) ∧
     (k.f.header = false → k.f.pc = k.f.fin → 0 < k.f.left →
       let t2 := modFrag t u q fun f => { f with left := f.left - 1, pc := f.blk + 2 }
       ∃ k2, getIssue t2 = some k2 ∧ k2.f = { k.f with left := k.f.left - 1, pc := k.f.blk + 2 } ∧ runs t2 k2) ∧
     (k.f.header = true ∨ k.f.pc = k.f.fin ∧ k.f.left = 0 →
       let fails (e : Cause) (va : VA) : Prop :=
         (e = .pageFault → serviceable k.c va.toNat = true → ∃ t', step s = .next t' ∧ SameBytes s t' ∧
           ∃ w' f', assocGet t'.waves u = some w' ∧ w'.frag? q = some f' ∧ f'.pc = k.f.pc ∧ f'.header = true ∧
             f'.park = .service va (k.act t) 31 none) ∧
         (e ≠ .pageFault ∨ serviceable k.c va.toNat = false → walk t k.c va.toNat ≠ .outside →
           step s = .next (bumpFree (takeTrap t u q ⟨e, k.act t, va, false, k.f.pc, true⟩)))
       (∀ e, xlate t k.c k.f.pc.toNat .fetch = .error e → fails e k.f.pc) ∧
       ∀ pa leaf, xlate t k.c k.f.pc.toNat .fetch = .ok (pa, leaf) →
         let hdr := k.parcel t pa
         let len := hdr.toNat / 2 ^ 8
         let last := k.f.pc + BitVec.ofNat 80 (2 * len)
         let page : VA := BitVec.ofNat 80 (last.toNat / 2 ^ 16 * 2 ^ 16)
         let crosses := last.toNat / 2 ^ 16 ≠ k.f.pc.toNat / 2 ^ 16
         let enters (page1 : Nat) : Prop := ∃ s2 k2, getIssue s2 = some k2 ∧
           s2 = { s with
             agenda := r, cores := s2.cores, cur := some (u, q), mem := s2.mem, undefMem := s2.undefMem, waves := s2.waves } ∧
           k2.f.header = false ∧ k2.f.pc = k.f.pc + 2 ∧ k2.f.blk = k.f.pc ∧ k2.f.fin = last + 2 ∧
           k2.f.left = hdr.toNat / 2 ^ 4 % 2 ^ 4 ∧ k2.f.quads = k.f.quads ∧
           (∀ va, va.toNat / 2 ^ 16 = k.f.pc.toNat / 2 ^ 16 →
             k2.f.parcelPa va = pa - k.f.pc.toNat % 2 ^ 16 + va.toNat % 2 ^ 16) ∧
           (∀ va, va.toNat / 2 ^ 16 ≠ k.f.pc.toNat / 2 ^ 16 → k2.f.parcelPa va = page1 + va.toNat % 2 ^ 16) ∧ runs s2 k2
         (len = 0 ∨ hdr.toNat % 8 ≠ 0 → step s = .next (bumpFree
           (takeTrap t u q ⟨.illegalBlock, k.act t, 0, false, k.f.pc, true⟩))) ∧
         (len ≠ 0 → hdr.toNat % 8 = 0 →
           (¬crosses → enters 0) ∧
           (crosses → (∀ e, xlate t k.c page.toNat .fetch = .error e → fails e page) ∧
             ∀ pa2 leaf2, xlate t k.c page.toNat .fetch = .ok (pa2, leaf2) → enters pa2)))) ∧
  (∀ s p h,
     let rd (u : Nat) (w : Wave) (f : Frag) : Prop := (u, w) ∈ s.waves ∧ f ∈ w.frags ∧ w.core = p ∧ w.slot / 32 = h ∧
       ready s u w f = true
     let bank (w : Wave) : Bool := bankIndex s p w.ctx != 0
     let stamp (f : Frag) : Nat := if f.park ≠ .none ∧ f.waited = 0 then s.cycle else f.stamp
     let sooner (x : Wave) (g : Frag) (w : Wave) (f : Frag) : Prop :=
       (g.promoted.isSome = true ∧ f.promoted = none) ∨ (∃ a b, g.promoted = some a ∧ f.promoted = some b ∧ a < b) ∨
       (g.promoted = f.promoted ∧ (stamp g < stamp f ∨ stamp g = stamp f ∧ (x.slot < w.slot ∨
         x.slot = w.slot ∧ leadQuad g.quads < leadQuad f.quads)))
     let credits (t : State) : Int × Int := (assocGet (getCore t p).credits h).getD (0, 0)
     (pick s p h = none ↔ h ∈ (getCore s p).issued ∨ ∀ u w f, ¬rd u w f) ∧
     ∀ u q t, pick s p h = some (u, q, t) → h ∈ (getCore t p).issued ∧ t = { s with cores := t.cores } ∧
       ∃ w f, rd u w f ∧ leadQuad f.quads = q ∧ f.readyAt ≤ s.cycle ∧
         (∀ v x g, rd v x g → bank x = bank w → ¬sooner x g w f) ∧
         (∀ b, (∀ v x g, rd v x g → bank x = b) → credits t = credits s) ∧
         ∀ x0 x1 c0 c1, assocGet s.ctxs x0 = some c0 → assocGet s.ctxs x1 = some c1 →
           (∀ v x g, rd v x g → x.ctx = if bank x then x1 else x0) →
           (∃ v x g, rd v x g ∧ bank x = false) → (∃ v x g, rd v x g ∧ bank x = true) →
           let w0 : Int := (max 1 c0.share.toNat : Nat)
           let w1 : Int := (max 1 c1.share.toNat : Nat)
           let a := (credits s).1 + w0
           let b := (credits s).2 + w1
           bank w = decide (a < b) ∧ credits t = if a < b then (a, b - (w0 + w1)) else (a - (w0 + w1), b))

/-- 01 R26; 12 R301, R305, R309: after reset no context, grid or wave stands, nothing is pending, the power limit is
6.2 kW at 2.1 GHz, every port's timer is 2^20 cycles and every channel has its 256 credits. That every die is online
and every port trained, and that memory reads 0, is the model's choice (assumptions 5 and 7). -/
def Obligations.ResetLeavesThePackageIdle : Prop :=
  let s := State.reset
  s.waves = [] ∧ s.grids = [] ∧ s.ctxs = [] ∧ s.banks = [] ∧ s.cycle = 0 ∧ s.agenda = [] ∧ s.updates = [] ∧ s.hub.halted = false ∧
  s.hub.powerLimit = 6200 ∧ s.hub.clockMHz = 2100 ∧ s.hub.cmds = [] ∧ s.hub.mbovf = [] ∧ s.hub.streams = [] ∧
  s.hub.govs = [] ∧ s.hub.peers = [] ∧ s.hub.zoneSize = 0 ∧ (∀ d, d < 19 → dieOnline s.hub d = true) ∧
  (∀ p, p < 18 → ∃ r, assocGet s.hub.ports p = some r ∧ r.up = true ∧ r.logT = 20 ∧ r.fseqIn = 0 ∧ r.fseqOut = 0 ∧
    r.sent = [] ∧ ∀ v, v < 4 → (r.vc v).avail = 256 ∧ (r.vc v).stot = 0 ∧ (r.vc v).rtot = 0) ∧
  Memory.wf s.mem = true ∧ ∀ a, memRead s.mem a = 0

/-- Every step keeps memory canonical: its listed addresses rise strictly, and no listed byte is the one an unlisted
address reads as (assumption 5). -/
def Obligations.StepsKeepMemoryCanonical : Prop :=
  ∀ s t, Memory.wf s.mem = true → step s = .next t → Memory.wf t.mem = true

/-! Tensor engines (06, 08). -/

/-- 08 R195 to R197: `RINGS.SET` configures a ring, or releases it, for every reader from 4 cycles on; `RINGS.Q` reads
its word; `RINGS.POP` claims and frees the slot at READ, its earlier accesses performed, HEAD passing over free slots,
and waits while that slot is not filled. A ring is closed while its triple is. 08 R195 to R197, R200, R210: ring
instructions trap on a ring of another workgroup; `RINGS.SET` on one with a slot not free or with a push or a claim in
flight, and on a bad configuration; `RINGS.POP` and `COPY.R` on an empty or a full ring that is closed. On a full ring
that is open `COPY.R` waits. -/
def Obligations.RingsConfiguredReadAndPopped : Prop :=
  ((∀ g d j, BitsComplete (.ringsQ g d j) 1 d fun s k _ => BitVec.ofNat 64 (match getRing s (8 * bankKey k.w + j.toNat) with
     | none => 0
     | some r => r.head * 2 ^ 24 + (if r.closedIn s then 2 ^ 23 else 0) + r.tail * 2 ^ 16 + 2 ^ 15 +
         (if k.w.spawned = false ∧ r.grid = k.w.grid ∧ r.wg = k.w.wg then 2 ^ 14 else 0) +
         r.slots.countP (· == .filled) * 2 ^ 7 + r.slots.countP (· != .free))) ∧
   ∀ s k bk, assocGet s.banks (bankKey k.w) = some bk → ∀ (j : BitVec 3),
     (∀ g a b, MayRun (.ringsSet g j a b) s k →
       let base := (readLane s k.w a.toNat k.low).toNat
       let sh := (readLane s k.w b.toNat k.low).toNat
       let n := sh / 2 ^ 16 % 2 ^ 6 + 1
       let bytes := sh % 2 ^ 16 * 256
       (∀ r, assocGet bk.rings j.toNat = some r →
         k.w.spawned = false ∧ r.grid = k.w.grid ∧ r.wg = k.w.wg ∧ ∀ x ∈ r.slots, x = .free) →
       ringBusy s (8 * bankKey k.w + j.toNat) = false →
       sh / 2 ^ 22 = 0 → base % 256 = 0 → (bytes ≠ 0 → k.w.spawned = false ∧ base + n * bytes ≤ shareSize s k.w.grid) →
       Completes (.ringsSet g j a b) s fun s' => SameBytes s s' ∧
         (∃ w', assocGet s'.waves k.uid = some w' ∧ Advanced (.ringsSet g j a b) k w' ∧
           w' = { k.w with boundMax := w'.boundMax, clocks := w'.clocks, frags := w'.frags }) ∧
         ∃ bk', assocGet s'.banks (bankKey k.w) = some bk' ∧
         bk' = { bk with ringPend := bk'.ringPend } ∧ ∀ c,
           (c < s.cycle + 4 → (settleRings c bk').rings = (settleRings c bk).rings) ∧
           (∀ i, i ≠ j.toNat → assocGet (settleRings c bk').rings i = assocGet (settleRings c bk).rings i) ∧
           (s.cycle + 4 ≤ c → assocGet (settleRings c bk').rings j.toNat = if bytes = 0 then none else some
             { grid := k.w.grid, wg := k.w.wg, triple := (roleOf s k.w).map (·.1), base := base, bytes := bytes, head := 0,
               read := 0, tail := 0, slots := List.replicate n .free, far := [] })) ∧
     ∀ g r, MayRun (.ringsPop g j) s k → assocGet bk.rings j.toNat = some r → k.w.spawned = false → r.grid = k.w.grid →
       r.wg = k.w.wg →
       (r.slots[r.read]? ≠ some .filled → r.closedIn s = false → Completes (.ringsPop g j) s fun s' =>
         OnlyWave s s' k.uid ∧ SameBytes s s' ∧ ∃ w' f', assocGet s'.waves k.uid = some w' ∧
           w'.frag? k.lead = some f' ∧ f'.pc = k.f.pc ∧ f'.park = .wait) ∧
       (r.slots[r.read]? = some .filled → releaseWaits k = true → Completes (.ringsPop g j) s fun s' =>
         OnlyWave s s' k.uid ∧ SameBytes s s' ∧ ∃ w' f', assocGet s'.waves k.uid = some w' ∧
           w'.frag? k.lead = some f' ∧ f'.pc = k.f.pc ∧ f'.park = .wait) ∧
       (r.slots[r.read]? = some .filled → releaseWaits k = false → releaseStuck k = false → r.head < r.slots.length →
         r.tail < r.slots.length →
         Completes (.ringsPop g j) s fun s' => SameBytes s s' ∧
           (∃ w', assocGet s'.waves k.uid = some w' ∧ Advanced (.ringsPop g j) k w') ∧
           ∃ bk' r', assocGet s'.banks (bankKey k.w) = some bk' ∧ bk' = { bk with rings := bk'.rings } ∧
             (∀ i, i ≠ j.toNat → assocGet bk'.rings i = assocGet bk.rings i) ∧
             assocGet bk'.rings j.toNat = some r' ∧ r' = { r with slots := r'.slots, read := r'.read, head := r'.head } ∧
             r'.slots = r.slots.set r.read .free ∧
             r'.read = (if r.read + 1 < r.slots.length then r.read + 1 else 0) ∧
             (r'.slots[r'.head]? ≠ some .free ∨ (r'.head = r.tail ∧ ∀ x ∈ r'.slots, x = .free)))) ∧
  (∀ s k (j : BitVec 3), CanTrap s k →
     let ring := getRing s (8 * bankKey k.w + j.toNat)
     let mine (r : Ring) : Prop := k.w.spawned = false ∧ r.grid = k.w.grid ∧ r.wg = k.w.wg
     let traps (i : Instr) (c : Cause) : Prop := MayRun i s k → Completes i s fun s' => Trapped s s' k c false (k.act s) 0
     let busy := (∃ v ∈ s.waves, ∃ e ∈ v.2.entries, 8 * bankKey k.w + j.toNat ∈ e.pushes) ∨
       (∃ b, assocGet s.banks (bankKey k.w) = some b ∧ ∃ m ∈ b.arrays, ∃ acc z f rows x y ex,
         .mma acc z f rows x y ex ∈ m.2.pend ∧ (x.rk = 8 * bankKey k.w + j.toNat ∨ y.rk = 8 * bankKey k.w + j.toNat)) ∨
       ∃ r, ring = some r ∧ ∃ x ∈ r.slots, x ≠ .free
     (∀ r, ring = some r → ¬mine r → ∀ g g1 a b,
       traps (.ringsSet g1 j a b) .ringOwner ∧ traps (.ringsPop g j) .ringOwner ∧ traps (.copyR g j a) .ringOwner) ∧
     (ring = none → ∀ g a, traps (.ringsPop g j) .ringOwner ∧ traps (.copyR g j a) .ringOwner) ∧
     ((∀ r, ring = some r → mine r) → ∀ g a b,
       let base := (readLane s k.w a.toNat k.low).toNat
       let sh := (readLane s k.w b.toNat k.low).toNat
       let bytes := sh % 2 ^ 16 * 256
       (busy → traps (.ringsSet g j a b) .ringBusy) ∧
       (¬busy → sh / 2 ^ 22 ≠ 0 ∨ base % 256 ≠ 0 ∨ (bytes ≠ 0 ∧ (k.w.spawned = true ∨
         shareSize s k.w.grid < base + (sh / 2 ^ 16 % 2 ^ 6 + 1) * bytes)) → traps (.ringsSet g j a b) .ringConfig)) ∧
     ∀ r, ring = some r → mine r → ∀ g a,
       (r.slots[r.read]? ≠ some .filled → r.closedIn s = true → traps (.ringsPop g j) .pipelineClosed) ∧
       (∀ x, r.slots[r.tail]? = some x → x ≠ .free → r.closedIn s = true → traps (.copyR g j a) .pipelineClosed) ∧
       (∀ x, r.slots[r.tail]? = some x → x ≠ .free → r.closedIn s = false → MayRun (.copyR g j a) s k →
         Completes (.copyR g j a) s fun s' => OnlyWave s s' k.uid ∧ SameBytes s s' ∧ ∃ w' f',
           assocGet s'.waves k.uid = some w' ∧ w'.frag? k.lead = some f' ∧ f'.pc = k.f.pc ∧ f'.park = .wait))

/-- 08 R194, R202 to R205: an array accepts an `MMA` that finds both its operand slots filled, claiming them, or an
`MDRAIN` whose queue has a place, as its newest instruction; with two accepted already the fragment parks. An operand
ring that is not the workgroup's own traps, as does one whose slots are too small or that is closed and empty, and an
`MDRAIN` on a queue of four entries. 08 R193: a wave of no triple uses the array that ARR names, unless a triple bound
on the core holds it; a role wave uses its triple's, and may not name the other. -/
def Obligations.ArraysAcceptInOrder : Prop :=
  (∀ s k bk y, assocGet s.banks (bankKey k.w) = some bk →
     let m := getArray s (bankKey k.w) y
     let parked (i : Instr) : Prop := Completes i s fun s' => OnlyWave s s' k.uid ∧ SameBytes s s' ∧
       ∃ w' f', assocGet s'.waves k.uid = some w' ∧ w'.frag? k.lead = some f' ∧ f'.pc = k.f.pc ∧ f'.park = .wait
     let traps (i : Instr) (c : Cause) : Prop := CanTrap s k → Completes i s fun s' => Trapped s s' k c false (k.act s) 0
     let on (i : Instr) (s' : State) : Prop := SameBytes s s' ∧ ∃ w', assocGet s'.waves k.uid = some w' ∧ Advanced i k w' ∧
       w' = { k.w with clocks := w'.clocks, frags := w'.frags }
     (∀ g z arr acc f rb ra, MayRun (.mma g z arr acc f rb ra) s k → pickArray s k arr = some y →
       (((∀ a, assocGet bk.rings ra.toNat = some a → ¬(k.w.spawned = false ∧ a.grid = k.w.grid ∧ a.wg = k.w.wg)) →
         traps (.mma g z arr acc f rb ra) .ringOwner) ∧
       (∀ a, assocGet bk.rings ra.toNat = some a → k.w.spawned = false → a.grid = k.w.grid → a.wg = k.w.wg → mmaNeed f ≤ a.bytes →
         (∀ b, assocGet bk.rings rb.toNat = some b → ¬(b.grid = k.w.grid ∧ b.wg = k.w.wg)) →
         traps (.mma g z arr acc f rb ra) .ringOwner) ∧
       ∀ a b : Ring, assocGet bk.rings ra.toNat = some a → assocGet bk.rings rb.toNat = some b → k.w.spawned = false →
         (∀ r ∈ [a, b], r.grid = k.w.grid ∧ r.wg = k.w.wg) →
         ((∃ r ∈ [a, b], r.bytes < mmaNeed f) → traps (.mma g z arr acc f rb ra) .ringConfig) ∧
         ((∀ r ∈ [a, b], mmaNeed f ≤ r.bytes) →
           ((∃ r ∈ [a, b], r.slots[r.read]? ≠ some .filled ∧ r.closedIn s = true) →
             traps (.mma g z arr acc f rb ra) .pipelineClosed) ∧
           ((∃ r ∈ [a, b], r.slots[r.read]? ≠ some .filled) → a.closedIn s = false → b.closedIn s = false →
             parked (.mma g z arr acc f rb ra)) ∧
           ((∀ r ∈ [a, b], r.slots[r.read]? = some .filled) →
             (2 ≤ m.pend.length → parked (.mma g z arr acc f rb ra)) ∧
             (m.pend.length < 2 → Completes (.mma g z arr acc f rb ra) s fun s' => on (.mma g z arr acc f rb ra) s' ∧
               getArray s' (bankKey k.w) y = { m with pend := m.pend ++ [.mma acc z f (k.act s)
                 ⟨8 * bankKey k.w + ra.toNat, a.read, a.grid, a.wg, a.base, a.bytes⟩
                 ⟨8 * bankKey k.w + rb.toNat, b.read, b.grid, b.wg, b.base, b.bytes⟩ false] } ∧
               ∀ x r, (x = ra ∧ r = a ∨ x = rb ∧ r = b) → getRing s' (8 * bankKey k.w + x.toNat) = some
                 { r with slots := r.slots.set r.read .claimed,
                          read := if r.read + 1 < r.slots.length then r.read + 1 else 0 }))))) ∧
     ∀ g z arr acc f q sat i, i = .mdrainB64 g z arr acc f q sat ∨ (sat = false ∧ ∃ g', i = .mdrainA32 g' z arr acc f q) →
       MayRun i s k → pickArray s k arr = some y →
       (4 ≤ (m.queue q.toNat).length → traps i .queueOverflow) ∧
       ((m.queue q.toNat).length < 4 →
         (2 ≤ m.pend.length → parked i) ∧
         (m.pend.length < 2 → Completes i s fun s' => on i s' ∧
           let m' := getArray s' (bankKey k.w) y
           m'.pend = m.pend ++ [.drain acc z sat f q.toNat m.nextId] ∧ m'.acc0 = m.acc0 ∧ m'.acc1 = m.acc1 ∧
           m'.queue q.toNat = m.queue q.toNat ++ [⟨f, .draining, ⟨none, []⟩, m.nextId⟩] ∧
           ∀ p, p ≠ q.toNat → m'.queue p = m.queue p))) ∧
  (∀ s k (arr : Bool),
     let held (a : Nat) : Prop := ∃ g ∈ s.grids, (∃ c, assocGet s.ctxs g.2.ctx = some c ∧ c.resident = true) ∧
       ∃ x ∈ g.2.wgs, x.2.core = k.w.core ∧ x.2.retired = false ∧ ∃ t ∈ x.2.triples, t.arr = a
     let owned := (roleOf s k.w = none ∧ held (if arr then 1 else 0)) ∨ ((roleOf s k.w).isSome = true ∧ arr = true)
     (roleOf s k.w = none → ¬held (if arr then 1 else 0) → pickArray s k arr = some (if arr then 1 else 0)) ∧
     (∀ t r x tr, roleOf s k.w = some (t, r) → arr = false → wgOf s k.w.grid k.w.wg = some x → x.triples[t]? = some tr →
       pickArray s k arr = some tr.arr) ∧
     ∀ g g1 z acc f fd rb ra q sat last d c a i, i ∈ [Instr.mma g z arr acc f rb ra, .mdrainA32 g z arr acc fd q,
         .mdrainB64 g1 z arr acc fd q sat, .mpop g arr last d q c, .stq g arr q a, .mcast g arr last q a] →
       MayRun i s k → CanTrap s k → owned → (∀ y p e, k.f.park ≠ .mcast y p e) →
       Completes i s fun s' => Trapped s s' k .arrayOwned false (k.act s) 0)

/-- 08 R194, R203 to R205: the oldest accepted instruction executes. `MMA` updates each element of the rows of active
lanes from its lines of the two slots, starting from 0 with `.z`. Completed, it frees its slots. `MDRAIN` makes its
entry ready with every element in the entry's format, and clears the accumulator with `.z`. 05 R129, R130: an `MMA`
adds to an element, group by group of 32, the group's sum with one rounding. A group sum is the exact sum of the exact
products, times 2 to each block scale less 127 for the MX formats, with one rounding; NaN for an operand or scale that
is, for ∞ times 0, and for products of both infinities; an infinity where a product is; +0 where it is zero. An `.I8`
element gains the sum of K products modulo 2^32. -/
def Obligations.ArraysExecute : Prop :=
  (∀ s bk a bank, assocGet s.banks bk = some bank →
     let m := getArray s bk a
     (∀ acc z f rows ra rb r, m.pend = .mma acc z f rows ra rb false :: r →
       Completes (.mmaExecute bk a) s fun s' => SameBytes s s' ∧ s'.waves = s.waves ∧
         let m' := getArray s' bk a
         m'.pend = .mma acc z f rows ra rb true :: r ∧ m'.acc (!acc) = m.acc (!acc) ∧ m'.queues = m.queues ∧
         ∀ i j, i < 128 → j < 128 → ∀ n, n = 128 * i + j → imgAt s (m'.acc acc) n =
           if rows.getLsbD (i / 2) then
             mmaElement f (if z then 0 else imgAt s (m.acc acc) n) (slotLine s f ra i).1 (slotLine s f rb j).1
               (slotLine s f ra i).2 (slotLine s f rb j).2
           else imgAt s (m.acc acc) n) ∧
     (∀ f (x : SlotRef) i, i < 128 → ∀ r, getRing s x.rk = some r → r.grid = x.grid → r.wg = x.wg →
       (slotLine s f x i).1 = shareGet s x.grid x.wg (x.base + x.slot * x.bytes + 64 * i) 64 ∧
       (slotLine s f x i).2 = if f ∈ [.mxe4m3, .mxe5m2, .mxe2m1] then
         (shareGet s x.grid x.wg (x.base + x.slot * x.bytes + (8192 + i * (mmaK f / 32))) (mmaK f / 32)).map (·.toNat) else []) ∧
     (∀ acc z f rows ra rb r, m.pend = .mma acc z f rows ra rb true :: r →
       Completes (.mmaComplete bk a) s fun s' => SameBytes s s' ∧ s'.waves = s.waves ∧
         getArray s' bk a = { m with pend := r } ∧
         ∀ (x : SlotRef) y, (x = ra ∨ x = rb) → (ra.rk = rb.rk → ra = rb) → getRing s x.rk = some y → y.grid = x.grid →
           y.wg = x.wg → ∃ y', getRing s' x.rk = some y' ∧ y'.slots = y.slots.set x.slot .free ∧ y'.read = y.read ∧
             y'.tail = y.tail) ∧
     ∀ acc z sat f q id r, m.pend = .drain acc z sat f q id :: r → (∃ e ∈ m.queue q, e.id = id) →
       Completes (.mdrainExecute bk a) s fun s' => SameBytes s s' ∧ s'.waves = s.waves ∧
         let m' := getArray s' bk a
         m'.pend = r ∧ m'.acc (!acc) = m.acc (!acc) ∧ (z = false → m'.acc acc = m.acc acc) ∧
         (z = true → ∀ i, imgAt s (m'.acc acc) i = 0) ∧
         ∃ e ∈ m'.queue q, e.id = id ∧ e.st = .ready ∧ ∀ i, i < 16384 →
           imgAt s e.img i = drainWord f sat (imgAt s (m.acc acc) i)) ∧
  ((∀ (c : Word) (a b : List Byte) xa xb, mmaElement .i8 c a b xa xb =
     BitVec.ofInt 32 (c.toInt + ∑ j ∈ Finset.range 64, (a.getD j 0).toInt * (b.getD j 0).toInt)) ∧
   ∀ f (a b : List Byte) (xa xb : List Nat), f ≠ .i8 →
     (∀ c : Word, mmaElement f c a b xa xb = (List.range (mmaK f / 32)).foldl (fun c g =>
       BitVec.ofNat 32 (fpAdd fmtF32 .rne false (fpDecode fmtF32 c.toNat)
         (fpDecode fmtF32 (groupSum f a b ((xa[g]?).getD 0) ((xb[g]?).getD 0) g))).1) c) ∧
     mmaK f = (if f ∈ [.f16, .bf16] then 32 else if f ∈ [.e2m1, .mxe2m1] then 128 else 64) ∧
     ∀ g pa pb,
       let mx : Bool := decide (f ∈ [MmaFmt.mxe4m3, .mxe5m2, .mxe2m1])
       let el (line : List Byte) (j : Nat) : FVal := fpDecode (mmaElt f) (lineBits f line (32 * g + j))
       let val (v : FVal) : ℚ := match v with | .fin n m e => (if n then -1 else 1) * (m : ℚ) * (2 : ℚ) ^ e | _ => 0
       let infinite (n : Bool) : Prop := ∃ j, j < 32 ∧ ((el a j).isInf = true ∨ (el b j).isInf = true) ∧
         ((el a j).neg != (el b j).neg) = n
       let bad := (∃ j, j < 32 ∧ ((el a j).isNaN = true ∨ (el b j).isNaN = true ∨
           ((el a j).isInf = true ∧ (el b j).isZero = true) ∨ ((el a j).isZero = true ∧ (el b j).isInf = true))) ∨
         (infinite true ∧ infinite false) ∨ (mx = true ∧ (pa = 255 ∨ pb = 255))
       let r := groupSum f a b pa pb g
       let sum : ℚ := (∑ j ∈ Finset.range 32, val (el a j) * val (el b j)) *
         if mx then (2 : ℚ) ^ ((pa : Int) - 127) * (2 : ℚ) ^ ((pb : Int) - 127) else 1
       (bad → r = fpNaN fmtF32) ∧
       (∀ n, ¬bad → infinite n → r = fpInf fmtF32 n) ∧
       (¬bad → ¬infinite true → ¬infinite false → (sum = 0 → r = 0) ∧
         (sum ≠ 0 → ∃ n m e, 0 < m ∧ sum = val (.fin n m e) ∧ r = (fpRound fmtF32 .rne false n m 1 e).1)))

/-- 08 R204: `MPOP` gives lane l the four columns from 4c of rows 2l and 2l + 1 of the oldest entry, and with `.last`
frees the entry; on an empty queue it traps, and on one still draining it waits. -/
def Obligations.ResultsPopInOrder : Prop :=
  ∀ g arr last d (q : BitVec 2) (c : BitVec 5) s k y bk, assocGet s.banks (bankKey k.w) = some bk →
    MayRun (.mpop g arr last d q c) s k → pickArray s k arr = some y →
    let m := getArray s (bankKey k.w) y
    (oldestEntry m q.toNat = none → CanTrap s k → Completes (.mpop g arr last d q c) s fun s' =>
      Trapped s s' k .queueUnderflow false (k.act s) 0) ∧
    (∀ e, oldestEntry m q.toNat = some e → e.st = .draining → Completes (.mpop g arr last d q c) s fun s' =>
      OnlyWave s s' k.uid ∧ SameBytes s s' ∧ ∃ w' f', assocGet s'.waves k.uid = some w' ∧
        w'.frag? k.lead = some f' ∧ f'.pc = k.f.pc ∧ f'.park = .wait) ∧
    ∀ e, oldestEntry m q.toNat = some e → e.st ≠ .draining → Completes (.mpop g arr last d q c) s fun s' =>
      SameBytes s s' ∧ (∀ v, v ≠ k.uid → assocGet s'.waves v = assocGet s.waves v) ∧
      (∃ w', assocGet s'.waves k.uid = some w' ∧ Advanced (.mpop g arr last d q c) k w' ∧ RegsOnly k.w w' ∧
        UndefinedFor s k.w w' d.toNat 8 (k.act s) 6 ∧
        RegsHold k.w w' d.toNat (k.act s) fun l => (List.range 8).map fun j =>
          imgAt s e.img (128 * (2 * l + j / 4) + 4 * c.toNat + j % 4)) ∧
      let m' := getArray s' (bankKey k.w) y
      m'.acc0 = m.acc0 ∧ m'.acc1 = m.acc1 ∧ m'.pend = m.pend ∧
        m'.queue q.toNat = if last then (m.queue q.toNat).filter (·.id ≠ e.id) else m.queue q.toNat

/-- 06 R149, R161; 08 R199, R200, R204, R206, R207, R212; 10 R248: copies, `STQ`, `MCAST` and `CRED` join the batch as
one operation, under lane 4 times their leading quad, whatever the mask (assumption 15), once their ring, queue entry
or receivers admit it. `COPY.R` then holds the slot at TAIL, `STQ` its entry, and `CRED` is the next of its
communicator. 08 R204, R207, R212, R213: `STQ`, `MPOP` and `MCAST` of an empty queue trap, and on an entry still
draining they wait; an `MCAST` whose receivers or bytes are none that it can send traps (that of a spawned wave by
assumption 53), and a `COPY.GT` of a bad target word or of no or more than 8 tiles; where the target's ring is usable
and full it waits. -/
def Obligations.EngineOperationsJoinTheBatch : Prop :=
  (∀ s k i, MayRun i s k → k.w.entries.length < 64 →
     let joins : Prop := Completes i s fun s' => JoinsBatch i s s' k (laneBit k.low)
     let entry (arr : Bool) (q : BitVec 2) (y : Nat) (e : ResEntry) : Prop := pickArray s k arr = some y ∧
       oldestEntry (getArray s (bankKey k.w) y) q.toNat = some e ∧ e.st ≠ .draining
     ((∃ g d a, i = .copy g d a ∨ i = .copyS g d a ∨ i = .copyG g d a) → joins) ∧
     (∀ g d a b, i = .cred g d a b →
       (∀ x, readComm s k.c (tripleBad s k.w a.toNat k.low) (readTriple s k.w a.toNat k.low) = .error x → joins) ∧
       ∀ s1 m, readComm s k.c (tripleBad s k.w a.toNat k.low) (readTriple s k.w a.toNat k.low) = .ok (s1, m) →
         Completes i s fun s' => JoinsBatch i s1 s' k (laneBit k.low) ∧
           (assocGet s'.hub.colls m.cid).getD 0 = (assocGet s.hub.colls m.cid).getD 0 + 1 ∧
           ∀ c, c ≠ m.cid → assocGet s'.hub.colls c = assocGet s.hub.colls c) ∧
     (∀ g j a r, i = .copyR g j a → getRing s (8 * bankKey k.w + j.toNat) = some r → k.w.spawned = false →
       r.grid = k.w.grid → r.wg = k.w.wg → r.slots[r.tail]? = some .free →
       Completes i s fun s' => JoinsBatch i s s' k (laneBit k.low) ∧
         getRing s' (8 * bankKey k.w + j.toNat) = some { r with slots := r.slots.set r.tail .reserved,
                                                                tail := if r.tail + 1 < r.slots.length then r.tail + 1 else 0,
                                                                far := r.far.filter (· != r.tail) }) ∧
     (∀ g d a b c, i = .copyGt g d a b c →
       let n := (readLane s k.w c.toNat k.low).toNat
       (readLane s k.w d.toNat k.low).toNat < 2 ^ 13 → 0 < n → n ≤ 8 →
       (∀ r, getRing s (guideArgs s k d.toNat a.toNat b.toNat c.toNat k.low).2.1 = some r → r.full = false) → joins) ∧
     (∀ g arr q a y e, i = .stq g arr q a → entry arr q y e → Completes i s fun s' =>
       JoinsBatch i s s' k (laneBit k.low) ∧ ∀ z ∈ (getArray s' (bankKey k.w) y).queue q.toNat, z.id = e.id → z.st = .claimed) ∧
     ∀ g arr last q a y e, i = .mcast g arr last q a → entry arr q y e → (∀ y q d, k.f.park ≠ .mcast y q d) →
       let v := (readLane s k.w a.toNat k.low).toNat
       v % 2 ^ 12 ≠ 0 → k.w.spawned = false → (∀ r, bitOf v r = true → r < 12 → r < gridS s k.w.grid) → bitOf v 15 = false →
       v < 2 ^ 19 → v / 2 ^ 16 % 8 * 64 < 128 * drainSize e.fmt →
       ((∀ r, r < 12 → bitOf v r = true → rankFree s k.w r (v / 2 ^ 12 % 8) = true) → joins) ∧
       ((∃ r, r < 12 ∧ bitOf v r = true ∧ rankFree s k.w r (v / 2 ^ 12 % 8) = false) → Completes i s fun s' =>
         SameBytes s s' ∧ ∃ w' f', assocGet s'.waves k.uid = some w' ∧ w'.frag? k.lead = some f' ∧ f'.pc = k.f.pc ∧
           f'.park = .mcast y q.toNat (if last then { e with st := .claimed } else e) ∧ w'.entries = k.w.entries)) ∧
  (∀ s k i, MayRun i s k →
     let traps (c : Cause) : Prop := CanTrap s k → Completes i s fun s' => Trapped s s' k c false (k.act s) 0
     let waits : Prop := Completes i s fun s' => OnlyWave s s' k.uid ∧ SameBytes s s' ∧ ∃ w' f',
       assocGet s'.waves k.uid = some w' ∧ w'.frag? k.lead = some f' ∧ f'.pc = k.f.pc ∧ f'.park = .wait
     (∀ g arr last (q : BitVec 2) a d c y,
       i = .stq g arr q a ∨ i = .mpop g arr last d q c ∨ (i = .mcast g arr last q a ∧ ∀ y q d, k.f.park ≠ .mcast y q d) →
       pickArray s k arr = some y →
       (oldestEntry (getArray s (bankKey k.w) y) q.toNat = none → traps .queueUnderflow) ∧
       ∀ e, oldestEntry (getArray s (bankKey k.w) y) q.toNat = some e →
         (e.st = .draining → waits) ∧
         (e.st ≠ .draining → i = .mcast g arr last q a →
           let v := (readLane s k.w a.toNat k.low).toNat
           v % 2 ^ 12 = 0 ∨ k.w.spawned = true ∨ (∃ r, bitOf v r = true ∧ r < 12 ∧ gridS s k.w.grid ≤ r) ∨ bitOf v 15 = true ∨
             2 ^ 19 ≤ v ∨ 128 * drainSize e.fmt ≤ v / 2 ^ 16 % 8 * 64 → traps .multicastShape)) ∧
     ∀ g d a b c, i = .copyGt g d a b c →
       let t := (readLane s k.w d.toNat k.low).toNat
       let n := (readLane s k.w c.toNat k.low).toNat
       let x := guideArgs s k d.toNat a.toNat b.toNat c.toNat k.low
       (2 ^ 13 ≤ t ∨ n = 0 ∨ 8 < n → traps .guideTarget) ∧
       (t < 2 ^ 13 → 0 < n → n ≤ 8 → ∀ r, guideBad s x.1 x.2.1 (readLane s k.w b.toNat k.low).toNat n = false →
         getRing s x.2.1 = some r → (∃ y, r.slots[r.tail]? = some y ∧ y ≠ .free) → waits))

/-- 06 R164, R168, 08 R200, R206; 12 R301: a copy whose records are sound, with the peers' answers to its requests,
ends with its pieces moved: complete, its ring slot filled, when none failed; else faulted with the first failure, the
pieces left kept for a reissue. An `STQ` stores its entry's elements so, and with the last of them frees the entry. A
copy that started after the migration of a buffer it names began waits. One that reaches peers first sends its
requests, and waits for their answers. That a whole copy is performed in the one step of its event is the model's
choice (assumption 12), and so is that its requests to one peer through one port are one, and that a peer's bytes
stand in this package's memory (assumption 14). 06 R162, R163, 08 R198: an element of a tensor record lies at its base
plus its indices times their strides, two of four bits to a byte, and a block's scale likewise; in a dense image
elements stand in order of linear index, the scales after them. A copy moves these pieces in ascending order, each
from its source to its destination and nothing else, and an `STQ` and a `CRED` read and write them so. Where the slice
group holds a copy of a source's line the piece may come from it (06 R147). -/
def Obligations.CopiesMoveTheirPieces : Prop :=
  (∀ s u seq w e c l args, findEntry s u seq = some (w, e, c) → engineLane e = some (l, args) →
     (copyHeld s c e args = true → exec (.copyComplete u seq) s = .next s) ∧
     (copyHeld s c e args = false →
       let mine := e.asks.filter (·.lane == l)
       let asks := asksOf s c l (engRanges s c e.instr e.rest args)
       ((∃ a ∈ mine, a.answers s = false) ∨ (mine = [] ∧ ∃ a ∈ asks, portSends s a.port = false) →
         exec (.copyComplete u seq) s = .next s) ∧
       (mine = [] → asks ≠ [] → (∀ a ∈ asks, portSends s a.port = true) → Completes (.copyComplete u seq) s fun s' =>
         SameBytes s s' ∧ ∃ w', assocGet s'.waves u = some w' ∧ w'.regs = w.regs ∧
           w'.entries.find? (·.seq == seq) = some { e with asks := e.asks ++ asks })) ∧
     (copyHeld s c e args = false → Answered s c e l (engRanges s c e.instr e.rest args) →
       let ends (s' s2 : State) (left : List Nat) (err : Option AccErr) : Prop :=
         s'.mem = s2.mem ∧ s'.grids = s2.grids ∧ (∀ v, v ≠ u → assocGet s'.waves v = assocGet s.waves v) ∧
         ∃ w', assocGet s'.waves u = some w' ∧ w'.regs = w.regs ∧ w'.frags = w.frags ∧
           (err = none → LaneDone w' seq l) ∧
           ∀ ca t p, err = some (ca, t, p) → ∃ e', w'.entries.find? (·.seq == seq) = some e' ∧ e'.rest = some left ∧
             assocGet e'.lanes l = some (.faulted ca t p)
       (∀ s1 a b s2 left err, (∃ g x y, e.instr = .copy g x y ∨ e.instr = .copyS g x y ∨ e.instr = .copyG g x y) ∨
           (∃ g j x, e.instr = .copyR g j x) →
         copySides s w c args = .ok (s1, a, b) →
         movePieces w.core c a b (e.rest.getD (List.range a.count)) (e.rest.getD (List.range a.count)) s1 = (s2, left, err) →
         (∀ va, walk s2 c va ≠ .outside) →
         Completes (.copyComplete u seq) s fun s' => ends s' s2 left err ∧
           ∀ rk i z r, err = none → e.slot = some (rk, i, z) → getRing s2 rk = some r → i < r.slots.length →
             ∃ r', getRing s' rk = some r' ∧ r'.slots = r.slots.set i .filled) ∧
       ∀ y q id bad va s1 r x s2 left err, (∃ g arr p a, e.instr = .stq g arr p a) → args = [y, q, id, bad, va] →
         readRec s (some w.core) c (bad == 1) (BitVec.ofNat 80 va) = .ok (s1, r) →
         ((getArray s (bankKey w) y).queue q).find? (·.id == id) = some x →
         r.fmt = x.fmt.code → 2 ≤ r.rank → r.dims = [128, 128, 1, 1] →
         storePieces w.core c r x.img (e.rest.getD (List.range 16384)) (e.rest.getD (List.range 16384)) s1 = (s2, left, err) →
         (∀ va, walk s2 c va ≠ .outside) →
         Completes (.copyComplete u seq) s fun s' => ends s' s2 left err ∧
           (err = none → ∀ z ∈ (getArray s' (bankKey w) y).queue q, z.id ≠ id))) ∧
  ((∀ (r : TRec) x y z v, x < r.rowN → y < r.dim 1 → z < r.dim 2 → v < r.dim 3 →
     let i := x + r.rowN * (y + r.dim 1 * (z + r.dim 2 * v))
     let sd (j : Nat) : Nat := (r.sds[j]?).getD 0
     r.piece i = ((r.base + x * r.size + y * sd 1 + z * sd 2 + v * sd 3) % 2 ^ 80, r.size) ∧ r.dense i = i * r.size) ∧
   (∀ (r : TRec) b y z v, r.mx = true → b < r.dim 0 / 32 → y < r.dim 1 → z < r.dim 2 → v < r.dim 3 →
     let j := b + r.dim 0 / 32 * (y + r.dim 1 * (z + r.dim 2 * v))
     let sd (n : Nat) : Nat := (r.xsds[n]?).getD 0
     let n := r.rowN * (r.dim 1 * r.dim 2 * r.dim 3)
     r.piece (n + j) = ((r.sbase + b + y * sd 1 + z * sd 2 + v * sd 3) % 2 ^ 80, 1) ∧ r.dense (n + j) = n * r.size + j) ∧
   (∀ p c src dst all l1 l2 s,
     let a := movePieces p c src dst all l1 s
     let b := movePieces p c src dst all l2 a.1
     movePieces p c src dst all (l1 ++ l2) s = (b.1, a.2.1 ++ b.2.1, a.2.2.or b.2.2)) ∧
   (∀ (r : TRec) s c a i, (Side.record r).loc s c a i = (match engLoc s c (r.piece i).1 a with
     | .error e => .error e | .ok l => .ok (l, (r.piece i).2))) ∧
   (∀ (r : TRec) g k off s c a i, (Side.image g k off r).loc s c a i = .ok (.share g k (off + r.dense i), (r.piece i).2)) ∧
   (∀ p c src dst all i s, (∀ e, src.loc s c .read i = .error e → movePieces p c src dst all [i] s = (s, [i], some e)) ∧
     ∀ l n, src.loc s c .read i = .ok (l, n) →
       (∀ e, dst.loc s c .write i = .error e → movePieces p c src dst all [i] s = (s, [i], some e)) ∧
       ∀ l' n', dst.loc s c .write i = .ok (l', n') → dst.shadowed all i = false →
         (∀ pa f, l = .phys pa f → paRegion pa < 2 → ∀ v ∈ lineParts pa n, assocGet s.hub.lineCopies (copyKey p v.1) = none) →
         ∃ t, movePieces p c src dst all [i] s = (t, [], none) ∧ t.ctxs = s.ctxs ∧ t.waves = s.waves ∧
           let bs := readLoc (l.touched false s) l n
           match l' with
           | .phys pa leaf => t.grids = s.grids ∧ (Memory.wf s.mem = true →
               (∀ j b, bs[j]? = some b → pa + j ≠ leaf → memRead t.mem (pa + j) = b) ∧
               ∀ a, ¬l.leafIs a → a ≠ leaf → (a < pa ∨ pa + n ≤ a) → memRead t.mem a = memRead s.mem a)
           | .share g k off => ∀ x, wgOf s g k = some x → Memory.wf x.share = true → ∃ x', wgOf t g k = some x' ∧
               (∀ j b, bs[j]? = some b → memRead x'.share (off + j) = b) ∧
               ∀ a, (a < off ∨ off + n ≤ a) → memRead x'.share a = memRead x.share a) ∧
   (∀ p c r img all l1 l2 s,
     let a := storePieces p c r img all l1 s
     let b := storePieces p c r img all l2 a.1
     storePieces p c r img all (l1 ++ l2) s = (b.1, a.2.1 ++ b.2.1, a.2.2.or b.2.2)) ∧
   (∀ p c (r : TRec) img all i s pa leaf n, (Side.record r).loc s c .write i = .ok (.phys pa leaf, n) →
     (Side.record r).shadowed all i = false → Memory.wf s.mem = true → ∃ t, storePieces p c r img all [i] s = (t, [], none) ∧
       ((leaf < pa ∨ pa + n ≤ leaf) → memNat t.mem pa n = (imgAt s img i).toNat % 2 ^ (8 * n)) ∧
       ∀ a, a ≠ leaf → (a < pa ∨ pa + n ≤ a) → memRead t.mem a = memRead s.mem a) ∧
   (∀ s c r n t vs, readPieces s c r (n + 1) = .ok (t, vs) ↔ ∃ s1 us l m, readPieces s c r n = .ok (s1, us) ∧
     (Side.record r).loc s1 c .read n = .ok (l, m) ∧ t = l.touched false s1 ∧ vs = us ++ [leNat (readLoc s1 l m)]) ∧
   ∀ s c r vs v t, writePieces s c r (vs ++ [v]) = .ok t ↔ ∃ s1 l m, writePieces s c r vs = .ok s1 ∧
     (Side.record r).loc s1 c .write vs.length = .ok (l, m) ∧
     t = l.touched true (writeLoc s1 l (natLe m v)))

/-- 08 R207, R212, R213; 10 R247, R248: a guide-tile transfer writes its tiles into the reserved slot of the target's
ring and signals the semaphore once, where no fragment waits on it; a multicast writes its lines, the 64 bytes of the
chunk of each row, to a slot of each receiver; a collective whose members all contributed writes the results, and one
whose members disagree ends with an error. Each fills the slots it writes, and is then complete. That each is
performed in one step is assumption 12, the word at an offset that is no multiple of 4 assumption 53, and that only
other members can disagree or be lost assumption 29. -/
def Obligations.TransfersReachTheirTargets : Prop :=
  ∀ s u seq w e c l, findEntry s u seq = some (w, e, c) →
    let done (s' : State) : Prop := ∃ w', assocGet s'.waves u = some w' ∧ LaneDone w' seq l ∧ w'.regs = w.regs
    (∀ g x1 x2 x3 x4 p rk i o sem n r x, e.instr = .copyGt g x1 x2 x3 x4 → engineLane e = some (l, [p, rk, i, o, sem, n]) →
      i < r.slots.length → i ≠ 64 → getRing s rk = some r → guideBad s p rk sem n = false →
      wgOf s r.grid r.wg = some x → Memory.wf x.share = true → (∀ j, j < 4 → rangesHave x.undef (sem + j) = false) →
      (∀ v ∈ s.waves, ∀ f ∈ v.2.frags, ∀ n o, f.park ≠ .sem r.grid r.wg sem n o) →
      let v := leNat (memReadN x.share sem 4)
      v % 2 ^ 16 + 1 ≤ v / 2 ^ 16 % 2 ^ 15 →
      Completes (.guideTileTransfer u seq) s fun s' => done s' ∧ s'.mem = s.mem ∧
        (∃ r', getRing s' rk = some r' ∧ r'.slots = r.slots.set i .filled) ∧
        ∃ x', wgOf s' r.grid r.wg = some x' ∧ leNat (memReadN x'.share sem 4) = v + 1 ∧
          ∀ j, j < 1024 * n → (r.base + i * r.bytes + j < sem ∨ sem + 4 ≤ r.base + i * r.bytes + j) →
            (readLoc s (.share w.grid w.wg o) (1024 * n))[j]? = some (memRead x'.share (r.base + i * r.bytes + j))) ∧
    (∀ g arr last q a j ch x (rs : List Recv), e.instr = .mcast g arr last q a → engineLane e = some (l, [j, ch]) →
      e.image = some x → e.rest = some (recvWords rs) → (∀ y ∈ rs, y.st = 0) → (rs.map (·.rk)).Nodup →
      (∀ y ∈ rs, ∀ z ∈ rs, ∀ a b, getRing s y.rk = some a → getRing s z.rk = some b → a.grid = b.grid → a.wg = b.wg → y = z) →
      Completes (.multicastTransfer u seq) s fun s' => done s' ∧ s'.mem = s.mem ∧
        ∀ y ∈ rs, ∀ r, getRing s y.rk = some r → y.slot < r.slots.length →
          (∃ r', getRing s' y.rk = some r' ∧ r'.slots = r.slots.set y.slot .filled) ∧
          ∀ v, wgOf s r.grid r.wg = some v → Memory.wf v.share = true → ∃ v', wgOf s' r.grid r.wg = some v' ∧
            let m := drainSize x.fmt
            let at_ := r.base + y.slot * r.bytes
            (∀ i n b t, i < 128 → n < 64 / m → (natLe m (imgAt s x.img (128 * i + 64 / m * ch + n)).toNat)[b]? = some t →
              memRead v'.share (at_ + 64 * i + m * n + b) = t) ∧
            ∀ o, (o < at_ ∨ at_ + 8192 ≤ o) → memRead v'.share o = memRead v.share o) ∧
    ∀ g x1 x2 x3 db d cb cv sb sv s0 m s2 src t dst, e.instr = .cred g x1 x2 x3 →
      engineLane e = some (l, [db, d, cb, cv, sb, sv]) → readComm s c (cb == 1) (BitVec.ofNat 80 cv) = .ok (s0, m) →
      readRec (credNumber s0 u e m) none c (sb == 1) (BitVec.ofNat 80 sv) = .ok (s2, src) →
      readRec (credNumber s0 u e m) none c (db == 1) (BitVec.ofNat 80 d) = .ok (t, dst) →
      commFits m src dst = true →
      (∀ sums s3 vs s4, (∀ g, g < m.g → m.place.getD g 0 ≠ 255 → membersAnswer s m = true ∧
          ∃ vs, assocGet sums g = some vs ∧ vs.length = dst.pieces) →
        Answered s c e l (engRanges s c e.instr none [db, d, cb, cv, sb, sv]) →
        readPieces s2 c src src.pieces = .ok (s3, vs) →
        writePieces s3 c dst ((List.range dst.pieces).map fun i => commResult m (segVal m vs dst.pieces i sums)) = .ok s4 →
        Completes (.collectiveComplete u seq (.sums sums)) s fun s' => done s' ∧ s'.mem = s4.mem) ∧
      ((∃ p ∈ m.place, p ≠ 255) → Completes (.collectiveComplete u seq .mismatch) s fun s' =>
        ∃ w', assocGet s'.waves u = some w' ∧ w'.regs = w.regs ∧ ∀ e' ∈ w'.entries, e'.seq = seq →
          assocGet e'.lanes l = some (.faulted .collectiveMismatch 0 0)) ∧
      ((∀ p ∈ m.place, p = 255) → exec (.collectiveComplete u seq .mismatch) s = .next s ∧
        exec (.collectiveComplete u seq .memberLost) s = .next s)

/-! Spawning (03). -/

/-- 03 R63 to R66, R74: a `SPAWN` performed gives its lane the thread's ordinal and a status. The status is 7, with no
ordinal, once ordinals have run out; 3 for a thread too deep; 4 for a bad entry or a descriptor that refuses; 2 where
there is no place; 6 or 5 for a join word that refuses its increment. Else the thread is placed: 0 in the bin of its
entry and depth, which is Ready at 64 threads or with its timer at 0, 1 in the segment of its depth. A descriptor or
join word that faults leaves the lane its ordinal and takes no place; one at a peer without ports faults as timed out
(assumption 44), and one at a peer is reached by a request that may be answered (12 R301, assumption 14). The spawn is
one step (assumption 22), and a record's bytes are the device's own (assumption 23). -/
def Obligations.SpawnPlacesAThread : Prop :=
  ∀ s u seq l resp w e g pm h n d a b c entry bad payload join ad x bk, assocGet s.waves u = some w →
    w.entries.find? (·.seq == seq) = some e → assocGet e.lanes l = some (.inflight (.spawn entry bad payload join) ad) →
    e.instr = .spawn g pm h n d a b c → assocGet s.ctxs w.ctx = some x → assocGet s.banks (bankKey w) = some bk → l < 64 →
    Answered s x e l (spawnRanges entry bad join) → (∀ f, (f = LaneSt.flying ∨ f = LaneSt.stuck) → before s w e l (.spawn entry bad payload join) f = false) →
    spawnBefore w seq l = false → laneTurn s u w e l = true → laneStuck w seq l = false →
    let t := threadOf w l
    let ends (word next : Nat) (s' : State) : Prop := ∃ w', assocGet s'.waves u = some w' ∧ LaneDone w' seq l ∧
      held w' d.toNat l = BitVec.ofNat 32 word ∧ threadOf w' l = { t with next := next } ∧
      ∀ r y, y < 64 → (r ≠ d.toNat ∨ y ≠ l) → held w' r y = held w r y
    let gives (st : Nat) : State → Prop := ends (64 * t.next + st) (t.next + 1)
    let faults (f : Cause) (va : VA) (s' : State) : Prop := s'.mem = s.mem ∧ s'.banks = s.banks ∧
      ∃ w' e', assocGet s'.waves u = some w' ∧ w'.entries.find? (·.seq == seq) = some e' ∧
        assocGet e'.lanes l = some (.faulted f va va) ∧ w'.regs = w.regs ∧ threadOf w' l = t
    let i := Instr.memoryAccessComplete u seq l resp
    (2 ^ 26 ≤ t.next → Completes i s (ends 7 t.next)) ∧
    (t.next < 2 ^ 26 →
    (7 ≤ t.depth → Completes i s (gives 3)) ∧
    (t.depth < 7 → (bad = true ∨ entry.toNat % 8 ≠ 0) → Completes i s (gives 4)) ∧
    (t.depth < 7 → bad = false → entry.toNat % 8 = 0 →
    (∀ f, xlate s x (entry - 8).toNat .read = .error f → walk s x (entry - 8).toNat ≠ .outside →
      Completes i s (faults f (entry - 8))) ∧
    ∀ pa leaf, xlate s x (entry - 8).toNat .read = .ok (pa, leaf) →
      (paRegion pa = 2 → portOf s pa = none → Completes i s (faults .remoteTimeout (entry - 8))) ∧
      ((paRegion pa = 2 → (portOf s pa).isSome = true) →
      let v := leNat (physGet s pa 8)
      let gr := v % 256
      let refused : Prop := v / 256 ≠ 0 ∨ gr = 0 ∨ 32 < gr ∨ 16 * x.gplu < gr ∨ x.spl = 0
      let s1 := (Loc.phys pa leaf).touched false s
      (refused → Completes i s (gives 4)) ∧
      (¬refused → reservePlace bk x entry (t.depth + 1) = none → Completes i s (gives 2)) ∧
      ∀ p, ¬refused → reservePlace bk x entry (t.depth + 1) = some p →
        let th : Thread := { t with depth := t.depth + 1, next := 0, path := t.path ++ [(t.home, t.next)],
                                    join := join.map (·.2), query := none }
        let child : Child := ⟨entry, gr, w.grid, w.det, th, payload, e.clock + 2⟩
        let placed (s2 : State) : Prop :=
          (∀ m, p = .bin m → Completes i s fun s' => gives 0 s' ∧ s'.mem = s2.mem ∧
            ∃ bk' v, assocGet s'.banks (bankKey w) = some bk' ∧ assocGet bk'.bins m = some v ∧
              v.threads = ((assocGet bk.bins m).map (·.threads)).getD [] ++ [child] ∧
              v.timer = ((assocGet bk.bins m).map (·.timer)).getD x.bintmr.toNat ∧
              (v.ready = true ↔ v.threads.length = 64 ∨ v.timer = 0) ∧ ∀ j, j ≠ m → assocGet bk'.bins j = assocGet bk.bins j) ∧
          (∀ s3, p = .ring → segWrite s2 w.core w.ctx (t.depth + 1) [child] = .ok s3 → Completes i s fun s' =>
            gives 1 s' ∧ s'.mem = s3.mem ∧ ∃ bk', assocGet s'.banks (bankKey w) = some bk' ∧ bk'.bins = bk.bins ∧
              segOf bk' (t.depth + 1) = segOf bk (t.depth + 1) ++ [child]) ∧
          ∀ f, p = .ring → segWrite s2 w.core w.ctx (t.depth + 1) [child] = .error f →
            Completes i s fun s' => ContextFaulted s' w.ctx f
        (join = none → placed s1) ∧
        (∀ jva, join = some (true, jva) → Completes i s (faults .nonCanonical jva)) ∧
        ∀ jva, join = some (false, jva) →
          (∀ f, xlate s1 x jva.toNat .write = .error f → walk s x jva.toNat ≠ .outside → Completes i s (faults f jva)) ∧
          ∀ jpa jleaf, xlate s1 x jva.toNat .write = .ok (jpa, jleaf) →
            let j := leNat (physGet s1 jpa 4)
            let word := Loc.phys jpa jleaf
            (jva.toNat % 4 ≠ 0 → Completes i s (faults .misaligned jva)) ∧
            (jva.toNat % 4 = 0 → paRegion jpa = 2 → portOf s jpa = none → Completes i s (faults .remoteTimeout jva)) ∧
            (jva.toNat % 4 = 0 → (paRegion jpa = 2 → (portOf s jpa).isSome = true) → (j / 2 ^ 24 % 128 ≠ 0 → Completes i s (gives 6)) ∧
              (j / 2 ^ 24 % 128 = 0 → j % 2 ^ 24 = 0xFFFFFF → Completes i s (gives 5)) ∧
              (j / 2 ^ 24 % 128 = 0 → j % 2 ^ 24 ≠ 0xFFFFFF →
                placed (word.touched true (word.refresh w.core (wordPut s1 (.phys jpa 0) (j + 1)))))))))

/-- 03 R70, R73, R75, R76, R78: a bin whose timer ends becomes Ready; a Ready bin served launches one wave of its
threads, lane by lane in order where none is deterministic, and is empty; one left too long is written to its segment
and empty; records at a segment's head are read and launch likewise. A record that cannot be written or read faults
the context (06 R158). -/
def Obligations.BinsLaunchOrOverflow : Prop :=
  let launched (s s' : State) (p x : Nat) (ts : List Child) : Prop := ts ≠ [] → ∃ w, assocGet s'.waves s.nextUid = some w ∧
    w.core = p ∧ w.ctx = x ∧ w.spawned = true ∧ w.nthreads = ts.length ∧ w.mask = BitVec.ofNat 64 (2 ^ ts.length - 1) ∧
    ((∀ t ∈ ts, t.det = false ∧ t.payload.length ≤ 4) → ts.length ≤ 64 →
      (∃ f, w.frags = [f] ∧ f.header = true ∧ f.park = .none ∧ some f.pc = ts.head?.map (·.entry)) ∧
      ∀ l t, ts[l]? = some t → assocGet w.threads l = some t.thread ∧
        ∀ j v, t.payload[j]? = some v → held w j l = v)
  ∀ s p x,
    (∀ n c b v, getBin s p x n = some (c, b, v) → v.ready = false → v.timer = 0 →
      Completes (.binTimerExpiry p x n) s fun s' => SameBytes s s' ∧
        getBin s' p x n = some (c, { b with bins := assocSet b.bins n { v with ready := true, age := 0, since := s.cycle } },
          { v with ready := true, age := 0, since := s.cycle })) ∧
    (∀ n a cl bk, (candidates s p).find? (fun a => a.ctx == x && !a.seg && a.num == n) = some a →
      serveCand s p a = some cl → assocGet s.banks (16 * p + x) = some bk →
      Completes (.binLaunch p x n) s fun s' => SameBytes s s' ∧ launched s s' p x a.threads ∧
        ∃ bk', assocGet s'.banks (16 * p + x) = some bk' ∧ bk' = { bk with bins := bk'.bins } ∧
          assocGet bk'.bins n = none ∧ ∀ j, j ≠ n → assocGet bk'.bins j = assocGet bk.bins j) ∧
    (∀ n c b v, getBin s p x n = some (c, b, v) → v.ready = true → max c.bintmr.toNat 256 ≤ v.age →
      (segOf b v.depth).length + v.threads.length ≤ ringCap c →
      (∀ s1, segWrite s p x v.depth v.threads = .ok s1 → Completes (.binOverflowWrite p x n) s fun s' => s'.mem = s1.mem ∧
        ∃ b', assocGet s'.banks (16 * p + x) = some b' ∧ assocGet b'.bins n = none ∧
          (∀ j, j ≠ n → assocGet b'.bins j = assocGet b.bins j) ∧ segOf b' v.depth = segOf b v.depth ++ v.threads) ∧
      ∀ f, segWrite s p x v.depth v.threads = .error f →
        Completes (.binOverflowWrite p x n) s fun s' => ContextFaulted s' x f) ∧
    ∀ d a c b cl, (candidates s p).find? (fun a => a.ctx == x && a.seg && a.num == d) = some a →
      assocGet s.ctxs x = some c → assocGet s.banks (16 * p + x) = some b → serveCand s p a = some cl →
      (∀ s1, segRead s p x d a.threads.length = .ok s1 → Completes (.segmentDrainLaunch p x d) s fun s' => s'.mem = s1.mem ∧
        launched s s' p x a.threads ∧ ∃ b', assocGet s'.banks (16 * p + x) = some b' ∧ b'.bins = b.bins ∧
          segOf b' d = (segOf b d).drop a.threads.length) ∧
      ∀ f, segRead s p x d a.threads.length = .error f →
        Completes (.segmentDrainLaunch p x d) s fun s' => ContextFaulted s' x f

/-! Rays and triangles (09). -/

/-- 09 R216, R217, R221, R226: a query ends with its hit record in its lane's registers: code 3 for an invalid ray,
the traversal's code else, 7 where a user leaf lost a thread, 2 for a first hit that a user leaf reported. One that
reaches a peer ends once its requests may be answered (12 R301, assumption 14), and one of a saved context waits for
its restore (R231). The reads between two user leaves are one step (assumption 12). Corners of malformed scenes are
assumption 25. -/
def Obligations.RayQueriesEndWithAHitRecord : Prop :=
  ∀ s u seq l e c q w, queryAt s u seq l = some (e, c, q) → assocGet s.waves u = some w → q.log = none → q.badRead = false →
    q.logf = false → l < 64 →
    let d := rayDest e.instr
    let ends (words : List Word) (s' : State) : Prop := ∃ w', assocGet s'.waves u = some w' ∧ LaneDone w' seq l ∧
      (∀ j v, words[j]? = some v → held w' (d + j) l = v) ∧
      ∀ r y, y < 64 → (y ≠ l ∨ r < d ∨ d + words.length ≤ r) → held w' r y = held w r y
    let miss (code : Nat) : List Word :=
      realWords q.prec infPat ++ List.replicate (2 * precN q.prec) 0 ++ [0xFFFFFFFF, 0, BitVec.ofNat 32 code]
    (c.resident = false → exec (.rayQueryComplete u seq l) s = .next s ∧ exec (.userLeafThreadsRetired u seq l) s = .next s) ∧
    (c.resident = true → Answered s c e l (q.ranges s c) →
    (q.started = false → laneStuck w seq l = false →
      (rayInvalid q = true → Completes (.rayQueryComplete u seq l) s (ends (miss 3))) ∧
      (rayInvalid q = false → q.replay = false → ∀ s1 q1 s2 q2 code,
        rayHeader s c (rayLogs s w.ctx c q.num { q with started := true }).2 = .ok (s1, q1, true) →
        rayLoop c rayFuel s1 q1 = .ok (s2, q2, .ended code) → q2.badRead = false →
        Completes (.rayQueryComplete u seq l) s fun s' => ends (hitWords q2 code false) s' ∧ s'.mem = s2.mem)) ∧
    ∀ first n, q.inLeaf = some (first, n) → q.toSpawn = [] → q.waiting = [] →
      (q.lost = true → Completes (.userLeafThreadsRetired u seq l) s (ends (miss 7))) ∧
      ∀ h, q.lost = false → q.flags.getLsbD 0 = true → q.best = none → q.reports = [h] → first ≤ h.prim.toNat →
        h.prim.toNat < first + n → h.user = true → Completes (.userLeafThreadsRetired u seq l) s
          (ends (realWords q.prec h.t ++ List.replicate (2 * precN q.prec) 0 ++ [h.prim, h.attr, 2])))

/-- 09 R227, R228: `RAYA` gives an intersection thread the ray of its own query, with tmax the best t, and zeros for
any other handle; `RAYH` reports a t within the ray's range to it and returns 0, or 1 outside that range, 2 without
such a query, 3 for the other precision. -/
def Obligations.IntersectionThreadsReadAndReport : Prop :=
  ∀ s u seq l resp w e op ad, assocGet s.waves u = some w → w.entries.find? (·.seq == seq) = some e →
    assocGet e.lanes l = some (.inflight op ad) → laneStuck w seq l = false → l < 64 →
    (assocGet s.ctxs w.ctx).isSome = true →
    let i := Instr.memoryAccessComplete u seq l resp
    let own := ownQuery s w l
    let reads (d : Reg) (words : List Word) (s' : State) : Prop := SameBytes s s' ∧
      ∃ w', assocGet s'.waves u = some w' ∧ LaneDone w' seq l ∧ ∀ j v, words[j]? = some v → held w' (d.toNat + j) l = v
    (∀ g p d a h, e.instr = .raya g p d a → op = .rayA h →
      (∀ v n m prim q, own = some (v, n, m, prim, q) → q.handle = h → q.prec = p →
        Completes i s (reads d (rayRecord q))) ∧
      ((∀ v n m prim q, own = some (v, n, m, prim, q) → q.handle ≠ h ∨ q.prec ≠ p) →
        Completes i s (reads d (List.replicate (8 * precN p + 4) 0)))) ∧
    ∀ g p d a b c h t x, e.instr = .rayh g p d a b c → op = .rayH h t x →
      ((∀ v n m prim q, own = some (v, n, m, prim, q) → q.handle ≠ h) → Completes i s (reads d [2])) ∧
      ∀ v n m prim q, own = some (v, n, m, prim, q) → q.handle = h →
        (q.prec ≠ p → Completes i s (reads d [3])) ∧
        (q.prec = p → (rLe (val q.tmin) (val t) && rLe (val t) (val q.tmax)) = false → Completes i s (reads d [1])) ∧
        (q.prec = p → (rLe (val q.tmin) (val t) && rLe (val t) (val q.tmax)) = true → v ≠ u →
          Completes i s fun s' => reads d [0] s' ∧ ∃ e' c' q', queryAt s' v n m = some (e', c', q') ∧
            q' = { q with reports := q.reports ++ [⟨t, 0, 0, true, BitVec.ofNat 32 prim, x, false⟩] })

/-- 09 R232: a tile's bit 8r + c is set when its sample lies inside the triangle by the exact edge functions, a sample
on an edge counting where the edge is a left or a top one. A bad operand or a culled or empty triangle gives 0; Z and
V say per quad whether all lanes were empty and whether some operand was bad. -/
def Obligations.TriangleCoverage : Prop :=
  ∀ g cull d a b s k, MayRun (.tricov g cull d a b) s k → Completes (.tricov g cull d a b) s fun s' =>
    OnlyWave s s' k.uid ∧ SameBytes s s' ∧ ∃ (w' : Wave) (cov : Nat → Dword), assocGet s'.waves k.uid = some w' ∧
      Advanced (.tricov g cull d a b) k w' ∧ w'.mask = k.w.mask ∧
      RegsHold k.w w' d.toNat (k.act s) (fun l => valWords 2 (cov l)) ∧ UndefinedFor s k.w w' d.toNat 2 (k.act s) 16 ∧
      let co (l i : Nat) : Int := (readLane s k.w (a.toNat + i) l).toInt
      let o (l : Nat) : Nat := (readLane s k.w b.toNat l).toNat
      let bad (l : Nat) : Prop := (∃ i, i < 6 ∧ (co l i < -2 ^ 21 ∨ 2 ^ 21 ≤ co l i)) ∨
        o l / 2 ^ 10 % 2 ^ 6 ≠ 0 ∨ o l / 2 ^ 26 ≠ 0
      let x (l i : Nat) : Int := co l (2 * (i % 3))
      let y (l i : Nat) : Int := co l (2 * (i % 3) + 1)
      let area (l : Nat) : Int := (x l 2 - x l 0) * (y l 1 - y l 0) - (y l 2 - y l 0) * (x l 1 - x l 0)
      let empty (l : Nat) : Prop := bad l ∨ area l = 0 ∨ (cull = .pos ∧ 0 < area l) ∨ (cull = .neg ∧ area l < 0)
      (∀ l, l < 64 → (k.act s).getLsbD l = true → (empty l → cov l = 0) ∧ (¬empty l → ∀ r c : Nat, r < 8 → c < 8 →
        ((cov l).getLsbD (8 * r + c) = true ↔ ∀ i, i < 3 →
          let px : Int := 256 * (8 * (o l % 2 ^ 10 : Nat) + c) + 128
          let py : Int := 256 * (8 * (o l / 2 ^ 16 % 2 ^ 10 : Nat) + r) + 128
          let dx := (area l).sign * (x l (i + 1) - x l i)
          let dy := (area l).sign * (y l (i + 1) - y l i)
          let f := (px - x l i) * dy - (py - y l i) * dx
          0 < f ∨ (f = 0 ∧ (0 < dy ∨ (dy = 0 ∧ dx < 0)))))) ∧
      ∀ j, j < 16 → k.f.quads.getLsbD j = true → ∀ t, (∀ p ∈ k.w.ccPend, p.2 ≤ t) → s.cycle + 16 ≤ t →
        ∃ z n cy v, readCC { s with cycle := t } w' j = (z, n, cy, v) ∧ n = false ∧ cy = false ∧
          (z = true ↔ ∀ l, l / 4 = j → (k.act s).getLsbD l = true → cov l = 0) ∧
          (v = true ↔ ∃ l, l / 4 = j ∧ (k.act s).getLsbD l = true ∧ bad l)

/-! Journals and the governor (10). -/

/-- 10 R252, R255, R257, R258: `JRNL` numbers a record of an Open or Reassigning stream, writes it to the local area
and waits for its acknowledgement, an Open stream's record leaving in a request of the lane (12 R301); `EMIT` and
`JTRUNC` join the batch; `GOVQ` takes one decision from the time since the last one, and `GOVQ.J` journals it. A
record carries its stream, its number and a CRC over the rest. -/
def Obligations.JournalInstructionsIssue : Prop :=
  (∀ ws q sq bs, jrnlRecord ws q sq = some bs → bs.length = 64 ∧ fieldAt bs 0 4 = q % 2 ^ 32 ∧ fieldAt bs 4 8 = sq.toNat ∧
    recordCrcOk bs = true) ∧
  ∀ s k i, MayRun i s k → k.w.entries.length < 64 →
    let journals (q : Nat) (t : Stream) (bs : List Byte) (d : Reg) (l : Nat) (gov : Option (Word × LaneMask)) (n : Nat) : Prop :=
      getStream s q = some t → q < 4096 → t.ctx = k.w.ctx → (t.st = .open_ ∨ t.st = .reassigning) →
      (t.next - t.tseq).toNat ≤ t.cap → laneStuck k.w k.w.nextSeq l = false →
      ∀ s2, recordPut s k.c q t bs true = .ok s2 → Completes i s fun s' => s'.mem = s2.mem ∧
        getStream s' q = some { t with next := t.next + 1 } ∧
        ∃ w', assocGet s'.waves k.uid = some w' ∧ Advanced i k w' ∧ w'.regs = k.w.regs ∧
          (∀ r y, d.toNat ≤ r → r < d.toNat + n → (k.act s).getLsbD y = true → y < 64 → undefAt s' w' r y = true) ∧
          ∃ e ∈ w'.entries, e.seq = k.w.nextSeq ∧ e.batch = k.w.open_ ∧
            assocGet e.lanes l = some (.inflight (.journal q t.next gov) 0) ∧
            (t.st = .open_ → ∀ p, portOf s (recordPa t t.next) = some p → (⟨l, p, s.cycle, 0, t.peer, false⟩ : Ask) ∈ e.asks)
    (∀ g d a b l q t bs, i = .jrnl g d a b → k.act s = laneBit l → l < 64 → readLane s k.w a.toNat l = BitVec.ofNat 32 q →
      jrnlRecord ((List.range 8).map fun j => readLane s k.w (b.toNat + j) l) q t.next = some bs →
      journals q t bs d l none 2) ∧
    (∀ g d a, i = .emit g d a → Completes i s fun s' => JoinsBatch i s s' k (k.act s)) ∧
    (∀ g d a, i = .jtrunc g d a → (∀ l, l < 64 → (k.act s).getLsbD l = true → ∃ q t, q < 4096 ∧
        readLane s k.w d.toNat l = BitVec.ofNat 32 q ∧ getStream s q = some t ∧ t.ctx = k.w.ctx ∧ t.st = .open_ ∧
        t.pos t.tseq < t.pos (readPair s k.w a.toNat l) ∧ t.pos (readPair s k.w a.toNat l) < t.pos t.next) →
      Completes i s fun s' => JoinsBatch i s s' k (k.act s)) ∧
    ∀ (d a : Reg) n gv, (∀ e ∈ k.w.entries, e.seq < k.w.nextSeq) → (readLane s k.w a.toNat k.low).toNat % 16 = n → assocGet s.hub.govs n = some gv → gv.ctx = k.w.ctx →
      laneStuck k.w k.w.nextSeq k.low = false →
      let m := match gv.last with | some t => s.psec - t | none => 1000 * gv.p
      let step := if 1000 * gv.p < m then max gv.smin (gv.s - 1)
        else if 8 * m < 7 * (1000 * gv.p) then min gv.smax (gv.s + 1) else gv.s
      let word : Word := BitVec.ofNat 32 ((if 1000 * gv.p < m then 2 ^ 31 else 0) + step)
      (∀ g, i = .govq g d a → (readLane s k.w a.toNat k.low).toNat < 16 → Completes i s fun s' =>
        JoinsBatch i s s' k (laneBit k.low) ∧ assocGet s'.hub.govs n = some { gv with s := step, last := some s.psec } ∧
        ∃ w', assocGet s'.waves k.uid = some w' ∧ ∃ e ∈ w'.entries, e.seq = k.w.nextSeq ∧
          assocGet e.lanes k.low = some (.inflight (.word word (k.act s)) 0)) ∧
      ∀ g q t, i = .govqJ g d a → (readLane s k.w a.toNat k.low).toNat = n + 2 ^ 16 * q →
        journals q t (recordOf q t.next 0xFFFFFFFF 0 [] word 16) d k.low (some (word, k.act s)) 1

/-- 10 R253 to R257; 12 R297, R298, R301: an acknowledgement completes the records it covers, each giving its lane the
record's number, and is not taken where the request of a record it covers can no longer be answered; an arriving
record is written and HSEQ raised; a lost partner is replaced by a standby peer, whose area's header is written and to
which each record that a lane waits for is handed over in a new request, and without one the stream fails and its
records with it; an `EMIT` publishes behind its records, faults when one of them ended in error, and is held while
firmware may still let one of them complete (06 R169). Sequence positions are those of assumption 27, faults those of
28, and the header's HSEQ is that of 53. -/
def Obligations.JournalMovesOn : Prop :=
  (∀ s peer q x t u seq l w e c sq, getStream s q = some t → t.st = .open_ → t.peer = peer → t.pos x < t.pos t.next →
    t.pos t.acked < t.pos x → findEntry s u seq = some (w, e, c) →
    assocGet e.lanes l = some (.inflight (.journal q sq none) 0) → t.pos sq ≤ t.pos x → l < 64 →
    streamOps s q = [(u, seq, l, .journal q sq none)] →
    ((∃ a ∈ e.asks, a.lane = l ∧ portAnswers s a.port a.cycle = false) →
      exec (.journalAcknowledgement peer q x) s = .next s) ∧
    ((∀ a ∈ e.asks, a.lane = l → portAnswers s a.port a.cycle = true) → Completes (.journalAcknowledgement peer q x) s fun s' => s'.mem = s.mem ∧ getStream s' q = some { t with acked := x } ∧
      ∃ w', assocGet s'.waves u = some w' ∧ LaneDone w' seq l ∧
        (∀ j, j < 2 → held w' (journalDest e.instr + j) l = sq.extractLsb' (32 * j) 32))) ∧
  (∀ s peer off (rec : BitVec 512), Memory.wf s.mem = true → (∀ j, j < 4 → rangesHave s.undefMem (off + 76 + j) = false) →
    (∀ j, j < 8 → rangesHave s.undefMem (off + 96 + j) = false) →
    let bs := natLe 64 rec.toNat
    let sq := fieldAt bs 4 8
    let pa := off + 128 + 64 * (sq % memNat s.mem (off + 76) 4)
    recordCrcOk bs = true → memNat s.mem (off + 76) 4 ≠ 0 → inboundBad s peer off 128 = none →
    inboundBad s peer pa 64 = none → Completes (.journalRecordArrival peer off rec) s fun s' =>
      (∀ j, j < 64 → memRead s'.mem (pa + j) = rec.extractLsb' (8 * j) 8) ∧
      (seqAbove (BitVec.ofNat 64 sq) (BitVec.ofNat 64 (memNat s.mem (off + 96) 8)) = true → memNat s'.mem (off + 96) 8 = sq) ∧
      ∀ a, (a < pa ∨ pa + 64 ≤ a) → (a < off + 96 ∨ off + 104 ≤ a) → memRead s'.mem a = memRead s.mem a) ∧
  (∀ s q t, getStream s q = some t → t.st = .open_ → Completes (.partnerReportsLoss q) s fun s' =>
    SameBytes s s' ∧ getStream s' q = some { t with st := .reassigning }) ∧
  (∀ s q t no, getStream s q = some t → t.st = .reassigning →
    (∀ p, s.hub.standby.find? (fun p => reachable s p && p != t.peer && !no.contains p) = some p →
      Completes (.streamReassignment q no) s fun s' =>
        let t' : Stream := { t with st := .open_, peer := p, peerTseq := t.first - 1 }
        getStream s' q = some t' ∧ s'.mem = memWriteN s.mem (partnerPa t') (areaHeader t' q t.tseq) ∧
        ∀ u w e l sq g ad n, assocGet s.waves u = some w → w.entries.find? (·.seq == e.seq) = some e →
          assocGet e.lanes l = some (.inflight (.journal q sq g) ad) → portOf s (recordPa t' sq) = some n →
          ∃ w' e', assocGet s'.waves u = some w' ∧ w'.entries.find? (·.seq == e.seq) = some e' ∧
            assocGet e'.lanes l = some (.inflight (.journal q sq g) ad) ∧ (⟨l, n, s.cycle, 0, p, false⟩ : Ask) ∈ e'.asks) ∧
    (s.hub.standby.find? (fun p => reachable s p && p != t.peer && !no.contains p) = none →
      Completes (.streamReassignment q no) s fun s' => SameBytes s s' ∧ getStream s' q = some { t with st := .failed } ∧
        ∀ u w e l sq g ad, assocGet s.waves u = some w → w.entries.find? (·.seq == e.seq) = some e →
          assocGet e.lanes l = some (.inflight (.journal q sq g) ad) → ∃ w' e', assocGet s'.waves u = some w' ∧
            w'.entries.find? (·.seq == e.seq) = some e' ∧ assocGet e'.lanes l = some (.faulted .journalLost 0 0))) ∧
  ∀ s u seq l w e c q v o after ad t, findEntry s u seq = some (w, e, c) →
    assocGet e.lanes l = some (.inflight (.emit q v o after) ad) → laneStuck w seq l = false →
    (∀ y ∈ e.lanes, y.1 < l → y.2.flying = false) → getStream s q = some t → t.st = .open_ →
    coveredAny w e.quads seq LaneSt.flying = false →
    let recs (f : LaneSt → Prop) : Prop := ∃ d ∈ w.entries, after.contains d.seq = true ∧
      ∃ y ∈ d.lanes, journalsOn d q y.1 = true ∧ f y.2
    let lost := w.lostRecs.contains q = true ∨ recs fun y => y.stuck = true ∧ y.mends c = false
    let open_ := recs (fun y => y.mends c = true) ∨ coveredAny w e.quads seq LaneSt.stuck = true
    ¬recs (fun y => y.flying = true) →
    let ends (st : LaneSt) (s' : State) : Prop := s'.mem = s.mem ∧ ∃ w' e', assocGet s'.waves u = some w' ∧
      w'.entries.find? (·.seq == seq) = some e' ∧ assocGet e'.lanes l = some st
    (lost → Completes (.emitPublication u seq l) s (ends (.faulted .journalLost 0 0))) ∧
    (¬lost → open_ → Completes (.emitPublication u seq l) s (ends .held)) ∧
    ∀ s1, ¬lost → ¬open_ → publish s c q t v o = .ok (some s1) →
      Completes (.emitPublication u seq l) s fun s' => s'.mem = s1.mem ∧
        ∃ w', assocGet s'.waves u = some w' ∧ LaneDone w' seq l ∧ w'.regs = w.regs

/-! Grids, contexts and the events of the package (02, 04, 10, 11, 12). -/

/-- 06 R158; 11 R266 to R270: a queue reads the packet its read index names; a packet in sequence that passes the
checks is accepted, another stops the queue, and too many or a lap ahead overruns it; an accepted one starts once its
dependences are met, or stops with its dependence's queue: a grid begins on the named dies, and a wait packet
completes. A grid whose clusters, waves and threads are all gone completes its packet. A read or a write of the
control block that faults, faults the context. When STATE is 1 or 2, and that a stopped dependence stops the queue, is
assumption 33. -/
def Obligations.PacketsStartAndComplete : Prop :=
  ∀ s x q c k, assocGet s.ctxs x = some c → assocGet c.queues q = some k → s.hub.halted = false →
    let queue (t : State) (k' : Queue) : Prop := ∃ c', assocGet t.ctxs x = some c' ∧ assocGet c'.queues q = some k'
    let faults (i : Instr) (f : Cause) : Prop := Completes i s fun t => ContextFaulted t x f
    let wrote (i : Instr) (s0 : State) (fs : List (Nat × Nat × Nat)) (P : State → Prop) : Prop :=
      (∀ t, qcbSet s0 x k.qcb fs = .ok t → Completes i s fun s' => s'.mem = t.mem ∧ P s') ∧
      ∀ f, qcbSet s0 x k.qcb fs = .error f → faults i f
    let stops (i : Instr) (s0 : State) (st errc : Nat) (eseq : Word) : Prop :=
      (∀ o ∈ c.queues, ∀ p, o.2.run = some (p, none) → ∀ d ∈ p.deps, d.1 ≠ q) →
      (∀ t, qcbPut s0 x k.qcb [(11, 1, st), (12, 4, errc), (32, 4, eseq.toNat)] = (t, none) → Completes i s fun s' =>
        s'.mem = t.mem ∧ queue s' { k with state := st, run := none }) ∧
      ∀ t f, qcbPut s0 x k.qcb [(11, 1, st), (12, 4, errc), (32, 4, eseq.toNat)] = (t, some f) → faults i f
    let reads := Instr.packetRead x q
    (k.run = none → k.state ≤ 1 → k.widx ≠ k.ridx →
      (∀ f, devRead s x k.qcb.toNat 11 none = .error f → faults reads f) ∧
      ∀ s1 h, devRead s x k.qcb.toNat 11 none = .ok (s1, h) →
        let n := 2 ^ fieldAt h 10 1
        let slot := devRead s1 x ((fieldAt h 0 10 + 128 * (k.ridx.toNat % n)) % 2 ^ 80) 128 none
        (n < (k.widx - k.ridx).toNat → stops reads s1 4 1 k.rseq) ∧
        ((k.widx - k.ridx).toNat ≤ n → (∀ f, slot = .error f → faults reads f) ∧
        ∀ s2 bs, slot = .ok (s2, bs) →
          let p := parsePacket s.nextGrid bs
          let st := if p.deps = [] then 1 else 2
          (p.seq = k.rseq → packetErr s2 c bs p = none →
            wrote reads s2 [(28, 4, (k.ridx + 1).toNat), (16, 4, (k.rseq + 1).toNat), (11, 1, st)] fun t =>
              queue t { k with ridx := k.ridx + 1, rseq := k.rseq + 1, state := st, run := some (p, none) }) ∧
          (∀ e, p.seq = k.rseq → packetErr s2 c bs p = some e → stops reads s2 3 e k.rseq) ∧
          (p.seq ≠ k.rseq → p.seq = k.rseq + BitVec.ofNat 32 n → stops reads s2 4 1 k.rseq) ∧
          (p.seq ≠ k.rseq → p.seq ≠ k.rseq + BitVec.ofNat 32 n → stops reads s2 3 2 k.rseq))) ∧
    (∀ p, k.run = some (p, none) → k.state ≤ 2 →
      (∀ d o, d ∈ p.deps → depMet c d = false → assocGet c.queues d.1 = some o → 2 < o.state →
        stops (.packetStart x q) s 3 12 p.seq) ∧
      ((∀ d ∈ p.deps, depMet c d = true) →
        (p.kind = 2 → wrote (.packetStart x q) s [(20, 4, p.seq.toNat), (11, 1, 0)] fun t =>
          queue t { k with run := none, cseq := p.seq, state := 0 }) ∧
        (p.kind = 1 → wrote (.packetStart x q) s (if k.state = 1 then [] else [(11, 1, 1)]) fun t =>
          queue t { k with run := some (p, some p.num), state := 1 } ∧
          ∃ gr, assocGet t.grids p.num = some gr ∧ gr.pkt = p ∧ gr.ctx = x ∧ gr.det = p.det ∧
            (∀ d, d ∈ gr.dies ↔ d < 18 ∧ p.dmask.getLsbD d = true) ∧ gr.next.length = gr.dies.length))) ∧
    ∀ g gr p, assocGet s.grids g = some gr → gr.ctx = x → gr.q = q → gr.pkt = p → k.run = some (p, some g) →
      (∀ j, j < gr.dies.length → groupStart gr.clusters gr.dies.length (j + 1) ≤ gr.next.getD j 0) →
      (∀ e ∈ s.waves, e.2.grid ≠ g ∧ ∀ t ∈ e.2.threads, t.2.grid ≠ g) →
      (∀ e ∈ s.banks, (∀ n ∈ e.2.bins, ∀ t ∈ n.2.threads, t.grid ≠ g) ∧ ∀ d ∈ e.2.segs, ∀ t ∈ d.2, t.grid ≠ g) →
      wrote (.gridCompletion g) s ((20, 4, p.seq.toNat) :: if k.state ≤ 2 then [(11, 1, 0)] else []) fun t =>
        assocGet t.grids g = none ∧
        queue t { k with run := none, cseq := p.seq, state := if k.state ≤ 2 then 0 else k.state }

/-- 02 R50; 04 R97; 11 R271 to R274: the offered cluster takes the best pair of cores it fits: each of its waves
starts at the entry point with the argument block's address in v0 to v2, all lanes active; where none fits it waits on
the pair with the most free granules, and once it has waited 4096 cycles, longer than any other, its request is
guarded. Which requests go first is assumption 34. -/
def Obligations.ClustersAreAdmitted : Prop :=
  ∀ s g gr k, assocGet s.grids g = some gr →
    let dom := clusterDie gr k
    let cores (v : Nat × Nat) : List Nat := rankCores dom v.1 v.2 gr.pkt.s
    (gr.discarded = false → gr.nextOn dom = some k → (assocGet s.ctxs gr.ctx).any (launches s) = true →
      assocGet gr.waits k = none →
      (∀ h ∈ s.grids, gridBefore h (g, gr) = true → h.2.discarded = true ∨ (assocGet s.ctxs h.2.ctx).any (launches s) = false ∨
        h.2.nextOn dom = none) →
      let fits := (candPairs s gr dom).filter fun v => (takePair s g gr k v.1 v.2 none).isSome
      (∀ v, bestPair (freeSlots s) dom gr.pkt.s fits = some v → (cores v).any (candFits s) = false →
        earlierFits s g gr k (cores v) none = false → Completes (.clusterAdmission g k) s fun t =>
          (∃ gr', assocGet t.grids g = some gr' ∧ gr'.next = gr.next.set (gr.dies.idxOf dom) (k + 1)) ∧
          ∀ r i, r < gr.pkt.s → i < gr.pkt.n → ∃ u w f, assocGet t.waves u = some w ∧ w.ctx = gr.ctx ∧ w.grid = g ∧
            w.wg = k * gr.pkt.s + r ∧ w.widx = i ∧ w.core = rankCore dom v.1 v.2 r ∧ w.spawned = false ∧
            w.gran = gr.pkt.gran ∧ w.mask = -1 ∧ w.live = -1 ∧ w.frags = [f] ∧ f.quads = -1 ∧ f.header = true ∧
            f.pc = gr.pkt.entry &&& ~~~1 ∧ w.cc = ⟨0, 0, 0, 0⟩ ∧ w.clocks = List.replicate 16 0 ∧ w.fpstat = 0 ∧ w.fpmode = 0 ∧
            ∀ l, l < 64 → held w 0 l = gr.pkt.args.extractLsb' 0 32 ∧ held w 1 l = gr.pkt.args.extractLsb' 32 32 ∧
              held w 2 l = (gr.pkt.args.extractLsb' 64 16).zeroExtend 32 ∧ ∀ r, 3 ≤ r → held w r l = 0) ∧
      ∀ v, bestPair (freeSlots s) dom gr.pkt.s fits = none →
        bestPair (freeGrans s) dom gr.pkt.s (candPairs s gr dom) = some v →
        Completes (.clusterAdmission g k) s fun t => SameBytes s t ∧ t.waves = s.waves ∧
          assocGet t.grids g = some { gr with waits := assocSet gr.waits k ⟨v.1, v.2, s.cycle⟩ }) ∧
    ∀ v, assocGet gr.waits k = some v → v.since + 4096 ≤ s.cycle →
      (∀ h ∈ s.grids, ∀ u ∈ h.2.waits, v.since < u.2.since ∨ (h = (g, gr) ∧ u = (k, v))) →
      (∃ p ∈ cores (v.cq, v.c0), (g, k) ∉ (getCore s p).guards) →
      Completes (.requestGuard g k) s fun t => SameBytes s t ∧ t.waves = s.waves ∧
        ∀ p ∈ cores (v.cq, v.c0), (g, k) ∈ (getCore t p).guards

/-- 02 R43, R62; 03 R83; 10 R238, R241; 11 R277, R291; 17 R419, R420: what the events of a wave do: the watchdog and a
stalled turn trap, a starved fragment is promoted, a changed word, or a peer's answer (assumption 14), wakes its
waiter, a timeout tests once more and, where some word is unchanged, retires the `WAITW` and traps after it, and a
wave with nothing left ends, counting its threads and, the last of its workgroup, the workgroup. A thread's count at a
peer's word leaves in a request first and follows when that may be answered (12 R301); at a peer without ports it
fails as timed out (assumption 44). -/
def Obligations.WaveEventsHappen : Prop :=
  ∀ s u w, assocGet s.waves u = some w →
    (∀ f c, assocGet s.ctxs w.ctx = some c → issues s w.ctx = true → watchdogDue s w = true →
      firstFrag ((w.frags.filter (·.free s w)).map fun f => (u, w, f)) = some (u, w, f) →
      w.frag? (leadQuad f.quads) = some f → CanTrap s ⟨u, w, f, c⟩ → Completes (.watchdog u) s fun t =>
        Trapped s t ⟨u, w, f, c⟩ .watchdog false ((Issue.mk u w f c).act s) 0) ∧
    (∀ f q, w.frag? q = some f → 256 ≤ f.waited → f.promoted = none → Completes (.fragmentPromotion u q) s fun t =>
      SameBytes s t ∧ OnlyWave s t u ∧ ∃ w', assocGet t.waves u = some w' ∧
        w'.frag? q = some { f with promoted := some s.cycle }) ∧
    (∀ f q i ws n left, w.frag? q = some f → f.park = .waitw i ws n left false → turnWave w = false →
      let wakes (t : State) (now : List WaitWord) : Prop := SameBytes s t ∧ (∀ v, v ≠ u → assocGet t.waves v = assocGet s.waves v) ∧
        ∃ w', assocGet t.waves u = some w' ∧ w'.regs = w.regs ∧
          w'.frag? q = some { f with park := .waitw i now n left (now.all fun x => x.m != x.vb), stall := 0 }
      ((∀ y ∈ ws, paRegion y.pa ≠ 2) → ws.map (WaitWord.now s n) ≠ ws → Completes (.waitwRetest u q) s fun t =>
        wakes t (ws.map (WaitWord.now s n))) ∧
      ∀ y, ws = [y] → paRegion y.pa = 2 → y.sent ≠ 0 → portAnswers s y.port (y.sent - 1) = true →
        let m : Dword := BitVec.ofNat 64 (leNat (physGet s y.pa n))
        y.m ≠ m → Completes (.waitwRetest u q) s fun t => ∃ y', y' = { y with m := m, port := y'.port, sent := y'.sent } ∧
          wakes t [y']) ∧
    (∀ f q ty x ws c, w.frag? q = some f → f.park = .waitw (.waitw ty x) ws (wBytes ty) (some 0) false →
      assocGet s.ctxs w.ctx = some c → issues s w.ctx = true → (∀ g ∈ w.frags, g.trap = none) → CanTrap s ⟨u, w, f, c⟩ →
      q = leadQuad f.quads → (ws.map (·.lane)).Nodup → (∀ y ∈ ws, y.lane < 64) →
      let now (y : WaitWord) : WaitWord := if turnWave w then y else WaitWord.now s (wBytes ty) y
      ((∀ y ∈ ws, (now y).m ≠ y.vb) → Completes (.waitTimeout u q) s fun t => SameBytes s t ∧
        ∃ w', assocGet t.waves u = some w' ∧ w'.regs = w.regs ∧ w'.window = none ∧
          w'.frag? q = some { f with park := .waitw (.waitw ty x) (ws.map now) (wBytes ty) (some 0) true, stall := 0 }) ∧
      ((∃ y ∈ ws, (now y).m = y.vb) → Completes (.waitTimeout u q) s fun t =>
        ∃ w' f' v, assocGet t.waves u = some w' ∧ w'.frag? q = some f' ∧ w'.window = some v ∧ f'.pc = c.trapbase ∧
          w'.tcause = BitVec.ofNat 32 Cause.waitTimeout.code ∧ w'.tlm = (Issue.mk u w f c).act s ∧
          w'.tpc = f.pc + BitVec.ofNat 80 (2 * (Instr.waitw ty x).parcels) ∧
          ∀ y ∈ ws, ∀ j v, (valWords ty.regs (now y).m)[j]? = some v → held w' (x.d.toNat + j) y.lane = v)) ∧
    (∀ seq l e ty x pa leaf b c ad, Performable s u seq l w e (.atom (.phys pa leaf) b c) ad → e.instr = .atom ty x →
      w.det = true → w.spawned = false → paRegion pa ≠ 2 → atomBlocked s u w e (.phys pa leaf) = false →
      Completes (.deterministicTurn u seq l) s fun t => exec (.memoryAccessComplete u seq l 0) s = .next t ∧
        ∃ w', assocGet t.waves u = some w' ∧ (LaneDone w' seq l ∨ ∀ e' ∈ w'.entries, e'.seq = seq →
          ∃ old, assocGet e'.lanes l = some (.inflight (.atomWrite (.phys pa leaf) old b c) ad))) ∧
    (∀ seq l e op ad lim, w.entries.find? (·.seq == seq) = some e → assocGet e.lanes l = some (.inflight op ad) →
      (assocGet s.ctxs w.ctx).isSome = true → limitOf s w = some lim → turnWave w = true → isTurnInstr e.instr = true →
      turnStalled s u w (e.key w l) e.quads = true → lim ≤ (assocGet e.stalls l).getD 0 → Completes (.deterministicStall u seq l) s fun t =>
        SameBytes s t ∧ ∃ w' e', assocGet t.waves u = some w' ∧ w'.entries.find? (·.seq == seq) = some e' ∧
          assocGet e'.lanes l = some (.faulted .deterministicStall ad ad) ∧ e'.stalls = e.stalls) ∧
    (w.live = 0 → w.entries = [] → w.leaving = [] → Completes (.waveRetirement u) s fun t => assocGet t.waves u = none ∧
      SameBytes s t ∧ ((∀ e ∈ s.waves, e.1 ≠ u → e.2.spawned = true ∨ e.2.grid ≠ w.grid ∨ e.2.wg ≠ w.wg) → w.spawned = false →
        ∀ x, wgOf s w.grid w.wg = some x → ∃ x', wgOf t w.grid w.wg = some x' ∧ x'.retired = true)) ∧
    ∀ l seq th va c ask, w.live = 0 → w.entries = [] → w.leaving = [(l, seq, true, ask)] → assocGet w.threads l = some th →
      th.join = some va → th.query = none → assocGet s.ctxs w.ctx = some c →
      (∀ pa, ask = none → joinPeer s c va = some pa →
        (portOf s pa = none → Completes (.waveRetirement u) s fun t => assocGet t.waves u = none ∧
          ContextFaulted t w.ctx .remoteTimeout) ∧
        ∀ p, portOf s pa = some p → portSends s p = true → Completes (.waveRetirement u) s fun t => SameBytes s t ∧
          ∃ w', assocGet t.waves u = some w' ∧
            w'.leaving = [(l, seq, true, some ⟨l, p, s.cycle, nextAsk s, paPeer pa, true⟩)]) ∧
      (∀ x, ask = some x → x.answers s = false → exec (.waveRetirement u) s = .next s) ∧
      ((ask = none ∧ joinPeer s c va = none) ∨ (∃ x, ask = some x ∧ x.answers s = true) →
      (∀ s1 pa, xlateService s w.ctx va.toNat .write (some (coreDom w.core)) = .ok (s1, pa) → Memory.wf s.mem = true →
        (∀ j, j < 4 → rangesHave s1.undefMem (pa + j) = false) → memNat s1.mem pa 4 % 2 ^ 24 ≠ 0 →
        Completes (.waveRetirement u) s fun t =>
          assocGet t.waves u = none ∧ memNat t.mem pa 4 = memNat s1.mem pa 4 - 1) ∧
      ∀ f, xlateService s w.ctx va.toNat .write (some (coreDom w.core)) = .error f →
        Completes (.waveRetirement u) s fun t => assocGet t.waves u = none ∧ ContextFaulted t w.ctx f)

/-- 06 R158; 11 R281 to R283: a save begins at the deadline, or once every fragment of the context is parked
(assumption 36); it ends, its blocks written, when nothing of the context is in flight; a restore takes the cores back
when all that the context held is free there (assumption 37), and the command that asked for it ends. A block that
cannot be written or read faults the context. -/
def Obligations.ContextsSaveAndRestore : Prop :=
  ∀ s x c, assocGet s.ctxs x = some c →
    let ctx (t : State) (P : Context → Prop) : Prop := ∃ c', assocGet t.ctxs x = some c' ∧ P c'
    (s.hub.halted = false → c.preq = true → c.resident = true → c.saving = false → c.cstate = 0 →
      (c.pdl.toNat * 64 ≤ c.reqAge → Completes (.preemptionDeadline x) s fun t => t.waves = s.waves ∧
        ctx t fun c' => c'.saving = true ∧ c'.forced = true ∧ c'.cstate = 1) ∧
      ((∀ e ∈ s.waves, e.2.ctx = x → ∀ f ∈ e.2.frags, f.stopped e.2 = true) → Completes (.contextSave x) s fun t =>
        t.waves = s.waves ∧ ctx t fun c' => c'.saving = true ∧ c'.forced = false ∧ c'.cstate = 1)) ∧
    (c.saving = true → c.resident = true → drained s x = true → s.hub.halted = false →
      (∀ s1, c.cstate = 1 → writeBlocks s x c = .ok s1 → Completes (.contextSave x) s fun t => t.waves = s.waves ∧
        (∀ e, assocGet t.banks e = assocGet s.banks e) ∧
        ctx t fun c' => c'.resident = false ∧ c'.saving = false ∧ c'.cstate = 2) ∧
      ∀ f, writeBlocks s x c = .error f → Completes (.contextSave x) s fun t => ContextFaulted t x f ∧
        ctx t fun c' => c'.resident = false ∧ c'.saving = false) ∧
    ∀ fn pa b, c.restoring = some fn → c.resident = false → c.cstate = 2 → s.hub.halted = false →
      cmdHead s fn = some (pa, b) → (∀ e ∈ s.banks, e.1 % 16 = x → coreFits s x (e.1 / 16) c e.2 = true) →
      (∀ s1, readBlocks s x c = .ok s1 → Memory.wf s.mem = true → Completes (.contextRestoreClaim x) s fun t =>
        RomEnds fn pa 0 0 s t ∧ ctx t fun c' => c'.resident = true ∧ c'.restoring = none ∧ c'.cstate = 0) ∧
      ∀ f, readBlocks s x c = .error f → Memory.wf s.mem = true → Completes (.contextRestoreClaim x) s fun t =>
        RomEnds fn pa 3 8 s t ∧ ContextFaulted t x f ∧ ctx t fun c' => c'.resident = false ∧ c'.restoring = none

/-- 01 R13, R26 to R28; 12 R307 to R309, R312: the clock follows the power limit by 100 MHz a window; a hot die or a
lost one halts the package and every context's status says so; a failed ring bridge is bypassed; power removed leaves
only memory outside the package, whose own memory then reads zero (assumptions 5, 42), and the bring-up ends with the
dies and ports that trained, a bridge of two dies without a common revision down, and a die without its hub bridge
offline. -/
def Obligations.PowerAndBringUp : Prop :=
  ∀ s,
    let halts (e : Nat) (t : State) : Prop := t.hub.halted = true ∧ ∀ x c, assocGet s.ctxs x = some c →
      ∃ c', assocGet t.ctxs x = some c' ∧ c'.cstate = 4 ∧ c'.cerr = e
    (∀ w, Completes (.powerWindow w) s fun t => t = { s with hub := t.hub, free := t.free } ∧
      t.hub = { s.hub with clockMHz := if s.hub.powerLimit < w then max 1000 (s.hub.clockMHz - 100)
        else if w * 100 < s.hub.powerLimit * 95 then min 2100 (s.hub.clockMHz + 100) else s.hub.clockMHz }) ∧
    (∀ d, dieOnline s.hub d = true → s.hub.halted = false → Completes (.thermalHalt d) s (halts 4)) ∧
    (∀ d, d < 18 → dieOnline s.hub d = true → Completes (.dieLost d) s fun t => halts 5 t ∧ dieOnline t.hub d = false ∧
      ∀ e, e ≠ d → dieOnline t.hub e = dieOnline s.hub e) ∧
    (∀ d, d < 18 → dieOnline s.hub d = true → Completes (.bridgeFailureAtRunTime d 18) s fun t =>
      halts 5 t ∧ dieOnline t.hub d = false) ∧
    (∀ a b, a < 18 → b < 18 → ringDist a b = 1 → s.hub.bridgesDown = [] → Completes (.bridgeFailureAtRunTime a b) s fun t =>
      ∃ r, t.hub = { s.hub with bridgesDown := [r] } ∧ (r = ringPos a ∨ r = ringPos b)) ∧
    (Memory.wf s.mem = true → Completes .powerRemoved s fun t => t.waves = [] ∧ t.ctxs = [] ∧ t.grids = [] ∧ t.banks = [] ∧
      t.hub.online = 0 ∧ t.hub.endpointUp = false ∧
      ∀ a, memRead t.mem a = if paRegion a = 0 then 0 else memRead s.mem a) ∧
    (∀ dies ports (revs : List (Nat × Nat)), s.hub.endpointUp = false → Memory.wf s.mem = true →
      let lo (a b : Nat) : Nat := max ((revs.getD a (0, 0)).1 % 256) ((revs.getD b (0, 0)).1 % 256)
      let hi (a b : Nat) : Nat := min ((revs.getD a (0, 0)).2 % 256) ((revs.getD b (0, 0)).2 % 256)
      Completes (.powerOn dies ports revs) s fun t => t.hub.endpointUp = true ∧ dieOnline t.hub 18 = true ∧
        (∀ d, d < 18 → (dieOnline t.hub d = true ↔ dies.getLsbD d = true ∧ lo d 18 ≤ hi d 18) ∧
          (dieOnline t.hub d = true → t.hub.revs[d]? = some (hi d 18))) ∧
        (∀ a b, a < 18 → b < 18 → ringPos b = (ringPos a + 1) % 18 → (ringPos a ∈ t.hub.bridgesDown ↔
          ¬(dies.getLsbD a = true ∧ dies.getLsbD b = true ∧ lo a b ≤ hi a b))) ∧
        (∀ p r, assocGet s.hub.ports p = some r → (assocGet t.hub.ports p).map (·.up) = some (ports.getLsbD p)) ∧
        ∀ pa, s.hub.bootCmd = some pa → memNat t.mem (pa + 4) 4 = 0 ∧ t.hub.irqs.head? = some (16, 0)) ∧
    Completes .configurationRequest s fun t => t = { s with hub := t.hub, free := t.free } ∧
      t.hub = if s.hub.endpointUp then { s.hub with configs := s.hub.configs + 1 } else { s.hub with crs := s.hub.crs + 1 }

/-- 06 R167 to R169: a cold page of 64 KiB goes into the zone with its bytes, its entry absent and its frame free. A
buffer's migration first holds new transfers; once none that names it is left, its entries are marked; once no access
is left in its frames, its pages are moved: the bytes are in the new frame, the entry names it, the old frame is free
and transfers go on (assumptions 40, 41). -/
def Obligations.PagesCompressAndMigrate : Prop :=
  ∀ s x c (va : VA), assocGet s.ctxs x = some c → Memory.wf s.mem = true →
    (∀ p pa, placedPage s c va.toNat = some (p, pa) →
      let page := p.one va.toNat
      let kept : Pages := { page with placed := false, stored := some (pa / 2 ^ 36, rangeBytes s.mem pa (2 ^ 16)) }
      ∀ s2, p.psz = 0 → s.hub.zoneDrop = false → rangeIdle s pa (2 ^ 16) = true → rangeNamed s pa (2 ^ 16) = false →
        (inBuffer c va.toNat = true → buffersIdle s x = true) →
        (s.hub.zonePages + 1) * 2 ^ 16 ≤ (List.range 18).foldl (fun n d => n + zoneBytes s.hub d) 0 →
        putEntry (setCtx s x (pageReplace c va.toNat [kept])) x c.ptb page.va 0 (2 * (Config.freeWord s.free 160000).toNat) 4 =
          some s2 →
        Completes (.pageCompression x va) s fun t => t.mem = s2.mem ∧ t.hub.zonePages = s2.hub.zonePages + 1 ∧
          assocGet t.hub.frames pa = none ∧ ∃ c', assocGet t.ctxs x = some c' ∧ pageAt c' va.toNat = some kept) ∧
    ∀ b, c.bufs.find? (·.covers va.toNat) = some b →
      let pages := bufPages s x c b
      let bufs (t : State) (f : Buffer → Buffer) : Prop := ∃ c', assocGet t.ctxs x = some c' ∧
        c'.bufs = c.bufs.map fun d => if d.va = b.va then f d else d
      (b.hold = none → Completes (.migration x va) s fun t => SameBytes s t ∧ bufs t fun d => { d with hold := some s.cycle }) ∧
      ∀ h, b.hold = some h →
        (b.moving = false → busyCount s x c b h ≠ 0 → exec (.migration x va) s = .next s) ∧
        (b.moving = false → busyCount s x c b h = 0 → Completes (.migration x va) s fun t =>
          t.mem = (pages.foldl (fun t a => setValid t c a.1 false) s).mem ∧ (bufs t fun d => { d with moving := true }) ∧
          ∀ a, pages = [a] → ∀ e, entryAt s.mem c.ptb a.1 a.2.1.psz 4 = some e → memNat t.mem e 1 % 2 = 0) ∧
        (b.moving = true → ¬(∀ a ∈ pages, rangeIdle s a.2.2 a.2.1.size = true) → exec (.migration x va) s = .next s) ∧
        ∀ p pa f e, b.moving = true → pages = [(va.toNat, p, pa)] → rangeIdle s pa p.size = true →
          let s0 := setValid s c va.toNat true
          frameOn s0.hub (freeOrder s0.hub) p.size = some f → entryAt s0.mem c.ptb va.toNat p.psz 4 = some e →
          (e + 8 ≤ f ∨ f + p.size ≤ e) → (e + 8 ≤ pa ∨ pa + p.size ≤ e) → Completes (.migration x va) s fun t =>
            (∀ j, j < p.size → memRead t.mem (f + j) = memRead s.mem (pa + j)) ∧
            memNat t.mem e 8 = f + leafBits p + memNat s.mem e 8 / 64 % 4 * 64 ∧ assocGet t.hub.frames pa = none ∧
            ∃ c', assocGet t.ctxs x = some c' ∧ c'.bufs = c.bufs.map fun d =>
              if d.va = b.va then { d with hold := none, moving := false } else d

/-- 07 R189, R191; 12 R293, R295, R298, R302: what the host writes and reads: HBM, MBSTAT, pending commands up to
sixteen a function, MBOVF cleared by writing 1, and doorbells; and a peer's request inside its windows is performed
and answered, another logged and refused. The addresses at which the host reads the BARs, and the ranges of HBM that
it reaches, are assumption 47; the list of what it has read is assumption 48. -/
def Obligations.HostAndPeersReachThePackage : Prop :=
  ∀ s, Memory.wf s.mem = true →
    let gives (t : State) (pa n : Nat) : Prop := ∃ bs, t.hub.answers = bs :: s.hub.answers ∧ bs.length = n ∧
      ∀ j, j < n → rangesHave s.undefMem (pa + j) = false → bs[j]? = some (memRead s.mem (pa + j))
    let writes (t : State) (pa : Nat) (data : List Byte) : Prop := (∀ j v, data[j]? = some v → memRead t.mem (pa + j) = v) ∧
      (∀ j, j < data.length → rangesHave t.undefMem (pa + j) = false) ∧
      ∀ a, (a < pa ∨ pa + data.length ≤ a) → memRead t.mem a = memRead s.mem a
    (∀ pa data, s.hub.endpointUp = true → hbmRange s pa data.length = true → Completes (.hostInboundWrite pa data) s fun t =>
      t = { s with mem := t.mem, undefMem := t.undefMem, past := t.past, free := t.free } ∧ writes t pa data) ∧
    (∀ pa n, s.hub.endpointUp = true → hbmRange s pa n = true → Completes (.hostInboundRead pa n) s fun t => SameBytes s t ∧
      gives t pa n) ∧
    (∀ fn, s.hub.endpointUp = true → fn ≤ 16 → Completes (.hostInboundRead (2 ^ 52 + fn * 2 ^ 16 + 8) 8) s fun t => SameBytes s t ∧
      ∃ bs, t.hub.answers = bs :: s.hub.answers ∧ leNat bs =
        (((assocGet s.hub.cmds fn).getD []).length + if fn ∈ s.hub.mbovf then 256 else 0) % 2 ^ 64) ∧
    (∀ p pa wr n data, inboundBad s p pa (if wr then data.length else n) = none →
      Completes (.peerInboundRequest p pa wr n data) s fun t =>
        (if wr then writes t pa data else SameBytes s t ∧ gives t pa n) ∧
        t.hub.sent.head? = some (p % 256, 6, if wr then data.length else n)) ∧
    (∀ p pa wr n data e, inboundBad s p pa (if wr then data.length else n) = some e →
      Completes (.peerInboundRequest p pa wr n data) s fun t => SameBytes s t ∧
        t.hub.faults = s.hub.faults ++ [(p, e, pa)] ∧ t.hub.sent.head? = some (p % 256, 3, pa)) ∧
    (∀ i fn a, s.hub.endpointUp = true → fn ≤ 16 → (i = .cmddb fn a ∨ i = .registerWrite fn 0 a) →
      let l := (assocGet s.hub.cmds fn).getD []
      (l.length < 16 → Completes i s fun t => SameBytes s t ∧ assocGet t.hub.cmds fn = some (l ++ [a]) ∧
        t.hub.mbovf = s.hub.mbovf) ∧
      (16 ≤ l.length → Completes i s fun t => SameBytes s t ∧ t.hub.cmds = s.hub.cmds ∧ fn ∈ t.hub.mbovf)) ∧
    (∀ i fn w, w.getLsbD 8 = true → (i = .mbovfClear fn w ∨ (s.hub.endpointUp = true ∧ fn ≤ 16 ∧ i = .registerWrite fn 8 w)) →
      Completes i s fun t => SameBytes s t ∧ fn ∉ t.hub.mbovf ∧ ∀ g, g ≠ fn → (g ∈ t.hub.mbovf ↔ g ∈ s.hub.mbovf)) ∧
    ∀ i x q c k v, assocGet s.ctxs x = some c → assocGet c.queues q = some k →
      (i = .queueDoorbell x q v ∨ (s.hub.endpointUp = true ∧ x < 16 ∧ q < 8 ∧ i = .registerWrite x (0x1000 + 8 * q) (v.zeroExtend 64))) →
      Completes i s fun t => SameBytes s t ∧ ∃ c', assocGet t.ctxs x = some c' ∧
        assocGet c'.queues q = some { k with widx := v } ∧ c' = { c with queues := c'.queues }

/-- 12 R299 to R306: a port's flits and credits: a payload flit in sequence is kept and one that fails its CRC is
counted and skipped; unacknowledged flits are sent again after 2048 cycles; a total returns its credits; an audit
repairs the counts. A port silent for T cycles goes down and leaves its peers; loss of signal trains it again, and no
flit is accepted meanwhile (assumptions 43, 44). A lane's request on a port ends in error when the peer refuses it
within T cycles, or when T cycles have passed. -/
def Obligations.LinkPortsMove : Prop :=
  ∀ s p r, assocGet s.hub.ports p = some r →
    let port (i : Instr) (P : Port → Prop) : Prop := Completes i s fun t => SameBytes s t ∧ t.waves = s.waves ∧
      ∃ r', assocGet t.hub.ports p = some r' ∧ P r'
    (r.up = true → r.training = false →
      (∀ flit : BitVec 1024,
        let bs := natLe 128 flit.toNat
        ((crc32c (bs.take 124)).toNat ≠ fieldAt bs 124 4 → port (.flitReceive p flit) fun r' =>
          r' = { r with crcFails := r.crcFails + 1, skipping := true }) ∧
        ((crc32c (bs.take 124)).toNat = fieldAt bs 124 4 → fieldAt bs 0 2 = 2 ^ 12 + r.fseqIn.toNat →
          port (.flitReceive p flit) fun r' => r'.fseqIn = r.fseqIn + 1 ∧ r'.skipping = false ∧ r'.idleRx = 0 ∧
            r'.rx = r.rx ++ [(fieldAt bs 2 1 % 4, flit.extractLsb' 64 928)])) ∧
      (2048 ≤ r.idleAck → r.sent ≠ [] → port (.flitResend p) fun r' =>
        r' = { r with resent := r.resent + r.sent.length, idleAck := 0 }) ∧
      (∀ v tot, v < 4 → v < r.vcs.length → (r.vc v).wait = 0 →
        port (.creditFlit p v tot) fun r' => (∀ x, x ≠ v → r'.vc x = r.vc x) ∧
          r'.vc v = { r.vc v with rseen := tot, avail := (r.vc v).avail + (tot - (r.vc v).rseen) }) ∧
      (4096 ≤ r.payload → port (.auditSend p) fun r' => r'.payload = r.payload - 4096 ∧ r'.fseqOut = r.fseqOut + 1 ∧
        ∀ v, v < r.vcs.length → (r'.vc v).avail = 256 - ((r.vc v).stot - (r.vc v).rseen)) ∧
      ∀ v tot, v < 4 → v < r.vcs.length →
        let d : BitVec 16 := tot - (r.vc v).rtot
        ((r.vc v).occ = d → port (.auditFlit p v tot) fun r' => r' = r) ∧
        ((r.vc v).occ < d → port (.auditFlit p v tot) fun r' => r'.mismatches = r.mismatches + 1 ∧
          (r'.vc v).rtot = (r.vc v).rtot + (d - (r.vc v).occ)) ∧
        (d < (r.vc v).occ → port (.auditFlit p v tot) fun r' => r'.mismatches = r.mismatches + 1 ∧
          (r'.vc v).withhold = ((r.vc v).occ - d).toNat)) ∧
    (r.up = true → 2 ^ r.logT ≤ r.idleRx → Completes (.portDown p) s fun t =>
      (∃ r', assocGet t.hub.ports p = some r' ∧ r'.up = false) ∧
      ∀ n q, assocGet s.hub.peers n = some q → ∃ q', assocGet t.hub.peers n = some q' ∧ q'.ports = q.ports.filter (· ≠ p)) ∧
    (r.training = false → port (.lossOfSignal p) fun r' => r' = { r with training := true }) ∧
    (r.training = true → port (.portRetrainingComplete p) fun r' =>
      r' = { r with training := false, up := true, idleRx := if r.up then r.idleRx else 0 }) ∧
    ∀ u seq l w e op ad n c, AccessPending s u seq l w e (.sent p c n op) ad → (∀ q x b, op ≠ .truncate q x b) →
      let faulted (ca : Cause) (t : State) : Prop := ∃ w' e', assocGet t.waves u = some w' ∧
        w'.entries.find? (·.seq == seq) = some e' ∧ assocGet e'.lanes l = some (.faulted ca ad ad) ∧ w'.regs = w.regs
      (portAnswers s p c = true → Completes (.peerNack u seq l) s fun t => SameBytes s t ∧ faulted .remoteFault t) ∧
      (portAnswers s p c = false → exec (.peerNack u seq l) s = .next s) ∧
      (c + 2 ^ r.logT ≤ s.cycle → Completes (.portTimerExpiry u seq l) s fun t =>
        faulted .remoteTimeout t ∧ (assocGet t.hub.ports p).map (·.timeouts) = some (r.timeouts + 1))

/-! ROM commands (12). -/

/-- 12 R295 to R297: firmware refuses an opcode the table lacks with status 1, a command its function may not issue,
or that a halted package does not execute, with 2, and one that names no context, or has a reserved byte that is not
zero, with 3 and the offset of the first field at fault (assumption 39). 11 R283: a restore of a context that is
running, faulted or halted ends with 3 and changes nothing of it, also in a halted package (assumption 54). -/
def Obligations.RomCommandsAreChecked : Prop :=
  ∀ s fn pa b op, op ∈ romCodes → cmdHead s fn = some (pa, b) → s.hub.endpointUp = true → Memory.wf s.mem = true →
    let i := romEvent op fn
    let named (P : Context → Prop) : Prop := ∃ c, assocGet s.ctxs (fieldAt b 8 1) = some c ∧ P c
    let denied : Prop := (s.hub.halted = true ∧ op ∉ haltCodes ∧ ¬(op = 0x13 ∧ named fun c => c.cstate = 4)) ∨
      (fn < 16 ∧ (op ∈ pfCodes ∨ (op ∈ ctxCodes ∧ fieldAt b 8 1 ≠ fn)))
    (fieldAt b 0 2 ∉ romCodes → Completes i s (RomEnds fn pa 1 0 s)) ∧
    (fieldAt b 0 2 ∈ romCodes → fieldAt b 0 2 ≠ op → exec i s = .next s) ∧
    (fieldAt b 0 2 = op → denied → Completes i s (RomEnds fn pa 2 0 s)) ∧
    (fieldAt b 0 2 = op → ¬denied → op ∈ ctxCodes → assocGet s.ctxs (fieldAt b 8 1) = none →
      Completes i s (RomEnds fn pa 3 8 s)) ∧
    (fieldAt b 0 2 = op → ¬denied → ∀ j, (j, true) ∈ romSpare op b →
      Completes i s fun t => ∃ off, off ≤ j ∧ RomEnds fn pa 3 off s t) ∧
    (fieldAt b 0 2 = op → ¬denied → op = 0x13 → (∀ v ∈ romSpare op b, v.2 = false) →
      named (fun c => c.cstate ≠ 1 ∧ c.cstate ≠ 2 ∧ c.restoring = none) →
      Completes i s fun t => RomEnds fn pa 3 8 s t ∧ t.ctxs = s.ctxs)

/-- 11 R264, R266, R267, R278, R283, R289; 12 R297, R298: what the commands on contexts, queues, pages and buffers do,
once their fields are sound. A queue control block that cannot be written faults its context. -/
def Obligations.RomContextCommands : Prop :=
  ∀ s fn pa b,
    let x := fieldAt b 8 1
    let q := fieldAt b 9 1
    let ends (i : Instr) (P : State → Prop) : Prop := Completes i s fun t => RomEnds fn pa 0 0 s t ∧ P t
    let ctx (t : State) (P : Context → Prop) : Prop := ∃ c', assocGet t.ctxs x = some c' ∧ P c'
    let wrote (s0 : State) (qcb : VA) (i : Instr) (fs : List (Nat × Nat × Nat)) (k' : Queue) : Prop :=
      (∀ t, qcbSet s0 x qcb fs = .ok t → ends i fun t => ctx t fun c' => assocGet c'.queues q = some k') ∧
      ∀ f, qcbSet s0 x qcb fs = .error f → ends i fun t => ContextFaulted t x f
    (RomAccepts 0x10 fn s pa b (descFields b s) → ends (.ctxCreate fn) fun t =>
      ∃ ts, assocGet t.ctxs (fieldAt (sliceBytes b 8 128) 9 1) = some (newContext (sliceBytes b 8 128) ts)) ∧
    (RomAccepts 0x11 fn s pa b [] → ctxWaves s x = [] → ends (.ctxDestroy fn) fun t => assocGet t.ctxs x = none ∧
      ∀ n st, getStream t n = some st → st.ctx ≠ x) ∧
    (RomAccepts 0x12 fn s pa b [(9, decide (1 < q))] → ends (.ctxPreempt fn) fun t => ctx t fun c' => c'.preq = (q == 1)) ∧
    (RomAccepts 0x13 fn s pa b [] → ∀ c, assocGet s.ctxs x = some c → c.cstate = 2 → c.restoring = none →
      Completes (.ctxRestore fn) s fun t => t.hub = s.hub ∧ SameBytes s t ∧
        assocGet t.ctxs x = some { c with restoring := some fn }) ∧
    (RomAccepts 0x14 fn s pa b [] → ends (.ctxKill fn) fun t => ∀ u w, assocGet t.waves u = some w → w.ctx = x →
      w.killed = true ∧ (w.entries.any Entry.flying = false → w.live = 0)) ∧
    (RomAccepts 0x18 fn s pa b [(9, decide (7 < q) || (ctxQueue b s).isSome), (16, fieldAt b 16 10 % 64 != 0)] →
      ∀ s1 h, devRead s x (vaAt b 16).toNat 28 none = .ok (s1, h) → fieldAt h 0 10 % 128 = 0 → 4 ≤ fieldAt h 10 1 →
      fieldAt h 10 1 ≤ 16 → fieldAt h 24 4 = 0 →
      let seq : Word := BitVec.ofNat 32 (fieldAt b 26 4)
      wrote s1 (vaAt b 16) (.queueCreate fn)
        [(28, 4, 0), (16, 4, seq.toNat), (20, 4, (seq - 1).toNat), (12, 4, 0), (32, 4, 0), (11, 1, 0)]
        ⟨vaAt b 16, 0, 0, 0, seq, seq - 1, none⟩) ∧
    (∀ k, ctxQueue b s = some k → k.state ≠ 1 → k.state ≠ 2 →
      (RomAccepts 0x19 fn s pa b [] →
        let r : Word := BitVec.ofNat 32 (fieldAt b 12 4)
        let n : Word := BitVec.ofNat 32 (fieldAt b 16 4)
        wrote s k.qcb (.queueReset fn) [(28, 4, r.toNat), (16, 4, n.toNat), (12, 4, 0), (32, 4, 0), (11, 1, 0)]
          { k with ridx := r, rseq := n, state := 0 }) ∧
      (RomAccepts 0x1A fn s pa b [] → ends (.queueDestroy fn) fun t => ctx t fun c' => assocGet c'.queues q = none)) ∧
    (RomAccepts 0x20 fn s pa b (mapFields b s) → ∀ c t', assocGet s.ctxs x = some c → c.pages.any (mapRecord b).meets = false →
      mapAll s x c (mapRecord b) (fieldAt b 30 8) = some t' → ends (.map fn) fun t => ctx t fun c' =>
        c'.pages = mapRecord b :: c.pages) ∧
    (∀ c, assocGet s.ctxs x = some c → spanMapped b c = true →
      (RomAccepts 0x21 fn s pa b (spanFields b) → ends (.unmap fn) fun t => ctx t fun c' => ∀ a ∈ spanPages b,
        pageAt c' a = none) ∧
      (RomAccepts 0x22 fn s pa b ((9, decide (16 ≤ q)) :: spanFields b) → ends (.protect fn) fun t => ctx t fun c' =>
        ∀ a ∈ spanPages b, ∃ p, pageAt c' a = some p ∧ p.w = bitOf q 0 ∧ p.x = bitOf q 1 ∧ p.u = bitOf q 2 ∧
          p.pin = bitOf q 3)) ∧
    ∀ c, assocGet s.ctxs x = some c →
      (RomAccepts 0x23 fn s pa b [(9, decide (1 < q)), (12, fieldAt b 12 10 % 2 ^ 16 != 0 ||
          (q == 1 && !((assocGet s.ctxs x).any fun c => c.bufs.any (·.va == fieldAt b 12 10)))),
          (22, fieldAt b 22 8 % 2 ^ 16 != 0)] → (q = 1 → ∀ d ∈ c.bufs, d.va = fieldAt b 12 10 → d.hold = none) →
        ends (.bufRegister fn) fun t => ctx t fun c' =>
        c'.bufs = if q = 1 then c.bufs.filter (·.va != fieldAt b 12 10) else ⟨fieldAt b 12 10, fieldAt b 22 8, none, false⟩ :: c.bufs)

/-- 01 R26; 06 R167; 10 R249, R254, R258, R260; 12 R297, R298, R300, R301, R310: what the commands on the package do,
once their fields are sound. How the zone fits is assumption 40, that memory reads zero after PKG_RESET 5 and 42, and
the signature of a report is an opaque constant (assumption 2). -/
def Obligations.RomPackageCommands : Prop :=
  ∀ s fn pa b,
    let x := fieldAt b 8 1
    let q := fieldAt b 9 2
    let ends (i : Instr) (P : State → Prop) : Prop := Completes i s fun t => RomEnds fn pa 0 0 s t ∧ P t
    let buffer (off hole : Nat) (bs : List Byte) (t : State) : Prop := ∀ j v, bs[j]? = some v →
      let a := hostPa (fieldAt b off 8) + j
      (a < pa + 4 ∨ pa + 8 ≤ a) → (a < pa + 20 ∨ pa + 20 + hole ≤ a) → memRead t.mem a = v
    (RomAccepts 0x01 fn s pa b [(8, hostBad (fieldAt b 8 8) || fieldAt b 8 8 % 64 != 0)] →
      (identity s.hub).length ≤ fieldAt b 16 4 → ends (.identify fn) fun t => buffer 8 4 (identity s.hub) t ∧
        memNat t.mem (pa + 20) 4 = (identity s.hub).length) ∧
    (RomAccepts 0x02 fn s pa b [(72, hostBad (fieldAt b 72 8))] →
      let r := report s fn (sliceBytes b 8 64)
      (r ++ natLe 4627 (Config.sign (sha3 r)).toNat).length ≤ fieldAt b 80 4 → ends (.attest fn)
        (buffer 72 0 (r ++ natLe 4627 (Config.sign (sha3 r)).toNat))) ∧
    (RomAccepts 0x48 fn s pa b [(8, hostBad (fieldAt b 8 8))] → (errorLog s.hub).length ≤ fieldAt b 16 4 →
      ends (.errlog fn) fun t => buffer 8 8 (errorLog s.hub) t ∧ t.hub.faults = [] ∧
        memNat t.mem (pa + 24) 4 = s.hub.faults.length) ∧
    (RomAccepts 0x25 fn s pa b [(8, decide (2 ^ 18 ≤ fieldAt b 8 4))] →
      let h := zoneHub s.hub (BitVec.ofNat 18 (fieldAt b 8 4)) (fieldAt b 12 4)
      (zoneFits h = true → ends (.zoneSet fn) fun t => t.hub.zoneDrop = (fieldAt b 12 4 == 0) ∧ (fieldAt b 12 4 ≠ 0 →
        t.hub.zoneDies.toNat = fieldAt b 8 4 ∧ t.hub.zoneSize = fieldAt b 12 4)) ∧
      (zoneFits h = false → Completes (.zoneSet fn) s (RomEnds fn pa 4 0 s))) ∧
    (RomAccepts 0x28 fn s pa b [(8, decide (fieldAt b 8 4 < 3000) || decide (6200 < fieldAt b 8 4))] →
      ends (.powerLimit fn) fun t => t.hub.powerLimit = fieldAt b 8 4) ∧
    (RomAccepts 0x30 fn s pa b (bindFields b s ++ [(16, fieldAt b 16 10 % 128 != 0), (26, decide (2 ^ 42 ≤ fieldAt b 26 6)),
        (68, match assocGet s.ctxs x with | some c => bitOf (fieldAt b 68 4) 31 != c.detmode | none => false)]) →
      ∀ st s1, st.ctx = x → st.st = .open_ → st.peer = fieldAt b 11 1 → st.cap = 2 ^ fieldAt b 12 1 →
        st.oqN = 2 ^ fieldAt b 13 1 → st.area = vaAt b 16 → st.parea = fieldAt b 26 6 → st.oq = vaAt b 32 →
        st.first.toNat = fieldAt b 48 8 → st.next = st.first → st.tseq = st.first - 1 → st.acked = st.first - 1 →
        st.peerTseq = st.first - 1 → st.eord.toNat = fieldAt b 56 8 → st.floor = st.eord → st.shapeid.toNat = fieldAt b 64 4 →
        st.mode.toNat = fieldAt b 68 4 → st.wdig = sliceBytes b 128 64 → st.src = 0 → st.srcHseq = 0 → st.srcCap = 0 →
        devWrite s x st.area.toNat (areaHeader st q st.tseq) none = .ok s1 →
        ends (.jstreamBind fn) fun t => getStream t q = some st) ∧
    (RomAccepts 0x31 fn s pa b (bindFields b s ++ [(26, fieldAt b 26 10 % 128 != 0), (36, decide (2 ^ 42 ≤ fieldAt b 36 6))]) →
      ∀ c s0 h, assocGet s.ctxs x = some c → devRead s x (fieldAt b 16 10) 128 none = .ok (s0, h) → replayBad h b c = none →
        ∀ st s1, st.ctx = x → st.st = .replaying → st.peer = fieldAt b 11 1 → st.cap = 2 ^ fieldAt b 12 1 →
        st.oqN = 2 ^ fieldAt b 13 1 → st.src = vaAt b 16 → st.area = vaAt b 26 → st.parea = fieldAt b 36 6 → st.oq = vaAt b 42 →
        st.eord.toNat = fieldAt b 56 8 → st.floor.toNat = fieldAt b 64 8 → st.shapeid.toNat = fieldAt b 72 4 →
        st.mode.toNat = fieldAt b 76 4 → st.wdig = sliceBytes b 128 64 → st.tseq.toNat = fieldAt h 80 8 →
        st.next = st.tseq + 1 → st.acked = st.tseq → st.peerTseq = st.tseq → st.first.toNat = fieldAt h 88 8 →
        st.srcHseq.toNat = fieldAt h 96 8 → st.srcCap = fieldAt h 76 4 →
        devWrite s0 x st.area.toNat (areaHeader st q st.tseq) none = .ok s1 →
        ends (.jstreamReplay fn) fun t => getStream t q = some st) ∧
    (∀ st, getStream s q = some st → st.ctx = x →
      (RomAccepts 0x32 fn s pa b [] → ends (.jstreamUnbind fn) fun t => getStream t q = none) ∧
      (RomAccepts 0x33 fn s pa b [] → st.st = .reassigning → ends (.jstreamFail fn) fun t =>
        getStream t q = some { st with st := .failed })) ∧
    (RomAccepts 0x34 fn s pa b [(8, decide (16 < x))] → ends (.jstandby fn) fun t =>
      t.hub.standby = (List.range x).map fun i => fieldAt b (9 + i) 1) ∧
    (let g := fieldAt b 9 1
     ((g < 16 ∧ (∀ v, assocGet s.hub.govs g = some v → v.ctx = x) ∧ RomAccepts 0x38 fn s pa b
          [(10, fieldAt b 10 1 == 0 || decide (fieldAt b 11 1 < fieldAt b 10 1)),
           (12, decide (fieldAt b 12 1 < fieldAt b 10 1) || decide (fieldAt b 11 1 < fieldAt b 12 1)), (16, fieldAt b 16 4 == 0)]) →
        ends (.govBind fn) fun t => assocGet t.hub.govs g =
          some ⟨x, fieldAt b 16 4, fieldAt b 10 1, fieldAt b 11 1, fieldAt b 12 1, none⟩) ∧
     ((128 ≤ g ∧ g < 144 ∧ (∃ v, assocGet s.hub.govs (g - 128) = some v ∧ v.ctx = x) ∧ RomAccepts 0x38 fn s pa b []) →
        ends (.govBind fn) fun t => assocGet t.hub.govs (g - 128) = none)) ∧
    (RomAccepts 0x40 fn s pa b (peerFields b s) → ends (.peerMap fn) fun t => assocGet t.hub.peers x =
      if fieldAt b 9 1 = 1 then none else some ⟨peerPorts b, peerWindows b⟩) ∧
    (RomAccepts 0x41 fn s pa b [(8, decide (17 < x) && x != 255), (9, decide (fieldAt b 9 1 < 16) || decide (28 < fieldAt b 9 1))] →
      ends (.portTimer fn) fun t => ∀ n r, assocGet s.hub.ports n = some r →
        assocGet t.hub.ports n = some { r with logT := if x = 255 ∨ x = n then fieldAt b 9 1 else r.logT }) ∧
    (RomAccepts 0x7F fn s pa b [] → Completes (.pkgReset fn) s fun t => t.waves = [] ∧ t.ctxs = [] ∧ t.grids = [] ∧
      t.hub.endpointUp = false ∧ t.hub.online = 0 ∧ t.hub.bootCmd = some pa ∧
      ∀ a, memRead t.mem a = if paRegion a = 0 then 0 else memRead s.mem a)
end

