-- ==== Sys2Proof/Laws/Assoc.lean ====
section
/-! SUPPORT. Numbered collections: what is read after each update. -/

namespace Sys2Proof.Machine

variable {α : Type}

@[simp] theorem assocGet_nil (k : Nat) : assocGet ([] : List (Nat × α)) k = none := rfl

@[simp] theorem assocGet_set_same (m : List (Nat × α)) (k : Nat) (v : α) : assocGet (assocSet m k v) k = some v := by
  induction m with
  | nil => simp [assocSet, assocGet]
  | cons e r ih =>
    obtain ⟨j, w⟩ := e
    unfold assocSet
    split
    · simp [assocGet]
    · split
      · simp [assocGet]
      · rename_i h; simp [assocGet, h, ih]

@[simp] theorem assocGet_set_other (m : List (Nat × α)) (k j : Nat) (v : α) (h : j ≠ k) :
    assocGet (assocSet m k v) j = assocGet m j := by
  induction m with
  | nil => simp [assocSet, assocGet, Ne.symm h]
  | cons e r ih =>
    obtain ⟨i, w⟩ := e
    unfold assocSet
    split
    · simp [assocGet, Ne.symm h]
    · split
      · rename_i h2; subst h2; simp [assocGet, Ne.symm h]
      · simp [assocGet, ih]

theorem assocGet_mod_same (m : List (Nat × α)) (k : Nat) (f : α → α) :
    assocGet (assocMod m k f) k = (assocGet m k).map f := by
  induction m with
  | nil => rfl
  | cons e r ih =>
    obtain ⟨j, w⟩ := e
    by_cases h : j = k
    · simp [assocMod, assocGet, h]
    · have : assocGet (assocMod r k f) k = (assocGet r k).map f := ih
      simpa [assocMod, assocGet, h] using this

@[simp] theorem assocGet_mod_other (m : List (Nat × α)) (k j : Nat) (f : α → α) (h : j ≠ k) :
    assocGet (assocMod m k f) j = assocGet m j := by
  induction m with
  | nil => rfl
  | cons e r ih =>
    obtain ⟨i, w⟩ := e
    have ih' : assocGet (assocMod r k f) j = assocGet r j := ih
    by_cases h1 : i = k
    · subst h1; simpa [assocMod, assocGet, Ne.symm h] using ih'
    · by_cases h2 : i = j
      · simp [assocMod, assocGet, h1, h2, h]
      · simpa [assocMod, assocGet, h1, h2] using ih'

@[simp] theorem assocGet_del_other (m : List (Nat × α)) (k j : Nat) (h : j ≠ k) :
    assocGet (assocDel m k) j = assocGet m j := by
  induction m with
  | nil => rfl
  | cons e r ih =>
    obtain ⟨i, w⟩ := e
    unfold assocDel
    split
    · rename_i h1; subst h1; simpa [assocGet, Ne.symm h] using ih
    · simp [assocGet, ih]

@[simp] theorem assocGet_del_same (m : List (Nat × α)) (k : Nat) : assocGet (assocDel m k) k = none := by
  induction m with
  | nil => rfl
  | cons e r ih =>
    obtain ⟨i, w⟩ := e
    unfold assocDel
    split
    · exact ih
    · rename_i h; simp [assocGet, h, ih]

end Sys2Proof.Machine
end

