-- ==== Sys2Proof/Laws/State.lean ====
section
/-! SUPPORT. What each named update changes of the state, field by field. -/

namespace Sys2Proof.Machine

/-! `setWave` -/

section
variable (s : State) (u : Nat) (w : Wave)
@[simp] theorem setWave_mem : (setWave s u w).mem = s.mem := rfl
@[simp] theorem setWave_hub : (setWave s u w).hub = s.hub := rfl
@[simp] theorem setWave_ctxs : (setWave s u w).ctxs = s.ctxs := rfl
@[simp] theorem setWave_cores : (setWave s u w).cores = s.cores := rfl
@[simp] theorem setWave_banks : (setWave s u w).banks = s.banks := rfl
@[simp] theorem setWave_waves : (setWave s u w).waves = assocSet s.waves u w := rfl
@[simp] theorem setWave_grids : (setWave s u w).grids = s.grids := rfl
@[simp] theorem setWave_cycle : (setWave s u w).cycle = s.cycle := rfl
@[simp] theorem setWave_psec : (setWave s u w).psec = s.psec := rfl
@[simp] theorem setWave_nextUid : (setWave s u w).nextUid = s.nextUid := rfl
@[simp] theorem setWave_nextGrid : (setWave s u w).nextGrid = s.nextGrid := rfl
@[simp] theorem setWave_free : (setWave s u w).free = s.free := rfl
@[simp] theorem setWave_agenda : (setWave s u w).agenda = s.agenda := rfl
@[simp] theorem setWave_cur : (setWave s u w).cur = s.cur := rfl
@[simp] theorem setWave_undefMem : (setWave s u w).undefMem = s.undefMem := rfl
@[simp] theorem setWave_past : (setWave s u w).past = s.past := rfl
@[simp] theorem setWave_updates : (setWave s u w).updates = s.updates := rfl
end

/-! `modWave` -/

section
variable (s : State) (u : Nat) (f : Wave → Wave)
@[simp] theorem modWave_mem : (modWave s u f).mem = s.mem := rfl
@[simp] theorem modWave_hub : (modWave s u f).hub = s.hub := rfl
@[simp] theorem modWave_ctxs : (modWave s u f).ctxs = s.ctxs := rfl
@[simp] theorem modWave_cores : (modWave s u f).cores = s.cores := rfl
@[simp] theorem modWave_banks : (modWave s u f).banks = s.banks := rfl
@[simp] theorem modWave_waves : (modWave s u f).waves = assocMod s.waves u f := rfl
@[simp] theorem modWave_grids : (modWave s u f).grids = s.grids := rfl
@[simp] theorem modWave_cycle : (modWave s u f).cycle = s.cycle := rfl
@[simp] theorem modWave_psec : (modWave s u f).psec = s.psec := rfl
@[simp] theorem modWave_nextUid : (modWave s u f).nextUid = s.nextUid := rfl
@[simp] theorem modWave_nextGrid : (modWave s u f).nextGrid = s.nextGrid := rfl
@[simp] theorem modWave_free : (modWave s u f).free = s.free := rfl
@[simp] theorem modWave_agenda : (modWave s u f).agenda = s.agenda := rfl
@[simp] theorem modWave_cur : (modWave s u f).cur = s.cur := rfl
@[simp] theorem modWave_undefMem : (modWave s u f).undefMem = s.undefMem := rfl
@[simp] theorem modWave_past : (modWave s u f).past = s.past := rfl
@[simp] theorem modWave_updates : (modWave s u f).updates = s.updates := rfl
end

/-! `modFrag` -/

section
variable (s : State) (u q : Nat) (f : Frag → Frag)
@[simp] theorem modFrag_mem : (modFrag s u q f).mem = s.mem := rfl
@[simp] theorem modFrag_hub : (modFrag s u q f).hub = s.hub := rfl
@[simp] theorem modFrag_ctxs : (modFrag s u q f).ctxs = s.ctxs := rfl
@[simp] theorem modFrag_cores : (modFrag s u q f).cores = s.cores := rfl
@[simp] theorem modFrag_banks : (modFrag s u q f).banks = s.banks := rfl
@[simp] theorem modFrag_waves : (modFrag s u q f).waves = assocMod s.waves u fun w => w.modFrag q f := rfl
@[simp] theorem modFrag_grids : (modFrag s u q f).grids = s.grids := rfl
@[simp] theorem modFrag_cycle : (modFrag s u q f).cycle = s.cycle := rfl
@[simp] theorem modFrag_psec : (modFrag s u q f).psec = s.psec := rfl
@[simp] theorem modFrag_nextUid : (modFrag s u q f).nextUid = s.nextUid := rfl
@[simp] theorem modFrag_nextGrid : (modFrag s u q f).nextGrid = s.nextGrid := rfl
@[simp] theorem modFrag_free : (modFrag s u q f).free = s.free := rfl
@[simp] theorem modFrag_agenda : (modFrag s u q f).agenda = s.agenda := rfl
@[simp] theorem modFrag_cur : (modFrag s u q f).cur = s.cur := rfl
@[simp] theorem modFrag_undefMem : (modFrag s u q f).undefMem = s.undefMem := rfl
@[simp] theorem modFrag_past : (modFrag s u q f).past = s.past := rfl
@[simp] theorem modFrag_updates : (modFrag s u q f).updates = s.updates := rfl
end

/-! `setCtx` -/

section
variable (s : State) (x : Nat) (c : Context)
@[simp] theorem setCtx_mem : (setCtx s x c).mem = s.mem := rfl
@[simp] theorem setCtx_hub : (setCtx s x c).hub = s.hub := rfl
@[simp] theorem setCtx_ctxs : (setCtx s x c).ctxs = assocSet s.ctxs x c := rfl
@[simp] theorem setCtx_cores : (setCtx s x c).cores = s.cores := rfl
@[simp] theorem setCtx_banks : (setCtx s x c).banks = s.banks := rfl
@[simp] theorem setCtx_waves : (setCtx s x c).waves = s.waves := rfl
@[simp] theorem setCtx_grids : (setCtx s x c).grids = s.grids := rfl
@[simp] theorem setCtx_cycle : (setCtx s x c).cycle = s.cycle := rfl
@[simp] theorem setCtx_psec : (setCtx s x c).psec = s.psec := rfl
@[simp] theorem setCtx_nextUid : (setCtx s x c).nextUid = s.nextUid := rfl
@[simp] theorem setCtx_nextGrid : (setCtx s x c).nextGrid = s.nextGrid := rfl
@[simp] theorem setCtx_free : (setCtx s x c).free = s.free := rfl
@[simp] theorem setCtx_agenda : (setCtx s x c).agenda = s.agenda := rfl
@[simp] theorem setCtx_cur : (setCtx s x c).cur = s.cur := rfl
@[simp] theorem setCtx_undefMem : (setCtx s x c).undefMem = s.undefMem := rfl
@[simp] theorem setCtx_past : (setCtx s x c).past = s.past := rfl
@[simp] theorem setCtx_updates : (setCtx s x c).updates = s.updates := rfl
end

/-! `modCtx` -/

section
variable (s : State) (x : Nat) (f : Context → Context)
@[simp] theorem modCtx_mem : (modCtx s x f).mem = s.mem := rfl
@[simp] theorem modCtx_hub : (modCtx s x f).hub = s.hub := rfl
@[simp] theorem modCtx_ctxs : (modCtx s x f).ctxs = assocMod s.ctxs x f := rfl
@[simp] theorem modCtx_cores : (modCtx s x f).cores = s.cores := rfl
@[simp] theorem modCtx_banks : (modCtx s x f).banks = s.banks := rfl
@[simp] theorem modCtx_waves : (modCtx s x f).waves = s.waves := rfl
@[simp] theorem modCtx_grids : (modCtx s x f).grids = s.grids := rfl
@[simp] theorem modCtx_cycle : (modCtx s x f).cycle = s.cycle := rfl
@[simp] theorem modCtx_psec : (modCtx s x f).psec = s.psec := rfl
@[simp] theorem modCtx_nextUid : (modCtx s x f).nextUid = s.nextUid := rfl
@[simp] theorem modCtx_nextGrid : (modCtx s x f).nextGrid = s.nextGrid := rfl
@[simp] theorem modCtx_free : (modCtx s x f).free = s.free := rfl
@[simp] theorem modCtx_agenda : (modCtx s x f).agenda = s.agenda := rfl
@[simp] theorem modCtx_cur : (modCtx s x f).cur = s.cur := rfl
@[simp] theorem modCtx_undefMem : (modCtx s x f).undefMem = s.undefMem := rfl
@[simp] theorem modCtx_past : (modCtx s x f).past = s.past := rfl
@[simp] theorem modCtx_updates : (modCtx s x f).updates = s.updates := rfl
end

/-! `modHub` -/

section
variable (s : State) (f : Hub → Hub)
@[simp] theorem modHub_mem : (modHub s f).mem = s.mem := rfl
@[simp] theorem modHub_hub : (modHub s f).hub = f s.hub := rfl
@[simp] theorem modHub_ctxs : (modHub s f).ctxs = s.ctxs := rfl
@[simp] theorem modHub_cores : (modHub s f).cores = s.cores := rfl
@[simp] theorem modHub_banks : (modHub s f).banks = s.banks := rfl
@[simp] theorem modHub_waves : (modHub s f).waves = s.waves := rfl
@[simp] theorem modHub_grids : (modHub s f).grids = s.grids := rfl
@[simp] theorem modHub_cycle : (modHub s f).cycle = s.cycle := rfl
@[simp] theorem modHub_psec : (modHub s f).psec = s.psec := rfl
@[simp] theorem modHub_nextUid : (modHub s f).nextUid = s.nextUid := rfl
@[simp] theorem modHub_nextGrid : (modHub s f).nextGrid = s.nextGrid := rfl
@[simp] theorem modHub_free : (modHub s f).free = s.free := rfl
@[simp] theorem modHub_agenda : (modHub s f).agenda = s.agenda := rfl
@[simp] theorem modHub_cur : (modHub s f).cur = s.cur := rfl
@[simp] theorem modHub_undefMem : (modHub s f).undefMem = s.undefMem := rfl
@[simp] theorem modHub_past : (modHub s f).past = s.past := rfl
@[simp] theorem modHub_updates : (modHub s f).updates = s.updates := rfl
end

/-! `modGrid` -/

section
variable (s : State) (g : Nat) (f : Grid → Grid)
@[simp] theorem modGrid_mem : (modGrid s g f).mem = s.mem := rfl
@[simp] theorem modGrid_hub : (modGrid s g f).hub = s.hub := rfl
@[simp] theorem modGrid_ctxs : (modGrid s g f).ctxs = s.ctxs := rfl
@[simp] theorem modGrid_cores : (modGrid s g f).cores = s.cores := rfl
@[simp] theorem modGrid_banks : (modGrid s g f).banks = s.banks := rfl
@[simp] theorem modGrid_waves : (modGrid s g f).waves = s.waves := rfl
@[simp] theorem modGrid_grids : (modGrid s g f).grids = assocMod s.grids g f := rfl
@[simp] theorem modGrid_cycle : (modGrid s g f).cycle = s.cycle := rfl
@[simp] theorem modGrid_psec : (modGrid s g f).psec = s.psec := rfl
@[simp] theorem modGrid_nextUid : (modGrid s g f).nextUid = s.nextUid := rfl
@[simp] theorem modGrid_nextGrid : (modGrid s g f).nextGrid = s.nextGrid := rfl
@[simp] theorem modGrid_free : (modGrid s g f).free = s.free := rfl
@[simp] theorem modGrid_agenda : (modGrid s g f).agenda = s.agenda := rfl
@[simp] theorem modGrid_cur : (modGrid s g f).cur = s.cur := rfl
@[simp] theorem modGrid_undefMem : (modGrid s g f).undefMem = s.undefMem := rfl
@[simp] theorem modGrid_past : (modGrid s g f).past = s.past := rfl
@[simp] theorem modGrid_updates : (modGrid s g f).updates = s.updates := rfl
end

/-! `modWg` -/

section
variable (s : State) (g k : Nat) (f : Wg → Wg)
@[simp] theorem modWg_mem : (modWg s g k f).mem = s.mem := rfl
@[simp] theorem modWg_hub : (modWg s g k f).hub = s.hub := rfl
@[simp] theorem modWg_ctxs : (modWg s g k f).ctxs = s.ctxs := rfl
@[simp] theorem modWg_cores : (modWg s g k f).cores = s.cores := rfl
@[simp] theorem modWg_banks : (modWg s g k f).banks = s.banks := rfl
@[simp] theorem modWg_waves : (modWg s g k f).waves = s.waves := rfl
@[simp] theorem modWg_grids : (modWg s g k f).grids = assocMod s.grids g fun gr => { gr with wgs := assocMod gr.wgs k f } := rfl
@[simp] theorem modWg_cycle : (modWg s g k f).cycle = s.cycle := rfl
@[simp] theorem modWg_psec : (modWg s g k f).psec = s.psec := rfl
@[simp] theorem modWg_nextUid : (modWg s g k f).nextUid = s.nextUid := rfl
@[simp] theorem modWg_nextGrid : (modWg s g k f).nextGrid = s.nextGrid := rfl
@[simp] theorem modWg_free : (modWg s g k f).free = s.free := rfl
@[simp] theorem modWg_agenda : (modWg s g k f).agenda = s.agenda := rfl
@[simp] theorem modWg_cur : (modWg s g k f).cur = s.cur := rfl
@[simp] theorem modWg_undefMem : (modWg s g k f).undefMem = s.undefMem := rfl
@[simp] theorem modWg_past : (modWg s g k f).past = s.past := rfl
@[simp] theorem modWg_updates : (modWg s g k f).updates = s.updates := rfl
end

/-! `setMem` -/

section
variable (s : State) (m : List Host.Cell)
@[simp] theorem setMem_mem : (setMem s m).mem = m := rfl
@[simp] theorem setMem_hub : (setMem s m).hub = s.hub := rfl
@[simp] theorem setMem_ctxs : (setMem s m).ctxs = s.ctxs := rfl
@[simp] theorem setMem_cores : (setMem s m).cores = s.cores := rfl
@[simp] theorem setMem_banks : (setMem s m).banks = s.banks := rfl
@[simp] theorem setMem_waves : (setMem s m).waves = s.waves := rfl
@[simp] theorem setMem_grids : (setMem s m).grids = s.grids := rfl
@[simp] theorem setMem_cycle : (setMem s m).cycle = s.cycle := rfl
@[simp] theorem setMem_psec : (setMem s m).psec = s.psec := rfl
@[simp] theorem setMem_nextUid : (setMem s m).nextUid = s.nextUid := rfl
@[simp] theorem setMem_nextGrid : (setMem s m).nextGrid = s.nextGrid := rfl
@[simp] theorem setMem_free : (setMem s m).free = s.free := rfl
@[simp] theorem setMem_agenda : (setMem s m).agenda = s.agenda := rfl
@[simp] theorem setMem_cur : (setMem s m).cur = s.cur := rfl
@[simp] theorem setMem_undefMem : (setMem s m).undefMem = s.undefMem := rfl
@[simp] theorem setMem_past : (setMem s m).past = s.past := rfl
@[simp] theorem setMem_updates : (setMem s m).updates = s.updates := rfl
end

/-! `modCore` -/

section
variable (s : State) (p : Nat) (f : Core → Core)
@[simp] theorem modCore_mem : (modCore s p f).mem = s.mem := rfl
@[simp] theorem modCore_hub : (modCore s p f).hub = s.hub := rfl
@[simp] theorem modCore_ctxs : (modCore s p f).ctxs = s.ctxs := rfl
@[simp] theorem modCore_cores : (modCore s p f).cores = assocSet s.cores p (f (getCore s p)) := rfl
@[simp] theorem modCore_banks : (modCore s p f).banks = s.banks := rfl
@[simp] theorem modCore_waves : (modCore s p f).waves = s.waves := rfl
@[simp] theorem modCore_grids : (modCore s p f).grids = s.grids := rfl
@[simp] theorem modCore_cycle : (modCore s p f).cycle = s.cycle := rfl
@[simp] theorem modCore_psec : (modCore s p f).psec = s.psec := rfl
@[simp] theorem modCore_nextUid : (modCore s p f).nextUid = s.nextUid := rfl
@[simp] theorem modCore_nextGrid : (modCore s p f).nextGrid = s.nextGrid := rfl
@[simp] theorem modCore_free : (modCore s p f).free = s.free := rfl
@[simp] theorem modCore_agenda : (modCore s p f).agenda = s.agenda := rfl
@[simp] theorem modCore_cur : (modCore s p f).cur = s.cur := rfl
@[simp] theorem modCore_undefMem : (modCore s p f).undefMem = s.undefMem := rfl
@[simp] theorem modCore_past : (modCore s p f).past = s.past := rfl
@[simp] theorem modCore_updates : (modCore s p f).updates = s.updates := rfl
end

/-! `modBank` -/

section
variable (s : State) (k : Nat) (f : Bank → Bank)
@[simp] theorem modBank_mem : (modBank s k f).mem = s.mem := rfl
@[simp] theorem modBank_hub : (modBank s k f).hub = s.hub := rfl
@[simp] theorem modBank_ctxs : (modBank s k f).ctxs = s.ctxs := rfl
@[simp] theorem modBank_cores : (modBank s k f).cores = s.cores := rfl
@[simp] theorem modBank_banks : (modBank s k f).banks = assocMod s.banks k f := rfl
@[simp] theorem modBank_waves : (modBank s k f).waves = s.waves := rfl
@[simp] theorem modBank_grids : (modBank s k f).grids = s.grids := rfl
@[simp] theorem modBank_cycle : (modBank s k f).cycle = s.cycle := rfl
@[simp] theorem modBank_psec : (modBank s k f).psec = s.psec := rfl
@[simp] theorem modBank_nextUid : (modBank s k f).nextUid = s.nextUid := rfl
@[simp] theorem modBank_nextGrid : (modBank s k f).nextGrid = s.nextGrid := rfl
@[simp] theorem modBank_free : (modBank s k f).free = s.free := rfl
@[simp] theorem modBank_agenda : (modBank s k f).agenda = s.agenda := rfl
@[simp] theorem modBank_cur : (modBank s k f).cur = s.cur := rfl
@[simp] theorem modBank_undefMem : (modBank s k f).undefMem = s.undefMem := rfl
@[simp] theorem modBank_past : (modBank s k f).past = s.past := rfl
@[simp] theorem modBank_updates : (modBank s k f).updates = s.updates := rfl
end

/-! `bumpFree` -/

section
variable (s : State) 
@[simp] theorem bumpFree_mem : (bumpFree s).mem = s.mem := rfl
@[simp] theorem bumpFree_hub : (bumpFree s).hub = s.hub := rfl
@[simp] theorem bumpFree_ctxs : (bumpFree s).ctxs = s.ctxs := rfl
@[simp] theorem bumpFree_cores : (bumpFree s).cores = s.cores := rfl
@[simp] theorem bumpFree_banks : (bumpFree s).banks = s.banks := rfl
@[simp] theorem bumpFree_waves : (bumpFree s).waves = s.waves := rfl
@[simp] theorem bumpFree_grids : (bumpFree s).grids = s.grids := rfl
@[simp] theorem bumpFree_cycle : (bumpFree s).cycle = s.cycle := rfl
@[simp] theorem bumpFree_psec : (bumpFree s).psec = s.psec := rfl
@[simp] theorem bumpFree_nextUid : (bumpFree s).nextUid = s.nextUid := rfl
@[simp] theorem bumpFree_nextGrid : (bumpFree s).nextGrid = s.nextGrid := rfl
@[simp] theorem bumpFree_free : (bumpFree s).free = s.free + 1 := rfl
@[simp] theorem bumpFree_agenda : (bumpFree s).agenda = s.agenda := rfl
@[simp] theorem bumpFree_cur : (bumpFree s).cur = s.cur := rfl
@[simp] theorem bumpFree_undefMem : (bumpFree s).undefMem = s.undefMem := rfl
@[simp] theorem bumpFree_past : (bumpFree s).past = s.past := rfl
@[simp] theorem bumpFree_updates : (bumpFree s).updates = s.updates := rfl
end

/-! `leafTouch` -/

section
variable (s : State) (leaf : Nat) (wr : Bool)
@[simp] theorem leafTouch_mem : (leafTouch s leaf wr).mem = touchLeaf s.mem leaf wr := rfl
@[simp] theorem leafTouch_undefMem : (leafTouch s leaf wr).undefMem = rangesDrop s.undefMem leaf 1 := rfl
@[simp] theorem leafTouch_past : (leafTouch s leaf wr).past = s.past := rfl
@[simp] theorem leafTouch_hub : (leafTouch s leaf wr).hub = s.hub := rfl
@[simp] theorem leafTouch_ctxs : (leafTouch s leaf wr).ctxs = s.ctxs := rfl
@[simp] theorem leafTouch_cores : (leafTouch s leaf wr).cores = s.cores := rfl
@[simp] theorem leafTouch_banks : (leafTouch s leaf wr).banks = s.banks := rfl
@[simp] theorem leafTouch_waves : (leafTouch s leaf wr).waves = s.waves := rfl
@[simp] theorem leafTouch_grids : (leafTouch s leaf wr).grids = s.grids := rfl
@[simp] theorem leafTouch_cycle : (leafTouch s leaf wr).cycle = s.cycle := rfl
@[simp] theorem leafTouch_psec : (leafTouch s leaf wr).psec = s.psec := rfl
@[simp] theorem leafTouch_nextUid : (leafTouch s leaf wr).nextUid = s.nextUid := rfl
@[simp] theorem leafTouch_nextGrid : (leafTouch s leaf wr).nextGrid = s.nextGrid := rfl
@[simp] theorem leafTouch_free : (leafTouch s leaf wr).free = s.free := rfl
@[simp] theorem leafTouch_agenda : (leafTouch s leaf wr).agenda = s.agenda := rfl
@[simp] theorem leafTouch_cur : (leafTouch s leaf wr).cur = s.cur := rfl
@[simp] theorem leafTouch_updates : (leafTouch s leaf wr).updates = s.updates := rfl
end

/-! `entryPut` -/

section
variable (s : State) (a e : Nat)
@[simp] theorem entryPut_mem : (entryPut s a e).mem = memPut s.mem a 8 e := rfl
@[simp] theorem entryPut_undefMem : (entryPut s a e).undefMem = rangesDrop s.undefMem a 8 := rfl
@[simp] theorem entryPut_past : (entryPut s a e).past = s.past := rfl
@[simp] theorem entryPut_hub : (entryPut s a e).hub = s.hub := rfl
@[simp] theorem entryPut_ctxs : (entryPut s a e).ctxs = s.ctxs := rfl
@[simp] theorem entryPut_cores : (entryPut s a e).cores = s.cores := rfl
@[simp] theorem entryPut_banks : (entryPut s a e).banks = s.banks := rfl
@[simp] theorem entryPut_waves : (entryPut s a e).waves = s.waves := rfl
@[simp] theorem entryPut_grids : (entryPut s a e).grids = s.grids := rfl
@[simp] theorem entryPut_cycle : (entryPut s a e).cycle = s.cycle := rfl
@[simp] theorem entryPut_psec : (entryPut s a e).psec = s.psec := rfl
@[simp] theorem entryPut_nextUid : (entryPut s a e).nextUid = s.nextUid := rfl
@[simp] theorem entryPut_nextGrid : (entryPut s a e).nextGrid = s.nextGrid := rfl
@[simp] theorem entryPut_free : (entryPut s a e).free = s.free := rfl
@[simp] theorem entryPut_agenda : (entryPut s a e).agenda = s.agenda := rfl
@[simp] theorem entryPut_cur : (entryPut s a e).cur = s.cur := rfl
@[simp] theorem entryPut_updates : (entryPut s a e).updates = s.updates := rfl
end

/-! `physPut` -/

section
variable (s : State) (pa : Nat) (bs : List Byte)
@[simp] theorem physPut_mem : (physPut s pa bs).mem = memWriteN s.mem pa bs := rfl
@[simp] theorem physPut_undefMem : (physPut s pa bs).undefMem = rangesDrop s.undefMem pa bs.length := rfl
@[simp] theorem physPut_hub : (physPut s pa bs).hub = s.hub := rfl
@[simp] theorem physPut_ctxs : (physPut s pa bs).ctxs = s.ctxs := rfl
@[simp] theorem physPut_cores : (physPut s pa bs).cores = s.cores := rfl
@[simp] theorem physPut_banks : (physPut s pa bs).banks = s.banks := rfl
@[simp] theorem physPut_waves : (physPut s pa bs).waves = s.waves := rfl
@[simp] theorem physPut_grids : (physPut s pa bs).grids = s.grids := rfl
@[simp] theorem physPut_cycle : (physPut s pa bs).cycle = s.cycle := rfl
@[simp] theorem physPut_psec : (physPut s pa bs).psec = s.psec := rfl
@[simp] theorem physPut_nextUid : (physPut s pa bs).nextUid = s.nextUid := rfl
@[simp] theorem physPut_nextGrid : (physPut s pa bs).nextGrid = s.nextGrid := rfl
@[simp] theorem physPut_free : (physPut s pa bs).free = s.free := rfl
@[simp] theorem physPut_agenda : (physPut s pa bs).agenda = s.agenda := rfl
@[simp] theorem physPut_cur : (physPut s pa bs).cur = s.cur := rfl
@[simp] theorem physPut_updates : (physPut s pa bs).updates = s.updates := rfl
end

/-! `Wave_modFrag` -/

section
variable (w : Wave) (q : Nat) (f : Frag → Frag)
@[simp] theorem Wave_modFrag_ctx : (w.modFrag q f).ctx = w.ctx := rfl
@[simp] theorem Wave_modFrag_core : (w.modFrag q f).core = w.core := rfl
@[simp] theorem Wave_modFrag_slot : (w.modFrag q f).slot = w.slot := rfl
@[simp] theorem Wave_modFrag_base : (w.modFrag q f).base = w.base := rfl
@[simp] theorem Wave_modFrag_gran : (w.modFrag q f).gran = w.gran := rfl
@[simp] theorem Wave_modFrag_level : (w.modFrag q f).level = w.level := rfl
@[simp] theorem Wave_modFrag_frame : (w.modFrag q f).frame = w.frame := rfl
@[simp] theorem Wave_modFrag_grid : (w.modFrag q f).grid = w.grid := rfl
@[simp] theorem Wave_modFrag_wg : (w.modFrag q f).wg = w.wg := rfl
@[simp] theorem Wave_modFrag_widx : (w.modFrag q f).widx = w.widx := rfl
@[simp] theorem Wave_modFrag_spawned : (w.modFrag q f).spawned = w.spawned := rfl
@[simp] theorem Wave_modFrag_det : (w.modFrag q f).det = w.det := rfl
@[simp] theorem Wave_modFrag_nthreads : (w.modFrag q f).nthreads = w.nthreads := rfl
@[simp] theorem Wave_modFrag_threads : (w.modFrag q f).threads = w.threads := rfl
@[simp] theorem Wave_modFrag_live : (w.modFrag q f).live = w.live := rfl
@[simp] theorem Wave_modFrag_mask : (w.modFrag q f).mask = w.mask := rfl
@[simp] theorem Wave_modFrag_maskPend : (w.modFrag q f).maskPend = w.maskPend := rfl
@[simp] theorem Wave_modFrag_cc : (w.modFrag q f).cc = w.cc := rfl
@[simp] theorem Wave_modFrag_ccPend : (w.modFrag q f).ccPend = w.ccPend := rfl
@[simp] theorem Wave_modFrag_clocks : (w.modFrag q f).clocks = w.clocks := rfl
@[simp] theorem Wave_modFrag_frags : (w.modFrag q f).frags = w.frags.map fun g => if leadQuad g.quads = q then f g else g := rfl
@[simp] theorem Wave_modFrag_regs : (w.modFrag q f).regs = w.regs := rfl
@[simp] theorem Wave_modFrag_undef : (w.modFrag q f).undef = w.undef := rfl
@[simp] theorem Wave_modFrag_tlm : (w.modFrag q f).tlm = w.tlm := rfl
@[simp] theorem Wave_modFrag_tpc : (w.modFrag q f).tpc = w.tpc := rfl
@[simp] theorem Wave_modFrag_tcause : (w.modFrag q f).tcause = w.tcause := rfl
@[simp] theorem Wave_modFrag_tval : (w.modFrag q f).tval = w.tval := rfl
@[simp] theorem Wave_modFrag_fpstat : (w.modFrag q f).fpstat = w.fpstat := rfl
@[simp] theorem Wave_modFrag_fpmode : (w.modFrag q f).fpmode = w.fpmode := rfl
@[simp] theorem Wave_modFrag_csrOwner : (w.modFrag q f).csrOwner = w.csrOwner := rfl
@[simp] theorem Wave_modFrag_held : (w.modFrag q f).held = w.held := rfl
@[simp] theorem Wave_modFrag_fpPend : (w.modFrag q f).fpPend = w.fpPend := rfl
@[simp] theorem Wave_modFrag_csrPend : (w.modFrag q f).csrPend = w.csrPend := rfl
@[simp] theorem Wave_modFrag_open_ : (w.modFrag q f).open_ = w.open_ := rfl
@[simp] theorem Wave_modFrag_entries : (w.modFrag q f).entries = w.entries := rfl
@[simp] theorem Wave_modFrag_nextSeq : (w.modFrag q f).nextSeq = w.nextSeq := rfl
@[simp] theorem Wave_modFrag_window : (w.modFrag q f).window = w.window := rfl
@[simp] theorem Wave_modFrag_trapWait : (w.modFrag q f).trapWait = w.trapWait := rfl
@[simp] theorem Wave_modFrag_report : (w.modFrag q f).report = w.report := rfl
@[simp] theorem Wave_modFrag_watchdog : (w.modFrag q f).watchdog = w.watchdog := rfl
@[simp] theorem Wave_modFrag_killed : (w.modFrag q f).killed = w.killed := rfl
@[simp] theorem Wave_modFrag_leaving : (w.modFrag q f).leaving = w.leaving := rfl
@[simp] theorem Wave_modFrag_boundMax : (w.modFrag q f).boundMax = w.boundMax := rfl
@[simp] theorem Wave_modFrag_trapAt : (w.modFrag q f).trapAt = w.trapAt := rfl
@[simp] theorem Wave_modFrag_lostRecs : (w.modFrag q f).lostRecs = w.lostRecs := rfl
end

/-! `setClocks` -/

section
variable (w : Wave) (qs : QuadMask) (f : Nat → Nat)
@[simp] theorem setClocks_ctx : (setClocks w qs f).ctx = w.ctx := rfl
@[simp] theorem setClocks_core : (setClocks w qs f).core = w.core := rfl
@[simp] theorem setClocks_slot : (setClocks w qs f).slot = w.slot := rfl
@[simp] theorem setClocks_base : (setClocks w qs f).base = w.base := rfl
@[simp] theorem setClocks_gran : (setClocks w qs f).gran = w.gran := rfl
@[simp] theorem setClocks_level : (setClocks w qs f).level = w.level := rfl
@[simp] theorem setClocks_frame : (setClocks w qs f).frame = w.frame := rfl
@[simp] theorem setClocks_grid : (setClocks w qs f).grid = w.grid := rfl
@[simp] theorem setClocks_wg : (setClocks w qs f).wg = w.wg := rfl
@[simp] theorem setClocks_widx : (setClocks w qs f).widx = w.widx := rfl
@[simp] theorem setClocks_spawned : (setClocks w qs f).spawned = w.spawned := rfl
@[simp] theorem setClocks_det : (setClocks w qs f).det = w.det := rfl
@[simp] theorem setClocks_nthreads : (setClocks w qs f).nthreads = w.nthreads := rfl
@[simp] theorem setClocks_threads : (setClocks w qs f).threads = w.threads := rfl
@[simp] theorem setClocks_live : (setClocks w qs f).live = w.live := rfl
@[simp] theorem setClocks_mask : (setClocks w qs f).mask = w.mask := rfl
@[simp] theorem setClocks_maskPend : (setClocks w qs f).maskPend = w.maskPend := rfl
@[simp] theorem setClocks_cc : (setClocks w qs f).cc = w.cc := rfl
@[simp] theorem setClocks_ccPend : (setClocks w qs f).ccPend = w.ccPend := rfl
@[simp] theorem setClocks_clocks : (setClocks w qs f).clocks = (List.range 16).map fun q => if qs.getLsbD q then f (clockOf w q) else clockOf w q := rfl
@[simp] theorem setClocks_frags : (setClocks w qs f).frags = w.frags := rfl
@[simp] theorem setClocks_regs : (setClocks w qs f).regs = w.regs := rfl
@[simp] theorem setClocks_undef : (setClocks w qs f).undef = w.undef := rfl
@[simp] theorem setClocks_tlm : (setClocks w qs f).tlm = w.tlm := rfl
@[simp] theorem setClocks_tpc : (setClocks w qs f).tpc = w.tpc := rfl
@[simp] theorem setClocks_tcause : (setClocks w qs f).tcause = w.tcause := rfl
@[simp] theorem setClocks_tval : (setClocks w qs f).tval = w.tval := rfl
@[simp] theorem setClocks_fpstat : (setClocks w qs f).fpstat = w.fpstat := rfl
@[simp] theorem setClocks_fpmode : (setClocks w qs f).fpmode = w.fpmode := rfl
@[simp] theorem setClocks_csrOwner : (setClocks w qs f).csrOwner = w.csrOwner := rfl
@[simp] theorem setClocks_held : (setClocks w qs f).held = w.held := rfl
@[simp] theorem setClocks_fpPend : (setClocks w qs f).fpPend = w.fpPend := rfl
@[simp] theorem setClocks_csrPend : (setClocks w qs f).csrPend = w.csrPend := rfl
@[simp] theorem setClocks_open_ : (setClocks w qs f).open_ = w.open_ := rfl
@[simp] theorem setClocks_entries : (setClocks w qs f).entries = w.entries := rfl
@[simp] theorem setClocks_nextSeq : (setClocks w qs f).nextSeq = w.nextSeq := rfl
@[simp] theorem setClocks_window : (setClocks w qs f).window = w.window := rfl
@[simp] theorem setClocks_trapWait : (setClocks w qs f).trapWait = w.trapWait := rfl
@[simp] theorem setClocks_report : (setClocks w qs f).report = w.report := rfl
@[simp] theorem setClocks_watchdog : (setClocks w qs f).watchdog = w.watchdog := rfl
@[simp] theorem setClocks_killed : (setClocks w qs f).killed = w.killed := rfl
@[simp] theorem setClocks_leaving : (setClocks w qs f).leaving = w.leaving := rfl
@[simp] theorem setClocks_boundMax : (setClocks w qs f).boundMax = w.boundMax := rfl
@[simp] theorem setClocks_trapAt : (setClocks w qs f).trapAt = w.trapAt := rfl
@[simp] theorem setClocks_lostRecs : (setClocks w qs f).lostRecs = w.lostRecs := rfl
end

/-! `writeLane` -/

section
variable (w : Wave) (r l : Nat) (v : Word)
@[simp] theorem writeLane_ctx : (writeLane w r l v).ctx = w.ctx := rfl
@[simp] theorem writeLane_core : (writeLane w r l v).core = w.core := rfl
@[simp] theorem writeLane_slot : (writeLane w r l v).slot = w.slot := rfl
@[simp] theorem writeLane_base : (writeLane w r l v).base = w.base := rfl
@[simp] theorem writeLane_gran : (writeLane w r l v).gran = w.gran := rfl
@[simp] theorem writeLane_level : (writeLane w r l v).level = w.level := rfl
@[simp] theorem writeLane_frame : (writeLane w r l v).frame = w.frame := rfl
@[simp] theorem writeLane_grid : (writeLane w r l v).grid = w.grid := rfl
@[simp] theorem writeLane_wg : (writeLane w r l v).wg = w.wg := rfl
@[simp] theorem writeLane_widx : (writeLane w r l v).widx = w.widx := rfl
@[simp] theorem writeLane_spawned : (writeLane w r l v).spawned = w.spawned := rfl
@[simp] theorem writeLane_det : (writeLane w r l v).det = w.det := rfl
@[simp] theorem writeLane_nthreads : (writeLane w r l v).nthreads = w.nthreads := rfl
@[simp] theorem writeLane_threads : (writeLane w r l v).threads = w.threads := rfl
@[simp] theorem writeLane_live : (writeLane w r l v).live = w.live := rfl
@[simp] theorem writeLane_mask : (writeLane w r l v).mask = w.mask := rfl
@[simp] theorem writeLane_maskPend : (writeLane w r l v).maskPend = w.maskPend := rfl
@[simp] theorem writeLane_cc : (writeLane w r l v).cc = w.cc := rfl
@[simp] theorem writeLane_ccPend : (writeLane w r l v).ccPend = w.ccPend := rfl
@[simp] theorem writeLane_clocks : (writeLane w r l v).clocks = w.clocks := rfl
@[simp] theorem writeLane_frags : (writeLane w r l v).frags = w.frags := rfl
@[simp] theorem writeLane_regs : (writeLane w r l v).regs = assocSet w.regs (64 * r + l) v := rfl
@[simp] theorem writeLane_undef : (writeLane w r l v).undef = w.undef := rfl
@[simp] theorem writeLane_tlm : (writeLane w r l v).tlm = w.tlm := rfl
@[simp] theorem writeLane_tpc : (writeLane w r l v).tpc = w.tpc := rfl
@[simp] theorem writeLane_tcause : (writeLane w r l v).tcause = w.tcause := rfl
@[simp] theorem writeLane_tval : (writeLane w r l v).tval = w.tval := rfl
@[simp] theorem writeLane_fpstat : (writeLane w r l v).fpstat = w.fpstat := rfl
@[simp] theorem writeLane_fpmode : (writeLane w r l v).fpmode = w.fpmode := rfl
@[simp] theorem writeLane_csrOwner : (writeLane w r l v).csrOwner = w.csrOwner := rfl
@[simp] theorem writeLane_held : (writeLane w r l v).held = w.held := rfl
@[simp] theorem writeLane_fpPend : (writeLane w r l v).fpPend = w.fpPend := rfl
@[simp] theorem writeLane_csrPend : (writeLane w r l v).csrPend = w.csrPend := rfl
@[simp] theorem writeLane_open_ : (writeLane w r l v).open_ = w.open_ := rfl
@[simp] theorem writeLane_entries : (writeLane w r l v).entries = w.entries := rfl
@[simp] theorem writeLane_nextSeq : (writeLane w r l v).nextSeq = w.nextSeq := rfl
@[simp] theorem writeLane_window : (writeLane w r l v).window = w.window := rfl
@[simp] theorem writeLane_trapWait : (writeLane w r l v).trapWait = w.trapWait := rfl
@[simp] theorem writeLane_report : (writeLane w r l v).report = w.report := rfl
@[simp] theorem writeLane_watchdog : (writeLane w r l v).watchdog = w.watchdog := rfl
@[simp] theorem writeLane_killed : (writeLane w r l v).killed = w.killed := rfl
@[simp] theorem writeLane_leaving : (writeLane w r l v).leaving = w.leaving := rfl
@[simp] theorem writeLane_boundMax : (writeLane w r l v).boundMax = w.boundMax := rfl
@[simp] theorem writeLane_trapAt : (writeLane w r l v).trapAt = w.trapAt := rfl
@[simp] theorem writeLane_lostRecs : (writeLane w r l v).lostRecs = w.lostRecs := rfl
end

end Sys2Proof.Machine
end

