-- ==== Sys2Proof/Laws/Issue.lean ====
section
/-!
SUPPORT. The issue of an instruction: what `issueWith` answers, what retirement does to the issuing wave, and what
the shared operation for per-lane results writes.
-/

namespace Sys2Proof.Machine

/-- An issuing fragment is one of its wave, and its context is one of the state. -/
theorem getIssue_spec {s : State} {k : Issue} (h : getIssue s = some k) :
    s.cur = some (k.uid, k.lead) ∧ assocGet s.waves k.uid = some k.w ∧ k.w.frag? k.lead = some k.f ∧
      assocGet s.ctxs k.w.ctx = some k.c := by
  unfold getIssue at h
  split at h
  · exact absurd h (by simp)
  · rename_i u q hc
    split at h
    · exact absurd h (by simp)
    · rename_i w hw
      split at h
      · rename_i f c hf hx
        injection h with h; subst h
        have hq : leadQuad f.quads = q := by simpa using List.find?_some hf
        exact ⟨by simp [Issue.lead, hq, hc], hw, by simpa [Issue.lead, hq] using hf, hx⟩
      · exact absurd h (by simp)

/-- An instruction that may run comes to what its body says. -/
theorem issueWith_runs {i : Instr} {s : State} {k : Issue} (body : Issue → State → Eff) (h : MayRun i s k) :
    issueWith i s body = .next ((body k s).finish i k) := by
  simp [issueWith, h.1, h.2]

/-- A cause of 11 R286 traps whatever the body. -/
theorem issueWith_cause {i : Instr} {s : State} {k : Issue} {c : Cause} (body : Issue → State → Eff)
    (h : getIssue s = some k) (hc : preCause i s k = some c) :
    issueWith i s body = .next ((Eff.trap c (k.act s) 0 s).finish i k) := by
  simp [issueWith, h, hc]

/-- Finding the fragment that leads with `q` after a change that keeps every fragment's quads. -/
theorem frag?_map (fs : List Frag) (q : Nat) (f : Frag → Frag) (hf : ∀ g, (f g).quads = g.quads) :
    (fs.map f).find? (fun g => leadQuad g.quads == q) = (fs.find? fun g => leadQuad g.quads == q).map f := by
  induction fs with
  | nil => rfl
  | cons g r ih =>
    simp only [List.map_cons, List.find?_cons, hf]
    split <;> simp [ih]

theorem modFrag_frag? (w : Wave) (q p : Nat) (f : Frag → Frag) (hf : ∀ g, (f g).quads = g.quads) :
    (w.modFrag q f).frag? p = if p = q then (w.frag? q).map f else w.frag? p := by
  have h := frag?_map w.frags p (fun g => if leadQuad g.quads = q then f g else g) (by intro g; split <;> simp [hf])
  unfold Wave.frag? at h ⊢
  simp only [Wave_modFrag_frags]
  rw [h]
  split
  · rename_i hp; subst hp
    cases hfind : w.frags.find? fun g => leadQuad g.quads == p with
    | none => rfl
    | some g => have : leadQuad g.quads = p := by simpa using List.find?_some hfind
                simp [this]
  · rename_i hp
    cases hfind : w.frags.find? fun g => leadQuad g.quads == p with
    | none => rfl
    | some g => have : leadQuad g.quads = p := by simpa using List.find?_some hfind
                simp [this, hp]

theorem clockOf_setClocks (w : Wave) (qs : QuadMask) (f : Nat → Nat) {q : Nat} (hq : q < 16) :
    clockOf (setClocks w qs f) q = if qs.getLsbD q then f (clockOf w q) else clockOf w q := by
  simp [clockOf, setClocks, hq]

/-- The wave after the retirement of its fragment's instruction. -/
def retiredWave (i : Instr) (cycle : Nat) (k : Issue) (w : Wave) : Wave :=
  (setClocks w k.f.quads (· + 1)).modFrag k.lead fun f => f.retired i cycle

/-- Retirement of a wave whose fragments and clocks are as at issue. -/
theorem retire_waves {i : Instr} {s s1 : State} {k : Issue} {w : Wave} (hk : getIssue s = some k)
    (hw : assocGet s1.waves k.uid = some w) (hf : w.frags = k.w.frags) :
    assocGet (retire i k.uid k.lead s1).waves k.uid = some (retiredWave i s1.cycle k w) ∧
      ∀ v, v ≠ k.uid → assocGet (retire i k.uid k.lead s1).waves v = assocGet s1.waves v := by
  have hfr : w.frag? k.lead = some k.f := by
    unfold Wave.frag?; rw [hf]; exact (getIssue_spec hk).2.2.1
  constructor
  · simp [retire, assocGet_mod_same, hw, hfr, retiredWave]
  · intro v hv; simp [retire, hv]

theorem advanced_retiredWave {i : Instr} {s : State} {k : Issue} {w : Wave} (cycle : Nat) (hk : getIssue s = some k)
    (hf : w.frags = k.w.frags) (hc : w.clocks = k.w.clocks) : Advanced i k (retiredWave i cycle k w) := by
  have hq : ∀ p, (setClocks w k.f.quads (· + 1)).frag? p = k.w.frag? p := by
    intro p; unfold Wave.frag?; simp [hf]
  have hfr := (getIssue_spec hk).2.2.1
  refine ⟨⟨k.f.retired i cycle, ?_, rfl, rfl, rfl⟩, ?_, ?_⟩
  · unfold retiredWave; rw [modFrag_frag? _ _ _ (fun f => f.retired i cycle) (fun _ => rfl)]; simp [hq, hfr]
  · intro q hne; unfold retiredWave; rw [modFrag_frag? _ _ _ (fun f => f.retired i cycle) (fun _ => rfl)]; simp [hq, hne]
  · intro q hlt
    have h1 : clockOf (retiredWave i cycle k w) q = clockOf (setClocks w k.f.quads (· + 1)) q := rfl
    have h2 : clockOf w q = clockOf k.w q := by simp [clockOf, hc]
    rw [h1, clockOf_setClocks _ _ _ hlt, h2]; split <;> simp

/-- The fragment of a retired instruction waits out the gap, its promotion over. -/
theorem gapHolds_retiredWave {i : Instr} {s : State} {k : Issue} {w : Wave} (hk : getIssue s = some k)
    (hf : w.frags = k.w.frags) : GapHolds i s k (retiredWave i s.cycle k w) := by
  intro f' h
  have hfr := (getIssue_spec hk).2.2.1
  have hq : (setClocks w k.f.quads (· + 1)).frag? k.lead = k.w.frag? k.lead := by unfold Wave.frag?; simp [hf]
  unfold retiredWave at h
  rw [modFrag_frag? _ _ _ (fun f => f.retired i s.cycle) (fun _ => rfl)] at h
  simp only [if_pos, hq, hfr, Option.map_some, Option.some.injEq] at h
  subst h
  exact ⟨Nat.le_max_right _ _, rfl⟩

/-- An effect on registers alone, with its latency, and retirement. -/
theorem laneResult_done {i : Instr} {s : State} {k : Issue} {d n b : Nat} {f : Nat → List Word} (g : Wave → Wave)
    (hk : getIssue s = some k)
    (hg : g k.w = { k.w with regs := (g k.w).regs, undef := (g k.w).undef, boundMax := (g k.w).boundMax })
    (hr : RegsHold k.w (g k.w) d (k.act s) f) (hu : UndefinedFor s k.w (g k.w) d n (k.act s) b) :
    LaneResult i s ((Eff.done (modWave s k.uid g)).finish i k) k d n b f := by
  have hw := (getIssue_spec hk).2.1
  have hw1 : assocGet (modWave s k.uid g).waves k.uid = some (g k.w) := by simp [assocGet_mod_same, hw]
  have hfr : (g k.w).frags = k.w.frags := by rw [hg]
  have hcl : (g k.w).clocks = k.w.clocks := by rw [hg]
  have hret := retire_waves (i := i) hk hw1 hfr
  refine ⟨⟨rfl, ?_⟩, ⟨fun a => rfl, rfl⟩, retiredWave i s.cycle k (g k.w), hret.1, ?_, ?_, hr, hu, gapHolds_retiredWave hk hfr⟩
  · intro v hv
    have := hret.2 v hv
    simp only [Eff.finish, bumpFree_waves]
    rw [this]; simp [hv]
  · exact advanced_retiredWave _ hk hfr hcl
  · unfold RegsOnly retiredWave
    rw [hg]; rfl

/-! Writing lanes. -/

theorem held_writeLane (w : Wave) (r l : Nat) (v : Word) (a b : Nat) (hl : l < 64) (hb : b < 64) :
    held (writeLane w r l v) a b = if a = r ∧ b = l then v else held w a b := by
  unfold held
  by_cases h : a = r ∧ b = l
  · obtain ⟨rfl, rfl⟩ := h; simp
  · have hne : 64 * a + b ≠ 64 * r + l := by omega
    simp [h, hne]

/-- The words of a list written from register `r` up in one lane. -/
theorem held_writeWords (vs : List Word) (w : Wave) (r l a b : Nat) (hl : l < 64) (hb : b < 64) :
    held ((vs.zipIdx.foldl (fun w v => writeLane w (r + v.2) l v.1) w)) a b =
      if b = l ∧ r ≤ a then (vs[a - r]?).getD (held w a b) else held w a b := by
  have key : ∀ (vs : List Word) (w : Wave) (n : Nat),
      held ((vs.zipIdx n).foldl (fun w v => writeLane w (r + v.2) l v.1) w) a b =
        if b = l ∧ r + n ≤ a then (vs[a - (r + n)]?).getD (held w a b) else held w a b := by
    intro vs
    induction vs with
    | nil => intro w n; simp
    | cons v rest ih =>
      intro w n
      simp only [List.zipIdx_cons, List.foldl_cons]
      rw [ih, held_writeLane _ _ _ _ _ _ hl hb]
      by_cases hbl : b = l
      · subst hbl
        rcases Nat.lt_trichotomy a (r + n) with h | h | h
        · have h1 : ¬ r + (n + 1) ≤ a := by omega
          have h2 : ¬ r + n ≤ a := by omega
          have h3 : a ≠ r + n := by omega
          simp [h1, h2, h3]
        · subst h; simp
        · have h1 : r + (n + 1) ≤ a := by omega
          have h2 : r + n ≤ a := by omega
          have h3 : a ≠ r + n := by omega
          have h4 : a - (r + n) = (a - (r + (n + 1))) + 1 := by omega
          simp [h1, h2, h3, h4]
      · simp [hbl]
  simpa using key vs w 0

/-- Words written from register `d` up in each lane of a list. -/
theorem held_foldLanes (ls : List Nat) (f : Nat → List Word) (w : Wave) (d a b : Nat) (hls : ∀ l ∈ ls, l < 64)
    (hb : b < 64) :
    held (ls.foldl (fun w l => ((f l).zipIdx).foldl (fun w v => writeLane w (d + v.2) l v.1) w) w) a b =
      if b ∈ ls ∧ d ≤ a then ((f b)[a - d]?).getD (held w a b) else held w a b := by
  induction ls generalizing w with
  | nil => simp
  | cons l r ih =>
    simp only [List.foldl_cons]
    rw [ih _ (fun x hx => hls x (List.mem_cons_of_mem _ hx)),
      held_writeWords _ _ _ _ _ _ (hls l List.mem_cons_self) hb]
    by_cases hd : d ≤ a
    · by_cases hbl : b = l
      · subst hbl
        by_cases hbr : b ∈ r
        · cases h : (f b)[a - d]? <;> simp [hbr, hd, h]
        · simp [hbr, hd]
      · by_cases hbr : b ∈ r <;> simp [hbl, hbr, hd]
    · simp [hd]

theorem mem_laneList {m : LaneMask} {l : Nat} : l ∈ laneList m ↔ l < 64 ∧ m.getLsbD l = true := by
  simp [laneList]

theorem foldLanes_regsOnly (ls : List Nat) (f : Nat → List Word) (w : Wave) (d : Nat) :
    ls.foldl (fun w l => ((f l).zipIdx).foldl (fun w v => writeLane w (d + v.2) l v.1) w) w =
      { w with regs := (ls.foldl (fun w l => ((f l).zipIdx).foldl (fun w v => writeLane w (d + v.2) l v.1) w) w).regs } := by
  have inner : ∀ (vs : List (Word × Nat)) (l : Nat) (w : Wave),
      vs.foldl (fun w v => writeLane w (d + v.2) l v.1) w =
        { w with regs := (vs.foldl (fun w v => writeLane w (d + v.2) l v.1) w).regs } := by
    intro vs l
    induction vs with
    | nil => intro w; rfl
    | cons v r ih => intro w; simp only [List.foldl_cons]; rw [ih]; rfl
  induction ls generalizing w with
  | nil => rfl
  | cons l r ih =>
    simp only [List.foldl_cons]
    rw [ih, inner]

/-- A bookkeeping mark leaves the stored words as they are. -/
theorem held_markFixed (s : State) (w : Wave) (r n : Nat) (ls : LaneMask) (b a l : Nat) :
    held (markFixed s w r n ls b) a l = held w a l := rfl

/-- What a write leaves of a record of undefined lanes names no lane that the record did not. -/
theorem afterWrite_sub (w : Wave) (r : Nat) (ls : LaneMask) (u v : Undef) (h : v ∈ Undef.afterWrite w r ls u) :
    v.reg = u.reg ∧ ∀ l, v.lanes.getLsbD l = true → u.lanes.getLsbD l = true := by
  unfold Undef.afterWrite at h
  split at h
  · split at h
    · simp at h; subst h; exact ⟨rfl, fun _ x => x⟩
    · split at h
      · simp at h
      · simp at h
        rcases h with rfl | rfl <;> exact ⟨rfl, fun l hl => by simp at hl; exact hl.1⟩
    · split at h
      · simp at h; subst h; exact ⟨rfl, fun l hl => by simp at hl; exact hl.1⟩
      · simp at h; subst h; exact ⟨rfl, fun _ x => x⟩
    · simp at h; subst h; exact ⟨rfl, fun l hl => by simp at hl; exact hl.1⟩
  · simp at h; subst h; exact ⟨rfl, fun _ x => x⟩

theorem undef_fold_clean (s : State) (w : Wave) (d n : Nat) (ls : LaneMask) (r l : Nat) (us : List Undef)
    (h : ∀ u ∈ us, ¬(u.reg = r ∧ u.lanes.getLsbD l = true)) :
    ∀ u ∈ (List.range n).foldl (fun us k => us.flatMap (Undef.afterWrite w (d + k) ls)) us,
      ¬(u.reg = r ∧ u.lanes.getLsbD l = true) := by
  generalize List.range n = ks
  induction ks generalizing us with
  | nil => exact h
  | cons j rest ih =>
    simp only [List.foldl_cons]
    apply ih
    intro v hv
    rw [List.mem_flatMap] at hv
    obtain ⟨u, hu, hvu⟩ := hv
    have := afterWrite_sub w _ ls u v hvu
    intro hc
    exact h u hu ⟨this.1 ▸ hc.1, this.2 l hc.2⟩

theorem laneBit_get (j l : Nat) (hl : l < 64) : (laneBit j).getLsbD l = decide (l = j) := by
  unfold laneBit
  rw [BitVec.getLsbD_shiftLeft]
  by_cases h : l = j
  · subst h; simp [hl]
  · by_cases h2 : l < j
    · simp [h2, h]
    · have : l - j ≠ 0 := by omega
      simp [h, this]

theorem lanesMask_get' (ls : List Nat) (m : LaneMask) (l : Nat) (hl : l < 64) :
    (ls.foldl (fun m l => m ||| laneBit l) m).getLsbD l = (m.getLsbD l || decide (l ∈ ls)) := by
  induction ls generalizing m with
  | nil => simp
  | cons j r ih =>
    simp only [List.foldl_cons]
    rw [ih, BitVec.getLsbD_or, laneBit_get j l hl]
    by_cases h1 : l = j <;> by_cases h2 : l ∈ r <;> simp [h1, h2]

theorem lanesMask_get {ls : List Nat} {l : Nat} (hl : l < 64) :
    (lanesMask ls).getLsbD l = true ↔ l ∈ ls := by
  unfold lanesMask
  rw [lanesMask_get' _ _ _ hl]; simp

/-- The bookkeeping of a fixed-latency write makes its lanes undefined for the bound. -/
theorem undefinedFor_markFixed (s : State) (w : Wave) (d n : Nat) (ls : List Nat) (b : Nat) (_h : ∀ l ∈ ls, l < 64) :
    UndefinedFor s w (markFixed s w d n (lanesMask ls) b) d n (lanesMask ls) b := by
  intro r l c h1 h2 h3 h4
  constructor
  · intro hc
    unfold undefAt markFixed
    simp only [List.any_append, List.any_map, Bool.or_eq_true]
    right
    rw [List.any_eq_true]
    refine ⟨r - d, by simp; omega, ?_⟩
    have : d + (r - d) = r := by omega
    simp [this, h4, UndefWhy.holds, hc]
  · intro hc hclean
    unfold undefAt markFixed
    simp only [List.any_append, List.any_map, Bool.or_eq_false_iff]
    constructor
    · rw [List.any_eq_false]
      intro u hu
      have hsub : ¬(u.reg = r ∧ u.lanes.getLsbD l = true) := by
        have hstart : ∀ u ∈ undefLive s w w.undef, ¬(u.reg = r ∧ u.lanes.getLsbD l = true) := by
          intro u hu; exact hclean u (List.mem_of_mem_filter hu)
        exact undef_fold_clean s w d n (lanesMask ls) r l (undefLive s w w.undef) hstart u hu
      by_cases hr : u.reg = r
      · have : u.lanes.getLsbD l = false := by
          cases hx : u.lanes.getLsbD l
          · rfl
          · exact absurd ⟨hr, hx⟩ hsub
        simp [this]
      · simp [hr]
    · rw [List.any_eq_false]
      intro j _
      have : ¬ c < s.cycle + b := by omega
      simp [UndefWhy.holds, this]

/-- `writeLanesL`: registers of the active lanes hold the words given, and nothing else has changed. -/
theorem writeLanesL_result (i : Instr) {s : State} {k : Issue} (d : Reg) (n b : Nat) (f : Nat → List Word)
    (hk : getIssue s = some k) :
    LaneResult i s ((Eff.done (writeLanesL s k d n b f)).finish i k) k d.toNat n b f := by
  have hmem : ∀ l ∈ k.actList s, l < 64 := fun l hl => (mem_laneList.mp hl).1
  refine laneResult_done _ hk ?_ ⟨?_, ?_⟩ ?_
  · show List.foldl _ _ _ = _
    rw [foldLanes_regsOnly]; rfl
  · intro l j v hl hact hv
    show held (List.foldl _ _ _) _ _ = _
    rw [held_foldLanes _ _ _ _ _ _ hmem hl]
    have : l ∈ k.actList s := mem_laneList.mpr ⟨hl, hact⟩
    simp [this, hv]
  · intro l r hl hor
    show held (List.foldl _ _ _) _ _ = _
    rw [held_foldLanes _ _ _ _ _ _ hmem hl, held_markFixed]
    split
    · rename_i hin
      have hact : (k.act s).getLsbD l = true := (mem_laneList.mp hin.1).2
      have hnone : (f l)[r - d.toNat]? = none := by
        rw [List.getElem?_eq_none_iff]
        rcases hor with h | h | h
        · simp [hact] at h
        · omega
        · omega
      simp [hnone]
    · rfl
  · have hm := undefinedFor_markFixed s k.w d.toNat n (k.actList s) b hmem
    intro r l c h1 h2 h3 h4
    have := hm r l c h1 h2 h3 ((lanesMask_get h3).mpr (mem_laneList.mpr ⟨h3, h4⟩))
    show (_ → undefAt _ (List.foldl _ _ _) _ _ = _) ∧ (_ → _ → undefAt _ (List.foldl _ _ _) _ _ = _)
    rw [foldLanes_regsOnly]
    exact this

/-- `writeLanes` of one register or of two is `writeLanesL` of the value's words. -/
theorem writeLanes_eq (s : State) (k : Issue) (d : Reg) (n b : Nat) (f : Nat → Dword) :
    writeLanes s k d n b f = writeLanesL s k d n b fun l => valWords n (f l) := by
  have h : ∀ (w : Wave) (l : Nat), writeVal w n d.toNat l (f l) =
      ((valWords n (f l)).zipIdx).foldl (fun w v => writeLane w (d.toNat + v.2) l v.1) w := by
    intro w l
    unfold writeVal valWords
    split <;> simp
  simp only [writeLanes, writeLanesL, h]

/-- `writeLanes`: registers of the active lanes hold the value given, and nothing else has changed. -/
theorem writeLanes_result (i : Instr) {s : State} {k : Issue} (d : Reg) (n b : Nat) (f : Nat → Dword)
    (hk : getIssue s = some k) :
    LaneResult i s ((Eff.done (writeLanes s k d n b f)).finish i k) k d.toNat n b fun l => valWords n (f l) := by
  rw [writeLanes_eq]; exact writeLanesL_result i d n b _ hk

/-! Completion of register instructions. -/

/-- A 64-bit pattern of an integer, word by word. -/
theorem words_ofInt (t : ITy) (r : Int) : valWords t.regs (BitVec.ofInt 64 r) = intWords t r := by
  cases t <;> simp [valWords, intWords, ITy.regs]
  · apply BitVec.eq_of_toNat_eq; simp [BitVec.toNat_ofInt]; omega
  · apply BitVec.eq_of_toNat_eq; simp [BitVec.toNat_ofInt]; omega
  · constructor
    · apply BitVec.eq_of_toNat_eq; simp [BitVec.toNat_ofInt]; omega
    · apply BitVec.eq_of_toNat_eq; simp [BitVec.toNat_ofInt, Nat.shiftRight_eq_div_pow]; omega

/-- A meaning of the integer class over `writeLanes` completes. -/
theorem intCompletes_of {i : Instr} {t : ITy} {d : Reg} {f : State → Issue → Nat → Int}
    (he : ∀ s, exec i s = issueWith i s fun k s => .done (writeLanes s k d t.regs 4 fun l => BitVec.ofInt 64 (f s k l))) :
    IntCompletes i t d f := by
  intro s k h
  refine ⟨_, (he s).trans (issueWith_runs _ h), ?_⟩
  simpa only [words_ofInt] using writeLanes_result i d t.regs 4 (fun l => BitVec.ofInt 64 (f s k l)) h.1

/-- As `intCompletes_of`, with the bits given. -/
theorem bitsComplete_of {i : Instr} {n : Nat} {d : Reg} {f : State → Issue → Nat → Dword}
    (he : ∀ s, exec i s = issueWith i s fun k s => .done (writeLanes s k d n 4 fun l => f s k l)) :
    BitsComplete i n d f := by
  intro s k h
  exact ⟨_, (he s).trans (issueWith_runs _ h), writeLanes_result i d n 4 (fun l => f s k l) h.1⟩

/-- The lanes of a set of quads. -/
theorem lanesOf_get (q : QuadMask) {l : Nat} (hl : l < 64) : (lanesOf q).getLsbD l = q.getLsbD (l / 4) := by
  have key : ∀ (n : Nat) (m : LaneMask), n ≤ 16 → ((List.range n).foldl (fun m k => if q.getLsbD k then m ||| ((0xF : LaneMask) <<< (4 * k)) else m) m).getLsbD l =
      (m.getLsbD l || (decide (l / 4 < n) && q.getLsbD (l / 4))) := by
    intro n m
    induction n with
    | zero => simp
    | succ n ih =>
      intro hn
      rw [List.range_succ, List.foldl_append]
      simp only [List.foldl_cons, List.foldl_nil]
      have hF : ((0xF : LaneMask) <<< (4 * n)).getLsbD l = decide (l / 4 = n) := by
        rw [BitVec.getLsbD_shiftLeft]
        have : (0xF : LaneMask).getLsbD (l - 4 * n) = decide (l - 4 * n < 4) := by
          have h : ∀ j : Fin 64, (0xF : LaneMask).getLsbD j = decide (j.val < 4) := by decide
          exact h ⟨l - 4 * n, by omega⟩
        rw [this]
        by_cases h : l / 4 = n
        · have h1 : ¬ l < 4 * n := by omega
          have h2 : l - 4 * n < 4 := by omega
          simp [h, h1, h2, hl]
        · by_cases h1 : l < 4 * n
          · simp [h, h1]
          · have h2 : ¬ l - 4 * n < 4 := by omega
            simp [h, h2]
      by_cases hq : q.getLsbD n = true
      · simp only [hq, if_true]
        rw [BitVec.getLsbD_or, ih (by omega), hF]
        by_cases h : l / 4 = n
        · subst h; simp [hq]
        · have : (l / 4 < n + 1) ↔ l / 4 < n := by omega
          simp [h, this]
      · simp only [hq]
        rw [if_neg (by simp), ih (by omega)]
        by_cases h : l / 4 = n
        · subst h; simp [hq]
        · have : (l / 4 < n + 1) ↔ l / 4 < n := by omega
          simp [this]
  have : l / 4 < 16 := by omega
  have h := key 16 0 (le_refl _)
  unfold lanesOf
  rw [h]; simp [this]

/-- An effect on the issuing wave that leaves its fragments and clocks, and retirement. -/
theorem retired_of (i : Instr) {s : State} {k : Issue} (g : Wave → Wave) (hk : getIssue s = some k)
    (hfr : (g k.w).frags = k.w.frags) (hcl : (g k.w).clocks = k.w.clocks) :
    let t := (Eff.done (modWave s k.uid g)).finish i k
    OnlyWave s t k.uid ∧ SameBytes s t ∧ assocGet t.waves k.uid = some (retiredWave i s.cycle k (g k.w)) ∧
      Advanced i k (retiredWave i s.cycle k (g k.w)) := by
  have hw := (getIssue_spec hk).2.1
  have hw1 : assocGet (modWave s k.uid g).waves k.uid = some (g k.w) := by simp [assocGet_mod_same, hw]
  have hret := retire_waves (i := i) hk hw1 hfr
  refine ⟨⟨rfl, ?_⟩, ⟨fun a => rfl, rfl⟩, hret.1, advanced_retiredWave _ hk hfr hcl⟩
  intro v hv
  have := hret.2 v hv
  simp only [Eff.finish, bumpFree_waves]
  rw [this]; simp [hv]

end Sys2Proof.Machine
end

