-- ==== Sys2Proof/Laws/Memory.lean ====
section
/-! SUPPORT. Memory: reads after writes, and the canonical form kept by every operation on memory. -/

namespace Sys2Proof.Machine

/-! The canonical form. -/

theorem wfFrom_weaken {m : List Host.Cell} {a b : Nat} (h : wfFrom b m = true) (hab : a ≤ b) : wfFrom a m = true := by
  cases m with
  | nil => rfl
  | cons e r => obtain ⟨k, v⟩ := e; simp [wfFrom] at h ⊢; exact ⟨⟨by omega, h.1.2⟩, h.2⟩

theorem assocGet_below {m : List Host.Cell} {a k : Nat} (h : wfFrom a m = true) (hk : k < a) : assocGet m k = none := by
  induction m generalizing a with
  | nil => rfl
  | cons e r ih =>
    obtain ⟨j, v⟩ := e
    simp [wfFrom] at h
    have hj : j ≠ k := by omega
    simp [assocGet, hj, ih h.2 (by omega)]

theorem wfFrom_set {m : List Host.Cell} {lo a : Nat} {b : Byte} (h : wfFrom lo m = true) (ha : lo ≤ a) (hb : b ≠ 0) :
    wfFrom lo (assocSet m a b) = true := by
  have hb' : ¬b = 0#8 := hb
  induction m generalizing lo with
  | nil => simp [assocSet, wfFrom, ha, hb']
  | cons e r ih =>
    obtain ⟨j, v⟩ := e
    simp [wfFrom] at h
    unfold assocSet
    split
    · rename_i hlt; simp [wfFrom, ha, hb', h]; omega
    · split
      · rename_i heq; subst heq; simp [wfFrom, ha, hb', h.2]
      · rename_i h1 h2; simp [wfFrom, h.1, ih h.2 (by omega)]

theorem wfFrom_del {m : List Host.Cell} {lo : Nat} (a : Nat) (h : wfFrom lo m = true) : wfFrom lo (assocDel m a) = true := by
  induction m generalizing lo with
  | nil => rfl
  | cons e r ih =>
    obtain ⟨j, v⟩ := e
    simp [wfFrom] at h
    unfold assocDel
    split
    · exact wfFrom_weaken (ih h.2) (by omega)
    · simp [wfFrom, h.1, ih h.2]

theorem wfFrom_filter {m : List Host.Cell} {lo : Nat} (p : Host.Cell → Bool) (h : wfFrom lo m = true) :
    wfFrom lo (m.filter p) = true := by
  induction m generalizing lo with
  | nil => rfl
  | cons e r ih =>
    obtain ⟨j, v⟩ := e
    simp [wfFrom] at h
    by_cases hp : p (j, v) = true
    · simp [hp, wfFrom, h.1, ih h.2]
    · simp only [List.filter_cons, hp]; exact wfFrom_weaken (ih h.2) (by omega)

theorem memWrite_wf {m : List Host.Cell} (a : Nat) (b : Byte) (h : Memory.wf m = true) : Memory.wf (memWrite m a b) = true := by
  unfold memWrite
  split
  · exact wfFrom_del a h
  · rename_i hb; exact wfFrom_set h (Nat.zero_le a) hb

theorem memWriteN_wf {m : List Host.Cell} (a : Nat) (bs : List Byte) (h : Memory.wf m = true) :
    Memory.wf (memWriteN m a bs) = true := by
  induction bs generalizing m a with
  | nil => exact h
  | cons b r ih => exact ih (a + 1) (memWrite_wf a b h)

theorem memClear_wf {m : List Host.Cell} (a n : Nat) (h : Memory.wf m = true) : Memory.wf (memClear m a n) = true :=
  wfFrom_filter _ h

theorem memPut_wf {m : List Host.Cell} (a n v : Nat) (h : Memory.wf m = true) : Memory.wf (memPut m a n v) = true :=
  memWriteN_wf a _ h

theorem touchLeaf_wf {m : List Host.Cell} (leaf : Nat) (wr : Bool) (h : Memory.wf m = true) :
    Memory.wf (touchLeaf m leaf wr) = true :=
  memWrite_wf _ _ h

/-! Reads. -/

theorem memRead_write_same {m : List Host.Cell} (a : Nat) (b : Byte) (h : Memory.wf m = true) :
    memRead (memWrite m a b) a = b := by
  unfold memWrite memRead
  split
  · rename_i hb; subst hb; simp
  · simp

theorem memRead_write_other (m : List Host.Cell) {a c : Nat} (b : Byte) (h : c ≠ a) :
    memRead (memWrite m a b) c = memRead m c := by
  unfold memWrite memRead
  split <;> simp [h]

theorem memRead_writeN_other (m : List Host.Cell) {a c : Nat} (bs : List Byte) (h : c < a ∨ a + bs.length ≤ c) :
    memRead (memWriteN m a bs) c = memRead m c := by
  induction bs generalizing m a with
  | nil => rfl
  | cons b r ih =>
    simp at h
    simp only [memWriteN]
    rw [ih _ (by omega), memRead_write_other _ _ (by omega)]

theorem memRead_writeN_same {m : List Host.Cell} {a i : Nat} (bs : List Byte) (h : Memory.wf m = true) (hi : i < bs.length) :
    memRead (memWriteN m a bs) (a + i) = bs[i] := by
  induction bs generalizing m a i with
  | nil => simp at hi
  | cons b r ih =>
    simp only [memWriteN]
    cases i with
    | zero =>
      rw [memRead_writeN_other _ _ (by omega)]
      simpa using memRead_write_same a b h
    | succ i =>
      have := ih (a := a + 1) (memWrite_wf a b h) (by simpa using hi)
      simpa [Nat.add_assoc, Nat.add_comm 1 i] using this

theorem memReadN_writeN {m : List Host.Cell} (a : Nat) (bs : List Byte) (h : Memory.wf m = true) :
    memReadN (memWriteN m a bs) a bs.length = bs := by
  apply List.ext_getElem
  · simp [memReadN]
  · intro i h1 h2; simp [memReadN, memRead_writeN_same bs h h2]

theorem memRead_clear (m : List Host.Cell) (a n c : Nat) (h : c < a ∨ a + n ≤ c) : memRead (memClear m a n) c = memRead m c := by
  unfold memRead memClear
  congr 1
  induction m with
  | nil => rfl
  | cons e r ih =>
    obtain ⟨j, v⟩ := e
    by_cases hj : j = c
    · subst hj
      have : (!(decide (a ≤ j) && decide (j < a + n))) = true := by simp; omega
      simp only [List.filter_cons, this, if_true, assocGet]
    · by_cases hp : (!(decide (a ≤ j) && decide (j < a + n))) = true
      · simp only [List.filter_cons, hp, if_true, assocGet, hj, if_false]; exact ih
      · simp only [List.filter_cons, hp, assocGet, hj, if_false]; exact ih

end Sys2Proof.Machine
end

