-- ==== Sys2Proof/Laws/Trap.lean ====
section
/-!
SUPPORT. Taking an exception: what `takeTrap` leaves where the window can open.
-/

namespace Sys2Proof.Machine

/-- A change of one wave that keeps what the trap reserve counts leaves the reserve in use. -/
theorem reserveUsed_modWave (s : State) (u p : Nat) (g : Wave → Wave)
    (h : ∀ w, (g w).reserve = w.reserve ∧ (g w).core = w.core ∧ (g w).ctx = w.ctx) :
    reserveUsed (modWave s u g) p = reserveUsed s p := by
  unfold reserveUsed
  have key : ∀ (l : List (Nat × Wave)) (n : Nat),
      ((assocMod l u g).filter fun e => e.2.core == p).foldl (fun n e =>
        match assocGet s.ctxs e.2.ctx with
        | some c => if c.resident then n + e.2.reserve else n
        | none => n) n =
      (l.filter fun e => e.2.core == p).foldl (fun n e =>
        match assocGet s.ctxs e.2.ctx with
        | some c => if c.resident then n + e.2.reserve else n
        | none => n) n := by
    intro l
    induction l with
    | nil => intro n; rfl
    | cons e r ih =>
      intro n
      have he : (assocMod (e :: r) u g) = (if e.1 = u then (e.1, g e.2) else e) :: assocMod r u g := rfl
      rw [he]
      by_cases hu : e.1 = u
      · rw [if_pos hu]
        by_cases hp : e.2.core = p
        · simp only [List.filter_cons, (h e.2).2.1, hp, beq_self_eq_true, if_true, List.foldl_cons, (h e.2).1, (h e.2).2.2]
          exact ih _
        · have hp' : (e.2.core == p) = false := by simpa using hp
          simp only [List.filter_cons, (h e.2).2.1, hp']
          exact ih n
      · rw [if_neg hu]
        by_cases hp : e.2.core = p
        · simp only [List.filter_cons, hp, beq_self_eq_true, if_true, List.foldl_cons]
          exact ih _
        · have hp' : (e.2.core == p) = false := by simpa using hp
          simp only [List.filter_cons, hp']
          exact ih n
  exact key s.waves 0

theorem trapLine_modWave (s : State) (u p : Nat) (g : Wave → Wave) (h : ∀ w, (g w).ctx = w.ctx) :
    trapLine (modWave s u g) p = trapLine s p := by
  unfold trapLine
  show List.filter _ (getCore s p).trapQ = List.filter _ (getCore s p).trapQ
  congr 1
  funext v
  show (match assocGet (assocMod s.waves u g) v with | some w => _ | none => _) = _
  by_cases hv : v = u
  · subst hv
    rw [assocGet_mod_same]
    cases assocGet s.waves v with
    | none => rfl
    | some w => simp only [Option.map_some]; rw [h w]; rfl
  · rw [assocGet_mod_other _ _ _ _ hv]
    cases assocGet s.waves v <;> rfl

/-- The condition of taking the window at once survives a change of the wave that keeps what it rests on. -/
structure KeepsTrap (g : Wave → Wave) : Prop where
  window : ∀ w, (g w).window = w.window
  held : ∀ w, (g w).held = w.held
  core : ∀ w, (g w).core = w.core
  ctx : ∀ w, (g w).ctx = w.ctx
  trapWait : ∀ w, (g w).trapWait = w.trapWait
  report : ∀ w, (g w).report = w.report
  gran : ∀ w, (g w).gran = w.gran
  frame : ∀ w, (g w).frame = w.frame
  low : ∀ c w q, lowerDue c (g w) q = lowerDue c w q

theorem takeTrap_open {s : State} {u q : Nat} {w : Wave} {c : Context} {r : TrapRec} (hw : assocGet s.waves u = some w)
    (hc : assocGet s.ctxs w.ctx = some c) (h1 : w.window = none) (h2 : w.trapWait = none) (h3 : w.report = none)
    (h4 : c.trapbase ≠ 0) (h6 : lowerDue c w q = false)
    (h5 : reserveNeed w = 0 ∨ trapLine s w.core = [] ∧ reserveUsed s w.core + reserveNeed w ≤ 8) :
    takeTrap s u q r = openWindow (modWave s u fun w => trapMeets s.cycle w r) u q false r := by
  have hl := trapLine_modWave s u w.core (fun w => trapMeets s.cycle w r) (fun _ => rfl)
  have hr := reserveUsed_modWave s u w.core (fun w => trapMeets s.cycle w r) (fun _ => ⟨rfl, rfl, rfl⟩)
  unfold takeTrap
  simp only [hw, h1, h2, h3, hc, h4, h6]
  rcases h5 with h | ⟨ha, hb⟩
  · simp [h]
  · simp only [hl, hr, ha, hb]; simp

/-- The fragment as it starts its handler. -/
def handlerFrag (ready : Nat) (c : Context) (f : Frag) : Frag :=
  { f with pc := c.trapbase, header := true, park := .none, retry := false, closed := false, only := none, trap := none,
           readyAt := ready, waited := 0, promoted := none }

/-- The wave once its window is open. -/
def opened (cycle : Nat) (w : Wave) (q : Nat) (c : Context) (v : Window) (us : List Undef) : Wave :=
  Wave.modFrag { w with window := some v, trapWait := none, watchdog := 0, csrOwner := [], undef := w.undef ++ us } q
    (handlerFrag (max (cycle + 1) w.boundMax) c)

/-- What the window keeps of the fragment and of its wave. -/
structure WindowOf (v : Window) (w : Wave) (f : Frag) (r : TrapRec) : Prop where
  quads : v.quads = f.quads
  mask : v.mask = w.mask
  cc : v.cc = w.cc
  tpc : v.tpc = r.tpc
  blk : v.blk = f.blk
  fin : v.fin = f.fin
  left : v.left = f.left

/-- Nothing but the waves and physical memory differs: its bytes, which of them are undefined, and the parcels' old values. -/
def WavesMem (s t : State) : Prop := t = { s with waves := t.waves, mem := t.mem, undefMem := t.undefMem, past := t.past }

theorem WavesMem.trans {s t r : State} (h : WavesMem s t) (h' : WavesMem t r) : WavesMem s r := by
  unfold WavesMem at *
  rw [h', h]

/-- A change of physical memory within `[pa, pa + n)` alone. -/
structure MemIn (pa n : Nat) (s t : State) : Prop where
  only : t = { s with mem := t.mem, undefMem := t.undefMem, past := t.past }
  out : ∀ a, a < pa ∨ pa + n ≤ a → memRead t.mem a = memRead s.mem a

theorem MemIn.refl (pa n : Nat) (s : State) : MemIn pa n s s := ⟨rfl, fun _ _ => rfl⟩

theorem MemIn.trans {pa n : Nat} {s t r : State} (h : MemIn pa n s t) (h' : MemIn pa n t r) : MemIn pa n s r :=
  ⟨by rw [h'.only, h.only], fun a ha => (h'.out a ha).trans (h.out a ha)⟩

theorem physPut_memIn {pa n q : Nat} (s : State) (bs : List Byte) (h1 : pa ≤ q) (h2 : q + bs.length ≤ pa + n) :
    MemIn pa n s (physPut s q bs) := by
  refine ⟨rfl, fun a ha => ?_⟩
  exact memRead_writeN_other _ _ (by omega)

theorem MemIn.foldl {pa n : Nat} {f : State → Nat → State} (l : List Nat) (hf : ∀ t, ∀ i ∈ l, MemIn pa n t (f t i)) :
    ∀ t, MemIn pa n t (l.foldl f t) := by
  induction l with
  | nil => exact fun t => MemIn.refl _ _ _
  | cons i r ih =>
    exact fun t => (hf t i (by simp)).trans (ih (fun t j hj => hf t j (by simp [hj])) _)

theorem natLe_length (n v : Nat) : (natLe n v).length = n := by
  induction n generalizing v with
  | zero => rfl
  | succ n ih => simp [natLe, ih]

theorem frameRow_length (s : State) (w : Wave) (i : Nat) : (frameRow s w i).length = 256 := by
  unfold frameRow
  rw [List.length_flatMap]
  simp [natLe_length]

/-- The frame's stores reach the frame alone. -/
theorem storeFrame_memIn (s : State) (w : Wave) (pa : Nat) : MemIn pa 4096 s (storeFrame s w pa) := by
  have put : ∀ t i, i < 16 → MemIn pa 4096 t (physPut t (pa + 256 * i) (frameRow s w i)) := fun t i hi =>
    physPut_memIn _ _ (by omega) (by rw [frameRow_length]; omega)
  have h1 : MemIn pa 4096 s (if holds30 w then (List.range 8).foldl
      (fun t i => physPut t (pa + 256 * i) (frameRow s w i)) s else s) := by
    split
    · exact MemIn.foldl _ (fun t i hi => put t i (by have := List.mem_range.1 hi; omega)) _
    · exact MemIn.refl _ _ _
  unfold storeFrame
  dsimp only
  split
  · exact h1.trans (MemIn.foldl _ (fun t i hi => put t (8 + i) (by have := List.mem_range.1 hi; omega)) _)
  · exact h1

/-- Of the state, wave `u` is `w'`, the others are as before, and beside physical memory nothing else differs. -/
structure WaveIs (s t : State) (u : Nat) (w' : Wave) : Prop where
  only : WavesMem s t
  here : assocGet t.waves u = some w'
  other : ∀ x, x ≠ u → assocGet t.waves x = assocGet s.waves x

/-- The frame is stored at most: the wave is as it was but for the window's mark of it. -/
theorem storeDue_opens {s : State} {u : Nat} {w : Wave} {c : Context} (hw : assocGet s.waves u = some w)
    (hc : assocGet s.ctxs w.ctx = some c) (hx : 30 < w.gran → FrameMapped s c w .write)
    (hs : w.gran ≤ 30 → ∀ v, w.window = some v → v.stored = true) :
    ∃ w', WaveIs s (storeDue s u) u w' ∧
      (w' = w ∨ w' = { w with window := w.window.map fun v => { v with stored := true } }) ∧
      (w.gran ≤ 30 → storeDue s u = s) ∧ OutsideFrame s (storeDue s u) c w := by
  have hn : WaveIs s s u w := ⟨rfl, hw, fun _ _ => rfl⟩
  unfold storeDue
  simp only [hw]
  by_cases hd : ((w.window.any fun v => !v.stored) && decide (w.boundMax ≤ s.cycle)) = true
  · rw [if_pos hd]
    have hg : 30 < w.gran := by
      by_contra hg
      simp only [Bool.and_eq_true, Option.any_eq_true] at hd
      obtain ⟨⟨v, hv, hv2⟩, _⟩ := hd
      simp [hs (by omega) v hv] at hv2
    have h30 : (holds30 w || holds31 w) = true := by simp [holds30]; left; omega
    obtain ⟨hmi, pa, leaf, hpa⟩ := hx hg
    have he : frameStore s u w = modWave (storeFrame (leafTouch s leaf true) w pa) u
        fun w => { w with window := w.window.map fun v => { v with stored := true } } := by
      unfold frameStore
      simp only [h30, if_true, xlateService, hc, hmi, Bool.false_eq_true, if_false, hpa]
      rfl
    rw [he]
    have hm := storeFrame_memIn (leafTouch s leaf true) w pa
    have hwv : (storeFrame (leafTouch s leaf true) w pa).waves = s.waves := by rw [hm.only]; rfl
    refine ⟨_, ⟨?_, ?_, ?_⟩, Or.inr rfl, fun h => absurd h (by omega), ?_⟩
    · show WavesMem s (modWave _ _ _)
      unfold WavesMem modWave
      rw [hm.only]; rfl
    · simp only [modWave_waves, hwv, assocGet_mod_same, hw, Option.map_some]
    · intro x hx'
      simp only [modWave_waves, hwv]
      exact assocGet_mod_other _ _ _ _ hx'
    · intro pa' leaf' h' a ha hb
      rw [hpa] at h'
      obtain ⟨rfl, rfl⟩ : pa = pa' ∧ leaf = leaf' := by simpa using h'
      show memRead (storeFrame (leafTouch s leaf true) w pa).mem a = _
      rw [hm.out a hb]
      exact memRead_write_other _ _ ha
  · rw [if_neg hd]
    exact ⟨w, hn, Or.inl rfl, fun _ => rfl, fun _ _ _ _ _ _ => rfl⟩

/-- Translation rests on memory and on the hub alone. -/
theorem xlate_congr {s t : State} (hm : t.mem = s.mem) (hh : t.hub = s.hub) (c : Context) (va : Nat) (a : Acc) :
    xlate t c va a = xlate s c va a := by
  have hp : paExists t = paExists s := by funext pa; unfold paExists; rw [hh]
  unfold xlate walk
  rw [hm, hp]

/-- The window opens where no frame is needed, or where the frame's page stands mapped. -/
theorem openWindow_opens {s : State} {u q : Nat} {w : Wave} {f : Frag} {c : Context} {r : TrapRec}
    (hw : assocGet s.waves u = some w) (hf : w.frag? q = some f) (hc : assocGet s.ctxs w.ctx = some c)
    (hx : 30 < w.gran → FrameMapped s c w .write) :
    ∃ v us, WaveIs s (openWindow s u q false r) u (opened s.cycle w q c v us) ∧
      (w.gran ≤ 30 → SameBytes s (openWindow s u q false r)) ∧ OutsideFrame s (openWindow s u q false r) c w ∧ WindowOf v w f r ∧
      ∀ x ∈ us, 240 ≤ x.reg := by
  have he : ∃ v us, openWindow s u q false r = storeDue (setWave s u (opened s.cycle w q c v us)) u ∧ WindowOf v w f r ∧
      (∀ x ∈ us, 240 ≤ x.reg) ∧ v.stored = !(holds30 w || holds31 w) := by
    unfold openWindow
    simp only [hw, hf, hc]
    refine ⟨_, _, rfl, ⟨rfl, rfl, rfl, rfl, rfl, rfl, rfl⟩, ?_, rfl⟩
    intro x hx'
    simp only [List.mem_append] at hx'
    rcases hx' with hx' | hx' <;> split at hx' <;>
      simp only [List.not_mem_nil, List.mem_map, List.mem_range] at hx' <;> obtain ⟨i, hi, rfl⟩ := hx' <;> simp
    omega
  obtain ⟨v, us, he, hv, hu, hst⟩ := he
  have hxl : ∀ c va a, xlate (setWave s u (opened s.cycle w q c v us)) c va a = xlate s c va a :=
    fun c va a => xlate_congr rfl rfl c va a
  obtain ⟨w', hi, hor, hsame, hout⟩ := storeDue_opens (s := setWave s u (opened s.cycle w q c v us)) (u := u)
    (w := opened s.cycle w q c v us) (c := c) (assocGet_set_same _ _ _) hc
    (fun hg => ⟨(hx hg).1, by
      obtain ⟨pa, leaf, h⟩ := (hx hg).2
      exact ⟨pa, leaf, (xlate_congr rfl rfl c _ _).trans h⟩⟩)
    (fun hg v' hv' => by
      have : v = v' := by simpa [opened, Wave.modFrag] using hv'
      subst this
      rw [hst]
      have : ¬ 31 ≤ w.gran := by
        have hg' : w.gran ≤ 30 := hg
        omega
      simp [holds30, holds31]; omega)
  have hb : ∀ v', opened s.cycle w q c v' us = { opened s.cycle w q c v us with window := some v' } := fun _ => rfl
  have fin : ∀ v', WindowOf v' w f r → w' = opened s.cycle w q c v' us →
      ∃ v us, WaveIs s (openWindow s u q false r) u (opened s.cycle w q c v us) ∧
      (w.gran ≤ 30 → SameBytes s (openWindow s u q false r)) ∧ OutsideFrame s (openWindow s u q false r) c w ∧ WindowOf v w f r ∧
      ∀ x ∈ us, 240 ≤ x.reg := by
    intro v' hv' hw'
    subst hw'
    rw [he]
    refine ⟨v', us, ⟨?_, hi.here, ?_⟩, ?_, ?_, hv', hu⟩
    · exact WavesMem.trans (t := setWave s u (opened s.cycle w q c v us)) rfl hi.only
    · intro x hx'
      exact (hi.other x hx').trans (assocGet_set_other _ _ _ _ hx')
    · intro hg
      rw [hsame hg]
      exact ⟨fun _ => rfl, rfl⟩
    · intro pa leaf h a ha hb'
      exact hout pa leaf ((xlate_congr rfl rfl c _ _).trans h) a ha hb'
  rcases hor with h | h
  · exact fin v hv h
  · refine fin { v with stored := true } ⟨hv.quads, hv.mask, hv.cc, hv.tpc, hv.blk, hv.fin, hv.left⟩ ?_
    rw [h, hb]; rfl

/-- The fragments of a wave once its window is open. -/
theorem opened_frag? (cycle : Nat) (w : Wave) (q p : Nat) (c : Context) (v : Window) (us : List Undef) :
    (opened cycle w q c v us).frag? p =
      if p = q then (w.frag? q).map (handlerFrag (max (cycle + 1) w.boundMax) c) else w.frag? p := by
  unfold opened
  rw [modFrag_frag? _ _ _ (handlerFrag (max (cycle + 1) w.boundMax) c) (fun _ => rfl)]
  rfl

/-- `takeTrap` of a fragment whose window can open, after an effect `g` on its wave. -/
theorem takeTrap_result {s : State} {k : Issue} {r : TrapRec} (g : Wave → Wave) (hk : getIssue s = some k)
    (hcan : CanTrap s k) (hg : KeepsTrap g) {f' : Frag} (hf : (g k.w).frag? k.lead = some f') :
    ∃ v us, WaveIs s (takeTrap (modWave s k.uid g) k.uid k.lead r) k.uid
        (opened s.cycle (trapMeets s.cycle (g k.w) r) k.lead k.c v us) ∧
      (k.w.gran ≤ 30 → SameBytes s (takeTrap (modWave s k.uid g) k.uid k.lead r)) ∧
      OutsideFrame s (takeTrap (modWave s k.uid g) k.uid k.lead r) k.c k.w ∧ WindowOf v (g k.w) f' r ∧
      ∀ x ∈ us, 240 ≤ x.reg := by
  obtain ⟨hcur, hw, hfr, hctx⟩ := getIssue_spec hk
  obtain ⟨c1, c2, c3, c7, c4, c5, c6⟩ := hcan
  have hw1 : assocGet (modWave s k.uid g).waves k.uid = some (g k.w) := by simp [assocGet_mod_same, hw]
  have hneed : reserveNeed (g k.w) = reserveNeed k.w := by simp [reserveNeed, holds30, holds31, hg.gran]
  have hres : reserveNeed (g k.w) = 0 ∨ trapLine (modWave s k.uid g) (g k.w).core = [] ∧
      reserveUsed (modWave s k.uid g) (g k.w).core + reserveNeed (g k.w) ≤ 8 := by
    rw [hg.core, trapLine_modWave _ _ _ _ hg.ctx,
      reserveUsed_modWave _ _ _ _ (fun w => ⟨by unfold Wave.reserve; rw [hg.window, hg.held], hg.core w, hg.ctx w⟩), hneed]
    exact c5
  have hx1 : assocGet (modWave s k.uid g).ctxs (g k.w).ctx = some k.c := by rw [hg.ctx]; exact hctx
  have hopen := takeTrap_open (q := k.lead) (r := r) hw1 hx1 ((hg.window _).trans c1) ((hg.trapWait _).trans c2)
    ((hg.report _).trans c3) c4 ((hg.low _ _ _).trans c7) hres
  have hcy : (modWave s k.uid g).cycle = s.cycle := rfl
  rw [hopen, hcy]
  generalize hs2 : (modWave (modWave s k.uid g) k.uid fun w => trapMeets s.cycle w r) = s2
  have hw2 : assocGet s2.waves k.uid = some (trapMeets s.cycle (g k.w) r) := by rw [← hs2]; simp [assocGet_mod_same, hw]
  have hfa : frameAddr k.c (trapMeets s.cycle (g k.w) r) = frameAddr k.c k.w := by simp [frameAddr, trapMeets, trapRegs, hg.core, hg.frame]
  have hctx2 : assocGet s2.ctxs (trapMeets s.cycle (g k.w) r).ctx = some k.c := by rw [← hs2]; exact hx1
  have hcy2 : s2.cycle = s.cycle := by rw [← hs2]; rfl
  have hme : s2.mem = s.mem := by rw [← hs2]; rfl
  have hxl : ∀ c va a, xlate s2 c va a = xlate s c va a := fun c va a =>
    xlate_congr hme (by rw [← hs2]; rfl) c va a
  have hso : ∀ x, x ≠ k.uid → assocGet s2.waves x = assocGet s.waves x := by
    intro x hx
    rw [← hs2]
    simp only [modWave_waves, assocGet_mod_other _ _ _ _ hx]
  have hsw : WavesMem s s2 := by rw [← hs2]; rfl
  have hun : s2.undefMem = s.undefMem := by rw [← hs2]; rfl
  obtain ⟨v, us, hi, hb, ho, hv, hu⟩ := openWindow_opens (q := k.lead) (f := f') (r := r) hw2 hf hctx2 (by
    intro hgr
    have hgr' : 30 < k.w.gran := by rw [← hg.gran]; exact hgr
    obtain ⟨hm, pa, leaf, h⟩ := c6 hgr'
    unfold FrameMapped
    rw [hfa]
    exact ⟨hm, pa, leaf, by rw [hxl]; exact h⟩)
  rw [hcy2] at hi
  refine ⟨v, us, ⟨hsw.trans hi.only, hi.here, fun x hx => (hi.other x hx).trans (hso x hx)⟩, ?_, ?_,
    ⟨hv.quads, hv.mask, hv.cc, hv.tpc, hv.blk, hv.fin, hv.left⟩, hu⟩
  · intro hgr
    obtain ⟨h1, h2⟩ := hb (by show (g k.w).gran ≤ 30; rw [hg.gran]; exact hgr)
    exact ⟨fun a => by rw [h1, hme], by rw [h2, hun]⟩
  · intro pa leaf h a ha hb'
    rw [← hme]
    refine ho pa leaf ?_ a ha hb'
    rw [hfa, hxl]; exact h

/-- TRAP ENTRY after an effect on the issuing wave alone: the fragment stands in its handler. -/
theorem trapped_of {s : State} {k : Issue} {cause : Cause} {tlm : LaneMask} {tval : VA} {rep hdr : Bool}
    (g : Wave → Wave) (hk : getIssue s = some k) (hcan : CanTrap s k) (hg : KeepsTrap g)
    (hf : ∃ f', (g k.w).frag? k.lead = some f' ∧ f'.quads = k.f.quads ∧ f'.blk = k.f.blk ∧ f'.fin = k.f.fin ∧
      f'.left = k.f.left)
    (ho : ∀ q, q ≠ k.lead → (g k.w).frag? q = k.w.frag? q)
    (hm : (g k.w).mask = k.w.mask) (hcc : (g k.w).cc = k.w.cc) (hl : (g k.w).live = k.w.live)
    (hcl : (g k.w).clocks = k.w.clocks) :
    ∃ t w', bumpFree (takeTrap (modWave s k.uid g) k.uid k.lead ⟨cause, tlm, tval, rep, k.f.pc, hdr⟩) = t ∧
      Trapped s t k cause rep tlm tval ∧ OutsideFrame s t k.c k.w ∧ assocGet t.waves k.uid = some w' ∧
      EntryOf (g k.w) w' := by
  obtain ⟨f', hf', fq, fb, ff, fl⟩ := hf
  generalize hr : (⟨cause, tlm, tval, rep, k.f.pc, hdr⟩ : TrapRec) = r
  obtain ⟨v, us, hi, hb, hout, hv, hu⟩ := takeTrap_result (r := r) g hk hcan hg hf'
  generalize hT : takeTrap (modWave s k.uid g) k.uid k.lead r = T at hi hb hout
  generalize hW : opened s.cycle (trapMeets s.cycle (g k.w) r) k.lead k.c v us = W at hi
  have hgt : assocGet (bumpFree T).waves k.uid = some W := hi.here
  have hlead : W.frag? k.lead = some (handlerFrag (max (s.cycle + 1) (g k.w).boundMax) k.c f') := by
    rw [← hW, opened_frag?, if_pos rfl]
    show ((g k.w).frag? k.lead).map _ = _
    rw [hf']; rfl
  refine ⟨_, W, rfl, ⟨?_, ?_, ?_, W, _, v, hgt, hlead, ?_, ?_, ?_, ?_, ?_, fq, rfl, rfl, rfl, ?_, ?_, ?_, ?_, ?_, ?_, ?_, ?_,
    ?_, ?_, ?_, ?_, ?_⟩, hout, hgt, ?_⟩
  · have := hi.only
    unfold WavesMem at this
    rw [this]; rfl
  · exact hi.other
  · exact hb
  · rw [← hW]; rfl
  · rw [← hW, ← hr]; rfl
  · rw [← hW, ← hr]; rfl
  · rw [← hW, ← hr]; rfl
  · rw [← hW, ← hr]; rfl
  · rw [hv.quads]; exact fq
  · rw [hv.mask]; exact hm
  · rw [hv.cc]; exact hcc
  · rw [hv.tpc, ← hr]
  · rw [hv.blk]; exact fb
  · rw [hv.fin]; exact ff
  · rw [hv.left]; exact fl
  · rw [← hW]; exact hm
  · rw [← hW]; exact hcc
  · rw [← hW]; exact hl
  · rw [← hW]; exact hcl
  · rw [← hW]; rfl
  · intro q hq
    rw [← hW, opened_frag?, if_neg hq]
    exact ho q hq
  · refine ⟨?_, us, ?_, hu⟩
    · rw [← hW]; rfl
    · rw [← hW]; rfl

/-- A change of fragments that keeps what a trap of a lower quad rests on keeps the condition of taking the window. -/
theorem keepsTrap_modFrag (q : Nat) (f : Frag → Frag)
    (h : ∀ x, (f x).quads = x.quads ∧ (f x).trap = x.trap ∧ (f x).park = x.park ∧ (f x).stall = x.stall) :
    KeepsTrap fun w => w.modFrag q f := by
  refine ⟨fun _ => rfl, fun _ => rfl, fun _ => rfl, fun _ => rfl, fun _ => rfl, fun _ => rfl, fun _ => rfl, fun _ => rfl, ?_⟩
  intro c w p
  have hd : ∀ x, (f x).due c = x.due c := fun x => by
    obtain ⟨_, _, h3, h4⟩ := h x
    unfold Frag.due
    rw [h3, h4]
  unfold lowerDue
  simp only [Wave_modFrag_frags, List.any_map]
  congr 1
  funext x
  simp only [Function.comp]
  split
  · rw [hd, (h x).1, (h x).2.1]
  · rfl

/-- A trap of the instruction itself that can be taken at once, with nothing else done, leaves the fragment in its handler and
nothing else changed. -/
theorem trap_only {i : Instr} {s : State} {k : Issue} {c : Cause} (m : LaneMask) (v : VA) (hk : getIssue s = some k)
    (hcan : CanTrap s k) : TrappedOnly s ((Eff.trap c m v s).finish i k) k c false m v := by
  have hf := modFrag_frag? k.w k.lead k.lead (fun f => { f with retry := false, closed := false }) (fun _ => rfl)
  rw [if_pos rfl, (getIssue_spec hk).2.2.1] at hf
  obtain ⟨t, w', ht, h, hout, hw, he, hu⟩ := trapped_of (cause := c) (tlm := m) (tval := v) (rep := false) (hdr := false)
    (fun w => w.modFrag k.lead fun f => { f with retry := false, closed := false }) hk hcan
    (keepsTrap_modFrag _ _ fun _ => ⟨rfl, rfl, rfl, rfl⟩)
    ⟨_, hf, rfl, rfl, rfl, rfl⟩
    (fun q hq => (modFrag_frag? k.w k.lead q (fun f => { f with retry := false, closed := false }) (fun _ => rfl)).trans (if_neg hq)) rfl rfl rfl rfl
  have : (Eff.trap c m v s).finish i k = t := ht
  rw [this]
  exact ⟨h, hout, w', hw, by rw [he]; rfl, hu⟩

/-- A cause of 11 R286 that can be taken at once leaves the fragment in its handler, and nothing else changed. -/
theorem cause_traps {i : Instr} {s : State} {k : Issue} {c : Cause} (body : Issue → State → Eff)
    (hk : getIssue s = some k) (hc : preCause i s k = some c) (hcan : CanTrap s k) :
    ∃ t, issueWith i s body = .next t ∧ TrappedOnly s t k c false (k.act s) 0 :=
  ⟨_, issueWith_cause body hk hc, trap_only _ _ hk hcan⟩

end Sys2Proof.Machine
end

