-- ==== Sys2Proof/Tests/Slice0.lean ====
section
/-!
SUPPORT. Tests of decoding against the encodings the spec prints, of `WellFormed`, of single values worked in the spec, and
of one step each on a small state.
-/

namespace Sys2Proof.Tests

set_option Elab.async false

open Sys2Proof.Machine

/-! Decoding: parcels and assembly as the spec prints them beside each other. -/

def z : FMod := FMod.zero
/-- A B64 form with operands B and C. -/
def rr (d a b c : Reg) (m : FMod := z) : Long := ⟨0, none, d, a, .regs b c m⟩
/-- A B64 form with an immediate. -/
def ri (d a : Reg) (v : Word) : Long := ⟨0, none, d, a, .imm v⟩
/-- An access in B64 form. -/
def mem (d a b : Reg) (m : MMod) : LongM := ⟨0, none, d, a, b, 0, m⟩

/-- Control and state: 02 R40, R52; 07 R173; 11 R280; 13 R319, R320; 15 R355, R365, R373, R374; 16 R385, R390, R397; 17 R409, R414. -/
theorem test_decode_control : ∀ p ∈ ([
    ([0x0007], .nop 7), ([0x0204], .setxS16 4), ([0x4E58, 0x0004], .setxA32 3 4), ([0x4E18, 0x0004], .anyqA32 3 4),
    ([0x4020, 0x027D], .brA32 0 .ne 0x07D), ([0x4080, 0x0000], .yield 0), ([0x40A0, 0x0000], .pchk 0),
    ([0x40E0, 0x0000], .tret 0), ([0x4101, 0x0520], .csrr 0 true 0x020 5), ([0x4120, 0x2107], .csrw 0 false 0x021 7),
    ([0x4220, 0x0902], .arriveWg 0 9 2), ([0x4221, 0x0903], .arriveCl 0 9 3), ([0x4240, 0x0209], .waitaWg 0 2 9),
    ([0x4E60, 0x1400], .getx 0 20), ([0x4E80, 0x1404], .ballotA32 0 20 4), ([0x4EA0, 0x0900], .lane 0 9)] :
    List (List Parcel × Instr)), decode p.1 = .ok p.2 := by decide +kernel

/-- 15 R354, R357, R363; 16 R386, R388, R395, R398, R399; 17 R404, R405, R408, R410, R421. -/
theorem test_decode_integer : ∀ p ∈ ([
    ([0x8810, 0x0A04, 0xFFC0, 0xFFFF], .adda (ri 10 4 (-64))), ([0x8A10, 0x0909, 0x00FF, 0x0000], .and .i32 (ri 9 9 0xFF)),
    ([0x8B11, 0x0903, 0x0805, 0x0000], .bfx true (ri 9 3 0x0805)), ([0x8831, 0x0802, 0x0001, 0x0000], .iadd .u32 (ri 8 2 1)),
    ([0x8842, 0x0A02, 0x0400, 0x1000], .isub .i64 (rr 10 2 4 0 { z with sat := true })),
    ([0x88A1, 0x0802, 0x0304, 0x0000], .imad .u32 (rr 8 2 3 4)), ([0x4900, 0x0303], .iabsA32 0 .i32 3 3),
    ([0x8900, 0x0303, 0x0000, 0x1000], .iabsB64 .i32 (rr 3 3 0 0 { z with sat := true })),
    ([0x8930, 0x0501, 0x0000, 0x0000], .icmp .i32 (ri 5 1 0)), ([0x4A80, 0x0405], .notA32 0 .i32 4 5),
    ([0x4B42, 0x0602], .popcA32 0 .i64 6 2), ([0x8A20, 0x0909, 0x0100, 0x0000], .or .i32 (rr 9 9 1 0)),
    ([0x8A32, 0x0404, 0xFFF0, 0xFFFF], .or .i64 (ri 4 4 (-16))), ([0x8A40, 0x0909, 0x0900, 0x0000], .xor .i32 (rr 9 9 9 0)),
    ([0x8C12, 0x0404, 0x0003, 0x0000], .shl .i64 (ri 4 4 3)), ([0x8C21, 0x0707, 0x0200, 0x0000], .shr .u32 (rr 7 7 2 0)),
    ([0x8C50, 0x0707, 0x0010, 0x0000], .rot (ri 7 7 16)), ([0x4D00, 0x0507], .movA32 0 .i32 5 7),
    ([0x8D10, 0x0500, 0x5678, 0x1234], .movB64 .i32 (ri 5 0 0x12345678)),
    ([0xCD00, 0x0507, 0x0000, 0x0000, 0x0043, 0x0000], .movB64 .i32 ⟨0, some ⟨.bc 3, .none, .none⟩, 5, 7, .regs 0 0 z⟩),
    ([0x8D20, 0x0802, 0x0304, 0x0000], .sel .i32 (rr 8 2 3 4)), ([0x9000, 0x0802, 0x0300, 0x0000], .shuf (rr 8 2 3 0)),
    ([0x9010, 0x0802, 0x0007, 0x0000], .shuf (ri 8 2 7))] : List (List Parcel × Instr)), decode p.1 = .ok p.2 := by
  decide +kernel

/-- 15 R376, R379 to R383; 16 R389, R394, R396; 17 R401, R402. -/
theorem test_decode_float : ∀ p ∈ ([
    ([0x9860, 0x0802, 0x0304, 0x4200], .ffma .f32 (rr 8 2 3 4 { z with rnd := .rtz, negA := true })),
    ([0x986B, 0x0802, 0x0406, 0x0000], .ffma .f64 { rr 8 2 4 6 with gap := 1 }),
    ([0x9803, 0x0A08, 0x0800, 0x0000], .fadd .f64 (rr 10 8 8 0)), ([0x58E0, 0x0602], .fclassA32 0 .f32 6 2),
    ([0x98C1, 0x0501, 0x0200, 0x0000], .fcmp .f16 (rr 5 1 2 0)),
    ([0x9A04, 0x0908, 0x0000, 0x1000], .fcvt .e4m3 .f32 (rr 9 8 0 0 { z with sat := true })),
    ([0x9900, 0x0303, 0x0000, 0x8000], .frintB64 .f32 (rr 3 3 0 0 { z with rnd := .rdn })),
    ([0x9A20, 0x0702, 0x0300, 0x4000], .ftoi .i32 .f64 (rr 7 2 0 0 { z with rnd := .rtz })),
    ([0x9A40, 0x0802, 0x0100, 0x4000], .itof .f32 .u32 (rr 8 2 0 0 { z with rnd := .rtz })),
    ([0x9A86, 0x0908, 0x0A00, 0x0000], .mxcvt .e2m1 (rr 9 8 10 0)), ([0x5C20, 0x0602], .log2A32 0 6 2),
    ([0x5C40, 0x0602], .rcpA32 0 6 2), ([0x5C60, 0x0602], .rsqA32 0 6 2),
    ([0x9E01, 0x0C02, 0x0400, 0x0000], .rndc true (rr 12 2 4 0)),
    ([0xDE00, 0x0C02, 0x0400, 0x0000, 0x0040, 0x0000],
      .rndc false { rr 12 2 4 0 with perm := some ⟨.bc 0, .none, .none⟩ })] : List (List Parcel × Instr)),
    decode p.1 = .ok p.2 := by decide +kernel

/-- 06 R151, R152; 07 R173; 08 R197, R199, R202, R205, R206, R209; 15 R361; 16 R391; 17 R406, R411, R418. -/
theorem test_decode_memory : ∀ p ∈ ([
    ([0x6C04, 0x0804], .ldA32 0 .w32 8 4), ([0xAC05, 0x0A04, 0x0000, 0xFD40], .ldB64 .w64 (mem 10 4 0 ⟨31, 5, .acq, .glob, 0⟩)),
    ([0xAC06, 0x1403, 0x0000, 0xF820], .ldB64 .x128 (mem 20 3 0 ⟨31, 0, .plain, .scr, 0⟩)),
    ([0xAC01, 0x0903, 0x0000, 0xF810], .ldB64 .z8 (mem 9 3 0 ⟨31, 0, .plain, .spl, 0⟩)), ([0x6C24, 0x0804], .stA32 0 .b4 8 4),
    ([0xAC22, 0x0903, 0x0000, 0xF820], .stB64 .b2 (mem 9 3 0 ⟨31, 0, .plain, .scr, 0⟩)),
    ([0xAC44, 0x0804, 0x0A00, 0xFD80], .atom .w32 (mem 8 4 10 ⟨31, 5, .rel, .glob, 0⟩)),
    ([0xAC64, 0x0803, 0x0200, 0xFB80], .rst .b4 (mem 8 3 2 ⟨31, 3, .rel, .glob, 0⟩)),
    ([0xAC84, 0x080C, 0x0B0F, 0x0000], .waitw .w32 (rr 8 12 11 15)), ([0x6F80, 0x0800], .batch 0 8),
    ([0x6FA0, 0x0008], .waitb 0 8), ([0x6FA1, 0x0000], .waitbAll 0), ([0x6FC2, 0x0100], .fence 0 2 .acq),
    ([0x6FC6, 0x0200], .fence 0 6 .rel), ([0x6FC5, 0x0300], .fence 0 5 .ar), ([0x6EE0, 0x0607], .semi 0 6 7),
    ([0x6F00, 0x0206], .sems 0 2 6), ([0x6F21, 0x0106], .semwT 0 1 6)] : List (List Parcel × Instr)), decode p.1 = .ok p.2 := by
  decide +kernel

/-- 03 R63, R84, R86; 08 R195 to R206; 09 R215, R232; 10 R247, R252, R256 to R259. -/
theorem test_decode_engines : ∀ p ∈ ([
    ([0x7823, 0x0114], .copyR 0 1 20), ([0x7801, 0x0902], .ringsQ 0 9 2), ([0xB800, 0x000A, 0x0B00, 0x0000], .ringsSet 0 0 10 11),
    ([0x7884, 0x0208], .mma 0 true false false .bf16 1 0), ([0x78A5, 0x0202], .mdrainA32 0 true false true .bf16 2),
    ([0x78C1, 0x1023], .mpop 0 false true 16 1 3), ([0x78E0, 0x0018], .stq 0 false 0 24), ([0x7901, 0x0109], .mcast 0 false true 1 9),
    ([0xBA00, 0x1408, 0x0C00, 0x0000], .cred 0 20 8 12), ([0x7C00, 0x2808], .rayq 0 .f32 40 8),
    ([0xBC03, 0x2808, 0x3C00, 0x0000], .rayqL 0 .f64 40 8 60), ([0xBC20, 0x2808, 0x3C00, 0x0000], .rayp 0 .f32 40 8 60),
    ([0x7C40, 0x0800], .raya 0 .f32 8 0), ([0xBC60, 0x0900, 0x0C0D, 0x0000], .rayh 0 .f32 9 0 12 13),
    ([0xBD00, 0x1402, 0x0100, 0x0000], .tricov 0 .off 20 2 1),
    ([0xFE05, 0x0A14, 0x181E, 0x0000, 0x0400, 0x0002], .spawn 0 (some ⟨.none, .rot 1, .none⟩) true 1 10 20 24 30),
    ([0x7E20, 0x281E], .join 0 40 30), ([0x7E40, 0x2902], .ticketAcq 0 41 2), ([0x7E41, 0x0002], .ticketRel 0 2),
    ([0xBE60, 0x3202, 0x2800, 0x0000], .jrnl 0 50 2 40), ([0x7E80, 0x0209], .emit 0 2 9), ([0x7EA0, 0x023C], .jtrunc 0 2 60),
    ([0x7EC1, 0x0A03], .govqJ 0 10 3)] : List (List Parcel × Instr)), decode p.1 = .ok p.2 := by decide +kernel

/-- 04 R98, R99; 13 R321 to R326; 14 R348: short opcodes, majors, SUB codes, fields and permutes that are no instruction. -/
theorem test_decode_refuses : ∀ ps ∈ ([
    [0x0500], [0x4000, 0x0000], [0x7EE0, 0x0000], [0x0101], [0x4E61, 0x1400], [0x4E60, 0xFF00], [0x8823, 0x0802, 0x0001, 0x0000],
    [0x88B0, 0x0802, 0x0304, 0x0000], [0x8820, 0x0802, 0x0304, 0x0000], [0x8820, 0x0802, 0x0300, 0x2000],
    [0xCD00, 0x0507, 0x0000, 0x0000, 0x0180, 0x0000], [0xCD00, 0x0507, 0x0000, 0x0000, 0x0105, 0x0000],
    [0xCD00, 0x0507, 0x0000, 0x0000, 0x0144, 0x0000], [0xCD00, 0x0507, 0x0000, 0x0000, 0x0000, 0x0001],
    [0xCD00, 0x0507, 0x0000, 0x0000, 0x0000, 0x4000], [0x6FC0, 0x0100], [0x402F, 0x0F00], [0x6F00, 0x0006], []] :
    List (List Parcel)), (decode ps).toOption = none := by decide +kernel

/-- A row of the opcode table, with its words numbered as the table numbers them: `IADD.U32 v8, v2, #1`. -/
theorem test_decode_table_word : decodeTableWord 64 0x0000000108028831 = some (.iadd .u32 (ri 8 2 1)) := by decide +kernel

/-! `WellFormed`: for each check a term that it refuses. -/

theorem test_wf_refuses : ∀ i ∈ [
    Instr.iadd .i64 (ri 255 2 1), .imul .i32 (rr 8 2 3 4), .imad .i32 (ri 8 2 1), .iadd .i32 (rr 8 2 3 0 { z with rnd := .rne }),
    .icmp .i32 (rr 8 2 3 0 { z with sat := true }), .fadd .f32 (rr 8 2 3 0 { z with negC := true }),
    .rndc true (rr 8 2 4 0 { z with absB := true }), .mxcvt .e4m3 ⟨0, some ⟨.none, .mir, .none⟩, 9, 8, .regs 10 0 z⟩,
    .notB64 .i32 ⟨0, some ⟨.none, .none, .mir⟩, 9, 8, .regs 0 0 z⟩, .iadd .i32 ⟨0, some ⟨.none, .bc 1, .none⟩, 9, 8, .imm 0⟩,
    .fcvt .f32 .f32 (rr 8 2 0 0), .fence 0 0 .acq, .fence 0 7 .rel, .sems 0 0 6, .semsCl 0 0 6 7, .semw 0 0 6, .semwT 0 0 6,
    .spawn 0 none false 0 10 20 24 30, .spawn 0 (some ⟨.none, .none, .mir⟩) false 0 10 20 24 0, .brx 0 .al 254, .callx 0 254 0,
    .getx 0 255, .mpop 0 false false 249 0 0, .rayq 0 .f64 248 0, .tricov 0 .off 20 251 1, .jrnl 0 50 2 249,
    .ldB64 .w32 (mem 8 254 0 ⟨31, 0, .plain, .glob, 0⟩), .ldB64 .w32 (mem 8 4 0 ⟨31, 0, .rel, .glob, 0⟩),
    .stB64 .b4 (mem 8 4 0 ⟨31, 0, .acq, .glob, 0⟩), .ldB64 .w32 (mem 8 4 0 ⟨31, 1, .plain, .glob, 0⟩),
    .ldB64 .w32 (mem 8 4 0 ⟨31, 7, .acq, .glob, 0⟩), .ldB64 .w32 (mem 8 4 0 ⟨18, 0, .plain, .glob, 0⟩),
    .ldB64 .w32 (mem 8 4 0 ⟨3, 0, .plain, .scr, 0⟩), .ldB64 .w32 (mem 8 4 0 ⟨31, 0, .plain, .glob, 1⟩),
    .stB64 .b4 (mem 8 4 0 ⟨31, 0, .plain, .glob, 2⟩), .rst .b4 (mem 8 3 2 ⟨31, 0, .plain, .scr, 0⟩),
    .rst .b4 (mem 8 3 2 ⟨31, 0, .acq, .glob, 0⟩), .atom .w32 (mem 8 4 10 ⟨31, 0, .plain, .spl, 0⟩),
    .atom .w32 (mem 8 4 10 ⟨31, 0, .plain, .glob, 13⟩), .atom .w32 { mem 8 4 10 ⟨31, 0, .plain, .glob, 0⟩ with c := 3 }],
    i.wf = false := by decide +kernel

/-! Values worked in the spec. -/

/-- 05 R120, R122: -2.5 to an integer in each direction. -/
theorem test_fp_to_int : [Dir.rne, .rtz, .rup, .rdn].map (fun d => (fpToInt d true 5 (-1)).1) = [-2, -2, -2, -3] := by
  decide +kernel

/-- 16 R389: 65519 and 65520 to FP16, NX alone and OF with NX. -/
theorem test_int_to_f16 : intToFp fmtF16 .rne false 65519 = (0x7BFF, 1) ∧ intToFp fmtF16 .rne false 65520 = (0x7C00, 5) ∧
    intToFp fmtF16 .rne true 70000 = (0x7BFF, 5) ∧ intToFp fmtF16 .rne false (-2048) = (0xE800, 0) := by decide +kernel

/-- 15 R381: 500.0 and 460.0 to E4M3, saturating or not. -/
theorem test_convert_e4m3 : fpConvert fmtE4M3 .rne true (fpDecode fmtF32 0x43FA0000) = (0x7E, 5) ∧
    fpConvert fmtE4M3 .rne false (fpDecode fmtF32 0x43FA0000) = (0x7F, 5) ∧
    fpConvert fmtE4M3 .rne true (fpDecode fmtF32 0x43E60000) = (0x7E, 1) := by decide +kernel

/-- 17 R401, 16 R394: `RCP` of 4.0 is 0.25, `RSQ` of 4.0 is 0.5, `LOG2` of 1.0 is +0, each without a flag. -/
theorem test_transcendentals : transVal .rcp 0x40800000 = (0x3E800000, 0) ∧ transVal .rsq 0x40800000 = (0x3F000000, 0) ∧
    transVal .log2 0x3F800000 = (0, 0) := by decide +kernel

/-- 15 R359: `.INC`, `.DEC` and the signed minimum at their bounds. -/
theorem test_atomic_bounds : atomNew 0xB 32 7 7 = 0 ∧ atomNew 0xC 32 0 7 = 7 ∧ atomNew 1 32 0xFFFFFFFF 1 = 0xFFFFFFFF ∧
    atomNew 0 32 0xFFFFFFFF 1 = 0 := by decide +kernel

end Sys2Proof.Tests
end

