-- ==== Sys2Proof/Tests/Witness.lean ====
section
/-!
SUPPORT. Witnesses: for the hypotheses of the obligations, small states and operands that meet them together.
-/

namespace Sys2Proof.Tests

set_option Elab.async false

open Sys2Proof.Machine

/-! States: one launched wave on core 0 of G0, chosen to issue, and what each witness changes of it. -/

def base : State := { placeCode State.reset [] with cur := some (State.reset.nextUid, 0), agenda := [] }
def u0 : Nat := State.reset.nextUid
def g0 : Nat := State.reset.nextGrid

def State.onWave (s : State) (f : Wave → Wave) : State := { s with waves := s.waves.map fun e => (e.1, f e.2) }
def State.onFrag (s : State) (f : Frag → Frag) : State := State.onWave s fun w => { w with frags := w.frags.map f }
def State.onCtx (s : State) (f : Context → Context) : State := { s with ctxs := s.ctxs.map fun e => (e.1, f e.2) }
def State.onGrid (s : State) (f : Grid → Grid) : State := { s with grids := s.grids.map fun e => (e.1, f e.2) }
def State.onBank (s : State) (f : Bank → Bank) : State := { s with banks := s.banks.map fun e => (e.1, f e.2) }
/-- Register `r` of every lane holds `v`. -/
def State.reg (s : State) (r : Nat) (v : Word) : State :=
  State.onWave s fun w => { w with regs := ((List.range 64).map fun l => (64 * r + l, v)) ++ w.regs }

/-- The same with a handler set, and thirty granules, so that no frame is needed to trap. -/
def trapBase : State :=
  State.onWave (State.onCtx base fun c => { c with trapbase := 0x100 }) fun w => { w with gran := 30 }

theorem runs {i : Instr} {s : State} {P : Issue → Prop} [DecidablePred P]
    (h : (getIssue s).any (fun k => decide (preCause i s k = none ∧ P k)) = true) : ∃ k, MayRun i s k ∧ P k := by
  cases hk : getIssue s with
  | none => simp [hk] at h
  | some k =>
    rw [hk, Option.any_some, decide_eq_true_iff] at h
    exact ⟨k, ⟨hk, h.1⟩, h.2⟩

def canTrapB (s : State) (k : Issue) : Bool :=
  k.w.window.isNone && k.w.trapWait.isNone && k.w.report.isNone && !lowerDue k.c k.w k.lead && k.c.trapbase != 0 &&
    (reserveNeed k.w == 0 || (trapLine s k.w.core == [] && decide (reserveUsed s k.w.core + reserveNeed k.w ≤ 8))) &&
    decide (k.w.gran ≤ 30)

theorem canTrap_of {s : State} {k : Issue} (h : canTrapB s k = true) : CanTrap s k := by
  simp only [canTrapB, Bool.and_eq_true, Bool.or_eq_true, decide_eq_true_eq, Option.isNone_iff_eq_none, beq_iff_eq,
    bne_iff_ne, ne_eq, Bool.not_eq_true'] at h
  obtain ⟨⟨⟨⟨⟨⟨h1, h2⟩, h3⟩, h7⟩, h4⟩, h5⟩, h6⟩ := h
  exact ⟨h1, h2, h3, h7, h4, h5, fun h => absurd h (by omega)⟩

theorem traps {s : State} {P : Issue → Prop} [DecidablePred P]
    (h : (getIssue s).any (fun k => canTrapB s k && decide (P k)) = true) :
    ∃ k, getIssue s = some k ∧ CanTrap s k ∧ P k := by
  cases hk : getIssue s with
  | none => simp [hk] at h
  | some k =>
    rw [hk, Option.any_some, Bool.and_eq_true, decide_eq_true_iff] at h
    exact ⟨k, rfl, canTrap_of h.1, h.2⟩

theorem runsTraps {i : Instr} {s : State} {P : Issue → Prop} [DecidablePred P]
    (h : (getIssue s).any (fun k => canTrapB s k && decide (preCause i s k = none ∧ P k)) = true) :
    ∃ k, MayRun i s k ∧ CanTrap s k ∧ P k := by
  obtain ⟨k, hk, hc, hp, h⟩ := traps h
  exact ⟨k, ⟨hk, hp⟩, hc, h⟩

/-! Where every entry that stands in memory names a table of the package, no walk leaves the memory that exists. -/

def tablesB (s : State) (c : Context) : Bool :=
  decide (c.ptb % 8 = 0 ∧ c.ptb + 65536 ≤ 18 * 2 ^ 36) && (List.range 18).all (dieOnline s.hub) &&
    s.mem.all fun x => decide (bitsOf (memNat s.mem (x.1 / 8 * 8) 8) 51 16 * 2 ^ 16 + 65536 ≤ 18 * 2 ^ 36)

theorem assocGet_mem {α : Type} {m : List (Nat × α)} {k : Nat} {v : α} (h : assocGet m k = some v) : (k, v) ∈ m := by
  induction m with
  | nil => simp [assocGet] at h
  | cons e r ih =>
    obtain ⟨j, x⟩ := e
    simp only [assocGet] at h
    split at h
    · simp_all
    · exact List.mem_cons_of_mem _ (ih h)

theorem memNat_zero {m : List Host.Cell} {a : Nat} (ha : a % 8 = 0) (h : ∀ x ∈ m, x.1 / 8 * 8 ≠ a) : memNat m a 8 = 0 := by
  have hr : ∀ j, j < 8 → memRead m (a + j) = 0 := by
    intro j hj
    unfold memRead
    cases hg : assocGet m (a + j) with
    | none => rfl
    | some v => exact absurd (by show (a + j) / 8 * 8 = a; omega) (h _ (assocGet_mem hg))
  have h0 : memRead m a = 0 := hr 0 (by omega)
  simp only [memNat, memReadN, List.range, List.range.loop, List.map, leNat]
  simp [h0, hr 1 (by omega), hr 2 (by omega), hr 3 (by omega), hr 4 (by omega), hr 5 (by omega), hr 6 (by omega),
    hr 7 (by omega)]

theorem walk_step {ok : Nat → Bool} {m : List Host.Cell} {tab va l : Nat} (h0 : ok (tab + 8 * vaIndex va l) = true)
    (h1 : ∀ j, l = j + 1 → walkFrom ok m (bitsOf (memNat m (tab + 8 * vaIndex va l) 8) 51 16 * 2 ^ 16) va j ≠ .outside) :
    walkFrom ok m tab va l ≠ .outside := by
  rw [walkFrom.eq_def]
  simp only [h0, if_true]
  have hw : ∀ a e, walkEntry va l a e ≠ .inl .outside ∧ ∀ t, walkEntry va l a e = .inr t → t = bitsOf e 51 16 * 2 ^ 16 := by
    intro a e
    unfold walkEntry
    generalize bitsOf e 51 16 * 2 ^ 16 = f
    dsimp only
    repeat' split
    all_goals simp
  have hw := hw (tab + 8 * vaIndex va l) (memNat m (tab + 8 * vaIndex va l) 8)
  revert hw h1
  generalize walkEntry va l (tab + 8 * vaIndex va l) (memNat m (tab + 8 * vaIndex va l) 8) = x
  intro h1 hw
  cases x with
  | inl w =>
    show w ≠ .outside
    rintro rfl
    exact hw.1 rfl
  | inr t =>
    cases l with
    | zero => simp [walkOn]
    | succ j =>
      rw [hw.2 t rfl]
      exact h1 j rfl

/-- No walk of the context leaves the memory that exists. -/
theorem walk_inside {s : State} {c : Context} (h : tablesB s c = true) (va : Nat) : walk s c va ≠ .outside := by
  simp only [tablesB, Bool.and_eq_true, decide_eq_true_eq, List.all_eq_true, List.mem_range] at h
  obtain ⟨⟨⟨h1, h2⟩, h3⟩, h4⟩ := h
  have hok : ∀ p, p < 18 * 2 ^ 36 → paExists s p = true := by
    intro p hp
    unfold paExists
    have : paRegion p = 0 := by unfold paRegion; exact Nat.div_eq_of_lt (by omega)
    rw [if_pos this, h3 (p / 2 ^ 36) (by omega), decide_eq_true hp]
    rfl
  have hidx : ∀ v l, vaIndex v l < 8192 := by
    intro v l
    unfold vaIndex
    split <;> omega
  unfold walk
  have key : ∀ lvl tab, tab % 8 = 0 → tab + 65536 ≤ 18 * 2 ^ 36 → walkFrom (paExists s) s.mem tab va lvl ≠ .outside := by
    intro lvl
    induction lvl with
    | zero =>
      intro tab ht hb
      have := hidx va 0
      exact walk_step (hok _ (by omega)) (by omega)
    | succ l ih =>
      intro tab ht hb
      have := hidx va (l + 1)
      refine walk_step (hok _ (by omega)) fun j hj => ?_
      obtain rfl : j = l := by omega
      apply ih
      · omega
      · by_cases hm : ∀ x ∈ s.mem, x.1 / 8 * 8 ≠ tab + 8 * vaIndex va (j + 1)
        · rw [memNat_zero (by omega) hm]
          decide
        · simp only [ne_eq, not_forall, not_not] at hm
          obtain ⟨x, hx, hxe⟩ := hm
          have := h4 x hx
          rwa [hxe] at this
  exact key 4 c.ptb h1 h2
/-! Every instruction may run somewhere: on `base`. -/

theorem witness_integer : ∀ i ∈ [
    Instr.iadd .i32 (rr 8 2 3 0), .isub .u32 (rr 8 2 3 0), .imul .i64 (rr 8 2 4 0), .imad .i32 (rr 8 2 3 4),
    .imin .u32 (rr 8 2 3 0), .imax .i64 (ri 8 2 1), .imulh true (rr 8 2 3 0), .iabsB64 .i64 (rr 8 2 0 0), .iabsA32 0 .i32 8 2,
    .icmp .u32 (rr 8 2 3 0), .shl .i64 (ri 8 2 3), .shr .u32 (rr 8 2 3 0), .rot (ri 8 2 16), .and .i64 (rr 8 2 4 0),
    .or .i32 (ri 8 2 1), .xor .i32 (rr 8 2 3 0), .andn .i32 (rr 8 2 3 0), .notB64 .i64 (rr 8 2 0 0), .notA32 0 .i32 8 2,
    .movA32 0 .i64 8 2, .movB64 .i32 (ri 8 0 5), .sel .i64 (rr 8 2 4 6), .lane 0 8, .popcA32 0 .i32 8 2,
    .popcB64 .i64 (rr 8 2 0 0), .clzA32 0 .i32 8 2, .clzB64 .i64 (rr 8 2 0 0), .brevA32 0 .i64 8 2, .brevB64 .i32 (rr 8 2 0 0),
    .bfx false (ri 8 2 0x2000), .bfi (rr 8 2 3 4), .ballotA32 0 8 2, .ballotB64 (rr 8 2 0 0), .getx 0 8, .shuf (ri 8 2 63),
    .adda (ri 8 2 (-1)), .nop 255, .setxS16 4, .setxA32 0 4, .anyqS16 4, .anyqA32 0 4, .allqS16 4, .allqA32 0 4],
    ∃ k, MayRun i base k ∧ k.act base ≠ 0 := by
  intro i h
  apply runs
  revert i
  decide +kernel

theorem witness_float : ∀ i ∈ [
    Instr.fadd .f64 (rr 8 2 4 0), .fsub .f32 (rr 8 2 3 0), .fmul .bf16 (rr 8 2 3 0), .ffma .f16 (rr 8 2 3 4), .fmin .f32 (rr 8 2 3 0),
    .fmax .f64 (rr 8 2 4 0), .fcmp .f16 (rr 8 2 3 0), .fclassA32 0 .f32 8 2, .fclassB64 .f64 (rr 8 2 0 0), .frintA32 0 .f32 8 2,
    .frintB64 .f64 (rr 8 2 0 0), .fcvt .e4m3 .f32 (rr 8 2 0 0), .ftoi .i8 .f64 (rr 8 2 0 0), .itof .f64 .i64 (rr 8 2 0 0),
    .mxcvt .e2m1 (rr 9 8 10 0), .exp2A32 0 8 2, .exp2B64 (rr 8 2 0 0), .log2A32 0 8 2, .log2B64 (rr 8 2 0 0), .rcpA32 0 8 2,
    .rcpB64 (rr 8 2 0 0), .rsqA32 0 8 2, .rsqB64 (rr 8 2 0 0), .sinA32 0 8 2, .sinB64 (rr 8 2 0 0), .cosA32 0 8 2,
    .cosB64 (rr 8 2 0 0), .rndc true (rr 12 2 4 0)], ∃ k, MayRun i base k ∧ k.act base ≠ 0 := by
  intro i h
  apply runs
  revert i
  decide +kernel

theorem witness_control : ∀ i ∈ [
    Instr.brA32 0 .al 0x7FF, .brB64 0 .ne 0x80000000, .callA32 0 8 0x80, .callB64 0 8 0x7FFFFFFF, .exit, .yield 0, .pchk 0,
    .csrr 0 false 0x005 8, .csrr 0 true 0x040 8, .csrw 0 false 0x010 2, .csrw 0 false 0x021 2, .csrw 0 true 0x050 2,
    .csrw 0 false 0x043 2, .regang 0 2, .arriveWg 0 8 7, .arriveCl 0 8 3, .waitaWg 0 0 2, .waitaCl 0 3 2, .batch 0 8, .waitb 0 2,
    .waitbAll 0, .fence 0 1 .acq, .fence 0 6 .ar, .join 0 8 2, .waitw .w64 (rr 8 2 6 8), .ticketAcq 0 8 3, .ticketRel 0 0,
    .semi 0 2 3, .sems 0 1 2, .semsCl 0 255 2 3, .semw 0 1 2, .semwT 0 255 2],
    ∃ k, MayRun i base k ∧ k.w.spawned = false := by
  intro i h
  apply runs
  revert i
  decide +kernel

theorem witness_batched : ∀ i ∈ [
    Instr.ldA32 0 .w32 8 4, .ldB64 .x128 (mem 20 3 0 ⟨31, 0, .plain, .scr, 0⟩), .stA32 0 .b4 8 4,
    .stB64 .b16 (mem 20 3 0 ⟨31, 0, .plain, .spl, 0⟩), .rst .b8 (mem 8 3 2 ⟨31, 0, .plain, .glob, 0⟩),
    .atom .w64 (mem 8 4 10 ⟨31, 5, .rel, .glob, 9⟩), .rayq 0 .f64 40 8, .rayqL 0 .f32 40 8 60, .rayp 0 .f32 40 8 60,
    .raya 0 .f64 8 0, .rayh 0 .f32 9 0 12 13, .spawn 0 none false 0 10 20 24 0, .copy 0 8 12, .copyS 0 8 12, .copyG 0 8 12,
    .copyR 0 7 20, .copyGt 0 8 9 10 11, .stq 0 false 0 24, .mcast 0 false true 3 9, .cred 0 20 8 12, .jrnl 0 50 2 40, .emit 0 2 9,
    .jtrunc 0 2 60, .govq 0 10 3, .govqJ 0 10 3, .ringsSet 0 7 10 11, .ringsQ 0 9 0, .ringsPop 0 7, .mma 0 true false false .i8 1 0,
    .mdrainA32 0 true false true .bf16 2, .mdrainB64 0 false false false .w32 3 true, .mpop 0 false true 16 1 31,
    .tricov 0 .pos 20 2 1, .tret 0, .brx 0 .al 2, .callx 0 8 2],
    ∃ k, MayRun i base k ∧ k.w.entries.length < 64 ∧ k.act base ≠ 0 := by
  intro i h
  apply runs
  revert i
  decide +kernel

end Sys2Proof.Tests
end

