-- ==== Sys2Proof/Tests/WitnessWave.lean ====
section
/-!
SUPPORT. Witnesses for the obligations on floating point, exceptions, control, synchronisation and memory.
-/

namespace Sys2Proof.Tests

set_option Elab.async false

open Sys2Proof.Machine

/-! Floating point. -/

/-- Every enable set, and a signalling NaN in lane 0 of v2. -/
def nanState : State :=
  State.onWave trapBase fun w => { w with fpmode := 0x1F00, regs := assocSet w.regs 128 0x7F800001 }

theorem witness_float_trap : ∃ k ∈ getIssue nanState, preCause (.fadd .f32 (rr 8 2 3 0)) nanState k = none ∧
    canTrapB nanState k = true ∧ ∀ l, l < 64 → ((1 : LaneMask).getLsbD l = true ↔
      (k.act nanState).getLsbD l = true ∧ k.w.window = none ∧
        (fpOut (fpAdd fmtF32 .rne false (fpDecode fmtF32 (fsrcA nanState k (rr 8 2 3 0) fmtF32 1 l))
          (fpDecode fmtF32 (fsrcB nanState k (rr 8 2 3 0) fmtF32 1 l)))).2 &&& fpEnables nanState k.w ≠ 0) := by
  decide +kernel

theorem witness_special_operands : (fpDecode fmtF32 0x7F800001).isSig = true ∧ (fpDecode fmtF32 0x7FC00000).isNaN = true ∧
    (fpDecode fmtF32 0x7F800000).isInf = true ∧ (fpDecode fmtF32 0xFF800000).neg = true ∧
    (fpDecode fmtF32 0x80000000).isZero = true ∧ (fpDecode fmtF32 0x80000000).neg = true := by decide +kernel

/-- Operands of every clause on FMIN and FMAX: smaller, larger, equal, and zeros of unlike sign. -/
theorem witness_min_max : let v (p : Nat) : FVal := fpDecode fmtF32 p
    fvCmp (v 0x3F800000) (v 0x40000000) < 0 ∧ 0 < fvCmp (v 0x40000000) (v 0x3F800000) ∧
    fvCmp (v 0x3F800000) (v 0x3F800000) = 0 ∧ fvCmp (v 0x80000000) (v 0) = 0 ∧ (v 0).isZero = true ∧
    (v 0x80000000).isZero = true ∧ (v 0).neg ≠ (v 0x80000000).neg := by decide +kernel

/-- Operands of every clause on the transcendentals: NaN, infinity, zero, negative, at least 128, below −160, tiny. -/
theorem witness_transcendental : fpDecode fmtF32 0x7FC00000 = .nan false ∧ fpDecode fmtF32 0x7F800001 = .nan true ∧
    fpDecode fmtF32 0xFF800000 = .inf true ∧ fpDecode fmtF32 0x80000000 = .fin true 0 (-149) ∧
    fpDecode fmtF32 0x43000000 = .fin false 0x800000 (-16) ∧ fpDecode fmtF32 0xC3210000 = .fin true 0xA10000 (-16) ∧
    fpDecode fmtF32 0x39000000 = .fin false 0x800000 (-36) := by decide +kernel

/-- One third, a tie, the largest finite value, and the smallest positive one. -/
theorem witness_rounding : ∀ p ∈ [(1, 3, (0 : Int)), (2 ^ 24 + 1, 1, 0), (2 ^ 24 - 1, 1, 104), (1, 1, -149)],
    0 < p.1 ∧ 0 < p.2.1 ∧ ∀ d ∈ [Dir.rne, .rtz, .rup, .rdn], bitOf (fpRound fmtF32 d false true p.1 p.2.1 p.2.2).2 2 = false := by
  decide +kernel

/-! Exceptions. -/

/-- An entry of batch `b` with one lane's operation. -/
def entry (seq b : Nat) (i : Instr) (l : LaneSt) : Entry := 
  ⟨seq, 0, b, i, -1, 0, [(0, l)], [], 0, none, none, none, [(seq, -1)], [], []⟩
def ld : Instr := .ldA32 0 .w32 8 4
def flying : LaneSt := .inflight (.load (.phys 0x50100 0x40000) 4 0) 0x100

theorem witness_unassigned : ∃ k ∈ getIssue trapBase, canTrapB trapBase k = true ∧ csrUnassigned (.csrr 0 false 0x3FF 8) = true ∧
    (encode (.csrr 0 false 0x3FF 8)).isSome = true := by decide +kernel

def tensorState : State := State.onWave trapBase fun w => { w with core := 0 }
theorem witness_absent_unit : ∃ k ∈ getIssue tensorState, canTrapB tensorState k = true ∧ isRay (.rayq 0 .f32 40 8) = true ∧
    coreDom k.w.core < 16 := by decide +kernel
theorem witness_absent_array : ∃ k ∈ getIssue trapBase, canTrapB trapBase k = true ∧
    usesArr1 (.mma 0 false true false .i8 0 0) = true ∧ coreDom k.w.core = 16 := by decide +kernel

def userState : State := State.onCtx trapBase fun c => { c with sup := false }
theorem witness_privilege : ∃ k ∈ getIssue userState, canTrapB userState k = true ∧ csrUnassigned (.csrr 0 true 0x040 8) = false ∧
    namesSup (.csrr 0 true 0x040 8) = true ∧ k.c.sup = false := by decide +kernel

def smallState : State := State.onWave trapBase fun w => { w with gran := 8 }
theorem witness_register_bound : ∃ k ∈ getIssue smallState, canTrapB smallState k = true ∧
    ∃ r ∈ (Instr.movA32 0 .i32 64 2).ranges, ∃ j, j < r.2 ∧ 8 * k.w.gran ≤ r.1.toNat + j ∧
      ¬(k.w.window.isSome ∧ 240 ≤ r.1.toNat + j) := by decide +kernel

def roleState : State := State.onGrid trapBase fun gr => { gr with pkt := { gr.pkt with roles := 1 } }
theorem witness_role : ∃ k ∈ getIssue roleState, canTrapB roleState k = true ∧
    roleClass (.mma 0 false false false .i8 0 0) = some 1 ∧ roleOf roleState k.w = some (0, 0) := by decide +kernel

/-- No handler, and a cause that stands before the instruction. -/
def bareState : State := State.onWave base fun w => { w with gran := 8 }
theorem witness_no_handler : ∃ k ∈ getIssue bareState, preCause (.movA32 0 .i32 64 2) bareState k = some .registerBound ∧
    k.w.window = none ∧ k.w.trapWait = none ∧ k.w.report = none ∧ k.c.trapbase = 0 := by decide +kernel

/-- A window opened by the fragment of quads `q`. -/
def window (q : QuadMask) : Window :=
  ⟨q, -1, ⟨0, 0, 0, 0⟩, 0x40, 0x10, 0x80, 0, 0, 0, false, false, false, false, 2, false, false, true, Frag.start q 0x40 0, 0⟩
def inside (q : QuadMask) : State := State.onWave smallState fun w => { w with window := some (window q) }

theorem witness_window_double : ∃ k ∈ getIssue (inside (-1)),
    preCause (.movA32 0 .i32 64 2) (inside (-1)) k = some .registerBound ∧
      ∃ v ∈ k.w.window, v.quads.getLsbD k.lead = true := by decide +kernel
/-- The fragment of quad 0 is parked so, and that of the others issues. -/
def twoFrags (s : State) (p : Park) : State :=
  { State.onWave s fun w => { w with frags := w.frags.flatMap fun f => [{ f with quads := 1, park := p }, { f with quads := 0xFFFE }] } with
    cur := some (u0, 1) }
def twoTraps : State := twoFrags smallState (.waitw (.nop 0) [] 4 (some 0) false)
theorem witness_two_traps : ∃ k ∈ getIssue twoTraps, preCause (.movA32 0 .i32 64 2) twoTraps k = some .registerBound ∧
    k.w.window = none ∧ lowerDue k.c k.w k.lead = true := by decide +kernel

/-- The fragment of quad 1 has entered its handler in this cycle, or before; that of quad 0 issues. -/
def displacedState (opened : Nat) : State :=
  { State.onWave smallState fun w => { w with
      frags := w.frags.flatMap fun f => [{ f with quads := 1 }, { f with quads := 2 }],
      window := some { window 2 with opened := opened } } with cycle := 9 }
theorem witness_displaced : ∀ n ∈ [8, 9], ∃ k ∈ getIssue (displacedState n),
    preCause (.movA32 0 .i32 64 2) (displacedState n) k = some .registerBound ∧ k.w.gran ≤ 30 ∧
    ∃ v ∈ k.w.window, v.quads.getLsbD k.lead = false ∧ v.was.quads = v.quads ∧ (∃ f ∈ k.w.frags, f.quads = v.quads) ∧
      ((v.opened = (displacedState n).cycle ∧ k.lead < leadQuad v.quads) ↔ n = 9) := by decide +kernel

def waitState : State :=
  let s := State.onWave trapBase fun w => { w with trapWait := some 0,
                                                   frags := w.frags.map fun f => { f with trap := some ⟨.watchdog, -1, 0, false, 0x40, false⟩ } }
  { s with cores := s.cores.map fun e => (e.1, { e.2 with trapQ := [u0] }) }
theorem witness_waiting_trap : ∃ w ∈ assocGet waitState.waves u0, w.window = none ∧ w.trapWait = some 0 ∧
    (∃ f ∈ w.frag? 0, f.trap.isSome = true) ∧ w.report = none ∧ (∃ c ∈ assocGet waitState.ctxs w.ctx, c.trapbase ≠ 0 ∧
      lowerDue c w 0 = false) ∧
    (trapLine waitState w.core).head? = some u0 ∧ reserveUsed waitState w.core + reserveNeed w ≤ 8 ∧ w.gran ≤ 30 := by
  decide +kernel

/-- A record that waited for a lower leading quad, which has gone. -/
def laterTrap : State := State.onFrag trapBase fun f => { f with trap := some ⟨.watchdog, -1, 0, false, 0x40, false⟩ }
theorem witness_later_trap : ∃ w ∈ assocGet laterTrap.waves u0, w.window = none ∧ w.trapWait = none ∧ w.report = none ∧
    (∃ f ∈ w.frag? 0, f.trap.isSome = true) ∧ (∃ c ∈ assocGet laterTrap.ctxs w.ctx, c.trapbase ≠ 0 ∧ lowerDue c w 0 = false) ∧
    (reserveNeed w = 0 ∨ trapLine laterTrap w.core = [] ∧ reserveUsed laterTrap w.core + reserveNeed w ≤ 8) ∧ w.gran ≤ 30 := by
  decide +kernel

def handler : State := State.onWave (inside (-1)) fun w => { w with gran := 30 }
theorem witness_return : ∃ k ∈ getIssue handler, preCause (.tret 0) handler k = none ∧
    (∃ v ∈ k.w.window, k.f.quads = v.quads ∧ v.g30 = false ∧ v.g31 = false) ∧ k.w.trapWait = none ∧ k.w.report = none ∧
    (∀ f ∈ k.w.frags, f.trap = none) ∧ k.w.tcause.getLsbD 8 = false ∧ k.w.boundMax ≤ handler.cycle ∧ k.w.csrPend = [] := by decide +kernel

/-- A bound of the handler's instructions has not passed. -/
def handlerBound : State := State.onWave handler fun w => { w with boundMax := 7 }
theorem witness_return_waits : ∃ k ∈ getIssue handlerBound, preCause (.tret 0) handlerBound k = none ∧
    (∃ v ∈ k.w.window, k.f.quads = v.quads) ∧ handlerBound.cycle < k.w.boundMax := by decide +kernel

/-- The granule of v240 stored at entry: the frame is mapped. -/
def handlerFrame : State :=
  State.onWave handler fun w => { w with gran := 32, frame := 0, core := 0, window := w.window.map fun v => { v with g30 := true } }
theorem witness_return_frame : ∃ k ∈ getIssue handlerFrame, preCause (.tret 0) handlerFrame k = none ∧
    (xlate handlerFrame k.c (frameAddr k.c k.w).toNat .read).isOk = true ∧
    migrating k.c (frameAddr k.c k.w).toNat = false ∧ handlerFrame.undefMem = [] := by decide +kernel

/-- The record of the other fragment waits for the handler's return. -/
def returnNext : State :=
  State.onWave handler fun w => { w with
    window := some (window 1), gran := 8, frags := w.frags.flatMap fun f =>
      [{ f with quads := 1 }, { f with quads := 2, trap := some ⟨.watchdog, -1, 0, false, 0x40, false⟩ }] }
theorem witness_return_next : ∃ k ∈ getIssue returnNext, preCause (.tret 0) returnNext k = none ∧
    (∃ v ∈ k.w.window, k.f.quads = v.quads ∧ v.g30 = false ∧ v.g31 = false) ∧ k.w.trapWait = none ∧ k.w.report = none ∧
    k.w.tcause.getLsbD 8 = false ∧ k.w.boundMax ≤ returnNext.cycle ∧ k.w.csrPend = [] ∧ k.lead = 0 ∧ (∃ f ∈ k.w.frag? 1, f.trap.isSome = true) ∧
    (∀ x ∈ k.w.frag? 0, x.trap = none) ∧ lowerDue k.c k.w 1 = false ∧ k.c.trapbase ≠ 0 ∧ trapLine returnNext k.w.core = [] ∧
    reserveUsed returnNext k.w.core + 2 ≤ 8 := by decide +kernel

/-- Return from a report whose only faulted lane `TLM` names, or not. -/
def returnReport (m : Nat) : State :=
  State.onWave handler fun w => { w with tcause := 0x100, tlm := BitVec.ofNat 64 m, nextSeq := 1,
                                         entries := [entry 0 0 ld (.faulted .protection 0x100 0x100)] }
theorem witness_return_report : ∀ m ∈ [0, 1], ∃ k ∈ getIssue (returnReport m),
    preCause (.tret 0) (returnReport m) k = none ∧ (∃ v ∈ k.w.window, k.f.quads = v.quads ∧ v.g30 = false ∧ v.g31 = false) ∧
    k.w.trapWait = none ∧ k.w.report = none ∧ (∀ f ∈ k.w.frags, f.trap = none) ∧ k.w.tcause.getLsbD 8 = true ∧ k.w.boundMax ≤ (returnReport m).cycle ∧ k.w.csrPend = [] ∧
    (k.w.entries.map (·.seq)).Nodup ∧
    tablesB (returnReport m) k.c = true ∧ (k.w.tlm.getLsbD 0 = true ↔ m = 1) := by decide +kernel
theorem witness_return_again : ∀ m ∈ [0, 1], ∃ k ∈ getIssue (returnReport m),
    (∃ e ∈ k.w.entries, k.w.entries.length = 1 ∧ e.serviced k.c = false ∧ e.faultedLanes.getLsbD 0 = true ∧ e.stuck = true) ∧
    (∀ j, j < 3 → undefAt (returnReport m) k.w (4 + j) 0 = false) ∧ tripleBad (returnReport m) k.w 4 0 = false ∧
    (xlate (returnReport m) k.c (readTriple (returnReport m) k.w 4 0).toNat .read).isOk = true ∧
    (readTriple (returnReport m) k.w 4 0).toNat % 4 = 0 := by decide +kernel

theorem witness_return_no_window : ∃ k ∈ getIssue trapBase, preCause (.tret 0) trapBase k = none ∧ canTrapB trapBase k = true := by
  decide +kernel
theorem witness_return_part : ∃ k ∈ getIssue (inside 1), preCause (.tret 0) (inside 1) k = none ∧
    ∃ v ∈ k.w.window, k.f.quads ≠ v.quads := by decide +kernel

/-! Control flow. -/

def badTriple : State := State.reg trapBase 4 0x10000
theorem witness_bad_target : ∃ k ∈ getIssue badTriple, canTrapB badTriple k = true ∧ preCause (.brx 0 .al 2) badTriple k = none ∧
    (∃ q, q < 16 ∧ k.f.quads.getLsbD q = true ∧ condHolds badTriple k.w .al q = true) ∧
    tripleBad badTriple k.w 2 (targetLane k (k.actAll badTriple)) = true ∧ k.act badTriple ≠ 0 ∧
    preCause (.callx 0 8 2) badTriple k = none ∧ tripleBad badTriple k.w 2 (targetLane k (k.act badTriple)) = true := by
  decide +kernel
theorem witness_good_target : ∃ k ∈ getIssue base, preCause (.brx 0 .ne 2) base k = none ∧
    tripleBad base k.w 2 (targetLane k (k.actAll base)) = false ∧ tripleBad base k.w 2 (targetLane k (k.act base)) = false := by
  decide +kernel

theorem witness_exit : ∃ k ∈ getIssue base, preCause .exit base k = none ∧ k.w.window = none ∧ k.w.live = k.f.quads ∧
    faultListEmpty k.w = true := by decide +kernel
theorem witness_exit_handler : ∃ k ∈ getIssue handler, preCause .exit handler k = none ∧ k.w.window.isSome = true := by decide +kernel

def exitReport : State :=
  State.onWave trapBase fun w => { w with entries := [entry 0 0 ld (.faulted .protection 0x100 0x100)], nextSeq := 1 }
theorem witness_exit_report : ∃ k ∈ getIssue exitReport, preCause .exit exitReport k = none ∧ k.w.live = k.f.quads ∧
    (∃ e ∈ (k.w.entries.filter Entry.stuck).head?, e.lowest = some (0, .protection, 0x100, 0x100)) ∧
    (∀ e ∈ k.w.entries, e.stuck = true → e.lowest.isSome = true ∧ e.serviced k.c = false) ∧ canTrapB exitReport k = true := by
  decide +kernel

def regangState (m : Word) : State := State.reg trapBase 2 m
theorem witness_regang_mismatch : ∃ k ∈ getIssue (regangState 0xFFFE), preCause (.regang 0 2) (regangState 0xFFFE) k = none ∧
    canTrapB (regangState 0xFFFE) k = true ∧
    k.f.quads &&& ~~~((readLane (regangState 0xFFFE) k.w 2 k.low).extractLsb' 0 16) ≠ 0 := by decide +kernel
theorem witness_regang : ∃ k ∈ getIssue (regangState 0xFFFF), preCause (.regang 0 2) (regangState 0xFFFF) k = none ∧
    k.f.quads &&& ~~~((readLane (regangState 0xFFFF) k.w 2 k.low).extractLsb' 0 16) = 0 ∧
    (∀ f ∈ k.w.frags, leadQuad f.quads = k.lead → f = k.f) ∧
    (∀ f ∈ k.w.frags, leadQuad f.quads ≠ k.lead → f.park.regangAt.isSome = true → f.pc = k.f.pc ∧ f.park = .regang 0xFFFF 0) := by
  decide +kernel
/-- The other fragment is parked at the same `REGANG`, which completes, or waits for none of it. -/
def gangState (m : Nat) : State := twoFrags (regangState (BitVec.ofNat 32 m)) (.regang (BitVec.ofNat 16 m) 0)
theorem witness_regang_meets : ∀ m ∈ [0xFFFF, 0xFFFE], ∃ k ∈ getIssue (gangState m),
    preCause (.regang 0 2) (gangState m) k = none ∧ k.lead = 1 ∧
    k.f.quads &&& ~~~((readLane (gangState m) k.w 2 k.low).extractLsb' 0 16) = 0 ∧ ∃ f ∈ k.w.frags, f.quads = 1 ∧
      f.pc = k.f.pc ∧ f.park = .regang ((readLane (gangState m) k.w 2 k.low).extractLsb' 0 16) 0 := by decide +kernel

theorem witness_csr_settled : ∃ k ∈ getIssue base, (∀ p ∈ k.w.csrPend, p.2.2.1 ≤ base.cycle) ∧
    (∀ p ∈ k.c.csrPend, p.2.2.2.1 ≤ base.cycle ∧ p.2.2.2.2 ≤ base.cycle) ∧ ∀ p ∈ k.w.fpPend, p.2 ≤ base.cycle := by decide +kernel

theorem witness_csr_reads : (∃ k ∈ getIssue base, k.w.spawned = false ∧ (∃ gr ∈ assocGet base.grids k.w.grid, 0 < gr.pkt.s ∧
      gr.pkt.s < 16 ∧ 0 < gr.pkt.n ∧ gr.pkt.n ≤ 128) ∧ k.w.widx < 128 ∧ k.w.wg < 2 ^ 28 ∧ k.w.core < 18 * 32 ∧
      (pendingBatches k.w).length < 2 ^ 16 ∧ (threadOf k.w 0).depth < 8 ∧ k.w.window = none) ∧
    ∃ k ∈ getIssue handler, k.w.window.isSome = true ∧ k.w.csrPend = [] := by decide +kernel

/-! Synchronisation. -/

def spawnedState : State := State.onWave trapBase fun w => { w with spawned := true }
theorem witness_spawned_barrier : ∃ k ∈ getIssue spawnedState, preCause (.arriveWg 0 8 7) spawnedState k = none ∧
    canTrapB spawnedState k = true ∧ k.w.spawned = true := by decide +kernel

def barState (b : Barrier) : State :=
  State.onGrid trapBase fun gr => { gr with wgs := gr.wgs.map fun e => (e.1, { e.2 with bars := [(7, b)] }) }
theorem witness_rearrival : ∃ k ∈ getIssue (barState ⟨0, [(u0, 1)], none, [], []⟩),
    preCause (.arriveWg 0 8 7) (barState ⟨0, [(u0, 1)], none, [], []⟩) k = none ∧ k.w.spawned = false ∧
    canTrapB (barState ⟨0, [(u0, 1)], none, [], []⟩) k = true ∧
    k.f.quads &&& arrivedOf (getBarrier (barState ⟨0, [(u0, 1)], none, [], []⟩) k.w.grid k.w.wg false 7) k.uid ≠ 0 := by decide +kernel
/-- The fragment holds every live quad, and then one of them only. -/
def halfState : State := State.onFrag base fun f => { f with quads := 1 }
theorem witness_arrival : ∀ s ∈ [base, halfState], ∃ k ∈ getIssue s, preCause (.arriveWg 0 8 7) s k = none ∧ k.w.spawned = false ∧
    k.f.quads &&& arrivedOf (getBarrier s k.w.grid k.w.wg false 7) k.uid = 0 ∧ releaseWaits k = false ∧ releaseStuck k = false ∧
    k.turn s = true ∧ (wgOf s k.w.grid k.w.wg).isSome = true ∧
    ((∀ p ∈ participants s k.w.grid k.w.wg false,
      (if p.1 = k.uid then k.f.quads else 0) &&& p.2.live = p.2.live) ↔ s = base) := by decide +kernel
/-- A covered access stands in the fault list. -/
theorem witness_arrival_faults : ∃ k ∈ getIssue exitReport, preCause (.arriveWg 0 8 7) exitReport k = none ∧ k.w.spawned = false ∧
    k.f.quads &&& arrivedOf (getBarrier exitReport k.w.grid k.w.wg false 7) k.uid = 0 ∧ releaseWaits k = false ∧
    releaseStuck k = true := by decide +kernel
/-- The arrival of the last quads, in deterministic mode or not; the other fragment waits for the phase. -/
def lastArrival (det : Bool) : State :=
  twoFrags (State.onGrid (barState ⟨0, [(u0, 1)], none, [], [(u0, 0, 0)]⟩) fun gr => { gr with det := det }) (.barrier false 7 0)
theorem witness_last_arrival : ∀ det ∈ [false, true], ∃ k ∈ getIssue (lastArrival det),
    preCause (.arriveWg 0 8 7) (lastArrival det) k = none ∧ k.w.spawned = false ∧
    k.f.quads &&& arrivedOf (getBarrier (lastArrival det) k.w.grid k.w.wg false 7) k.uid = 0 ∧ releaseWaits k = false ∧
    releaseStuck k = false ∧ k.turn (lastArrival det) = true ∧
    (wgOf (lastArrival det) k.w.grid k.w.wg).isSome = true ∧ (∃ gr ∈ assocGet (lastArrival det).grids k.w.grid, gr.det = det) ∧
    (∀ p ∈ participants (lastArrival det) k.w.grid k.w.wg false,
      (if p.1 = k.uid then 1 ||| k.f.quads else 0) &&& p.2.live = p.2.live) ∧
    (∃ f ∈ k.w.frag? 0, f.park = .barrier false 7 0) ∧
    0 < ((getBarrier (lastArrival det) k.w.grid k.w.wg false 7).phase + 1 - 0).toInt := by decide +kernel
def phased (v : Nat) : State := barState ⟨BitVec.ofNat 32 v, [], some u0, [(0, 5)], []⟩
theorem witness_barrier_wait : ∀ v ∈ [0, 1, 0x7FFFFFFF, 0x80000000], ∃ k ∈ getIssue (phased v),
    preCause (.waitaWg 0 7 2) (phased v) k = none ∧ k.w.spawned = false ∧
    (getBarrier (phased v) k.w.grid k.w.wg false 7).phase.toNat = v ∧ readLane (phased v) k.w 2 k.low = 0 := by decide +kernel

/-- Batches 0 to n − 1 closed, each with one load in flight, and batch n open. -/
def batches (n : Nat) : State :=
  State.onWave base fun w => { w with entries := (List.range n).map fun j => entry j j ld flying, nextSeq := n, open_ := n }

theorem witness_batch : ∀ n ∈ [0, 15], ∃ k ∈ getIssue (batches n), preCause (.batch 0 8) (batches n) k = none ∧
    (pendingBatches k.w).length < 16 := by decide +kernel
theorem witness_batch_full : ∃ k ∈ getIssue (batches 16), preCause (.batch 0 8) (batches 16) k = none ∧
    16 ≤ (pendingBatches k.w).length ∧ batchSettled k.w ((pendingBatches k.w).foldl min k.w.open_) = false := by decide +kernel
theorem witness_wait_all : ∀ n ∈ [0, 1], ∃ k ∈ getIssue (batches n), preCause (.waitbAll 0) (batches n) k = none ∧
    k.f.park = .none ∧ k.f.closed = false ∧ (pendingBatches k.w).length < 16 ∧
    (faultListEmpty k.w = true) ∧ (n = 0 → ∀ e ∈ k.w.entries, k.w.open_ < e.batch ∨ e.flying = false) ∧
    (n = 1 → ∃ e ∈ k.w.entries, e.batch ≤ k.w.open_ ∧ e.flying = true) := by decide +kernel
/-- Numbers one and sixteen back, of a batch in flight, and of one whose operations are done. -/
def numbered (n : Nat) (v : Word) (l : LaneSt) : State :=
  State.reg (State.onWave base fun w => { w with entries := [entry 0 0 ld l], nextSeq := 1, open_ := n }) 2 v
theorem witness_wait_open : ∃ k ∈ getIssue base, preCause (.waitb 0 2) base k = none ∧
    (readLane base k.w 2 k.low).extractLsb' 0 16 = BitVec.ofNat 16 k.w.open_ := by decide +kernel
theorem witness_wait_number : ∀ n ∈ [1, 16], ∀ l ∈ [flying, .done], ∃ k ∈ getIssue (numbered n 0 l),
    preCause (.waitb 0 2) (numbered n 0 l) k = none ∧ k.f.park = .none ∧ faultListEmpty k.w = true ∧
    (BitVec.ofNat 16 k.w.open_ - (readLane (numbered n 0 l) k.w 2 k.low).extractLsb' 0 16).toNat = n ∧ n ≤ k.w.open_ ∧
    (l = .done → ∀ e ∈ k.w.entries, e.flying = false) ∧ (l ≠ .done → ∃ e ∈ k.w.entries, e.batch ≤ k.w.open_ - n ∧ e.flying = true) := by
  decide +kernel
theorem witness_fence : ∀ n ∈ [0, 1], ∃ k ∈ getIssue (batches n), preCause (.fence 0 5 .ar) (batches n) k = none ∧
    ((n = 1) ↔ ∃ e ∈ k.w.entries, e.seq < k.w.nextSeq ∧ isMem e.instr = true ∧
      ∃ l ∈ e.lanes, (lanesOf k.f.quads).getLsbD l.1 = true ∧ l.2.flying = true) := by decide +kernel

/-- Words at address 0x100 with value `v`, which v2:4 and v6:8 name. -/
def joinState (v : Nat) : State :=
  { State.reg (State.reg base 2 0x100) 6 0x100 with mem := memPut base.mem 0x50100 4 v }
theorem witness_join : ∀ v ∈ [0, 1, 2 ^ 31, 2 ^ 24 - 1], ∃ k ∈ getIssue (joinState v), preCause (.join 0 8 2) (joinState v) k = none ∧
    k.w.entries = [] ∧ (joinState v).undefMem = [] ∧
    ∀ l, l < 64 → (k.act (joinState v)).getLsbD l = true → tripleBad (joinState v) k.w 2 l = false ∧
      ∃ p ∈ (xlate (joinState v) k.c (readTriple (joinState v) k.w 2 l).toNat .read).toOption,
        (readTriple (joinState v) k.w 2 l).toNat % 4 = 0 ∧ memNat (joinState v).mem p.1 4 = v := by decide +kernel
/-- A `SPAWN` issued earlier is in flight. -/
def joinSpawns : State :=
  State.onWave base fun w => { w with nextSeq := 1, entries := [entry 0 0 (.spawn 0 none false 0 10 20 24 0)
    (.inflight (.spawn 0x308 false [] none) 0)] }
theorem witness_join_spawns : ∃ k ∈ getIssue joinSpawns, preCause (.join 0 8 2) joinSpawns k = none ∧ k.act joinSpawns ≠ 0 ∧
    k.f.closed = false ∧ k.f.park = .none ∧ ∃ e ∈ k.w.entries, isSpawn e.instr = true ∧ e.seq < k.w.nextSeq ∧
      ∃ l ∈ e.lanes, l.2.flying = true := by decide +kernel
def joinIdle : State := State.onWave joinSpawns fun w => { w with mask := 0 }
theorem witness_join_idle : ∃ k ∈ getIssue joinIdle, preCause (.join 0 8 2) joinIdle k = none ∧ k.act joinIdle = 0 := by
  decide +kernel
/-- Lane 0 alone is active, and v11 holds `v`. -/
def wordState (v : Nat) : State :=
  State.onWave base fun w => { w with mask := 1, regs := assocSet w.regs (64 * 11) (BitVec.ofNat 32 v) }
theorem witness_word_wait : ∀ v ∈ [0, 1], ∃ k ∈ getIssue (wordState v),
    preCause (.waitw .w32 (rr 8 6 11 12)) (wordState v) k = none ∧ k.act (wordState v) = 1 ∧ k.turn (wordState v) = true ∧
    k.w.entries = [] ∧ (wordState v).undefMem = [] ∧
    tripleBad (wordState v) k.w 6 0 = false ∧
    ∃ p ∈ (xlate (wordState v) k.c (readTriple (wordState v) k.w 6 0).toNat .read).toOption,
      (readTriple (wordState v) k.w 6 0).toNat % 4 = 0 ∧ paRegion p.1 ≠ 2 ∧
      (v = 0 ↔ memNat (wordState v).mem p.1 4 = (readLane (wordState v) k.w 11 0).toNat) := by decide +kernel

/-- The wave is workgroup 1's, whose ticket waits for that of workgroup 0. -/
def laterState : State := State.onWave trapBase fun w => { w with wg := 1 }
def ticketState (t : Ticket) : State := State.onGrid trapBase fun gr => { gr with tickets := [(0, t)] }
theorem witness_ticket_granted : ∃ k ∈ getIssue trapBase, preCause (.ticketAcq 0 8 0) trapBase k = none ∧ k.w.spawned = false ∧
    (assocGet trapBase.grids k.w.grid).isSome = true ∧ k.turn trapBase = true ∧ (ticketAt trapBase k.w.grid k.w.wg 0).released = false ∧ (ticketAt trapBase k.w.grid k.w.wg 0).granted = true ∧
    (ticketAt trapBase k.w.grid k.w.wg 0).held = false ∧ canTrapB trapBase k = true := by decide +kernel
theorem witness_ticket_waits : ∃ k ∈ getIssue laterState, preCause (.ticketAcq 0 8 3) laterState k = none ∧
    (ticketAt laterState k.w.grid k.w.wg 3).released = false ∧ (ticketAt laterState k.w.grid k.w.wg 3).granted = false := by
  decide +kernel
theorem witness_ticket_reused : ∃ k ∈ getIssue (ticketState ⟨true, false, true, 0, none⟩),
    canTrapB (ticketState ⟨true, false, true, 0, none⟩) k = true ∧
    (ticketAt (ticketState ⟨true, false, true, 0, none⟩) k.w.grid k.w.wg 0).released = true ∧ k.f.retry = false := by decide +kernel
/-- In deterministic mode a fragment of an earlier clock stands before this one. -/
def ticketTurn : State :=
  State.onWave (twoFrags trapBase .none) fun w => { w with det := true, clocks := (List.range 16).map fun q => q }
theorem witness_ticket_turn : ∃ k ∈ getIssue ticketTurn, preCause (.ticketAcq 0 8 0) ticketTurn k = none ∧ k.w.spawned = false ∧
    (ticketAt ticketTurn k.w.grid k.w.wg 0).granted = true ∧ (ticketAt ticketTurn k.w.grid k.w.wg 0).released = false ∧
    k.turn ticketTurn = false := by decide +kernel
theorem witness_ticket_spawned : ∃ k ∈ getIssue spawnedState, preCause (.ticketAcq 0 8 0) spawnedState k = none ∧
    preCause (.ticketRel 0 0) spawnedState k = none ∧ canTrapB spawnedState k = true ∧ k.w.spawned = true := by decide +kernel
theorem witness_ticket_not_held : ∃ k ∈ getIssue trapBase, preCause (.ticketRel 0 0) trapBase k = none ∧ k.w.spawned = false ∧
    (ticketAt trapBase k.w.grid k.w.wg 0).held = false ∧ canTrapB trapBase k = true := by decide +kernel
/-- The next workgroup's release came early. -/
def earlyRelease : State :=
  State.onGrid trapBase fun gr => { gr with tickets := [(0, ⟨true, true, false, 0, none⟩), (4, ⟨false, false, false, 0, some 2⟩)] }
theorem witness_ticket_early : ∃ k ∈ getIssue earlyRelease, preCause (.ticketRel 0 0) earlyRelease k = none ∧
    (ticketAt earlyRelease k.w.grid k.w.wg 0).held = true ∧ releaseWaits k = false ∧ releaseStuck k = false ∧
    (ticketAt earlyRelease k.w.grid (k.w.wg + 1) 0).early = some 2 ∧ (ticketAt earlyRelease k.w.grid (k.w.wg + 2) 0).early = none := by
  decide +kernel
theorem witness_ticket_release : ∃ k ∈ getIssue (ticketState ⟨true, true, false, 0, none⟩),
    preCause (.ticketRel 0 0) (ticketState ⟨true, true, false, 0, none⟩) k = none ∧
    (ticketAt (ticketState ⟨true, true, false, 0, none⟩) k.w.grid k.w.wg 0).held = true ∧ releaseWaits k = false ∧
    releaseStuck k = false ∧ (ticketAt (ticketState ⟨true, true, false, 0, none⟩) k.w.grid (k.w.wg + 1) 0).early = none := by
  decide +kernel

/-- The word at the share's last four bytes holds `cells`, v2 its offset. -/
def semState (off : Word) (cells : List (Nat × Byte)) : State :=
  State.reg (State.onGrid trapBase fun gr => { gr with wgs := gr.wgs.map fun e => (e.1, { e.2 with share := cells }) }) 2 off
def semCells : List (Nat × Byte) := [(0xFFFC, 1), (0xFFFE, 2)]
def closedCells : List (Nat × Byte) := [(0xFFFC, 1), (0xFFFE, 2), (0xFFFF, 0x80)]
theorem witness_semaphore : ∃ k ∈ getIssue (semState 0xFFFC semCells),
    (∀ i ∈ [Instr.semi 0 2 3, .sems 0 1 2, .semsCl 0 1 2 3, .semw 0 1 2, .semwT 0 1 2],
      preCause i (semState 0xFFFC semCells) k = none) ∧ k.w.spawned = false ∧
    0xFFFC + 4 ≤ shareSize (semState 0xFFFC semCells) k.w.grid ∧
    (∃ x ∈ wgOf (semState 0xFFFC semCells) k.w.grid 0, Memory.wf x.share = true) ∧
    (wgOf (semState 0xFFFC semCells) k.w.grid 0).isSome = true ∧ k.f.closed = false ∧
    semWaiters (semState 0xFFFC semCells) k.w.grid 0 0xFFFC = [] ∧
    roleOf (semState 0xFFFC semCells) k.w = none ∧ releaseWaits k = false ∧ releaseStuck k = false ∧ k.w.wg = 0 ∧
    (readLane (semState 0xFFFC semCells) k.w 2 k.low).toNat = 0xFFFC ∧
    rankWg (semState 0xFFFC semCells) k.w (readLane (semState 0xFFFC semCells) k.w 3 k.low).toNat = some 0 ∧
    semGet (semState 0xFFFC semCells) k.w.grid 0 0xFFFC = 0x20001 := by decide +kernel
/-- A fragment waits on the word for one and another for two; the signal of 1 makes two. -/
def semLine : State :=
  { State.onWave (semState 0xFFFC [(0xFFFC, 1), (0xFFFE, 3)]) fun w => { w with frags := w.frags.flatMap fun f =>
      [{ f with quads := 1, park := .sem g0 0 0xFFFC 1 5 }, { f with quads := 2, park := .sem g0 0 0xFFFC 2 6 },
       { f with quads := 0xFFFC }] } with cur := some (u0, 2) }
theorem witness_semaphore_line : ∃ k ∈ getIssue semLine, preCause (.sems 0 1 2) semLine k = none ∧ k.w.spawned = false ∧
    (wgOf semLine k.w.grid 0).isSome = true ∧ releaseWaits k = false ∧ releaseStuck k = false ∧ k.f.closed = false ∧
    semWaiters semLine k.w.grid 0 0xFFFC = [(5, u0, 0, 1), (6, u0, 1, 2)] ∧ k.lead = 2 ∧
    (∃ f ∈ k.w.frag? 0, f.park = .sem k.w.grid 0 0xFFFC 1 5) ∧ (∃ f ∈ k.w.frag? 1, f.park = .sem k.w.grid 0 0xFFFC 2 6) ∧
    semGet semLine k.w.grid 0 0xFFFC = 0x30001 := by decide +kernel
/-- The offset just past the share, and a spawned wave. -/
theorem witness_semaphore_bound : ∀ s ∈ [semState 0x10000 semCells, State.onWave (semState 0xFFFC semCells) fun w => { w with spawned := true }],
    ∃ k ∈ getIssue s, canTrapB s k = true ∧ preCause (.sems 0 1 2) s k = none ∧ preCause (.semwT 0 1 2) s k = none ∧
      (readLane s k.w 2 k.low).toNat % 4 = 0 ∧
      (k.w.spawned = true ∨ shareSize s k.w.grid < (readLane s k.w 2 k.low).toNat + 4) := by decide +kernel
/-- The lowest rank outside the cluster. -/
def semRank : State := State.reg (semState 0xFFFC semCells) 3 (BitVec.ofNat 32 (gridS base g0))
theorem witness_semaphore_rank : ∃ k ∈ getIssue semRank, canTrapB semRank k = true ∧ preCause (.semsCl 0 1 2 3) semRank k = none ∧
    (readLane semRank k.w 2 k.low).toNat % 4 = 0 ∧ releaseWaits k = false ∧ releaseStuck k = false ∧ k.f.closed = false ∧
    gridS semRank k.w.grid = (readLane semRank k.w 3 k.low).toNat := by decide +kernel
/-- n = 3 is more than the ceiling. -/
theorem witness_semaphore_range : ∃ k ∈ getIssue (semState 0xFFFC semCells), canTrapB (semState 0xFFFC semCells) k = true ∧
    preCause (.semw 0 3 2) (semState 0xFFFC semCells) k = none ∧
    semGet (semState 0xFFFC semCells) k.w.grid k.w.wg 0xFFFC % 2 ^ 16 < 3 ∧
    semGet (semState 0xFFFC semCells) k.w.grid k.w.wg 0xFFFC / 2 ^ 16 % 2 ^ 15 < 3 := by decide +kernel
/-- A role wave whose triple has registered `n` words. -/
def semRole (n : Nat) : State :=
  State.onGrid (semState 0xFFFC semCells) fun gr => { gr with
    pkt := { gr.pkt with roles := 1 },
    wgs := gr.wgs.map fun e => (e.1, { e.2 with triples := [⟨0, false, (List.range n).map (4 * ·)⟩] }) }
theorem witness_semaphore_table : ∀ n ∈ [15, 16], ∃ k ∈ getIssue (semRole n), canTrapB (semRole n) k = true ∧
    preCause (.semi 0 2 3) (semRole n) k = none ∧ (readLane (semRole n) k.w 2 k.low).toNat = 0xFFFC ∧
    roleOf (semRole n) k.w = some (0, 0) ∧ ∃ x ∈ wgOf (semRole n) k.w.grid k.w.wg, ∃ tr ∈ x.triples[0]?,
      0xFFFC ∉ tr.words ∧ tr.words.length = n := by decide +kernel
theorem witness_semaphore_misaligned : ∃ k ∈ getIssue (semState 0xFFFD semCells), canTrapB (semState 0xFFFD semCells) k = true ∧
    preCause (.sems 0 1 2) (semState 0xFFFD semCells) k = none ∧ preCause (.semw 0 1 2) (semState 0xFFFD semCells) k = none ∧
    (readLane (semState 0xFFFD semCells) k.w 2 k.low).toNat % 4 ≠ 0 := by decide +kernel
/-- n = 2 is one more than the ceiling leaves, and one more than the count; closed or not. -/
theorem witness_semaphore_edges : ∀ c ∈ [semCells, closedCells], ∃ k ∈ getIssue (semState 0xFFFC c),
    canTrapB (semState 0xFFFC c) k = true ∧ preCause (.sems 0 2 2) (semState 0xFFFC c) k = none ∧
    preCause (.semw 0 2 2) (semState 0xFFFC c) k = none ∧ preCause (.semwT 0 2 2) (semState 0xFFFC c) k = none ∧
    semGet (semState 0xFFFC c) k.w.grid k.w.wg 0xFFFC % 2 ^ 16 < 2 ∧
    2 ≤ semGet (semState 0xFFFC c) k.w.grid k.w.wg 0xFFFC / 2 ^ 16 % 2 ^ 15 ∧
    semGet (semState 0xFFFC c) k.w.grid k.w.wg 0xFFFC / 2 ^ 16 % 2 ^ 15 <
      semGet (semState 0xFFFC c) k.w.grid k.w.wg 0xFFFC % 2 ^ 16 + 2 ∧
    (bitOf (semGet (semState 0xFFFC c) k.w.grid k.w.wg 0xFFFC) 31 = true ↔ c = closedCells) := by decide +kernel

end Sys2Proof.Tests
end

