-- ==== Sys2Proof/Tests/WitnessDevice.lean ====
section
/-!
SUPPORT. Witnesses for the obligations on accesses, decoding, the step, engines, spawning, rays, journals and the package.
-/

namespace Sys2Proof.Tests

set_option Elab.async false

open Sys2Proof.Machine

/-! Accesses. -/

/-- The base state with `es` in flight. -/
def pending (es : List Entry) : State :=
  State.onWave trapBase fun w => { w with entries := es, nextSeq := es.length, open_ := 1 }

/-- Lane 0 of entry `seq` may be performed. -/
def performable (s : State) (seq : Nat) : Bool :=
  (assocGet s.waves u0).any fun (w : Wave) => (w.entries.find? (·.seq == seq)).any fun (e : Entry) =>
    match (assocGet e.lanes 0 : Option LaneSt) with
    | some (.inflight op _) => !before s w e 0 op LaneSt.flying && !before s w e 0 op LaneSt.stuck && !laneStuck w seq 0 &&
        laneTurn s u0 w e 0 && (assocGet s.ctxs w.ctx).isSome && Memory.wf s.mem
    | _ => false

theorem performable_of {s : State} {seq : Nat} (h : performable s seq = true) :
    ∃ w e op addr, Performable s u0 seq 0 w e op addr ∧ Memory.wf s.mem = true := by
  unfold performable at h
  cases hw : assocGet s.waves u0 with
  | none => simp [hw] at h
  | some w =>
    cases he : w.entries.find? (·.seq == seq) with
    | none => simp [hw, he] at h
    | some e =>
      cases hl : assocGet e.lanes 0 with
      | none => simp [hw, he, hl] at h
      | some st =>
        cases st with
        | inflight op addr =>
          simp only [hw, he, hl, Option.any_some, Bool.and_eq_true, Bool.not_eq_true'] at h
          obtain ⟨⟨⟨⟨⟨h1, h2⟩, h3⟩, h4⟩, h5⟩, h6⟩ := h
          exact ⟨w, e, op, addr, ⟨hw, he, hl, h1, h2, h3, h4, h5, by omega⟩, h6⟩
        | done => simp [hw, he, hl] at h
        | faulted c a p => simp [hw, he, hl] at h
        | held => simp [hw, he, hl] at h

def st4 : Instr := .stA32 0 .b4 8 4
def cas : Instr := .atom .w32 (mem 8 4 10 ⟨31, 5, .plain, .glob, 9⟩)
def add : Instr := .atom .w64 (mem 8 4 10 ⟨31, 5, .plain, .glob, 0⟩)
/-- Loads of one, eight and sixteen bytes, stores to memory and to a share, halves, and atomics: none reaches a peer. -/
theorem witness_performed : ∀ p ∈ [
    (ld, Op.load (.phys 0x50100 0x40000) 1 0), (ld, .load (.phys 0x50100 0x40000) 8 0), (ld, .load (.phys 0x50100 0x40000) 16 0),
    (ld, .load (.share g0 0 0xFFFC) 4 0), (ld, .load (.share g0 0 0xFFF0) 16 0), (st4, .store (.share g0 0 0xFFF0) (List.replicate 16 1)), (st4, .store (.phys 0x50100 0x40000) [1]),
    (st4, .store (.phys 0x50100 0x40000) (List.replicate 8 1)), (st4, .store (.share g0 0 0xFFF8) (List.replicate 8 1)),
    (st4, .store (.phys 0x50100 0x40000) (List.replicate 16 1)), (cas, .atom (.phys 0x50100 0x40000) 5 0),
    (cas, .atom (.phys 0x50100 0x40000) 5 7), (add, .atom (.phys 0x50100 0x40000) 5 0), (add, .atom (.share g0 0 0xFFF8) 5 0)],
    performable (pending [entry 0 0 p.1 (.inflight p.2 0x100)]) 0 = true ∧ p.2.peerPa = none := by decide +kernel

/-- A word that the store meets, or just misses, has been updated in this cycle. -/
def updated (a : Nat) : State :=
  { pending [entry 0 0 st4 (.inflight (.store (.phys 0x50100 0x40000) [1]) 0x100)] with updates := [(.phys a 0, 7)] }
theorem witness_store_update : ∀ x ∈ [(0x500FD, true), (0x500FC, false), (0x50101, false)], performable (updated x.1) 0 = true ∧
    (Op.load (.phys x.1 0) 4 0).overlaps (.load (.phys 0x50100 0x40000) 1 0) = x.2 := by decide +kernel

/-- Peer 1 on ports `ports`, port 2 as `f` makes it, and the entries `es` in flight. -/
def distant (ports : List Nat) (f : Port → Port) (es : List Entry) : State :=
  let s := pending es
  modPort { s with hub := { s.hub with peers := [(1, ⟨ports, [(0, 0x10000)]⟩)] } } 2 f
def farLoad : Op := .load (.phys (2 ^ 51 + 2 ^ 42) 0x40000) 4 0
def farStore : Op := .store (.phys (2 ^ 51 + 2 ^ 42) 0x40000) [1]
/-- Its port answers a request. -/
def asked (c n : Nat) (o : Op) : Entry := entry 0 0 ld (.inflight (.sent 2 c n o) 0x100)
theorem witness_answered : ∀ o ∈ [farLoad, farStore, .atom (.phys (2 ^ 51 + 2 ^ 42) 0x40000) 5 0],
    ∃ w ∈ assocGet (distant [2] id [asked 0 1 o]).waves u0, ∃ e ∈ w.entries.find? (·.seq == 0),
      assocGet e.lanes 0 = some (.inflight (.sent 2 0 1 o) 0x100) ∧ answerable (distant [2] id [asked 0 1 o]) 2 0 1 o = true ∧
      (assocGet (distant [2] id [asked 0 1 o]).ctxs w.ctx).isSome = true := by decide +kernel
/-- A request may leave, finds the port training or without a credit, or its peer has no port. -/
theorem witness_request : ∀ x ∈ [([2], 0, some true), ([2], 1, some false), ([2], 2, some false), ([], 0, none)],
    performable (distant x.1 (fun r => if x.2.1 = 1 then { r with training := true } else
      if x.2.1 = 2 then r.modVc 0 fun c => { c with avail := 0 } else r) [entry 0 0 ld (.inflight farLoad 0x100)]) 0 = true ∧
    farLoad.peerPa = some (2 ^ 51 + 2 ^ 42) ∧ farLoad.span.isSome = true ∧
    (portOf (distant x.1 (fun r => if x.2.1 = 1 then { r with training := true } else
      if x.2.1 = 2 then r.modVc 0 fun c => { c with avail := 0 } else r) []) (2 ^ 51 + 2 ^ 42)).map (portSends (distant x.1
        (fun r => if x.2.1 = 1 then { r with training := true } else
      if x.2.1 = 2 then r.modVc 0 fun c => { c with avail := 0 } else r) [])) = x.2.2 := by decide +kernel
/-- No answer comes: the port is down, T cycles have passed, or a write sent before it is unanswered. -/
theorem witness_unanswered :
    ((assocGet (distant [2] (fun r => { r with up := false }) [asked 0 1 farLoad]).hub.ports 2).all fun r => !r.up) = true ∧
    ((assocGet (distant [2] (fun r => { r with logT := 0 }) [asked 0 1 farLoad]).hub.ports 2).all fun r =>
      decide (0 + 2 ^ r.logT ≤ 1)) = true ∧
    (farStore.writes = true ∧ ∃ x ∈ outAsks (distant [2] id [asked 0 1 farStore,
      entry 1 0 st4 (.inflight (.sent 2 0 2 farStore) 0x100)]), x.port = 2 ∧ x.num < 2 ∧ x.wr = true ∧
        some x.peer = farStore.peerPa.map paPeer) := by decide +kernel
/-- An atomic's write stands before another atomic. -/
theorem witness_atom_blocked : ∀ x ∈ [true, false], ∃ w ∈ assocGet (pending [entry 0 0 cas (.inflight (.atomWrite (.phys 0x50100 0x40000) 7 5 7) 0x100)]).waves u0,
    ∃ e ∈ w.entries.find? (·.seq == 0), (assocGet e.lanes 0).isSome = true ∧
      (x = atomBlocked (pending [entry 0 0 cas (.inflight (.atomWrite (.phys 0x50100 0x40000) 7 5 7) 0x100)]) u0 w
        { e with instr := if x then cas else add } (.phys 0x50100 0x40000)) := by decide +kernel
theorem witness_share : ∃ x ∈ wgOf (pending []) g0 0, Memory.wf x.share = true := by decide +kernel

/-- Behind an access to the same bytes in flight, and behind a faulted or held one. -/
def behind (l : LaneSt) : State := pending [entry 0 0 ld l, entry 1 0 st4 (.inflight (.store (.phys 0x50100 0x40000) [1]) 0x100)]
theorem witness_order : ∀ l ∈ [flying, .faulted .pageFault 0x100 0x100, .held], ∃ w ∈ assocGet (behind l).waves u0,
    ∃ e ∈ w.entries.find? (·.seq == 1), (assocGet (behind l).ctxs w.ctx).isSome = true ∧
      let op := Op.store (.phys 0x50100 0x40000) [1]
      op.span.isSome = true ∧ (l = flying → before (behind l) w e 0 op LaneSt.flying = true) ∧
      (l ≠ flying → before (behind l) w e 0 op LaneSt.flying = false ∧ laneTurn (behind l) u0 w e 0 = true ∧
        (before (behind l) w e 0 op LaneSt.stuck = true ∨ laneStuck w 1 0 = true)) := by decide +kernel

/-- The walk of address 0: four entries that name tables, and a leaf of 64 KiB. -/
theorem witness_walk : (∀ j ∈ [1, 2, 3, 4], memNat base.mem (0x10000 * (4 - j)) 8 = 0x10000 * (5 - j) + 1) ∧
    memNat base.mem 0x40000 8 = 0x5003B ∧ (∀ j ∈ [0, 1, 2, 3, 4], paExists base (0x10000 * j) = true) ∧
    paExists base 0x50000 = true ∧ (base.ctxs.map fun c => c.2.ptb) = [0] := by decide +kernel
/-- An entry without V, a reserved bit, a leaf out of line, a last entry that is no leaf, one that denies a write, a leaf and a
table that lie nowhere. -/
theorem witness_walk_ends :
    (∀ v ∈ [(0, Cause.pageFault), (0x5013B, .tableFormat), (1, .tableFormat), (0x50033, .protection), (2 ^ 51 + 3 + 8 + 32, .physicalRange)],
      ∃ c ∈ assocGet base.ctxs 0, (match xlate { base with mem := memPut base.mem 0x40000 8 v.1 } c 0 .write with
        | .error x => decide (x = v.2) | .ok _ => false) = true) ∧
    (∀ v ∈ [(0x1003B, Cause.tableFormat), (2 ^ 51 + 1, .physicalRange)],
      ∃ c ∈ assocGet base.ctxs 0, (match xlate { base with mem := memPut base.mem 0x30000 8 v.1 } c 0 .write with
        | .error x => decide (x = v.2) | .ok _ => false) = true) := by decide +kernel

/-- A full list, with an entry in flight or with none. -/
def fullList (stuck : Bool) : State :=
  let es := (List.range 64).map fun j => entry j 0 ld (if stuck || j != 0 then .faulted .protection 0x100 0x100 else flying)
  State.onWave trapBase fun w => { w with nextSeq := 64, entries := es }
theorem witness_full_list : ∀ x ∈ [false, true], ∃ k ∈ getIssue (fullList x), preCause ld (fullList x) k = none ∧
    64 ≤ k.w.entries.length ∧ canTrapB (fullList x) k = true ∧ tablesB (fullList x) k.c = true ∧
    if x then k.w.entries.all (fun e => e.stuck && e.lowest.isSome && !e.serviced k.c) = true
    else k.w.entries.any (fun e => !e.stuck) = true := by decide +kernel

def faultState : State := pending [entry 0 0 ld (.faulted .protection 0x100 0x100)]
theorem witness_fault_report : ∃ k ∈ getIssue faultState, preCause (.waitbAll 0) faultState k = none ∧ k.f.park = .none ∧
    k.f.closed = false ∧ (pendingBatches k.w).length < 16 ∧ (∀ e ∈ k.w.entries, e.flying = false) ∧
    (∀ e ∈ k.w.entries, e.stuck = true → e.lowest.isSome = true ∧ e.serviced k.c = false) ∧
    (∃ e ∈ (k.w.entries.filter Entry.stuck).head?, e.lowest = some (0, .protection, 0x100, 0x100)) ∧
    canTrapB faultState k = true := by decide +kernel

def reportState : State := State.onWave trapBase fun w => { w with report := some 0 }
theorem witness_report_end : ∃ w ∈ assocGet reportState.waves u0, w.window = none ∧ w.trapWait = none ∧
    (∀ f ∈ w.frags, f.trap = none) ∧ w.report = some 0 ∧ ∀ e ∈ w.entries, e.stuck = false := by decide +kernel
def wantPage : Context → Context := fun c => { c with pages := [⟨0, 1, 0, true, true, true, true, false, 0, none⟩] }
/-- The fragment waits for the service of page 0, which stands in `p`. -/
def serviceState (p : Context → Context) (low : Option (Cause × VA)) : State :=
  State.onFrag (State.onCtx trapBase p) fun f => { f with park := .service 0 (-1) 16 low }
def serviced (s : State) (ok : Bool) : Bool :=
  (assocGet s.waves u0).any fun (w : Wave) => w.window.isNone && w.report.isNone && w.trapWait.isNone &&
    w.frags.all (fun f => f.trap.isNone) && (assocGet s.ctxs w.ctx).any fun c => !migrating c 0 && match w.frags with
      | [f] => canTrapB s ⟨u0, w, f, c⟩ && (match servicePage (modFrag s u0 (leadQuad f.quads) fun f =>
          { f with park := .none, stamp := s.cycle, readyAt := max f.readyAt (s.cycle + 1) }) w.ctx 0 16 (some (coreDom w.core)) with
        | .ok _ => ok | .error _ => !ok)
      | _ => false
theorem witness_service : serviced (serviceState id none) true = true ∧ serviced (serviceState wantPage none) true = true ∧
    serviced (serviceState (fun c => { c with pages := [] }) none) false = true ∧
    serviced (serviceState (fun c => { c with pages := [] }) (some (.protection, 4))) false = true := by decide +kernel
theorem witness_service_migrating : ∃ c ∈ assocGet (serviceState (fun c => { c with bufs := [⟨0, 0x10000, some 0, true⟩] }) none).ctxs 0,
    migrating c 0 = true := by decide +kernel

/-! Decoding and the step. -/

theorem witness_encodes : (Instr.iadd .u32 (ri 8 2 1)).wf = true ∧ (encode (.iadd .u32 (ri 8 2 1))).isSome = true ∧
    encode .powerRemoved = none ∧ (decode [0x0007]).toOption = some (.nop 7) := by decide +kernel

/-- The fragment, and what it stands before, once scheduler 0 of core 512 has chosen it. -/
def codeState (ps : List Parcel) : State := placeCode State.reset ps
def chosen (s : State) (P : State → Issue → Bool) : Bool :=
  (pick { s with agenda := [] } 512 0).any fun x => !(assocGet x.2.2.waves x.1).any (watchdogDue x.2.2) &&
    (getIssue { x.2.2 with cur := some (x.1, x.2.1) }).any (P { x.2.2 with cur := some (x.1, x.2.1) })
/-- The header's translation and its value. -/
def header (t : State) (k : Issue) : Except Cause (Nat × Nat) :=
  (xlate t k.c k.f.pc.toNat .fetch).map fun x => ((k.parcel t x.1).toNat / 2 ^ 8, (k.parcel t x.1).toNat % 8)
/-- A header at `pc`, whose value is `v`, and an entry of the second page if it is mapped. -/
def atHeader (pc v page : Nat) : State :=
  let s := State.onFrag (codeState [0x0007]) fun f => { f with pc := BitVec.ofNat 80 pc }
  { s with mem := memPut (memPut s.mem (0x50000 + pc) 2 v) 0x40008 8 page }
/-- A block on one page; a header without a length; blocks that reach the next page, mapped or not. -/
theorem witness_step_header :
    chosen (codeState [0x0007]) (fun t k => k.f.header && decide ((header t k).toOption = some (1, 0))) = true ∧
    chosen (codeState []) (fun t k => k.f.header && decide ((header t k).toOption = some (0, 0))) = true ∧
    (∀ x ∈ [(0, false), (0x6003B, true)], chosen (atHeader 0xFFFC 0x300 x.1) (fun t k => k.f.header &&
      decide ((header t k).toOption = some (3, 0)) && (k.f.pc + 6).toNat / 2 ^ 16 != k.f.pc.toNat / 2 ^ 16 &&
      (xlate t k.c 0x10000 .fetch).isOk == x.2) = true) := by decide +kernel
theorem witness_step_one_fragment : chosen (codeState [0x0007]) (fun t k => t.waves.length == 1 && k.w.frags.length == 1) = true := by
  decide +kernel
/-- The header's page is not placed and firmware serves it, or it is not mapped at all. -/
theorem witness_step_fetch :
    chosen { State.onCtx (codeState [0x0007]) wantPage with mem := memPut (codeState [0x0007]).mem 0x40000 8 0 } (fun t k =>
      k.f.header && (match xlate t k.c k.f.pc.toNat .fetch with | .error .pageFault => true | _ => false) &&
      serviceable k.c k.f.pc.toNat) = true ∧
    chosen (State.onFrag (codeState [0x0007]) fun f => { f with pc := 0x10000 }) (fun t k =>
      (match xlate t k.c k.f.pc.toNat .fetch with | .error .pageFault => true | _ => false) &&
      !serviceable k.c k.f.pc.toNat && tablesB t k.c) = true := by decide +kernel
/-- Inside a block of `n` parcels that begins with the first half of an A32 instruction, or with one that does not decode. -/
def insideBlock (ps : List Parcel) (n : Nat) : State :=
  State.onFrag (codeState ps) fun f =>
    { f with header := false, pc := 2, fin := 2 + BitVec.ofNat 80 (2 * n), page0 := 0x50000, page1 := 0x60000 }
theorem witness_step_inside : ∀ x ∈ [([0x0007], 1, true), ([0x4E80, 0x1404], 2, true), ([0x4E80, 0x1404], 1, false), ([0x0500], 1, true)],
    chosen (insideBlock x.1 x.2.1) (fun t k => !k.f.header && k.f.pc != k.f.fin &&
      (decide (parcelCount ((k.parcels t).headD 0) ≤ k.f.parcelsLeft) == x.2.2) &&
      ((decode (k.parcels t)).isOk == (x.1 != [0x0500] && x.2.2))) = true := by decide +kernel
/-- At the block's end, with another pass to go or none. -/
theorem witness_step_end : ∀ n ∈ [0, 1], chosen (State.onFrag (insideBlock [0x0007] 1) fun f => { f with pc := f.fin, left := n })
    (fun _ k => !k.f.header && k.f.pc == k.f.fin && k.f.left == n) = true := by decide +kernel
/-- The parcel was written after the packet of the wave's grid was read. -/
theorem witness_old_parcel : ∃ k ∈ getIssue { base with past := [(0x50002, g0 + 1, 5)] },
    base.undefMem = [] ∧ k.w.grid < g0 + 1 ∧ ∀ t ∈ k.w.threads, t.2.grid < g0 + 1 := by decide +kernel
/-- Two contexts of one core, weights 0 and 3, each with a ready wave of scheduler 0. -/
def twoBanks : State :=
  { base with
    ctxs := base.ctxs ++ base.ctxs.map fun e => (e.1 + 1, { e.2 with share := 3 }),
    banks := base.banks ++ base.banks.map fun e => (e.1 + 1, { e.2 with index := 1 }),
    waves := base.waves ++ base.waves.map fun e => (e.1 + 1, { e.2 with ctx := 1, slot := 1 }) }
theorem witness_banks : (pick twoBanks 512 0).isSome = true ∧ 0 ∉ (getCore twoBanks 512).issued ∧
    ∀ n ∈ [0, 1], ∃ w ∈ assocGet twoBanks.waves (u0 + n), w.core = 512 ∧ w.slot / 32 = 0 ∧ w.ctx = n ∧
      (bankIndex twoBanks 512 w.ctx != 0) = decide (n = 1) ∧ ∃ f ∈ w.frags, ready twoBanks (u0 + n) w f = true := by decide +kernel
theorem witness_nothing_ready : (pick (State.onFrag base fun f => { f with readyAt := 1 }) 512 0).isNone = true := by decide +kernel
theorem witness_step_next : Memory.wf (State.reset.withFetchWord 16 7).mem = true ∧
    (match step (State.reset.withFetchWord 16 7) with | .next _ => true | _ => false) = true := by decide +kernel

end Sys2Proof.Tests
end

