-- ==== Sys2Proof/Tests/WitnessEngine.lean ====
section
/-!
SUPPORT. Witnesses for the obligations on the tensor engines, spawning, rays and journals.
-/

namespace Sys2Proof.Tests

set_option Elab.async false

open Sys2Proof.Machine

/-- `bs` at physical address `pa`. -/
def State.bytes (s : State) (pa : Nat) (bs : List Byte) : State := { s with mem := memWriteN s.mem pa bs }

/-! Rings and arrays. -/

def ring (n : Nat) (st : SlotSt) : Ring := ⟨g0, 0, none, 0, 8192, 0, 0, 0, List.replicate n st, []⟩
def ringState (n : Nat) (st : SlotSt) : State := State.onBank trapBase fun b => { b with rings := [(3, ring n st)] }

/-- 64 slots of 1 KiB fill the share; no slots release the ring. -/
theorem witness_ring_set : ∀ sh ∈ [63 * 2 ^ 16 + 4, 0], ∃ k ∈ getIssue (State.reg trapBase 11 (BitVec.ofNat 32 sh)),
    preCause (.ringsSet 0 3 10 11) (State.reg trapBase 11 (BitVec.ofNat 32 sh)) k = none ∧
    (assocGet trapBase.banks (bankKey k.w)).isSome = true ∧
    ringBusy (State.reg trapBase 11 (BitVec.ofNat 32 sh)) (8 * bankKey k.w + 3) = false ∧
    (readLane (State.reg trapBase 11 (BitVec.ofNat 32 sh)) k.w 11 k.low).toNat = sh ∧
    (readLane (State.reg trapBase 11 (BitVec.ofNat 32 sh)) k.w 10 k.low).toNat % 256 = 0 ∧
    (sh / 2 ^ 16 % 2 ^ 6 + 1) * (sh % 2 ^ 16 * 256) ≤ shareSize trapBase k.w.grid ∧ k.w.spawned = false := by decide +kernel
theorem witness_ring_held : ∃ k ∈ getIssue (ringState 1 .free), ∃ b ∈ assocGet (ringState 1 .free).banks (bankKey k.w),
    ∃ r ∈ assocGet b.rings 3, k.w.spawned = false ∧ r.grid = k.w.grid ∧ r.wg = k.w.wg ∧ ∀ x ∈ r.slots, x = .free := by decide +kernel
theorem witness_ring_pop : ∀ st ∈ [SlotSt.free, .filled], ∃ k ∈ getIssue (ringState 64 st),
    preCause (.ringsPop 0 3) (ringState 64 st) k = none ∧ releaseWaits k = false ∧ releaseStuck k = false ∧
    ∃ b ∈ assocGet (ringState 64 st).banks (bankKey k.w),
      ∃ r ∈ assocGet b.rings 3, r.grid = k.w.grid ∧ r.wg = k.w.wg ∧ r.closedIn (ringState 64 st) = false ∧
        r.head < r.slots.length ∧ r.tail < r.slots.length ∧ r.slots[r.read]? = some st := by decide +kernel
/-- The reader's earlier access is in flight. -/
def popBehind : State := State.onWave (ringState 1 .filled) fun w => { w with entries := [entry 0 0 ld flying], nextSeq := 1 }
theorem witness_ring_pop_waits : ∃ k ∈ getIssue popBehind, preCause (.ringsPop 0 3) popBehind k = none ∧ releaseWaits k = true ∧
    ∃ b ∈ assocGet popBehind.banks (bankKey k.w), ∃ r ∈ assocGet b.rings 3, r.slots[r.read]? = some .filled := by decide +kernel

/-- The workgroup's triple has closed. -/
def closedWg (s : State) : State :=
  State.onGrid s fun gr => { gr with wgs := gr.wgs.map fun e => (e.1, { e.2 with triples := [⟨1, true, []⟩] }) }
/-- Ring 3 of another workgroup, or closed with its slot free or filled, and no ring. -/
def ringWith (f : Ring → Ring) (n : Nat) (st : SlotSt) : State :=
  State.onBank trapBase fun b => { b with rings := [(3, f (ring n st))] }
theorem witness_ring_owner : ∀ s ∈ [trapBase, ringWith (fun r => { r with wg := 1 }) 1 .filled], ∃ k ∈ getIssue s,
    canTrapB s k = true ∧ preCause (.ringsSet 0 3 10 11) s k = none ∧ preCause (.ringsPop 0 3) s k = none ∧
    preCause (.copyR 0 3 20) s k = none ∧ k.w.spawned = false ∧
    (getRing s (8 * bankKey k.w + 3) = none ∨ ∃ r ∈ getRing s (8 * bankKey k.w + 3), r.wg ≠ k.w.wg) := by decide +kernel
def closedRing (st : SlotSt) : State := closedWg (ringWith (fun r => { r with triple := some 0 }) 1 st)
theorem witness_ring_closed : ∀ st ∈ [SlotSt.free, .filled], ∃ k ∈ getIssue (closedRing st),
    canTrapB (closedRing st) k = true ∧
    ∃ r ∈ getRing (closedRing st) (8 * bankKey k.w + 3), r.grid = k.w.grid ∧ r.wg = k.w.wg ∧
      r.slots[r.read]? = some st ∧ r.slots[r.tail]? = some st ∧ r.closedIn (closedRing st) = true := by decide +kernel
theorem witness_ring_full : ∃ k ∈ getIssue (ringState 1 .filled), canTrapB (ringState 1 .filled) k = true ∧
    preCause (.copyR 0 3 20) (ringState 1 .filled) k = none ∧ ∃ r ∈ getRing (ringState 1 .filled) (8 * bankKey k.w + 3),
      r.grid = k.w.grid ∧ r.wg = k.w.wg ∧ r.slots[r.tail]? = some .filled ∧ r.closedIn (ringState 1 .filled) = false := by decide +kernel
def mmaRef (j : Nat) : SlotRef := ⟨8 * 16 * 512 + j, 0, g0, 0, 0, 8192⟩
/-- A slot filled, a push in flight, and a claim in flight. -/
def busyRings : List State :=
  [ringState 1 .filled,
   State.onWave (ringState 1 .free) fun w => { w with entries := [{ entry 0 0 (.copyR 0 3 20) flying with slot := some (8 * 16 * 512 + 3, 0, 0) }] },
   State.onBank (ringState 1 .free) fun b => { b with
     arrays := [(0, { MArray.empty with pend := [.mma false true .i8 (-1) (mmaRef 3) (mmaRef 3) false] })] }]
theorem witness_ring_busy : ∀ s ∈ busyRings, ∃ k ∈ getIssue s, canTrapB s k = true ∧ preCause (.ringsSet 0 3 10 11) s k = none ∧
    (∃ r ∈ getRing s (8 * bankKey k.w + 3), k.w.spawned = false ∧ r.grid = k.w.grid ∧ r.wg = k.w.wg) ∧
    ((∃ v ∈ s.waves, ∃ e ∈ v.2.entries, 8 * bankKey k.w + 3 ∈ e.pushes) ∨
     (∃ b ∈ assocGet s.banks (bankKey k.w), ∃ m ∈ b.arrays, ∃ o ∈ m.2.pend,
       o = .mma false true .i8 (-1) (mmaRef 3) (mmaRef 3) false ∧ (mmaRef 3).rk = 8 * bankKey k.w + 3) ∨
     ∃ r ∈ getRing s (8 * bankKey k.w + 3), ∃ x ∈ r.slots, x ≠ .free) := by decide +kernel
/-- Nothing in flight names a ring. -/
def idleRing (s : State) (rk : Nat) : Bool :=
  (s.waves.all fun v => v.2.entries.isEmpty) && (s.banks.all fun b => b.2.arrays.isEmpty) &&
    ((getRing s rk).all fun r => r.slots.all (· == .free))
theorem idleRing_free {s : State} {rk : Nat} (h : idleRing s rk = true) (bk : Nat) :
    ¬((∃ v ∈ s.waves, ∃ e ∈ v.2.entries, rk ∈ e.pushes) ∨
      (∃ b, assocGet s.banks bk = some b ∧ ∃ m ∈ b.arrays, ∃ acc z f rows x y ex,
        .mma acc z f rows x y ex ∈ m.2.pend ∧ (x.rk = rk ∨ y.rk = rk)) ∨
      ∃ r, getRing s rk = some r ∧ ∃ x ∈ r.slots, x ≠ .free) := by
  simp only [idleRing, Bool.and_eq_true, List.all_eq_true, List.isEmpty_iff] at h
  obtain ⟨⟨h1, h2⟩, h3⟩ := h
  rintro (⟨v, hv, e, he, -⟩ | ⟨b, hb, m, hm, -⟩ | ⟨r, hr, x, hx, hn⟩)
  · rw [h1 v hv] at he
    cases he
  · rw [h2 _ (assocGet_mem hb)] at hm
    cases hm
  · rw [hr, Option.all_some, List.all_eq_true] at h3
    exact hn (by simpa using h3 x hx)
/-- 64 slots of 1 KiB and one more granule, a bit above SLOTS, and a base out of line. -/
def ringShape (v : Nat × Nat) : State := State.reg (State.reg trapBase 10 (BitVec.ofNat 32 v.1)) 11 (BitVec.ofNat 32 v.2)
theorem witness_ring_config : ∀ v ∈ [(0, 63 * 2 ^ 16 + 5), (0, 2 ^ 22), (1, 4)], ∃ k ∈ getIssue (ringShape v),
    canTrapB (ringShape v) k = true ∧ preCause (.ringsSet 0 3 10 11) (ringShape v) k = none ∧
    idleRing (ringShape v) (8 * bankKey k.w + 3) = true ∧
    let base := (readLane (ringShape v) k.w 10 k.low).toNat
    let sh := (readLane (ringShape v) k.w 11 k.low).toNat
    sh / 2 ^ 22 ≠ 0 ∨ base % 256 ≠ 0 ∨ (sh % 2 ^ 16 * 256 ≠ 0 ∧
      shareSize (ringShape v) k.w.grid < base + (sh / 2 ^ 16 % 2 ^ 6 + 1) * (sh % 2 ^ 16 * 256)) := by decide +kernel

/-- Rings 0 and 1 with slots in state `st`, `n` instructions accepted by array 0, and entry 0 of queue 3 in state `q`. -/
def arraysWith (f : Ring → Ring) (st : SlotSt) (n : Nat) (q : List ResSt) : State :=
  State.onBank trapBase fun b =>
    { b with rings := [(0, ring 1 .filled), (1, f (ring 1 st))],
             arrays := [(0, ⟨⟨some 0, []⟩, ⟨none, []⟩, List.replicate n (.drain false true true .bf16 3 0),
                             [(3, q.zipIdx.map fun x => ⟨.bf16, x.1, ⟨some 0, []⟩, x.2⟩)], 1⟩)] }
def arrayState (n : Nat) (st : ResSt) : State := arraysWith id .filled n [st]
theorem witness_array_accept : ∀ n ∈ [0, 1, 2], ∃ k ∈ getIssue (arrayState n .ready),
    preCause (.mma 0 true false false .i8 1 0) (arrayState n .ready) k = none ∧
    preCause (.mdrainB64 0 true false false .bf16 3 true) (arrayState n .ready) k = none ∧
    pickArray (arrayState n .ready) k false = some 0 ∧ k.w.spawned = false ∧
    (∃ b ∈ assocGet (arrayState n .ready).banks (bankKey k.w), ∀ j ∈ [0, 1], ∃ r ∈ assocGet b.rings j,
      r.grid = k.w.grid ∧ r.wg = k.w.wg ∧ mmaNeed .i8 ≤ r.bytes ∧ r.slots[r.read]? = some .filled) ∧
    (getArray (arrayState n .ready) (bankKey k.w) 0).pend.length = n ∧
    ((getArray (arrayState n .ready) (bankKey k.w) 0).queue 3).length < 4 := by decide +kernel
/-- The second operand's ring: of another workgroup, too small, closed and empty, open and empty. -/
def twoRings (f : Ring → Ring) : State := closedWg (arraysWith f .free 0 [])
theorem witness_array_rings : ∀ f ∈ [fun r => { r with wg := 1 }, fun r => { r with bytes := 8191 }, fun r => { r with triple := some 0 }, id],
    ∃ k ∈ getIssue (twoRings f), canTrapB (twoRings f) k = true ∧
    preCause (.mma 0 true false false .i8 1 0) (twoRings f) k = none ∧ preCause (.mma 0 true false false .i8 0 1) (twoRings f) k = none ∧
    pickArray (twoRings f) k false = some 0 ∧
    ∃ b ∈ assocGet (twoRings f).banks (bankKey k.w), (∃ a ∈ assocGet b.rings 0, a.grid = k.w.grid ∧ a.wg = k.w.wg ∧
      mmaNeed .i8 ≤ a.bytes ∧ a.closedIn (twoRings f) = false) ∧ ∃ r ∈ assocGet b.rings 1, r.slots[r.read]? = some .free ∧
        r.wg + (8192 - r.bytes) + flag (r.closedIn (twoRings f)) =
          (if (f (ring 1 .free)).wg = 1 ∨ (f (ring 1 .free)).bytes = 8191 ∨ (f (ring 1 .free)).triple = some 0 then 1 else 0) := by
  decide +kernel
theorem witness_queue_full : ∃ k ∈ getIssue (arraysWith id .filled 0 (List.replicate 4 .ready)),
    canTrapB (arraysWith id .filled 0 (List.replicate 4 .ready)) k = true ∧
    preCause (.mdrainA32 0 true false false .bf16 3) (arraysWith id .filled 0 (List.replicate 4 .ready)) k = none ∧
    ((getArray (arraysWith id .filled 0 (List.replicate 4 .ready)) (bankKey k.w) 0).queue 3).length = 4 := by decide +kernel
/-- A workgroup on the core has a triple on array 0; the wave is spawned, or the triple's own. -/
def heldArray (spawned : Bool) : State :=
  State.onWave (State.onGrid trapBase fun gr => { gr with
    pkt := { gr.pkt with roles := 1 }, wgs := gr.wgs.map fun e => (e.1, { e.2 with triples := [⟨0, false, []⟩] }) }) fun w =>
    { w with spawned := spawned, widx := if spawned then 0 else 1 }
theorem witness_array_held : ∀ x ∈ [true, false], ∃ k ∈ getIssue (heldArray x), canTrapB (heldArray x) k = true ∧
    (x = true → roleOf (heldArray x) k.w = none ∧ preCause (.mma 0 true false false .i8 1 0) (heldArray x) k = none ∧
      preCause (.mcast 0 false true 3 9) (heldArray x) k = none ∧
      (∀ y q e, k.f.park ≠ .mcast y q e) ∧ ∃ g ∈ (heldArray x).grids, (∃ c ∈ assocGet (heldArray x).ctxs g.2.ctx, c.resident = true) ∧
        ∃ y ∈ g.2.wgs, y.2.core = k.w.core ∧ y.2.retired = false ∧ ∃ t ∈ y.2.triples, t.arr = 0) ∧
    (x = false → roleOf (heldArray x) k.w = some (0, 1) ∧ preCause (.mma 0 true false false .i8 1 0) (heldArray x) k = none ∧
      ∃ g ∈ wgOf (heldArray x) k.w.grid k.w.wg, (g.triples[0]?).isSome = true) := by
  intro x hx
  have h : ∀ x ∈ [true, false], ∃ k ∈ getIssue (heldArray x), canTrapB (heldArray x) k = true ∧ k.f.park = .none ∧
    (x = true → roleOf (heldArray x) k.w = none ∧ preCause (.mma 0 true false false .i8 1 0) (heldArray x) k = none ∧
      preCause (.mcast 0 false true 3 9) (heldArray x) k = none ∧
      ∃ g ∈ (heldArray x).grids, (∃ c ∈ assocGet (heldArray x).ctxs g.2.ctx, c.resident = true) ∧
        ∃ y ∈ g.2.wgs, y.2.core = k.w.core ∧ y.2.retired = false ∧ ∃ t ∈ y.2.triples, t.arr = 0) ∧
    (x = false → roleOf (heldArray x) k.w = some (0, 1) ∧ preCause (.mma 0 true false false .i8 1 0) (heldArray x) k = none ∧
      ∃ g ∈ wgOf (heldArray x) k.w.grid k.w.wg, (g.triples[0]?).isSome = true) := by decide +kernel
  obtain ⟨k, hk, hc, hp, h1, h2⟩ := h x hx
  refine ⟨k, hk, hc, fun e => ?_, h2⟩
  obtain ⟨a, b, c, d⟩ := h1 e
  exact ⟨a, b, c, fun y q e => by rw [hp]; exact nofun, d⟩
/-- A role wave that names array 1, on a core of a tensor die. -/
def otherArray : State := State.onWave (heldArray false) fun w => { w with core := 0 }
theorem witness_array_other : ∃ k ∈ getIssue otherArray, canTrapB otherArray k = true ∧ (roleOf otherArray k.w).isSome = true ∧
    preCause (.mma 0 true true false .i8 1 0) otherArray k = none := by decide +kernel

theorem witness_array_drains : ∃ b ∈ assocGet (arrayState 1 .draining).banks (16 * 512),
    (assocGet b.arrays 0).isSome = true ∧
    (getArray (arrayState 1 .draining) (16 * 512) 0).pend = [.drain false true true .bf16 3 0] ∧
    ∃ e ∈ (getArray (arrayState 1 .draining) (16 * 512) 0).queue 3, e.id = 0 := by decide +kernel
/-- An `MMA` accepted, and the same executed. -/
def mmaState (x : Bool) : State :=
  State.onBank trapBase fun b =>
    { b with rings := [(0, ring 1 .claimed), (1, ring 1 .claimed)],
             arrays := [(0, ⟨⟨some 0, []⟩, ⟨none, []⟩, [.mma false true .i8 (-1) (mmaRef 0) (mmaRef 1) x], [], 0⟩)] }
theorem witness_mma : ∀ x ∈ [false, true], (getArray (mmaState x) (16 * 512) 0).pend =
    [.mma false true .i8 (-1) (mmaRef 0) (mmaRef 1) x] ∧ (mmaRef 0).rk ≠ (mmaRef 1).rk ∧
    ∀ j ∈ [0, 1], ∃ r ∈ getRing (mmaState x) (mmaRef j).rk, r.grid = (mmaRef j).grid ∧ r.wg = (mmaRef j).wg := by decide +kernel
/-- Group sums of FP16: a signalling NaN, infinity times zero, infinities of both signs, one infinity, 0 and 1; of MX by a scale of 255. -/
def halves (xs : List Nat) : List Byte := xs.flatMap (natLe 2) ++ List.replicate (64 - 2 * xs.length) 0
theorem witness_group_sums : (∀ v ∈ [([0x7D00], [0]), ([0x7C00], [0]), ([0x7C00, 0xFC00], [0x3C00, 0x3C00])],
      groupSum .f16 (halves v.1) (halves v.2) 0 0 0 = fpNaN fmtF32) ∧
    groupSum .f16 (halves [0xFC00]) (halves [0x3C00]) 0 0 0 = fpInf fmtF32 true ∧
    groupSum .f16 (halves []) (halves []) 0 0 0 = 0 ∧ groupSum .f16 (halves [0x3C00, 0x3C00]) (halves [0x3C00, 0x3C00]) 0 0 0 = 0x40000000 ∧
    groupSum .mxe4m3 (List.replicate 64 0) (List.replicate 64 0) 255 0 0 = fpNaN fmtF32 ∧
    groupSum .mxe4m3 (List.replicate 64 0x38) (List.replicate 64 0x38) 128 127 1 = 0x42800000 := by decide +kernel
theorem witness_pop : ∀ st ∈ [ResSt.draining, .ready], ∃ k ∈ getIssue (arrayState 0 st),
    preCause (.mpop 0 false true 16 3 31) (arrayState 0 st) k = none ∧ preCause (.stq 0 false 3 24) (arrayState 0 st) k = none ∧
    pickArray (arrayState 0 st) k false = some 0 ∧
    ∃ e ∈ oldestEntry (getArray (arrayState 0 st) (bankKey k.w) 0) 3, e.st = st := by decide +kernel
theorem witness_pop_empty : ∃ k ∈ getIssue (arrayState 0 .ready), canTrapB (arrayState 0 .ready) k = true ∧
    preCause (.mpop 0 false true 16 2 0) (arrayState 0 .ready) k = none ∧ preCause (.stq 0 false 2 24) (arrayState 0 .ready) k = none ∧
    preCause (.mcast 0 false true 2 9) (arrayState 0 .ready) k = none ∧ k.f.park = .none ∧
    oldestEntry (getArray (arrayState 0 .ready) (bankKey k.w) 0) 2 = none := by decide +kernel

/-! Engine operations. -/

theorem witness_copy_ring : ∃ k ∈ getIssue (ringState 1 .free), preCause (.copyR 0 3 20) (ringState 1 .free) k = none ∧
    k.w.entries.length < 64 ∧ k.w.spawned = false ∧ ∃ r ∈ getRing (ringState 1 .free) (8 * bankKey k.w + 3), r.grid = k.w.grid ∧
      r.wg = k.w.wg ∧ r.slots[r.tail]? = some .free ∧ (wgOf (ringState 1 .free) r.grid r.wg).isSome = true := by decide +kernel
def tilesState (t n : Nat) : State := State.reg (State.reg trapBase 8 (BitVec.ofNat 32 t)) 11 (BitVec.ofNat 32 n)
theorem witness_copy_tiles : ∀ n ∈ [1, 8], ∃ k ∈ getIssue (tilesState 0 n), preCause (.copyGt 0 8 9 10 11) (tilesState 0 n) k = none ∧
    (readLane (tilesState 0 n) k.w 11 k.low).toNat = n ∧ (readLane (tilesState 0 n) k.w 8 k.low).toNat < 2 ^ 13 ∧
    getRing (tilesState 0 n) (guideArgs (tilesState 0 n) k 8 9 10 11 k.low).2.1 = none := by decide +kernel
theorem witness_copy_tiles_bad : ∀ v ∈ [(0, 0), (0, 9), (2 ^ 13, 1)], ∃ k ∈ getIssue (tilesState v.1 v.2),
    canTrapB (tilesState v.1 v.2) k = true ∧ preCause (.copyGt 0 8 9 10 11) (tilesState v.1 v.2) k = none ∧
    (readLane (tilesState v.1 v.2) k.w 11 k.low).toNat = v.2 ∧ (readLane (tilesState v.1 v.2) k.w 8 k.low).toNat = v.1 := by decide +kernel
/-- Ring 3 of the wave's own core, full: the target is domain 16, core 0. -/
def tilesFull : State := State.onBank (tilesState (16 + 3 * 2 ^ 10) 1) fun b => { b with rings := [(3, ring 1 .filled)] }
theorem witness_copy_tiles_full : ∃ k ∈ getIssue tilesFull, preCause (.copyGt 0 8 9 10 11) tilesFull k = none ∧
    guideBad tilesFull (guideArgs tilesFull k 8 9 10 11 k.low).1 (guideArgs tilesFull k 8 9 10 11 k.low).2.1
      (readLane tilesFull k.w 10 k.low).toNat 1 = false ∧
    ∃ r ∈ getRing tilesFull (guideArgs tilesFull k 8 9 10 11 k.low).2.1, r.slots[r.tail]? = some .filled := by decide +kernel
/-- Rank 0, ring 3, chunk 3, the last of a BF16 entry. -/
def castState (st : SlotSt) (v : Nat) : State :=
  State.reg (State.onBank (arrayState 0 .ready) fun b => { b with rings := [(3, ring 1 st)] }) 9 (BitVec.ofNat 32 v)
theorem witness_multicast : ∀ st ∈ [SlotSt.free, .filled], ∃ k ∈ getIssue (castState st 0x33001),
    preCause (.mcast 0 false true 3 9) (castState st 0x33001) k = none ∧ k.f.park = .none ∧
    k.w.spawned = false ∧ (∃ e ∈ oldestEntry (getArray (castState st 0x33001) (bankKey k.w) 0) 3, e.st ≠ .draining ∧
      3 * 64 < 128 * drainSize e.fmt) ∧ (readLane (castState st 0x33001) k.w 9 k.low).toNat = 0x33001 ∧
    0 < gridS (castState st 0x33001) k.w.grid ∧ (rankFree (castState st 0x33001) k.w 0 3 = true ↔ st = .free) := by decide +kernel
/-- No rank, a rank past the cluster, bit 15, bit 19, and a chunk past the row. -/
theorem witness_multicast_bad : ∀ v ∈ [0, 0x3002, 0x8001, 0x80001, 0x43001], ∃ k ∈ getIssue (castState .free v),
    canTrapB (castState .free v) k = true ∧ preCause (.mcast 0 false true 3 9) (castState .free v) k = none ∧ k.f.park = .none ∧
    (readLane (castState .free v) k.w 9 k.low).toNat = v ∧ gridS (castState .free v) k.w.grid = 1 ∧
    ∃ e ∈ oldestEntry (getArray (castState .free v) (bankKey k.w) 0) 3, e.st ≠ .draining ∧ 128 * drainSize e.fmt = 4 * 64 := by decide +kernel
def castSpawned : State := State.onWave (castState .free 0x33001) fun w => { w with spawned := true }
theorem witness_multicast_spawned : ∃ k ∈ getIssue castSpawned, canTrapB castSpawned k = true ∧
    preCause (.mcast 0 false true 3 9) castSpawned k = none ∧ k.f.park = .none ∧ k.w.spawned = true ∧
    ∃ e ∈ oldestEntry (getArray castSpawned (bankKey k.w) 0) 3, e.st ≠ .draining := by decide +kernel

/-- Records of two FP32 elements at 0x200 and 0x240 and of an unmapped page at 0x2C0, one of 128 × 128, one of two lines at package 3,
and, each on a line of its own, of one element at 0x80, 0x100 and, unmapped, 0x180; an operation among them. -/
def record (base rank : Nat) (dims : List Nat) : List Byte :=
  natLe 10 base ++ [BitVec.ofNat 8 (16 * (rank - 1)), 0] ++ (dims.flatMap fun d => natLe 3 d) ++ List.replicate 40 0
def records : List (Nat × List Byte) :=
  [(0x200, record 0x300 1 [2, 1, 1, 1]), (0x240, record 0x380 2 [2, 1, 1, 1]), (0x2C0, record 0x20000 1 [2, 1, 1, 1]),
   (0x280, record 0x400 2 [128, 128, 1, 1]), (0x80, record 0x480 1 [1, 1, 1, 1]), (0x100, record 0x600 1 [1, 1, 1, 1]),
   (0x180, record 0x20000 1 [1, 1, 1, 1])]
def copyState (i : Instr) (args : List Nat) : State :=
  State.onWave (records.foldl (fun s r => State.bytes s (0x50000 + r.1) r.2) trapBase) fun w =>
    { w with entries := [entry 0 0 i (.inflight (.engine args) 0)], nextSeq := 1 }
def copyArgs (d : Nat) : List Nat := [0, 0, d, 0, 0x80]
/-- Nothing that an operation of lane 0 names stands at a peer. -/
def homely (s : State) (c : Context) (e : Entry) (rs : List ((Nat × Nat) × Bool)) : Bool :=
  e.asks.isEmpty && (asksOf s c 0 rs).isEmpty
theorem homely_answered {s : State} {c : Context} {e : Entry} {rs : List ((Nat × Nat) × Bool)} (h : homely s c e rs = true) :
    Answered s c e 0 rs := by
  simp only [homely, Bool.and_eq_true, List.isEmpty_iff] at h
  exact Or.inl ⟨by rw [h.1]; rfl, h.2⟩
/-- Sound sides; the second's destination cannot be written. -/
theorem witness_copy_moves : ∀ d ∈ [0x100, 0x180], ∃ x ∈ findEntry (copyState (.copy 0 8 12) (copyArgs d)) u0 0,
    engineLane x.2.1 = some (0, copyArgs d) ∧ copyHeld (copyState (.copy 0 8 12) (copyArgs d)) x.2.2 x.2.1 (copyArgs d) = false ∧
    homely (copyState (.copy 0 8 12) (copyArgs d)) x.2.2 x.2.1
      (engRanges (copyState (.copy 0 8 12) (copyArgs d)) x.2.2 x.2.1.instr x.2.1.rest (copyArgs d)) = true ∧
    ∃ v ∈ (copySides (copyState (.copy 0 8 12) (copyArgs d)) x.1 x.2.2 (copyArgs d)).toOption,
      tablesB (movePieces x.1.core x.2.2 v.2.1 v.2.2 (List.range v.2.1.count) (List.range v.2.1.count) v.1).1 x.2.2 = true ∧
      ((movePieces x.1.core x.2.2 v.2.1 v.2.2 (List.range v.2.1.count) (List.range v.2.1.count) v.1).2.2 = none ↔ d = 0x100) := by
  decide +kernel
/-- Its destination at peer 1 over port 2, with the requests it has sent. -/
def farCopy (r : Port → Port) (as : List Ask) : State :=
  let s := State.onWave (State.bytes (copyState (.copy 0 8 12) (copyArgs 0x180)) 0x40010 (natLe 8 (2 ^ 51 + 2 ^ 42 + 0xFB))) fun w =>
    { w with entries := w.entries.map fun e => { e with asks := as } }
  modPort { s with hub := { s.hub with peers := [(1, ⟨[2], [(0, 0x10000)]⟩)] } } 2 r
/-- The requests leave, or one sent may be answered, where the port is up. -/
theorem witness_copy_far : ∀ x ∈ [true, false], (∃ v ∈ findEntry (farCopy (fun r => { r with up := x }) []) u0 0,
      engineLane v.2.1 = some (0, copyArgs 0x180) ∧
      copyHeld (farCopy (fun r => { r with up := x }) []) v.2.2 v.2.1 (copyArgs 0x180) = false ∧ v.2.1.asks = [] ∧
      (asksOf (farCopy (fun r => { r with up := x }) []) v.2.2 0 (engRanges (farCopy (fun r => { r with up := x }) []) v.2.2
        v.2.1.instr v.2.1.rest (copyArgs 0x180))).map (fun a => portSends (farCopy (fun r => { r with up := x }) []) a.port) = [x]) ∧
    ∃ v ∈ findEntry (farCopy (fun r => { r with up := x }) [⟨0, 2, 0, 1, 1, true⟩]) u0 0,
      engineLane v.2.1 = some (0, copyArgs 0x180) ∧
      v.2.1.asks.map (fun a => a.answers (farCopy (fun r => { r with up := x }) [⟨0, 2, 0, 1, 1, true⟩])) = [x] := by
  decide +kernel
/-- A copy into the slot it reserved. -/
def ringArgs : List Nat := [3, g0, 0, 0, 8192, 0, 0x80]
def copyRing : State :=
  State.onBank (State.onWave (copyState (.copyR 0 3 20) ringArgs) fun w =>
    { w with entries := w.entries.map fun e => { e with slot := some (8 * 16 * 512 + 3, 0, 0) } }) fun b => { b with rings := [(3, ring 1 .reserved)] }
theorem witness_copy_fills : ∃ x ∈ findEntry copyRing u0 0, engineLane x.2.1 = some (0, ringArgs) ∧
    homely copyRing x.2.2 x.2.1 (engRanges copyRing x.2.2 x.2.1.instr x.2.1.rest ringArgs) = true ∧
    x.2.1.slot = some (8 * 16 * 512 + 3, 0, 0) ∧ (∃ r ∈ getRing copyRing (8 * 16 * 512 + 3), 0 < r.slots.length) ∧
    ∃ v ∈ (copySides copyRing x.1 x.2.2 ringArgs).toOption,
      (movePieces x.1.core x.2.2 v.2.1 v.2.2 (List.range v.2.1.count) (List.range v.2.1.count) v.1).2.2 = none := by decide +kernel
/-- A copy that a migration of its buffer holds. -/
def copyWaits : State := State.onCtx (State.onWave (copyState (.copy 0 8 12) (copyArgs 0x100)) fun w =>
  { w with entries := w.entries.map fun e => { e with issued := 1 } }) fun c => { c with bufs := [⟨0, 0x10000, some 0, false⟩] }
theorem witness_copy_held : ∃ x ∈ findEntry copyWaits u0 0, engineLane x.2.1 = some (0, copyArgs 0x100) ∧
    copyHeld copyWaits x.2.2 x.2.1 (copyArgs 0x100) = true := by decide +kernel
/-- An `STQ` with its last element left to store. -/
def stqState : State :=
  State.onBank (State.onWave (copyState (.stq 0 false 3 24) [0, 3, 0, 0, 0x280]) fun w =>
    { w with entries := w.entries.map fun e => { e with rest := some [16383] } }) fun b =>
    { b with arrays := [(0, ⟨⟨none, []⟩, ⟨none, []⟩, [], [(3, [⟨.w32, .claimed, ⟨some 0, []⟩, 0⟩])], 1⟩)] }
theorem witness_stq_stores : ∃ x ∈ findEntry stqState u0 0, engineLane x.2.1 = some (0, [0, 3, 0, 0, 0x280]) ∧
    copyHeld stqState x.2.2 x.2.1 [0, 3, 0, 0, 0x280] = false ∧ x.2.1.rest = some [16383] ∧
    homely stqState x.2.2 x.2.1 (engRanges stqState x.2.2 x.2.1.instr x.2.1.rest [0, 3, 0, 0, 0x280]) = true ∧
    (∃ r ∈ (readRec stqState (some x.1.core) x.2.2 false 0x280).toOption, r.2.fmt = 0 ∧ 2 ≤ r.2.rank ∧ r.2.dims = [128, 128, 1, 1] ∧
      tablesB (storePieces x.1.core x.2.2 r.2 ⟨some 0, []⟩ [16383] [16383] r.1).1 x.2.2 = true ∧
      (storePieces x.1.core x.2.2 r.2 ⟨some 0, []⟩ [16383] [16383] r.1).2.2 = none) ∧
    ∃ e ∈ (getArray stqState (bankKey x.1) 0).queue 3, e.id = 0 ∧ e.fmt.code = 0 := by decide +kernel
/-- Elements of four bits with scales: bytes of two, and the second block's scale. -/
theorem witness_pieces : let r : TRec := ⟨0x100, 9, 2, [64, 2, 1, 1], [0, 32, 0, 0], 0x200, [0, 2, 0, 0]⟩
    31 < r.rowN ∧ 1 < r.dim 1 ∧ r.mx = true ∧ 1 < r.dim 0 / 32 ∧ r.piece 63 = (0x13F, 1) ∧ r.piece 67 = (0x203, 1) ∧ r.dense 67 = 67 := by
  decide +kernel
/-- One piece: its places found, or the one or the other not. -/
theorem witness_piece_moves : ∃ c ∈ assocGet trapBase.ctxs 0,
    ((Side.record (parseRec (record 0x300 1 [2, 1, 1, 1]))).loc trapBase c .read 1).isOk = true ∧
    ((Side.record (parseRec (record 0x300 1 [2, 1, 1, 1]))).loc trapBase c .write 1).isOk = true ∧
    (Side.record (parseRec (record 0x300 1 [2, 1, 1, 1]))).shadowed [1] 1 = false ∧
    ((Side.image g0 0 0 (parseRec (record 0x300 1 [2, 1, 1, 1]))).loc trapBase c .write 1).isOk = true ∧
    (wgOf trapBase g0 0).isSome = true ∧ Memory.wf trapBase.mem = true ∧
    (∀ a ∈ [Acc.read, .write], ((Side.record (parseRec (record 0x20000 1 [2, 1, 1, 1]))).loc trapBase c a 0).isOk = false) ∧
    (readPieces trapBase c (parseRec (record 0x300 1 [2, 1, 1, 1])) 2).isOk = true ∧
    (writePieces trapBase c (parseRec (record 0x300 1 [2, 1, 1, 1])) [1, 2]).isOk = true := by decide +kernel

/-- One tile to ring 3 of the same core, its semaphore in the share's last word with room for one. -/
def guideArgs1 : List Nat := [512, 8 * 16 * 512 + 3, 0, 0, 0xFFFC, 1]
def guideState : State :=
  State.onBank (State.onGrid (copyState (.copyGt 0 8 9 10 11) guideArgs1) fun gr =>
    { gr with wgs := gr.wgs.map fun e => (e.1, { e.2 with share := [(0xFFFE, 1)] }) })
    fun b => { b with rings := [(3, ring 1 .reserved)] }
theorem witness_guide_tiles : ∃ x ∈ findEntry guideState u0 0, engineLane x.2.1 = some (0, guideArgs1) ∧
    (∃ r ∈ getRing guideState (8 * 16 * 512 + 3), 0 < r.slots.length ∧ ∃ g ∈ wgOf guideState r.grid r.wg, Memory.wf g.share = true ∧
      g.undef = [] ∧ leNat (memReadN g.share 0xFFFC 4) % 2 ^ 16 + 1 ≤ leNat (memReadN g.share 0xFFFC 4) / 2 ^ 16 % 2 ^ 15) ∧
    (∀ v ∈ guideState.waves, ∀ f ∈ v.2.frags, f.park = .none) ∧
    guideBad guideState 512 (8 * 16 * 512 + 3) 0xFFFC 1 = false := by decide +kernel
/-- One receiver: rank 0, ring 3, slot 0. -/
def castRun : State :=
  State.onBank (State.onWave (copyState (.mcast 0 false true 3 9) [3, 1]) fun w =>
    { w with entries := w.entries.map fun e => { e with image := some ⟨.w32, .claimed, ⟨some 7, []⟩, 0⟩,
                                                        rest := some (recvWords [⟨0, 0, 8 * 16 * 512 + 3, 0⟩]) } }) fun b =>
    { b with rings := [(3, ring 1 .reserved)] }
theorem witness_multicast_run : ∃ x ∈ findEntry castRun u0 0, engineLane x.2.1 = some (0, [3, 1]) ∧
    x.2.1.rest = some (recvWords [⟨0, 0, 8 * 16 * 512 + 3, 0⟩]) ∧ x.2.1.image.isSome = true ∧
    ∃ r ∈ getRing castRun (8 * 16 * 512 + 3), 0 < r.slots.length ∧ ∃ v ∈ wgOf castRun r.grid r.wg, Memory.wf v.share = true := by
  decide +kernel
/-- A communicator of two segments, the second here or on package 3, a source of two elements for each local rank, and a target of
two. -/
def commBytes (p : Byte) (v g : Nat) : List Byte :=
  let bs := natLe 4 7 ++ natLe 2 v ++ natLe 2 g ++ List.replicate 8 0 ++ List.replicate 48 0 ++ [255, p] ++ List.replicate 62 0 ++
    (if g = 1 then [0, 0] else [0, 1]) ++ List.replicate 126 0
  bs.take 12 ++ natLe 4 (shapeOf bs) ++ bs.drop 16
def credArgs : List Nat := [0, 0x200, 0, 0x500, 0, 0x240]
def credState (p : Byte) (v g : Nat) : State :=
  let s := State.bytes (copyState (.cred 0 20 8 12) credArgs) 0x50500 (commBytes p v g)
  { s with hub := { s.hub with peers := [(3, ⟨[2], [(0, 0x10000)]⟩)] } }
set_option maxRecDepth 10000 in
/-- One member, or one of two with the other's two sums. -/
theorem witness_collective : ∀ q ∈ [(0, 1, 1), (3, 2, 2)], ∃ x ∈ findEntry (credState (BitVec.ofNat 8 q.1) q.2.1 q.2.2) u0 0,
    engineLane x.2.1 = some (0, credArgs) ∧
    ∃ m ∈ (readComm (credState (BitVec.ofNat 8 q.1) q.2.1 q.2.2) x.2.2 false 0x500).toOption,
      ∃ a ∈ (readRec (credNumber m.1 u0 x.2.1 m.2) none x.2.2 false 0x240).toOption,
      ∃ b ∈ (readRec (credNumber m.1 u0 x.2.1 m.2) none x.2.2 false 0x200).toOption,
        commFits m.2 a.2 b.2 = true ∧ m.2.place.all (· == 255) = (q.1 == 0) ∧ b.2.pieces = 2 ∧
        (q.1 = 3 → membersAnswer (credState (BitVec.ofNat 8 q.1) q.2.1 q.2.2) m.2 = true) ∧
        homely (credState (BitVec.ofNat 8 q.1) q.2.1 q.2.2) x.2.2 x.2.1
          (engRanges (credState (BitVec.ofNat 8 q.1) q.2.1 q.2.2) x.2.2 x.2.1.instr none credArgs) = true ∧
        ∃ v ∈ (readPieces a.1 x.2.2 a.2 a.2.pieces).toOption,
          (writePieces v.1 x.2.2 b.2 ((List.range b.2.pieces).map fun i =>
            commResult m.2 (segVal m.2 v.2 b.2.pieces i (if q.1 = 0 then [] else [(1, [1, 2])])))).isOk = true := by
  decide +kernel
/-- The issue of a `CRED`: its communicator read, or not valid. -/
def credIssue (ok : Bool) : State := State.reg (credState 3 2 2) 8 (if ok then 0x500 else 0x600)
set_option maxRecDepth 10000 in
theorem witness_collective_issue : ∀ ok ∈ [true, false], ∃ k ∈ getIssue (credIssue ok),
    preCause (.cred 0 20 8 12) (credIssue ok) k = none ∧ k.w.entries.length < 64 ∧
    (readComm (credIssue ok) k.c (tripleBad (credIssue ok) k.w 8 k.low) (readTriple (credIssue ok) k.w 8 k.low)).isOk = ok := by
  decide +kernel

/-! Device writes of bytes that nothing fixes: they succeed wherever the page's leaf stands as here. -/

/-- Context 0 reaches page 0 by tables from 0 and a leaf at 0x40000 with A and D set. -/
def mapped (s : State) (x : Nat) : Bool :=
  (assocGet s.ctxs x).any (fun c => c.ptb == 0 && c.sup && c.bufs.isEmpty) && dieOnline s.hub 0 &&
    ([1, 2, 3, 4].all fun j => memNat s.mem (0x10000 * (4 - j)) 8 == 0x10000 * (5 - j) + 1) && memNat s.mem 0x40000 8 == 0x500FB

/-- What such a write leaves as it was. -/
def sameTables (s t : State) : Prop := t.ctxs = s.ctxs ∧ t.hub = s.hub ∧ ∀ a, a < 0x50000 → memRead t.mem a = memRead s.mem a

theorem memNat_same {m n : List Host.Cell} {a : Nat} (h : ∀ i, i < 0x50000 → memRead m i = memRead n i) (ha : a + 8 ≤ 0x50000) :
    memNat m a 8 = memNat n a 8 := by
  unfold memNat memReadN
  congr 1
  exact List.map_congr_left fun i hi => h _ (by have := List.mem_range.mp hi; omega)

theorem mapped_walk {s t : State} {x va : Nat} {c : Context} (h : mapped s x = true) (hs : sameTables s t)
    (hc : assocGet s.ctxs x = some c) (hv : va < 0x10000) : walk t c va = .found (0x50000 + va) 0x40000 0x500FB := by
  simp only [mapped, hc, Option.any_some, Bool.and_eq_true, beq_iff_eq, List.all_cons, List.all_nil] at h
  obtain ⟨⟨⟨⟨⟨h1, -⟩, -⟩, h2⟩, h3, h4, h5, h6, -⟩, h7⟩ := h
  have hok : ∀ a, a < 2 ^ 36 → paExists t a = true := by
    intro a ha
    have h0 : paRegion a = 0 := Nat.div_eq_of_lt (by omega)
    have h1 : a / 2 ^ 36 = 0 := Nat.div_eq_of_lt ha
    simp only [paExists, h0, if_true, h1, hs.2.1, h2, Bool.and_true, decide_eq_true_eq]
    omega
  have hi : ∀ l, vaIndex va l = 0 := by
    intro l
    have : va / 2 ^ (16 + 13 * l) = 0 := 
      Nat.div_eq_of_lt (lt_of_lt_of_le (show va < 2 ^ 16 by omega) (Nat.pow_le_pow_right (by decide) (by omega)))
    simp [vaIndex, this]
  have hn : ∀ j, j < 5 → memNat t.mem (0x10000 * j) 8 = if j = 4 then 0x500FB else 0x10000 * (j + 1) + 1 := by
    intro j hj
    rw [memNat_same hs.2.2 (by omega)]
    interval_cases j <;> simp_all
  have step : ∀ l, l < 4 → walkFrom (paExists t) t.mem (0x10000 * (3 - l)) va (l + 1) = walkFrom (paExists t) t.mem (0x10000 * (4 - l)) va l := by
    intro l hl
    rw [walkFrom.eq_def]
    simp only [hi, Nat.mul_zero, Nat.add_zero, hok _ (by omega : 0x10000 * (3 - l) < 2 ^ 36), if_true, hn _ (by omega : 3 - l < 5)]
    interval_cases l <;> rfl
  unfold walk
  rw [h1]
  have e1 := step 3 (by omega)
  have e2 := step 2 (by omega)
  have e3 := step 1 (by omega)
  have e4 := step 0 (by omega)
  simp only [Nat.sub_self, Nat.mul_zero] at e1 e2 e3 e4
  rw [e1, e2, e3, e4, walkFrom.eq_def]
  simp only [hi, Nat.mul_zero, Nat.add_zero, hok _ (by omega : 0x10000 * (4 - 0) < 2 ^ 36), if_true, hn _ (by omega : 4 - 0 < 5)]
  simp [walkEntry, walkOn, bitsOf, bitOf, pageBytes]
  omega

theorem devWrite_mapped {s : State} {x : Nat} {core : Option Nat} (h : mapped s x = true) :
    ∀ (bs : List Byte) (va : Nat) (t : State), sameTables s t → va + bs.length ≤ 0x10000 →
      ∃ u, devWrite t x va bs core = .ok u ∧ sameTables s u := by
  intro bs
  induction bs with
  | nil => intro va t ht _; exact ⟨t, rfl, ht⟩
  | cons b r ih =>
    intro va t ht hv
    rw [List.length_cons] at hv
    obtain ⟨c, hc⟩ : ∃ c, assocGet s.ctxs x = some c := by
      cases hg : assocGet s.ctxs x with
      | none => simp [mapped, hg] at h
      | some c => exact ⟨c, rfl⟩
    have hw := mapped_walk h ht hc (va := va) (by omega)
    have h' := h
    simp only [mapped, hc, Option.any_some, Bool.and_eq_true, beq_iff_eq, List.all_cons, List.all_nil, List.isEmpty_iff] at h'
    obtain ⟨⟨⟨⟨⟨h1, hsup⟩, hb⟩, h2⟩, h3, h4, h5, h6, -⟩, h7⟩ := h'
    have hl : memRead t.mem 0x40000 = 0xFB := by
      have := memNat_same ht.2.2 (a := 0x40000) (by omega)
      rw [h7] at this
      have : memNat t.mem 0x40000 8 % 256 = 0xFB := by rw [this]
      simp only [memNat, memReadN, List.range, List.range.loop, List.map, leNat, Nat.add_zero] at this
      apply BitVec.eq_of_toNat_eq
      have := (memRead t.mem 0x40000).isLt
      simp
      omega
    have hx : xlateService t x va .write core = .ok (leafTouch t 0x40000 true, 0x50000 + va) := by
      have hp : paExists t (0x50000 + va) = true := by
        have h0 : paRegion (0x50000 + va) = 0 := Nat.div_eq_of_lt (by omega)
        have h1 : (0x50000 + va) / 2 ^ 36 = 0 := Nat.div_eq_of_lt (by omega)
        simp only [paExists, h0, if_true, h1, ht.2.1, h2, Bool.and_true, decide_eq_true_eq]
        omega
      unfold xlateService
      rw [ht.1, hc]
      simp [migrating, hb, xlate, hw, hsup, bitOf, hp]
    rw [devWrite, hx]
    refine ih ((va + 1) % 2 ^ 80) _ ⟨ht.1, ht.2.1, fun a ha => ?_⟩ (by omega)
    show memRead (memWriteN (touchLeaf t.mem 0x40000 true) (0x50000 + va) [b]) a = _
    rw [memRead_writeN_other _ _ (by omega), touchLeaf, ← ht.2.2 a ha]
    by_cases ha : a = 0x40000
    · subst ha
      have h0 : (0xFB : Byte) ||| (if true = true then 0xC0 else 0x40) = 0xFB := by decide
      rw [hl, h0, memWrite, if_neg (by decide), memRead, assocGet_set_same]
      rfl
    · exact memRead_write_other _ _ ha


/-! Spawning. -/

def sp : Instr := .spawn 0 none false 0 10 20 24 0
/-- A thread of depth `d` with next ordinal `n`; the descriptor of entry 0x308 has one granule, and join words stand at 0x320. -/
def spawnState (d n : Nat) (op : Op) (ctx : Context → Context) (bins : List (Nat × Bin)) : State :=
  let s := State.onBank (State.onCtx (State.bytes (State.bytes trapBase 0x50300 [1]) 0x50320 (natLe 8 0 ++ natLe 8 (2 ^ 24) ++ natLe 8 0xFFFFFF)) ctx)
    fun b => { b with bins := bins }
  State.onWave (State.bytes s 0x40000 [0xFB]) fun w =>
    { w with threads := [(0, ⟨d, 0, n, [], g0, 0, 0, none, none⟩)], entries := [entry 0 0 sp (.inflight op 0)], nextSeq := 1 }
def roomy (c : Context) : Context := { c with gplu := 1, spl := 1, ocap := 6 }
def full : List (Nat × Bin) := (List.range 16).map fun n => (n, ⟨0x1000, 1, [], true, 0, 0, 0⟩)
def spawnOps : List Op := [.spawn 0x308 true [5] none, .spawn 0x30C false [5] none, .spawn 0x20008 false [5] none, .spawn 0x318 false [5] none,
  .spawn 0x308 false [5] none, .spawn 0x308 false [5] (some (true, 0)), .spawn 0x308 false [5] (some (false, 0x20000)),
  .spawn 0x308 false [5] (some (false, 0x322)), .spawn 0x308 false [5] (some (false, 0x328)),
  .spawn 0x308 false [5] (some (false, 0x330)), .spawn 0x308 false [5] (some (false, 0x320))]
theorem witness_spawn : ∀ x ∈ [(6, 2 ^ 26), (7, 2 ^ 26 - 1), (6, 2 ^ 26 - 1)], ∀ op ∈ spawnOps,
    ∃ w ∈ assocGet (spawnState x.1 x.2 op roomy []).waves u0, ∃ c ∈ assocGet (spawnState x.1 x.2 op roomy []).ctxs w.ctx,
    ∃ e ∈ w.entries.find? (·.seq == 0), e.instr = sp ∧ before (spawnState x.1 x.2 op roomy []) w e 0 op LaneSt.flying = false ∧
      before (spawnState x.1 x.2 op roomy []) w e 0 op LaneSt.stuck = false ∧ spawnBefore w 0 0 = false ∧
      laneTurn (spawnState x.1 x.2 op roomy []) u0 w e 0 = true ∧ laneStuck w 0 0 = false ∧
      (match op with | .spawn en bad _ j => homely (spawnState x.1 x.2 op roomy []) c e (spawnRanges en bad j) | _ => false) = true ∧
      (threadOf w 0).next = x.2 ∧ (threadOf w 0).depth = x.1 := by decide +kernel
/-- The entry's descriptor, or the join word, in the page at 0x20000 of peer 1, which has a port, whose answer may come, or none. -/
def farSpawn (ports : List Nat) (op : Op) : State :=
  let s := State.onWave (State.bytes (spawnState 6 5 op roomy []) 0x40010 (natLe 8 (2 ^ 51 + 2 ^ 42 + 0xFB))) fun w =>
    { w with entries := w.entries.map fun e => { e with asks := ports.map fun p => ⟨0, p, 0, 1, 1, true⟩ } }
  { s with hub := { s.hub with peers := [(1, ⟨ports, [(0, 0x10000)]⟩)] } }
theorem witness_spawn_far : ∀ ports ∈ [[], [2]], ∀ op ∈ [Op.spawn 0x20008 false [5] none, .spawn 0x308 false [5] (some (false, 0x20000))],
    ∃ w ∈ assocGet (farSpawn ports op).waves u0, ∃ c ∈ assocGet (farSpawn ports op).ctxs w.ctx, ∃ e ∈ w.entries.find? (·.seq == 0),
      before (farSpawn ports op) w e 0 op LaneSt.flying = false ∧ before (farSpawn ports op) w e 0 op LaneSt.stuck = false ∧
      laneTurn (farSpawn ports op) u0 w e 0 = true ∧
      (match op with | .spawn en bad _ j => (if ports.isEmpty then homely (farSpawn ports op) c e (spawnRanges en bad j) else
          !e.asks.isEmpty && e.asks.all fun a => a.answers (farSpawn ports op)) | _ => false) = true ∧
      ∃ l ∈ (xlate (farSpawn ports op) c 0x20000 .write).toOption, paRegion l.1 = 2 ∧ (portOf (farSpawn ports op) l.1).isSome = !ports.isEmpty := by
  decide +kernel
def spawned (bins : List (Nat × Bin)) : State := spawnState 6 5 (.spawn 0x308 false [5] none) roomy bins
/-- Descriptors: not mapped, of no granule, of one. -/
theorem witness_spawn_entry : ∃ x ∈ assocGet (spawned []).ctxs 0, tablesB (spawned []) x = true ∧
    (xlate (spawned []) x 0x20000 .read).isOk = false ∧
    ∀ v ∈ [(0x310, 0), (0x300, 1)], ∃ l ∈ (xlate (spawned []) x v.1 .read).toOption, leNat (physGet (spawned []) l.1 8) = v.2 := by decide +kernel
/-- A new bin, one that gathers 63, one with its timer at 0, the segment, and no place. -/
def gathering (n tmr : Nat) : List (Nat × Bin) := [(15, ⟨0x308, 7, List.replicate n ⟨0x308, 1, g0, false, ⟨7, 0, 0, [], g0, 0, 0, none, none⟩, [5], 0⟩, false, tmr, 0, 0⟩)]
theorem witness_spawn_place : ∀ v ∈ [([], 6, some (Place.bin 0)), (gathering 63 5, 6, some (.bin 15)), (gathering 1 0, 6, some (.bin 15)),
    (full, 6, some .ring), (full, 0, none)], ∃ b ∈ assocGet (spawned v.1).banks (16 * 512), ∃ x ∈ assocGet (spawned v.1).ctxs 0,
      reservePlace b { x with ocap := v.2.1 } 0x308 7 = v.2.2 := by decide +kernel
/-- Join words: not mapped, in line or not, refused with 6 and with 5, and taken. -/
theorem witness_spawn_join : ∃ x ∈ assocGet (spawned []).ctxs 0, (xlate (spawned []) x 0x20000 .write).isOk = false ∧
    ∀ v ∈ [(0x328, 2 ^ 24), (0x330, 0xFFFFFF), (0x320, 0)], ∃ l ∈ (xlate (spawned []) x v.1 .write).toOption,
      leNat (physGet (spawned []) l.1 4) = v.2 := by decide +kernel

theorem recordBytes_length (s : State) (i : Nat) : (recordBytes s i).length = 128 := by
  simp [recordBytes, natLe]

/-- A record is written wherever the page of its place is mapped. -/
theorem segWrite_mapped {s : State} {p x d : Nat} {b : Bank} {c : Context} (t : Child) (h : mapped s x = true)
    (hb : assocGet s.banks (16 * p + x) = some b) (hc : assocGet s.ctxs x = some c)
    (ha : ringAddr c p d ((assocGet b.segTail d).getD 0) + 128 ≤ 0x10000) : ∃ s', segWrite s p x d [t] = .ok s' := by
  obtain ⟨u, hu, -⟩ := devWrite_mapped (core := some (coreDom p)) h (recordBytes s 0) (ringAddr c p d ((assocGet b.segTail d).getD 0)) s
    ⟨rfl, rfl, fun _ _ => rfl⟩ (by rw [recordBytes_length]; exact ha)
  exact ⟨u, by simpa [segWrite, hb, hc] using hu⟩
/-- Segments of core 512 from 0x8000 for depth `d`. -/
def segBase (d : Nat) (c : Context) : Context := { roomy c with orb := 0x8000 - BitVec.ofNat 80 ((7 * 512 + (d - 1)) * 64 * 128) }
theorem witness_spawn_segment : (∃ s', segWrite (spawnState 6 5 (.spawn 0x308 false [5] none) (segBase 7) full) 512 0 7
      [⟨0x308, 1, g0, false, ⟨7, 0, 0, [], g0, 0, 0, none, none⟩, [5], 0⟩] = .ok s') ∧
    (segWrite (spawned full) 512 0 7 [⟨0x308, 1, g0, false, ⟨7, 0, 0, [], g0, 0, 0, none, none⟩, [5], 0⟩]).isOk = false := by
  refine ⟨?_, by decide +kernel⟩
  have h : mapped (spawnState 6 5 (.spawn 0x308 false [5] none) (segBase 7) full) 0 = true ∧
    ∃ b ∈ assocGet (spawnState 6 5 (.spawn 0x308 false [5] none) (segBase 7) full).banks (16 * 512 + 0),
    ∃ c ∈ assocGet (spawnState 6 5 (.spawn 0x308 false [5] none) (segBase 7) full).ctxs 0,
      ringAddr c 512 7 ((assocGet b.segTail 7).getD 0) + 128 ≤ 0x10000 := by decide +kernel
  obtain ⟨h, b, hb, c, hc, ha⟩ := h
  exact segWrite_mapped _ h hb hc ha

def child (dp : Nat) : Child := ⟨0x308, 1, g0, false, ⟨dp, 0, 0, [], g0, 0, 0, none, none⟩, [1, 2, 3, 4], 0⟩
/-- Bin 15 with a thread, gathering or Ready, and where it gathers a segment of depth 2 with one. -/
def binState (r : Bool) (age : Nat) (ctx : Context → Context) : State :=
  let s := State.onCtx (State.bytes trapBase 0x40000 [0xFB]) fun c => { ctx c with bintmr := 300 }
  State.onBank s fun b => { b with reserve := 0, bins := [(15, ⟨0x308, 1, [child 1], r, 0, age, 0⟩)], segs := if r then [] else [(2, [child 2])] }
theorem witness_bin : ∀ r ∈ [false, true], ∃ x ∈ getBin (binState r 300 roomy) 512 0 15, x.2.2.ready = r ∧ x.2.2.timer = 0 ∧
    max x.1.bintmr.toNat 256 ≤ x.2.2.age ∧ (segOf x.2.1 x.2.2.depth).length + x.2.2.threads.length ≤ ringCap x.1 := by decide +kernel
theorem witness_bin_launch : ∃ a ∈ (candidates (binState true 0 roomy) 512).find? (fun a => a.ctx == 0 && !a.seg && a.num == 15),
    (serveCand (binState true 0 roomy) 512 a).isSome = true ∧ a.threads.length = 1 ∧
    ∀ t ∈ a.threads, t.det = false ∧ t.payload.length ≤ 4 := by decide +kernel
theorem witness_bin_writes : (∃ s', segWrite (binState true 300 (segBase 1)) 512 0 1 [child 1] = .ok s') ∧
    (segWrite (binState true 300 roomy) 512 0 1 [child 1]).isOk = false := by
  refine ⟨?_, by decide +kernel⟩
  have h : mapped (binState true 300 (segBase 1)) 0 = true ∧ ∃ b ∈ assocGet (binState true 300 (segBase 1)).banks (16 * 512 + 0),
    ∃ c ∈ assocGet (binState true 300 (segBase 1)).ctxs 0, ringAddr c 512 1 ((assocGet b.segTail 1).getD 0) + 128 ≤ 0x10000 := by
    decide +kernel
  obtain ⟨h, b, hb, c, hc, ha⟩ := h
  exact segWrite_mapped _ h hb hc ha
theorem witness_segment_launch : ∀ v ∈ [(true, segBase 2), (false, roomy)],
    ∃ a ∈ (candidates (binState false 0 v.2) 512).find? (fun a => a.ctx == 0 && a.seg && a.num == 2),
    (serveCand (binState false 0 v.2) 512 a).isSome = true ∧ a.threads.length = 1 ∧ (segRead (binState false 0 v.2) 512 0 2 1).isOk = v.1 := by
  decide +kernel

end Sys2Proof.Tests
end

