-- ==== Sys2Proof/Tests/WitnessRom.lean ====
section
/-!
SUPPORT. Witnesses for the obligations on ROM commands.
-/

namespace Sys2Proof.Tests

set_option Elab.async false

open Sys2Proof.Machine

/-! ROM commands: a block at host address 0x1000. -/

/-- A pending command of function `fn` with the fields `fs`: offset, length and value. -/
def cmd (s : State) (fn op : Nat) (fs : List (Nat × Nat × Nat)) : State :=
  { s with mem := fs.foldl (fun m f => memPut m (hostPa 0x1000 + f.1) f.2.1 f.2.2) (memPut s.mem (hostPa 0x1000) 2 op),
           hub := { s.hub with cmds := [(fn, [0x1000])] } }

theorem accepted {op fn : Nat} {s : State} {F : List Byte → List (Nat × Bool)} {P : List Byte → Prop} [DecidablePred P]
    (h : (cmdHead s fn).any (fun (c : Nat × List Byte) => decide (fieldAt c.2 0 2 = op ∧ s.hub.endpointUp = true ∧
      (s.hub.halted = true → op ∈ haltCodes) ∧ (fn < 16 → op ∉ pfCodes ∧ (op ∈ ctxCodes → romCtx c.2 = fn)) ∧
      (op ∈ ctxCodes → (assocGet s.ctxs (romCtx c.2)).isSome = true) ∧ (∀ x ∈ F c.2 ++ romSpare op c.2, x.2 = false) ∧
      Memory.wf s.mem = true ∧ P c.2)) = true) : ∃ pa b, RomAccepts op fn s pa b (F b) ∧ P b := by
  cases hk : cmdHead s fn with
  | none => simp [hk] at h
  | some c =>
    rw [hk, Option.any_some, decide_eq_true_iff] at h
    exact ⟨c.1, c.2, ⟨hk, h.1, h.2.1, h.2.2.1, h.2.2.2.1, h.2.2.2.2.1, h.2.2.2.2.2.1, h.2.2.2.2.2.2.1⟩, h.2.2.2.2.2.2.2⟩

theorem witness_identify : ∃ pa b, RomAccepts 0x01 16 (cmd base 16 0x01 [(8, 8, 0x10000), (16, 4, 0xFFFFFFFF)]) pa b
    [(8, hostBad (fieldAt b 8 8) || fieldAt b 8 8 % 64 != 0)] ∧ fieldAt b 16 4 = 0xFFFFFFFF :=
  accepted (F := fun b => [(8, hostBad (fieldAt b 8 8) || fieldAt b 8 8 % 64 != 0)]) (by decide +kernel)

theorem length_natLe (n v : Nat) : (natLe n v).length = n := by
  induction n generalizing v with
  | zero => rfl
  | succ n ih => simp [natLe, ih]

theorem witness_identify_fits : (identity (cmd base 16 0x01 []).hub).length ≤ 0xFFFFFFFF := by
  have := Config.certificateLen.isLt
  simp only [identity, List.length_append, List.length_flatMap, length_natLe, Config.certificate, List.length_map,
    List.length_range, List.length_replicate, partNumber]
  simp [List.range, List.range.loop]
  omega

/-- Hypotheses on a context command hold, and `P` of its block. -/
theorem witness_ctx_create : ∃ pa b,
    RomAccepts 0x10 16 (cmd base 16 0x10 [(8, 8, 0x60000), (17, 1, 1), (50, 2, 1)]) pa b
      (descFields b (cmd base 16 0x10 [(8, 8, 0x60000), (17, 1, 1), (50, 2, 1)])) ∧ fieldAt b 17 1 = 1 :=
  accepted (F := fun b => descFields b (cmd base 16 0x10 [(8, 8, 0x60000), (17, 1, 1), (50, 2, 1)])) (by decide +kernel)

/-- Context 5 stands and has no wave. -/
def idle5 : State := { base with ctxs := assocSet base.ctxs 5 codeContext }

theorem witness_ctx_destroy : ∃ pa b, RomAccepts 0x11 16 (cmd idle5 16 0x11 [(8, 1, 5)]) pa b [] ∧
    ctxWaves (cmd idle5 16 0x11 [(8, 1, 5)]) (fieldAt b 8 1) = [] :=
  accepted (F := fun _ => []) (by decide +kernel)

theorem witness_ctx_preempt : ∃ pa b, RomAccepts 0x12 0 (cmd base 0 0x12 [(9, 1, 1)]) pa b [(9, decide (1 < fieldAt b 9 1))] ∧
    fieldAt b 9 1 = 1 :=
  accepted (F := fun b => [(9, decide (1 < fieldAt b 9 1))]) (by decide +kernel)

def saved : State := State.onCtx base fun c => { c with cstate := 2, resident := false }

theorem witness_ctx_restore : ∃ pa b, RomAccepts 0x13 0 (cmd saved 0 0x13 []) pa b [] ∧
    (assocGet saved.ctxs (fieldAt b 8 1)).any (fun (c : Context) => c.cstate == 2 && c.restoring.isNone) = true :=
  accepted (F := fun _ => []) (by decide +kernel)

theorem witness_ctx_kill : ∃ pa b, RomAccepts 0x14 0 (cmd base 0 0x14 []) pa b [] ∧
    (ctxWaves base (fieldAt b 8 1)).length = 1 := accepted (F := fun _ => []) (by decide +kernel)

/-- A queue control block at address 0x2000; its page allows writes or not. -/
def newQueue (w : Bool) : State :=
  cmd { base with mem := memPut (memPut (memPut base.mem 0x52000 10 0x3000) 0x5200A 1 4) 0x40000 1 (if w then 0x3B else 0x33) } 0 0x18
    [(9, 1, 2), (16, 10, 0x2000), (26, 4, 7)]

theorem witness_queue_create : ∀ w ∈ [true, false], ∃ pa b, RomAccepts 0x18 0 (newQueue w) pa b
      [(9, decide (7 < fieldAt b 9 1) || (ctxQueue b (newQueue w)).isSome), (16, fieldAt b 16 10 % 64 != 0)] ∧
    (match devRead (newQueue w) (fieldAt b 8 1) (vaAt b 16).toNat 28 none with
     | .ok (s1, h) => fieldAt h 0 10 % 128 == 0 && fieldAt h 10 1 == 4 && fieldAt h 24 4 == 0 &&
         (qcbSet s1 (fieldAt b 8 1) (vaAt b 16) [(28, 4, 0), (16, 4, 7), (20, 4, 6), (12, 4, 0), (32, 4, 0), (11, 1, 0)]).isOk == w
     | .error _ => false) = true := by
  intro w hw
  refine accepted (F := fun b => [(9, decide (7 < fieldAt b 9 1) || (ctxQueue b (newQueue w)).isSome), (16, fieldAt b 16 10 % 64 != 0)]) ?_
  revert w
  decide +kernel

def oldQueue (st qcb : Nat) : State :=
  State.onCtx base fun c => { c with queues := [(2, ⟨BitVec.ofNat 80 qcb, 0, st, 0, 7, 6, none⟩)] }

/-- The control block mapped, or not. -/
theorem witness_queue_reset : ∀ v ∈ [(0x2000, true), (0x20000, false)],
    ∃ pa b, RomAccepts 0x19 0 (cmd (oldQueue 3 v.1) 0 0x19 [(9, 1, 2), (12, 4, 9), (16, 4, 5)]) pa b [] ∧
    ((ctxQueue b (oldQueue 3 v.1)).any (fun (k : Queue) => k.state == 3) = true ∧
      (qcbSet (cmd (oldQueue 3 v.1) 0 0x19 [(9, 1, 2), (12, 4, 9), (16, 4, 5)]) (fieldAt b 8 1) (BitVec.ofNat 80 v.1)
        [(28, 4, 9), (16, 4, 5), (12, 4, 0), (32, 4, 0), (11, 1, 0)]).isOk = v.2) := by
  intro v hv
  refine accepted (F := fun _ => []) ?_
  revert v
  decide +kernel

theorem witness_queue_destroy : ∃ pa b, RomAccepts 0x1A 0 (cmd (oldQueue 0 0x2000) 0 0x1A [(9, 1, 2)]) pa b [] ∧
    (ctxQueue b (oldQueue 0 0x2000)).any (fun (k : Queue) => k.state == 0) = true := accepted (F := fun _ => []) (by decide +kernel)

def mapping : State := cmd base 0 0x20 [(9, 1, 0x17), (12, 10, 0x20000), (22, 8, 1), (30, 8, 2 ^ 50)]

theorem witness_map : ∃ pa b, RomAccepts 0x20 0 mapping pa b (mapFields b mapping) ∧
    (assocGet mapping.ctxs (fieldAt b 8 1)).any (fun (c : Context) => !c.pages.any (mapRecord b).meets &&
      (mapAll mapping (fieldAt b 8 1) c (mapRecord b) (fieldAt b 30 8)).isSome) = true :=
  accepted (F := fun b => mapFields b mapping) (by decide +kernel)

theorem witness_unmap : ∃ pa b, RomAccepts 0x21 0 (cmd base 0 0x21 [(22, 8, 1)]) pa b (spanFields b) ∧
    (assocGet base.ctxs (fieldAt b 8 1)).any (fun (c : Context) => spanMapped b c) = true :=
  accepted (F := spanFields) (by decide +kernel)

theorem witness_protect : ∃ pa b, RomAccepts 0x22 0 (cmd base 0 0x22 [(9, 1, 6), (22, 8, 1)]) pa b
      ((9, decide (16 ≤ fieldAt b 9 1)) :: spanFields b) ∧
    (assocGet base.ctxs (fieldAt b 8 1)).any (fun (c : Context) => spanMapped b c) = true :=
  accepted (F := fun b => (9, decide (16 ≤ fieldAt b 9 1)) :: spanFields b) (by decide +kernel)

theorem witness_buffer : ∃ pa b, RomAccepts 0x23 0 (cmd base 0 0x23 [(22, 8, 0x10000)]) pa b [(9, decide (1 < fieldAt b 9 1)),
      (12, fieldAt b 12 10 % 2 ^ 16 != 0 || (fieldAt b 9 1 == 1 && !((assocGet
        (cmd base 0 0x23 [(22, 8, 0x10000)]).ctxs (fieldAt b 8 1)).any fun c => c.bufs.any (·.va == fieldAt b 12 10)))),
      (22, fieldAt b 22 8 % 2 ^ 16 != 0)] ∧ fieldAt b 9 1 = 0 :=
  accepted (F := fun b => [(9, decide (1 < fieldAt b 9 1)),
      (12, fieldAt b 12 10 % 2 ^ 16 != 0 || (fieldAt b 9 1 == 1 && !((assocGet
        (cmd base 0 0x23 [(22, 8, 0x10000)]).ctxs (fieldAt b 8 1)).any fun c => c.bufs.any (·.va == fieldAt b 12 10)))),
      (22, fieldAt b 22 8 % 2 ^ 16 != 0)]) (by decide +kernel)

/-! Refusals of a command: an opcode the table lacks, one of the PF only, a context that does not stand, a spare byte. -/

theorem witness_rom_checks :
    (∃ h, cmdHead (cmd base 0 0x99 []) 0 = some h ∧ fieldAt h.2 0 2 ∉ romCodes) ∧
    (∃ h, cmdHead (cmd base 0 0x28 []) 0 = some h ∧ fieldAt h.2 0 2 ∈ pfCodes) ∧
    (∃ h, cmdHead (cmd base 16 0x12 [(8, 1, 3)]) 16 = some h ∧ fieldAt h.2 0 2 ∈ ctxCodes ∧
      assocGet (cmd base 16 0x12 [(8, 1, 3)]).ctxs (fieldAt h.2 8 1) = none) ∧
    (∃ h, cmdHead (cmd base 0 0x12 [(20, 1, 1)]) 0 = some h ∧ (20, true) ∈ romSpare 0x12 h.2) := by
  refine ⟨⟨_, rfl, ?_⟩, ⟨_, rfl, ?_⟩, ⟨_, rfl, ?_⟩, ⟨_, rfl, ?_⟩⟩ <;> decide +kernel

/-! Commands on the package. -/

theorem length_sha3 (m : List Byte) : (sha3Bytes m).length ≤ 64 := by
  have h : ∀ l : List Dword, (l.flatMap fun l => natLe 8 l.toNat).length = 8 * l.length := by
    intro l
    simp [length_natLe, Nat.mul_comm]
  simp only [sha3Bytes, h, List.length_take]
  omega

theorem witness_attest : ∃ pa b, RomAccepts 0x02 0 (cmd base 0 0x02 [(72, 8, 0x10000), (80, 4, 0x2000)]) pa b
    [(72, hostBad (fieldAt b 72 8))] ∧ fieldAt b 80 4 = 0x2000 :=
  accepted (F := fun b => [(72, hostBad (fieldAt b 72 8))]) (by decide +kernel)

theorem witness_attest_fits (b : List Byte) :
    let r := report base 0 (sliceBytes b 8 64)
    (r ++ natLe 4627 (Config.sign (sha3 r)).toNat).length ≤ 0x2000 := by
  have h1 : (sliceBytes b 8 64).length ≤ 64 := by simp [sliceBytes]; try omega
  have h2 := length_sha3 ((List.range 19).flatMap fun d => natLe 64 (Config.romDigest d).toNat)
  simp only [report, List.length_append, length_natLe, List.length_replicate]
  split
  · have := length_sha3 (Context.desc ‹_›)
    omega
  · simp only [List.length_replicate]
    omega

theorem witness_errlog : ∃ pa b, RomAccepts 0x48 16 (cmd base 16 0x48 [(8, 8, 0x10000), (16, 4, 0x240)]) pa b
    [(8, hostBad (fieldAt b 8 8))] ∧ (errorLog base.hub).length ≤ fieldAt b 16 4 :=
  accepted (F := fun b => [(8, hostBad (fieldAt b 8 8))]) (by decide +kernel)

theorem witness_zone : (∃ pa b, RomAccepts 0x25 16 (cmd base 16 0x25 [(8, 4, 2), (12, 4, 1)]) pa b
      [(8, decide (2 ^ 18 ≤ fieldAt b 8 4))] ∧
      zoneFits (zoneHub base.hub (BitVec.ofNat 18 (fieldAt b 8 4)) (fieldAt b 12 4)) = true) ∧
    ∃ pa b, RomAccepts 0x25 16 (cmd base 16 0x25 [(8, 4, 1), (12, 4, 1025)]) pa b [(8, decide (2 ^ 18 ≤ fieldAt b 8 4))] ∧
      zoneFits (zoneHub base.hub (BitVec.ofNat 18 (fieldAt b 8 4)) (fieldAt b 12 4)) = false :=
  ⟨accepted (F := fun b => [(8, decide (2 ^ 18 ≤ fieldAt b 8 4))]) (by decide +kernel),
   accepted (F := fun b => [(8, decide (2 ^ 18 ≤ fieldAt b 8 4))]) (by decide +kernel)⟩

theorem witness_power : (∃ pa b, RomAccepts 0x28 16 (cmd base 16 0x28 [(8, 4, 3000)]) pa b
      [(8, decide (fieldAt b 8 4 < 3000) || decide (6200 < fieldAt b 8 4))] ∧ fieldAt b 8 4 = 3000) ∧
    ∃ pa b, RomAccepts 0x28 16 (cmd base 16 0x28 [(8, 4, 6200)]) pa b
      [(8, decide (fieldAt b 8 4 < 3000) || decide (6200 < fieldAt b 8 4))] ∧ fieldAt b 8 4 = 6200 :=
  ⟨accepted (F := fun b => [(8, decide (fieldAt b 8 4 < 3000) || decide (6200 < fieldAt b 8 4))]) (by decide +kernel),
   accepted (F := fun b => [(8, decide (fieldAt b 8 4 < 3000) || decide (6200 < fieldAt b 8 4))]) (by decide +kernel)⟩

/-- Peer 1 on ports 2 and 3. -/
def paired : State := { base with hub := { base.hub with peers := [(1, ⟨[2, 3], [(0, 0x10000)]⟩)] } }

/-- A stream of context 0 with its area at address 0x2000. -/
def stream (st : StreamSt) (seq : Dword) : Stream :=
  ⟨0, st, 1, 0x2000, 0x4000, 256, 0x5000, 2, List.replicate 64 0, 0, 0, seq + 1, seq + 1, seq, 0, 0, seq, 0, 0, 0, seq⟩

def binding : State :=
  cmd paired 0 0x30 [(9, 2, 4095), (11, 1, 1), (12, 1, 8), (13, 1, 1), (16, 10, 0x2000), (26, 6, 0x4000), (32, 10, 0x5000),
    (48, 8, 1)]

theorem witness_bind : ∃ pa b, RomAccepts 0x30 0 binding pa b (bindFields b binding ++ [(16, fieldAt b 16 10 % 128 != 0),
      (26, decide (2 ^ 42 ≤ fieldAt b 26 6)), (68, match assocGet binding.ctxs (fieldAt b 8 1) with
        | some c => bitOf (fieldAt b 68 4) 31 != c.detmode | none => false)]) ∧
    (let st := stream .open_ 0
     st.ctx = fieldAt b 8 1 ∧ st.peer = fieldAt b 11 1 ∧ st.cap = 2 ^ fieldAt b 12 1 ∧ st.oqN = 2 ^ fieldAt b 13 1 ∧
      st.area = vaAt b 16 ∧ st.parea = fieldAt b 26 6 ∧ st.oq = vaAt b 32 ∧ st.first.toNat = fieldAt b 48 8 ∧
      st.eord.toNat = fieldAt b 56 8 ∧ st.shapeid.toNat = fieldAt b 64 4 ∧ st.mode.toNat = fieldAt b 68 4 ∧
      st.wdig = sliceBytes b 128 64 ∧
      (match devWrite binding 0 st.area.toNat (areaHeader st (fieldAt b 9 2) st.tseq) none with
       | .ok _ => true | .error _ => false) = true) :=
  accepted (F := fun b => bindFields b binding ++ [(16, fieldAt b 16 10 % 128 != 0),
      (26, decide (2 ^ 42 ≤ fieldAt b 26 6)), (68, match assocGet binding.ctxs (fieldAt b 8 1) with
        | some c => bitOf (fieldAt b 68 4) 31 != c.detmode | none => false)]) (by decide +kernel)

/-- The header of the source area, at address 0x3000: MODE for deterministic mode, CAP 256, one record. -/
def replaying : State :=
  let s := State.onCtx paired fun c => { c with detmode := true }
  let m := [(68, 4, 2 ^ 31), (76, 4, 256), (80, 8, 1), (88, 8, 1), (96, 8, 2)].foldl
    (fun m (f : Nat × Nat × Nat) => memPut m (0x53000 + f.1) f.2.1 f.2.2) s.mem
  cmd { s with mem := m } 0 0x31 [(9, 2, 7), (11, 1, 1), (12, 1, 8), (13, 1, 1), (16, 10, 0x3000), (26, 10, 0x2000),
    (36, 6, 0x4000), (42, 10, 0x5000), (76, 4, 2 ^ 31)]

theorem witness_replay : ∃ pa b, RomAccepts 0x31 0 replaying pa b (bindFields b replaying ++
      [(26, fieldAt b 26 10 % 128 != 0), (36, decide (2 ^ 42 ≤ fieldAt b 36 6))]) ∧
    (assocGet replaying.ctxs (fieldAt b 8 1)).any (fun (c : Context) =>
      match devRead replaying (fieldAt b 8 1) (fieldAt b 16 10) 128 none with
      | .ok (s0, h) =>
        let st := { stream .replaying 1 with mode := 0x80000000, first := 1, src := 0x3000, srcHseq := 2, srcCap := 256 }
        (replayBad h b c).isNone && st.tseq.toNat == fieldAt h 80 8 && st.first.toNat == fieldAt h 88 8 &&
          st.srcHseq.toNat == fieldAt h 96 8 && st.srcCap == fieldAt h 76 4 && st.src == vaAt b 16 && st.area == vaAt b 26 &&
          st.parea == fieldAt b 36 6 && st.oq == vaAt b 42 && st.mode.toNat == fieldAt b 76 4 && st.next == st.tseq + 1 &&
          st.wdig == sliceBytes b 128 64 && st.shapeid.toNat == fieldAt b 72 4 && st.eord.toNat == fieldAt b 56 8 &&
          st.floor.toNat == fieldAt b 64 8 && st.acked == st.tseq && st.peerTseq == st.tseq &&
          (match devWrite s0 0 st.area.toNat (areaHeader st (fieldAt b 9 2) st.tseq) none with
           | .ok _ => true | .error _ => false)
      | .error _ => false) = true :=
  accepted (F := fun b => bindFields b replaying ++
      [(26, fieldAt b 26 10 % 128 != 0), (36, decide (2 ^ 42 ≤ fieldAt b 36 6))]) (by decide +kernel)

/-- Stream 7 bound, in a state. -/
def streaming (st : StreamSt) (seq : Dword) : State :=
  { paired with hub := { paired.hub with streams := [(7, stream st seq)] } }

theorem witness_unbind : ∃ pa b, RomAccepts 0x32 0 (cmd (streaming .open_ 0) 0 0x32 [(9, 2, 7)]) pa b [] ∧
    (getStream (streaming .open_ 0) (fieldAt b 9 2)).any (fun (t : Stream) => t.ctx == fieldAt b 8 1) = true :=
  accepted (F := fun _ => []) (by decide +kernel)

theorem witness_fail : ∃ pa b, RomAccepts 0x33 0 (cmd (streaming .reassigning 0) 0 0x33 [(9, 2, 7)]) pa b [] ∧
    (getStream (streaming .reassigning 0) (fieldAt b 9 2)).any (fun (t : Stream) => t.ctx == fieldAt b 8 1 &&
      t.st == .reassigning) = true := accepted (F := fun _ => []) (by decide +kernel)

theorem witness_standby : ∃ pa b, RomAccepts 0x34 16 (cmd base 16 0x34 [(8, 1, 16), (9, 1, 1)]) pa b
    [(8, decide (16 < fieldAt b 8 1))] ∧ fieldAt b 8 1 = 16 :=
  accepted (F := fun b => [(8, decide (16 < fieldAt b 8 1))]) (by decide +kernel)

theorem witness_gov_bind : ∃ pa b, RomAccepts 0x38 0 (cmd base 0 0x38 [(9, 1, 15), (10, 1, 1), (11, 1, 4), (12, 1, 4),
      (16, 4, 1000)]) pa b [(10, fieldAt b 10 1 == 0 || decide (fieldAt b 11 1 < fieldAt b 10 1)),
        (12, decide (fieldAt b 12 1 < fieldAt b 10 1) || decide (fieldAt b 11 1 < fieldAt b 12 1)), (16, fieldAt b 16 4 == 0)] ∧
    fieldAt b 9 1 < 16 ∧ assocGet base.hub.govs (fieldAt b 9 1) = none :=
  accepted (F := fun b => [(10, fieldAt b 10 1 == 0 || decide (fieldAt b 11 1 < fieldAt b 10 1)),
    (12, decide (fieldAt b 12 1 < fieldAt b 10 1) || decide (fieldAt b 11 1 < fieldAt b 12 1)), (16, fieldAt b 16 4 == 0)])
    (by decide +kernel)

def governed : State := { base with hub := { base.hub with govs := [(15, ⟨0, 1000, 1, 4, 4, none⟩)] } }

theorem witness_gov_release : ∃ pa b, RomAccepts 0x38 0 (cmd governed 0 0x38 [(9, 1, 143)]) pa b [] ∧ 128 ≤ fieldAt b 9 1 ∧
    fieldAt b 9 1 < 144 ∧ (assocGet governed.hub.govs (fieldAt b 9 1 - 128)).any (fun (v : Gov) => v.ctx == fieldAt b 8 1) = true :=
  accepted (F := fun _ => []) (by decide +kernel)

theorem witness_peer_map :
    (∃ pa b, RomAccepts 0x40 16 (cmd paired 16 0x40 [(8, 1, 1), (10, 3, 8), (13, 1, 1), (24, 8, 0x10000)]) pa b
      (peerFields b (cmd paired 16 0x40 [(8, 1, 1), (10, 3, 8), (13, 1, 1), (24, 8, 0x10000)])) ∧ fieldAt b 9 1 = 0) ∧
    ∃ pa b, RomAccepts 0x40 16 (cmd paired 16 0x40 [(8, 1, 1), (9, 1, 1)]) pa b
      (peerFields b (cmd paired 16 0x40 [(8, 1, 1), (9, 1, 1)])) ∧ fieldAt b 9 1 = 1 :=
  ⟨accepted (F := fun b => peerFields b (cmd paired 16 0x40 [(8, 1, 1), (10, 3, 8), (13, 1, 1), (24, 8, 0x10000)]))
    (by decide +kernel), accepted (F := fun b => peerFields b (cmd paired 16 0x40 [(8, 1, 1), (9, 1, 1)])) (by decide +kernel)⟩

theorem witness_port_timer : ∃ pa b, RomAccepts 0x41 16 (cmd base 16 0x41 [(8, 1, 255), (9, 1, 28)]) pa b
    [(8, decide (17 < fieldAt b 8 1) && fieldAt b 8 1 != 255), (9, decide (fieldAt b 9 1 < 16) || decide (28 < fieldAt b 9 1))] ∧
    fieldAt b 8 1 = 255 :=
  accepted (F := fun b => [(8, decide (17 < fieldAt b 8 1) && fieldAt b 8 1 != 255),
    (9, decide (fieldAt b 9 1 < 16) || decide (28 < fieldAt b 9 1))]) (by decide +kernel)

theorem witness_reset : ∃ pa b, RomAccepts 0x7F 16 (cmd base 16 0x7F []) pa b [] ∧ fieldAt b 0 2 = 0x7F :=
  accepted (F := fun _ => []) (by decide +kernel)

end Sys2Proof.Tests
end

