-- ==== Sys2Proof/Tests/WitnessHost.lean ====
section
/-!
SUPPORT. Witnesses for the obligations on power, pages, the host, links, rays, journals, packets and grids.
-/

namespace Sys2Proof.Tests

set_option Elab.async false

open Sys2Proof.Machine

/-! Power, pages, the host, links and contexts. -/

theorem witness_halts : dieOnline base.hub 17 = true ∧ base.hub.halted = false ∧ base.hub.bridgesDown = [] := by decide +kernel
theorem witness_bridge : ∃ a < 18, ∃ b < 18, ringDist a b = 1 := by decide +kernel
/-- Revisions 1 to 3 and 2 to 5: the highest in common is 3; 1 to 1 has none with 2 to 5. -/
theorem witness_revisions : max (1 % 256) (2 % 256) ≤ min (3 % 256) (5 % 256) ∧ ¬max (1 % 256) (2 % 256) ≤ min (1 % 256) (5 % 256) := by
  decide
theorem witness_power_removed : Memory.wf base.mem = true := by decide +kernel

def booting : State := { base with hub := { base.hub with endpointUp := false, bootCmd := some (hostPa 0x1000) } }
theorem witness_power_on : booting.hub.endpointUp = false ∧ Memory.wf booting.mem = true ∧ booting.hub.bootCmd.isSome = true := by
  decide +kernel

/-- Page 0 is not pinned, a zone stands, and page 0 is a registered buffer; the fragment's block lies elsewhere. -/
def movable (hold : Option Nat) (moving : Bool) : State :=
  let s := State.onCtx base fun c =>
    { c with pages := [⟨0, 1, 0, true, true, true, false, true, 0, none⟩], bufs := [⟨0, 0x10000, hold, moving⟩] }
  State.onFrag { s with hub := { s.hub with zoneDies := 2, zoneSize := 1 } } fun f => { f with page0 := 0, page1 := 0 }

theorem witness_compression : (assocGet (movable none false).ctxs 0).any (fun (c : Context) => match placedPage (movable none false) c 0x80 with
    | some (p, pa) => p.psz == 0 && !(movable none false).hub.zoneDrop && rangeIdle (movable none false) pa (2 ^ 16) &&
        !rangeNamed (movable none false) pa (2 ^ 16) && inBuffer c 0x80 && buffersIdle (movable none false) 0 &&
        decide (((movable none false).hub.zonePages + 1) * 2 ^ 16 ≤ (List.range 18).foldl (fun n d => n + zoneBytes (movable none false).hub d) 0) &&
        (putEntry (setCtx (movable none false) 0 (pageReplace c 0x80 [{ p.one 0x80 with
          placed := false, stored := some (pa / 2 ^ 36, rangeBytes (movable none false).mem pa (2 ^ 16)) }])) 0 c.ptb (p.one 0x80).va 0
          (2 * (Config.freeWord (movable none false).free 160000).toNat) 4).isSome
    | none => false) = true ∧ Memory.wf (movable none false).mem = true := by decide +kernel

/-- A copy that names the buffer and started before the hold. -/
def moveBusy : State :=
  State.onCtx (copyState (.copy 0 8 12) (copyArgs 0x200)) fun c => { c with bufs := [⟨0, 0x10000, some 1, false⟩] }
/-- A load in the frame of a marked buffer. -/
def moveMarked : State := State.onWave (movable (some 0) true) fun w => { w with entries := [entry 0 0 ld flying] }
/-- The phases of a migration: to begin, with a transfer left, without, with an access left, and without. -/
theorem witness_migration_phases :
    (∀ s ∈ [movable none false, movable (some 0) false, moveBusy, moveMarked, movable (some 0) true],
      ∃ c ∈ assocGet s.ctxs 0, ∃ b ∈ c.bufs.find? (·.covers 0), Memory.wf s.mem = true ∧
        (s = moveBusy → b.hold = some 1 ∧ b.moving = false ∧ busyCount s 0 c b 1 ≠ 0) ∧
        (s = movable (some 0) false → b.hold = some 0 ∧ busyCount s 0 c b 0 = 0 ∧ (bufPages s 0 c b).length = 1 ∧
          ∀ a ∈ bufPages s 0 c b, (entryAt s.mem c.ptb a.1 a.2.1.psz 4).isSome = true) ∧
        (s = moveMarked → b.moving = true ∧ ∃ a ∈ bufPages s 0 c b, rangeIdle s a.2.2 a.2.1.size = false)) := by decide +kernel
theorem witness_migration : ∃ c ∈ assocGet (movable (some 0) true).ctxs 0, ∃ b ∈ c.bufs.find? (·.covers 0), b.moving = true ∧
    ∃ a ∈ (bufPages (movable (some 0) true) 0 c b).head?, bufPages (movable (some 0) true) 0 c b = [(0, a.2)] ∧
      rangeIdle (movable (some 0) true) a.2.2 a.2.1.size = true ∧
      ∃ f ∈ frameOn (setValid (movable (some 0) true) c 0 true).hub (freeOrder (setValid (movable (some 0) true) c 0 true).hub) a.2.1.size,
      ∃ e ∈ entryAt (setValid (movable (some 0) true) c 0 true).mem c.ptb 0 a.2.1.psz 4,
        (e + 8 ≤ f ∨ f + a.2.1.size ≤ e) ∧ (e + 8 ≤ a.2.2 ∨ a.2.2 + a.2.1.size ≤ e) := by decide +kernel

theorem witness_host : hbmRange base (2 ^ 36 - 2) 4 = true ∧ base.hub.endpointUp = true ∧
    inboundBad paired 1 0 0x10000 = none ∧ (inboundBad paired 1 0xFFFF 2).isSome = true ∧
    (∃ fn ≤ 16, ((assocGet base.hub.cmds fn).getD []).length < 16) := by decide +kernel
theorem witness_mailbox_full : 16 ≤ ((assocGet { base.hub with cmds := [(16, List.replicate 16 0x1000)] }.cmds 16).getD []).length := by
  decide +kernel
theorem witness_doorbell : (assocGet (oldQueue 0 0x2000).ctxs 0).any (fun (c : Context) => (assocGet c.queues 2).isSome) = true := by
  decide +kernel

/-- Port 2 with other fields. -/
def ported (f : Port → Port) : State := modPort paired 2 f

theorem witness_ports :
    (assocGet paired.hub.ports 2).any (fun (r : Port) => r.up && !r.training && r.vcs.length == 4 && (r.vc 0).wait == 0) = true ∧
    (assocGet (ported fun r => { r with idleAck := 2048, sent := [0], payload := 4096 }).hub.ports 2).any (fun (r : Port) =>
      r.up && !r.training && decide (2048 ≤ r.idleAck) && !r.sent.isEmpty && decide (4096 ≤ r.payload)) = true ∧
    (assocGet (ported fun r => { r with idleRx := 2 ^ 20 }).hub.ports 2).any (fun (r : Port) =>
      r.up && decide (2 ^ r.logT ≤ r.idleRx)) = true ∧
    (assocGet (ported fun r => { r with training := true }).hub.ports 2).any (·.training) = true := by decide +kernel

/-- An audit finds an occupied buffer more or fewer. -/
theorem witness_audit : (assocGet (ported fun r => r.modVc 0 fun c => { c with occ := 1 }).hub.ports 2).any (fun (r : Port) =>
    let d (tot : BitVec 16) : BitVec 16 := tot - (r.vc 0).rtot
    (r.vc 0).occ == d 1 && decide ((r.vc 0).occ < d 2) && decide (d 0 < (r.vc 0).occ)) = true := by decide +kernel

set_option maxRecDepth 100000 in
/-- A payload flit in sequence, and one whose CRC fails. -/
theorem witness_flits : ∃ flit : BitVec 1024, let bs := natLe 128 flit.toNat
    (crc32c (bs.take 124)).toNat = fieldAt bs 124 4 ∧ fieldAt bs 0 2 = 2 ^ 12 + Port.reset.fseqIn.toNat :=
  ⟨flitOf (flitBody 1 0 0 0 (List.replicate 116 0)), by decide +kernel⟩
set_option maxRecDepth 100000 in
theorem witness_bad_flit : let bs := natLe 128 (1 : BitVec 1024).toNat
    (crc32c (bs.take 124)).toNat ≠ fieldAt bs 124 4 := by decide +kernel

/-- A request that its port may answer, one whose T cycles have passed, and one on a port that is down. -/
def requested (f : Port → Port) (n : Nat) : State := { distant [2] f [asked 0 1 farLoad] with cycle := n }
theorem witness_peer_request : ∀ x ∈ [(0, 0), (2 ^ 20, 0), (0, 1)],
    ∃ w ∈ assocGet (requested (fun r => { r with up := x.2 == 0 }) x.1).waves u0, ∃ e ∈ w.entries.find? (·.seq == 0),
      assocGet e.lanes 0 = some (.inflight (.sent 2 0 1 farLoad) 0x100) ∧
      (assocGet (requested (fun r => { r with up := x.2 == 0 }) x.1).ctxs w.ctx).isSome = true ∧
      portAnswers (requested (fun r => { r with up := x.2 == 0 }) x.1) 2 0 = (x == (0, 0)) ∧
      ∃ r ∈ assocGet (requested (fun r => { r with up := x.2 == 0 }) x.1).hub.ports 2, x.1 = 0 ∨ 0 + 2 ^ r.logT ≤ x.1 := by decide +kernel

def wanted : State := State.onCtx base fun c => { c with preq := true, pdl := 1, reqAge := 64 }
theorem witness_deadline : (assocGet wanted.ctxs 0).any (fun (c : Context) => c.preq && c.resident && !c.saving &&
    c.cstate == 0 && decide (c.pdl.toNat * 64 ≤ c.reqAge)) = true ∧ wanted.hub.halted = false := by decide +kernel

theorem witness_save_begins : let s := State.onFrag wanted fun f => { f with park := .preempt }
    ∀ e ∈ s.waves, e.2.ctx = 0 → ∀ f ∈ e.2.frags, f.stopped e.2 = true := by decide +kernel

theorem witness_save_ends : let s : State := { idle5 with ctxs := assocMod idle5.ctxs 5 fun c => { c with saving := true, cstate := 1 } }
    (assocGet s.ctxs 5).any (fun (c : Context) => c.saving && c.resident && c.cstate == 1 && drained s 5 &&
      match writeBlocks s 5 c with | .ok _ => true | .error _ => false) = true := by decide +kernel
/-- Context 0 has left its waves; its save area is not mapped. -/
def unsaved : State := { State.onCtx base fun c => { c with saving := true, cstate := 1 } with waves := [] }
theorem map_range_cons {α : Type} (f : Nat → α) (n : Nat) : ∃ b r, (List.range (n + 1)).map f = b :: r := by
  rw [List.range_succ_eq_map]
  exact ⟨_, _, rfl⟩
theorem saveBlock_cons (s : State) (p : Nat) : ∃ b r, saveBlock s p = b :: r := by
  unfold saveBlock
  exact map_range_cons _ _
theorem witness_save_fails : ∃ c, assocGet unsaved.ctxs 0 = some c ∧ c.saving = true ∧ c.resident = true ∧ drained unsaved 0 = true ∧
    ∃ f, writeBlocks unsaved 0 c = .error f := by
  have h : ∃ c ∈ assocGet unsaved.ctxs 0, c.saving = true ∧ c.resident = true ∧ drained unsaved 0 = true ∧ ctxCores unsaved 0 = [512] ∧
      (xlateService unsaved 0 ((c.save.toNat + 2 ^ 24 * 512) % 2 ^ 80) .write none).isOk = false := by decide +kernel
  obtain ⟨c, hc, h1, h2, h3, h4, h5⟩ := h
  refine ⟨c, hc, h1, h2, h3, ?_⟩
  cases hx : xlateService unsaved 0 ((c.save.toNat + 2 ^ 24 * 512) % 2 ^ 80) .write none with
  | ok v => rw [hx] at h5; cases h5
  | error f =>
    obtain ⟨b, r, hb⟩ := saveBlock_cons unsaved 512
    exact ⟨f, by simp only [writeBlocks, h4, List.foldl_cons, List.foldl_nil, hb, devWrite, hx]⟩

/-- The save area of core 512 at address 0, or not mapped. -/
def restoredAt (save : Nat) : State :=
  { State.onCtx (cmd base 0 0x13 []) fun c =>
      { c with cstate := 2, resident := false, restoring := some 0, save := BitVec.ofNat 80 save } with
    banks := [(16 * 512, ⟨2, 0, [], [], [], [], [], [], [], [], []⟩)] }
def restored : State := restoredAt (2 ^ 80 - 2 ^ 33)
theorem witness_restore_fails : ∃ c ∈ assocGet (restoredAt 0).ctxs 0, c.restoring = some 0 ∧ (readBlocks (restoredAt 0) 0 c).isOk = false ∧
    coreFits (restoredAt 0) 0 512 c ⟨2, 0, [], [], [], [], [], [], [], [], []⟩ = true ∧ (cmdHead (restoredAt 0) 0).isSome = true := by
  decide +kernel
theorem witness_restore : (assocGet restored.ctxs 0).any (fun (c : Context) => c.restoring == some 0 && !c.resident &&
    c.cstate == 2 && (restored.banks.all fun e => e.1 % 16 != 0 || coreFits restored 0 (e.1 / 16) c e.2) &&
    (match readBlocks restored 0 c with | .ok _ => true | .error _ => false)) = true ∧
    (cmdHead restored 0).isSome = true ∧ Memory.wf restored.mem = true := by decide +kernel

/-! Rays. -/

/-- A query along +z in FP32 with its header at address 0x20400. -/
def ray : Query :=
  { prec := .f32, replay := false, num := 5, handle := 77, core := 512, origin := [0, 0, 0], dir := [0, 0, fpOne], tmin := 0,
    tmax := fpOne, flags := 8, header := (false, 0x20400), log := none, others := [], started := false, cap := 0, nodes := 0,
    tris := 0, uent := 0, nnode := 0, ntri := 0, stack := [], best := none, visits := 0, nrec := 0, logf := false,
    bestRec := none, logs := [], clash := [], badRead := false, toSpawn := [], waiting := [], lost := false, reports := [],
    inLeaf := none, used := [], reuse := [] }
where
  /-- 1 in FP64. -/
  fpOne : Dword := 0x3FF0000000000000

/-- Lane 0 of a `RAYQ` of wave `u0` follows `q`; the scene is one user leaf, in a page of peer 1, which answers. -/
def tracing (q : Query) : State :=
  let far := 2 ^ 51 + 2 ^ 42
  let m := [(far + 0x400, 10, 0x20480), (far + 0x410, 10, 0x20500), (far + 0x430, 4, 1), (far + 0x480, 1, 2), (0x40010, 8, far + 0xFB)].foldl
    (fun m (f : Nat × Nat × Nat) => memPut m f.1 f.2.1 f.2.2) base.mem
  State.onWave { base with mem := m, hub := { base.hub with peers := [(1, ⟨[2], [(0, 0x10000)]⟩)] } } fun w =>
    { w with nextSeq := 1, entries :=
      [{ entry 0 0 (.rayq 0 .f32 8 16) (.inflight (.query q) 0) with quads := 1, asks := [⟨0, 2, 0, 1, 1, false⟩] }] }

def follows (s : State) (P : Wave → Entry → Context → Query → Bool) : Bool :=
  (queryAt s u0 0 0).any fun (x : Entry × Context × Query) => (assocGet s.waves u0).any fun (w : Wave) =>
    x.2.2.log.isNone && !x.2.2.badRead && !x.2.2.logf && !x.1.asks.isEmpty && x.1.asks.all (fun a => a.answers s) && P w x.1 x.2.1 x.2.2

theorem witness_ray_invalid : follows (tracing { ray with dir := [0, 0, 0] }) (fun w _ _ q =>
    !q.started && !laneStuck w 0 0 && rayInvalid q) = true := by decide +kernel

theorem witness_ray : follows (tracing ray) (fun w _ c q => c.resident && !q.started && !laneStuck w 0 0 && !rayInvalid q && !q.replay &&
    match rayHeader (tracing ray) c (rayLogs (tracing ray) w.ctx c q.num { q with started := true }).2 with
    | .ok (s1, q1, true) => (match rayLoop c rayFuel s1 q1 with
      | .ok (_, q2, .ended _) => !q2.badRead
      | _ => false)
    | _ => false) = true := by decide +kernel

theorem witness_ray_saved : follows (State.onCtx (tracing ray) fun c => { c with resident := false }) (fun _ _ c _ => !c.resident) = true := by
  decide +kernel

theorem witness_ray_lost : follows (tracing { ray with started := true, inLeaf := some (3, 2), lost := true }) (fun _ _ _ q =>
    q.inLeaf == some (3, 2) && q.toSpawn.isEmpty && q.waiting.isEmpty && q.lost) = true := by decide +kernel

def hit : Hit := ⟨0, 0, 0, true, 4, 9, false⟩
theorem witness_ray_user : follows (tracing { ray with started := true, inLeaf := some (3, 2), flags := 1, reports := [hit] })
    (fun _ _ _ q => q.toSpawn.isEmpty && q.waiting.isEmpty && !q.lost && q.flags.getLsbD 0 && q.best.isNone &&
      q.reports == [hit] && hit.user && decide (3 ≤ hit.prim.toNat ∧ hit.prim.toNat < 3 + 2)) = true := by decide +kernel

/-- Another wave, whose lane 0 is the query's thread of primitive 3. -/
def meeting (i : Instr) (op : Op) : State :=
  let s := tracing { ray with started := true, inLeaf := some (3, 2), waiting := [3] }
  { s with waves := s.waves ++ s.waves.map fun e => (e.1 + 1, { e.2 with
      spawned := true, threads := [(0, ⟨1, 0, 0, [(0, 0)], g0, 0, 0, none, some (u0, 0, 5, 3)⟩)],
      entries := [{ entry 0 0 i (.inflight op 0) with quads := 1 }] }) }

def meets (s : State) (P : Nat × Nat × Nat × Nat × Query → Bool) : Bool :=
  (assocGet s.waves (u0 + 1)).any fun (w : Wave) => (assocGet s.ctxs w.ctx).isSome && !laneStuck w 0 0 &&
    (w.entries.find? (·.seq == 0)).isSome && (ownQuery s w 0).any P

theorem witness_raya :
    meets (meeting (.raya 0 .f32 8 2) (.rayA 77)) (fun o => o.2.2.2.2.handle == 77 && o.2.2.2.2.prec == .f32) = true ∧
    meets (meeting (.raya 0 .f32 8 2) (.rayA 78)) (fun o => o.2.2.2.2.handle != 78) = true := by decide +kernel

theorem witness_rayh :
    meets (meeting (.rayh 0 .f32 8 2 4 5) (.rayH 78 0 9)) (fun o => o.2.2.2.2.handle != 78) = true ∧
    meets (meeting (.rayh 0 .f64 8 2 4 6) (.rayH 77 0 9)) (fun o => o.2.2.2.2.handle == 77 && o.2.2.2.2.prec != .f64) = true ∧
    meets (meeting (.rayh 0 .f32 8 2 4 5) (.rayH 77 0x4000000000000000 9)) (fun o => o.2.2.2.2.handle == 77 &&
      !(rLe (val o.2.2.2.2.tmin) (val 0x4000000000000000) && rLe (val 0x4000000000000000) (val o.2.2.2.2.tmax))) = true ∧
    meets (meeting (.rayh 0 .f32 8 2 4 5) (.rayH 77 ray.fpOne 9)) (fun o => o.1 != u0 + 1 && o.2.2.2.2.handle == 77 &&
      rLe (val o.2.2.2.2.tmin) (val ray.fpOne) && rLe (val ray.fpOne) (val o.2.2.2.2.tmax)) = true := by decide +kernel

/-! Journals. -/

/-- Base with an Open stream 7 of the issuing wave's context; lane 0 alone is active; v2 names the stream. -/
def journalling (st : StreamSt) : State :=
  let s := { base with hub := { base.hub with peers := [(1, ⟨[2, 3], [(0, 0x100000)]⟩)], streams := [(7, stream st 0)],
                                              govs := [(7, ⟨0, 1000, 1, 4, 4, none⟩)] } }
  State.onWave (State.reg s 2 7) fun w => { w with mask := 1 }

theorem witness_jrnl :
    let s := journalling .open_
    (getIssue s).any (fun k => (preCause (.jrnl 0 8 2 16) s k).isNone && k.act s == laneBit 0 && k.w.entries.isEmpty &&
      !laneStuck k.w k.w.nextSeq 0 && readLane s k.w 2 0 == 7 && (getStream s 7).any fun (t : Stream) => t.ctx == k.w.ctx &&
        decide ((t.next - t.tseq).toNat ≤ t.cap) &&
        (jrnlRecord ((List.range 8).map fun j => readLane s k.w (16 + j) 0) 7 t.next).any fun bs =>
          match recordPut s k.c 7 t bs true with | .ok _ => true | .error _ => false) = true := by decide +kernel

theorem witness_emit : ∃ k, MayRun (.emit 0 8 2) (journalling .open_) k ∧ k.w.entries = [] := runs (by decide +kernel)

/-- The stream has issued records 1 and 2; v8 names it and v16:17 hold 1. -/
theorem witness_jtrunc :
    let s0 := State.reg (State.reg (journalling .open_) 8 7) 16 1
    let s := { s0 with hub := { s0.hub with streams := [(7, { stream .open_ 0 with next := 3 })] } }
    (getIssue s).any (fun k => (preCause (.jtrunc 0 8 16) s k).isNone && k.act s == laneBit 0 && readLane s k.w 8 0 == 7 &&
      (getStream s 7).any fun (t : Stream) => t.st == .open_ && t.ctx == k.w.ctx &&
        decide (t.pos t.tseq < t.pos (readPair s k.w 16 0) ∧ t.pos (readPair s k.w 16 0) < t.pos t.next)) = true := by
  decide +kernel

theorem witness_govq :
    let s := journalling .open_
    (getIssue s).any (fun k => (preCause (.govq 0 8 2) s k).isNone &&
      k.w.entries.all (fun e => decide (e.seq < k.w.nextSeq)) && !laneStuck k.w k.w.nextSeq k.low &&
      (readLane s k.w 2 k.low).toNat == 7 && (assocGet s.hub.govs 7).any (fun (v : Gov) => v.ctx == k.w.ctx)) = true := by
  decide +kernel

theorem witness_govq_j :
    let s := State.reg (journalling .reassigning) 2 0x70007
    (getIssue s).any (fun k => (preCause (.govqJ 0 8 2) s k).isNone &&
      k.w.entries.all (fun e => decide (e.seq < k.w.nextSeq)) && (readLane s k.w 2 k.low).toNat == 7 + 2 ^ 16 * 7 &&
      (assocGet s.hub.govs 7).any (fun (v : Gov) => v.ctx == k.w.ctx) && (getStream s 7).any fun (t : Stream) =>
        t.st == .reassigning && match recordPut s k.c 7 t (recordOf 7 t.next 0xFFFFFFFF 0 [] 4 16) true with
          | .ok _ => true
          | .error _ => false) = true := by decide +kernel

/-- Record 1 of lane 0 is in flight, handed over in a request on port `p`. -/
def journalled (st : StreamSt) (p : Nat) : State :=
  let s := journalling st
  State.onWave { s with hub := { s.hub with streams := [(7, { stream st 0 with next := 2 })] } } fun w =>
    { w with nextSeq := 1, entries :=
      [{ entry 0 0 (.jrnl 0 8 2 16) (.inflight (.journal 7 1 none) 0) with quads := 1, asks := [⟨0, p, 0, 0, 1, false⟩] }] }

/-- Its port may answer, or is none of the package's. -/
theorem witness_acknowledgement : ∀ p ∈ [2, 99], (findEntry (journalled .open_ p) u0 0).any (fun (x : Wave × Entry × Context) =>
      x.2.1.asks.all fun a => portAnswers (journalled .open_ p) a.port a.cycle == (p == 2)) = true ∧
    streamOps (journalled .open_ p) 7 = [(u0, 0, 0, .journal 7 1 none)] ∧
    (getStream (journalled .open_ p) 7).any (fun (t : Stream) => t.st == .open_ && t.peer == 1 && decide (t.pos 1 < t.pos t.next) &&
      decide (t.pos t.acked < t.pos 1)) = true := by decide +kernel

/-- A record numbered 1 for the area at 0x1000 of this package, whose CAP is 256. -/
def arriving : State := let s := journalling .open_
  { s with mem := memPut (memClear s.mem 0 0x60000) 0x104C 4 256 }
set_option maxRecDepth 100000 in
theorem witness_record_arrival :
    let r : BitVec 512 := BitVec.ofNat 512 (leNat (recordOf 7 1 5 6 [] 0 0))
    let bs := natLe 64 r.toNat
    let pa := 0x1000 + 128 + 64 * (fieldAt bs 4 8 % memNat arriving.mem (0x1000 + 76) 4)
    Memory.wf arriving.mem = true ∧ recordCrcOk bs = true ∧ memNat arriving.mem (0x1000 + 76) 4 = 256 ∧ arriving.undefMem = [] ∧
      inboundBad arriving 1 0x1000 128 = none ∧ inboundBad arriving 1 pa 64 = none := by decide +kernel

/-- Peer 2 stands by. -/
def orphaned (standby : List Nat) : State := let s := journalled .reassigning 2
  { s with hub := { s.hub with standby := standby, peers := s.hub.peers ++ [(2, ⟨[4], []⟩)] } }
theorem witness_reassignment :
    (∀ l ∈ [[], [2]], (getStream (orphaned l) 7).any (fun (t : Stream) => t.st == .reassigning &&
      (orphaned l).hub.standby.find? (fun p => reachable (orphaned l) p && p != t.peer && !([] : List Nat).contains p) == l.head? &&
      (portOf (orphaned l) (recordPa { t with peer := 2 } 1)).isSome && (streamOps (orphaned l) 7).length == 1)) ∧
    (getStream (journalling .open_) 7).any (fun (t : Stream) => t.st == .open_) = true := by decide +kernel

/-- An `EMIT` behind a `JRNL` whose lane stands as `st`. -/
def emitting (lost : List Nat) (st : LaneSt) : State :=
  let s := journalling .open_
  State.onWave { s with hub := { s.hub with streams := [(7, { stream .open_ 0 with next := 2 })] } } fun w =>
    { w with lostRecs := lost, nextSeq := 2, entries := [{ entry 0 0 (.jrnl 0 8 2 16) st with lanes := [(1, st)], rest := some [1 + 64 * 7] },
      entry 1 0 (.emit 0 8 2) (.inflight (.emit 7 5 6 [0]) 0)] }
/-- Its records complete, one of them ended in error or lost, or one that firmware may let complete. -/
theorem witness_emit_publication : ∀ v ∈ [([], LaneSt.done, 0), ([7], .done, 1), ([], .faulted .journalLost 0 0, 1), ([], .held, 2)],
    (findEntry (emitting v.1 v.2.1) u0 1).any (fun (x : Wave × Entry × Context) =>
      let recs (f : LaneSt → Bool) : Bool := x.1.entries.any fun d => d.seq == 0 && d.lanes.any fun y => journalsOn d 7 y.1 && f y.2
      !laneStuck x.1 1 0 && !coveredAny x.1 x.2.1.quads 1 LaneSt.flying && !recs LaneSt.flying && x.2.1.lanes.length == 1 &&
      (x.1.lostRecs.contains 7 || recs fun y => y.stuck && !y.mends x.2.2) == (v.2.2 == 1) &&
      (recs (fun y => y.mends x.2.2) || coveredAny x.1 x.2.1.quads 1 LaneSt.stuck) == (v.2.2 == 2) &&
      (getStream (emitting v.1 v.2.1) 7).any fun (t : Stream) => t.st == .open_ &&
        match publish (emitting v.1 v.2.1) x.2.2 7 t 5 6 with | .ok (some _) => true | _ => false) = true := by decide +kernel

/-! Queues, grids and the events of a wave. -/

/-- Queue 2 of context 0 has one unread packet with the fields `fs`; its ring of sixteen slots is at 0x3000. -/
def queued (fs : List (Nat × Nat × Nat)) : State :=
  let s := State.onCtx base fun c => { c with queues := [(2, ⟨0x2000, 1, 0, 0, 7, 6, none⟩)] }
  let m := memPut (memPut s.mem 0x52000 10 0x3000) 0x5200A 1 4
  { s with mem := fs.foldl (fun m f => memPut m (0x53000 + f.1) f.2.1 f.2.2) m }

/-- The queue with its write index at `w`, its control block at `qcb` and its ring at `ring`. -/
def queuedAt (w qcb ring : Nat) : State :=
  let s := State.onCtx base fun c => { c with queues := [(2, ⟨BitVec.ofNat 80 qcb, BitVec.ofNat 32 w, 0, 0, 7, 6, none⟩)] }
  { s with mem := memPut (memPut s.mem 0x52000 10 ring) 0x5200A 1 4 }
/-- More packets than slots, a block or a slot that cannot be read, and one whose write succeeds or not. -/
theorem witness_packet_faults :
    (∃ c ∈ assocGet (queuedAt 17 0x2000 0x3000).ctxs 0, ∃ k ∈ assocGet c.queues 2, k.run = none ∧ k.state ≤ 1 ∧
      ∃ v ∈ (devRead (queuedAt 17 0x2000 0x3000) 0 k.qcb.toNat 11 none).toOption, 2 ^ fieldAt v.2 10 1 < (k.widx - k.ridx).toNat ∧
      (qcbPut v.1 0 k.qcb [(11, 1, 4), (12, 4, 1), (32, 4, 7)]).2 = none) ∧
    (devRead (queuedAt 1 0x20000 0x3000) 0 0x20000 11 none).isOk = false ∧
    (qcbPut (queuedAt 1 0x20000 0x3000) 0 0x20000 [(11, 1, 4), (12, 4, 1), (32, 4, 7)]).2.isSome = true ∧
    ∃ v ∈ (devRead (queuedAt 1 0x2000 0x20000) 0 0x2000 11 none).toOption, fieldAt v.2 0 10 = 0x20000 ∧
      (devRead v.1 0 0x20000 128 none).isOk = false := by decide +kernel

/-- A grid packet of one wave on die G0. -/
def packet : List (Nat × Nat × Nat) :=
  [(0, 4, 7), (4, 1, 1), (6, 1, 1), (7, 1, 1), (8, 4, 1), (12, 3, 0x10000), (15, 1, 32), (20, 2, 1)]

def readsPacket (s : State) (P : State → Context → Queue → List Byte → Packet → Bool) : Bool :=
  (assocGet s.ctxs 0).any fun (c : Context) => (assocGet c.queues 2).any fun (k : Queue) =>
    k.run.isNone && decide (k.state ≤ 1) && k.widx != k.ridx && !s.hub.halted &&
    match devRead s 0 k.qcb.toNat 11 none with
    | .ok (s1, h) =>
      (match devRead s1 0 ((fieldAt h 0 10 + 128 * (k.ridx.toNat % 2 ^ fieldAt h 10 1)) % 2 ^ 80) 128 none with
       | .ok (s2, bs) => decide ((k.widx - k.ridx).toNat ≤ 2 ^ fieldAt h 10 1) && P s2 c k bs (parsePacket s.nextGrid bs)
       | .error _ => false)
    | .error _ => false

theorem witness_packet_read : readsPacket (queued packet) (fun s2 c k bs p =>
    p.seq == k.rseq && (packetErr s2 c bs p).isNone && p.kind == 1) = true := by decide +kernel
theorem witness_packet_refused : readsPacket (queued (packet ++ [(12, 3, 0)])) (fun s2 c k bs p =>
    p.seq == k.rseq && packetErr s2 c bs p == some 4) = true := by decide +kernel
theorem witness_packet_sequence :
    readsPacket (queued (packet ++ [(0, 4, 23)])) (fun _ _ k _ p => p.seq == k.rseq + 16) = true ∧
    readsPacket (queued (packet ++ [(0, 4, 8)])) (fun _ _ k _ p => p.seq != k.rseq && p.seq != k.rseq + 16) = true := by
  decide +kernel

/-- Queue 0 holds packet `p`, whose grid is `r` if it has begun. -/
def holding (p : Packet) (r : Option Nat) : State :=
  State.onCtx base fun c => { c with queues := [(0, ⟨0x2000, 1, 1, 1, 8, 6, some (p, r)⟩)] }

theorem witness_packet_start : (∀ k ∈ [1, 2], ∃ c ∈ assocGet (holding { codePacket 9 with kind := k } none).ctxs 0,
    ∃ q ∈ assocGet c.queues 0, q.run = some ({ codePacket 9 with kind := k }, none) ∧ q.state ≤ 2 ∧
      ∀ d ∈ (codePacket 9).deps, depMet c d = true) := by decide +kernel

/-- Its dependence is a packet of queue 3, which has stopped. -/
def depending : State :=
  State.onCtx base fun c => { c with queues :=
    [(0, ⟨0x2000, 1, 2, 1, 8, 6, some ({ codePacket 9 with deps := [(3, 5)] }, none)⟩), (3, ⟨0x2100, 0, 3, 0, 0, 0, none⟩)] }
theorem witness_packet_stops : ∃ c ∈ assocGet depending.ctxs 0, ∃ q ∈ assocGet c.queues 0,
    q.run = some ({ codePacket 9 with deps := [(3, 5)] }, none) ∧ q.state ≤ 2 ∧ depMet c (3, 5) = false ∧
    (∃ o ∈ assocGet c.queues 3, 2 < o.state) ∧
    (∀ o ∈ c.queues, ∀ r ∈ o.2.run, ∀ d ∈ r.1.deps, d.1 ≠ 0) ∧
    (qcbPut depending 0 q.qcb [(11, 1, 3), (12, 4, 12), (32, 4, 0)]).2 = none := by decide +kernel

theorem witness_grid_completion :
    let s := { holding (codePacket g0) (some g0) with waves := [] }
    (assocGet s.grids g0).any (fun (gr : Grid) => gr.ctx == 0 && gr.q == 0 && gr.pkt == codePacket g0 &&
      (List.range gr.dies.length).all (fun j => decide (groupStart gr.clusters gr.dies.length (j + 1) ≤ gr.next.getD j 0)) &&
      s.banks.all fun e => e.2.bins.isEmpty && e.2.segs.isEmpty) = true := by decide +kernel

/-- The base grid has admitted nothing yet; its waves have `n` to a workgroup. -/
def offered (n : Nat) (waits : List (Nat × ClWait)) : State :=
  let s := State.onGrid base fun gr => { gr with next := [0], wgs := [], waits := waits, pkt := { gr.pkt with n := n } }
  { s with waves := [], cycle := 4096 }

def offers (s : State) (P : Grid → List (Nat × Nat) → Bool) : Bool :=
  (assocGet s.grids g0).any fun (gr : Grid) => !gr.discarded && gr.nextOn 16 == some 0 && clusterDie gr 0 == 16 &&
    (assocGet s.ctxs gr.ctx).any (launches s) &&
    P gr ((candPairs s gr 16).filter fun v => (takePair s g0 gr 0 v.1 v.2 none).isSome)

theorem witness_admission : offers (offered 1 []) (fun gr fits => (bestPair (freeSlots (offered 1 [])) 16 gr.pkt.s fits).any fun v =>
    !(rankCores 16 v.1 v.2 gr.pkt.s).any (candFits (offered 1 [])) &&
      !earlierFits (offered 1 []) g0 gr 0 (rankCores 16 v.1 v.2 gr.pkt.s) none) = true := by decide +kernel

theorem witness_admission_waits : offers (offered 24 []) (fun gr fits => fits.isEmpty && (assocGet gr.waits 0).isNone &&
    (bestPair (freeGrans (offered 24 [])) 16 gr.pkt.s (candPairs (offered 24 []) gr 16)).isSome) = true := by decide +kernel

theorem witness_guard : (assocGet (offered 1 [(0, ⟨0, 0, 0⟩)]).grids g0).any (fun (gr : Grid) =>
    (assocGet gr.waits 0).any fun v => decide (v.since + 4096 ≤ (offered 1 [(0, ⟨0, 0, 0⟩)]).cycle) &&
      (rankCores 16 v.cq v.c0 gr.pkt.s).any fun p => !(getCore (offered 1 [(0, ⟨0, 0, 0⟩)]) p).guards.contains (g0, 0)) = true := by
  decide +kernel

/-- The wave that the events below act on. -/
def onU0 (s : State) (P : Wave → Frag → Context → Bool) : Bool :=
  (assocGet s.waves u0).any fun (w : Wave) => (w.frag? 0).any fun f => (assocGet s.ctxs w.ctx).any fun c => P w f c

def dogged : State := State.onWave (State.onCtx trapBase fun c => { c with wdlim := 1 }) fun w => { w with watchdog := 4096 }
theorem witness_watchdog : onU0 dogged (fun w f c => issues dogged w.ctx && watchdogDue dogged w &&
    firstFrag ((w.frags.filter (·.free dogged w)).map fun f => (u0, w, f)) == some (u0, w, f) && leadQuad f.quads == 0 &&
    canTrapB dogged ⟨u0, w, f, c⟩) = true := by decide +kernel

theorem witness_promotion : onU0 (State.onFrag base fun f => { f with waited := 256 }) (fun _ f _ =>
    decide (256 ≤ f.waited) && f.promoted.isNone) = true := by decide +kernel

/-- Lane 0 waits for the word at `pa`, mapped at 0x100, to leave 0. -/
def waiting (v pa sent : Nat) (left : Option Nat) : State :=
  let s := State.onFrag (distant [2] id []) fun f => { f with park := .waitw (.waitw .w32 (rr 8 6 11 12)) [⟨0, pa, 0x100, 0, 0, 2, sent⟩] 4 left false }
  { s with mem := memPut s.mem pa 4 v }
theorem witness_retest : onU0 (waiting 3 0x50100 0 none) (fun w f _ => !turnWave w && match f.park with
    | .waitw _ ws n _ false => ws.map (WaitWord.now (waiting 3 0x50100 0 none) n) != ws && ws.all fun y => paRegion y.pa != 2
    | _ => false) = true := by decide +kernel
/-- A peer's word whose poll its port may answer. -/
theorem witness_poll : onU0 (waiting 3 (2 ^ 51 + 2 ^ 42) 1 none) (fun w f _ => !turnWave w && match f.park with
    | .waitw _ [y] n _ false => paRegion y.pa == 2 && y.sent == 1 && portAnswers (waiting 3 (2 ^ 51 + 2 ^ 42) 1 none) y.port (y.sent - 1) &&
        y.m != BitVec.ofNat 64 (leNat (physGet (waiting 3 (2 ^ 51 + 2 ^ 42) 1 none) y.pa n))
    | _ => false) = true := by decide +kernel
/-- A word that has left its value, or not. -/
theorem witness_timeout : ∀ v ∈ [3, 0], onU0 (waiting v 0x50100 0 (some 0)) (fun w f c => issues (waiting v 0x50100 0 (some 0)) w.ctx &&
    (w.frags.all (·.trap.isNone)) &&
    canTrapB (waiting v 0x50100 0 (some 0)) ⟨u0, w, f, c⟩ && leadQuad f.quads == 0 && match f.park with
    | .waitw (.waitw ty _) ws n (some 0) false => n == wBytes ty && decide ((ws.map (·.lane)).Nodup) && ws.all fun y =>
        decide (y.lane < 64) && !turnWave w && ((WaitWord.now (waiting v 0x50100 0 (some 0)) n y).m == y.vb) == (v == 0)
    | _ => false) = true := by decide +kernel

/-- A deterministic wave with an atomic of lane 0 in flight. -/
def turning (clock : Nat) (qs : QuadMask) (park : Park) : State :=
  let s := pending [{ entry 0 0 cas (.inflight (.atom (.phys 0x50100 0x40000) 1 0) 0x100) with
    quads := qs, clock := clock, stalls := [(0, 2 ^ 13)] }]
  State.onFrag (State.onWave (State.onCtx s fun c => { c with wdlim := 1 }) fun w => { w with det := true }) fun f => { f with park := park }

theorem witness_deterministic_turn : performable (turning 0 (-1) .none) 0 = true ∧
    onU0 (turning 0 (-1) .none) (fun w _ _ => w.det && !w.spawned && (w.entries.find? (·.seq == 0)).any fun e =>
      !atomBlocked (turning 0 (-1) .none) u0 w e (.phys 0x50100 0x40000)) = true := by decide +kernel

theorem witness_deterministic_stall : onU0 (turning 5 1 .wait) (fun w _ _ => turnWave w &&
    (limitOf (turning 5 1 .wait) w).any fun lim => (w.entries.find? (·.seq == 0)).any fun (e : Entry) =>
      isTurnInstr e.instr && turnStalled (turning 5 1 .wait) u0 w (e.key w 0) e.quads && decide (lim ≤ (assocGet e.stalls 0).getD 0)) = true := by
  decide +kernel

/-- A wave that has ended, with no joined thread, or with one whose count is due, at `va`. -/
def ended (join : Option (VA × Option Ask)) : State :=
  let s := State.onWave base fun w => { w with
    live := 0, frags := [], spawned := join.isSome,
    threads := (join.map fun j => (0, ⟨1, 0, 0, [(0, 0)], g0, 0, 0, some j.1, none⟩)).toList,
    leaving := (join.map fun j => (0, 4, true, j.2)).toList }
  { s with mem := memPut s.mem 0x50100 4 2 }
def near : Option (VA × Option Ask) := some (0x100, none)
theorem witness_retirement :
    (assocGet (ended none).waves u0).any (fun (w : Wave) => w.live == 0 && w.entries.isEmpty && w.leaving.isEmpty &&
      (wgOf (ended none) w.grid w.wg).isSome) = true ∧
    (assocGet (ended near).waves u0).any (fun (w : Wave) => w.live == 0 && w.entries.isEmpty && w.leaving == [(0, 4, true, none)] &&
      (assocGet (ended near).ctxs w.ctx).any (fun c => joinPeer (ended near) c 0x100 == none) &&
      (assocGet w.threads 0).any (fun (th : Thread) => th.query.isNone && th.join == some 0x100) &&
      match xlateService (ended near) w.ctx 0x100 .write (some (coreDom w.core)) with
      | .ok (s1, pa) => memNat s1.mem pa 4 % 2 ^ 24 != 0 && s1.undefMem.isEmpty
      | .error _ => false) = true ∧ Memory.wf (ended near).mem = true := by decide +kernel
/-- The join word's page is not mapped any more. -/
def unmapped : State := { ended near with mem := memPut (ended near).mem 0x40000 1 0 }
theorem witness_retirement_fault : ∃ w ∈ assocGet unmapped.waves u0, w.live = 0 ∧ w.entries = [] ∧ w.leaving = [(0, 4, true, none)] ∧
    (∃ c ∈ assocGet unmapped.ctxs w.ctx, joinPeer unmapped c 0x100 = none) ∧
    (xlateService unmapped w.ctx 0x100 .write (some (coreDom w.core))).isOk = false := by
  decide +kernel
/-- The join word stands at peer 1, which has the ports `ports`; its request has been sent or not. -/
def farJoin (ports : List Nat) (up : Bool) (ask : Option Ask) : State :=
  let s := State.bytes (ended (some (0x20100, ask))) 0x40010 (natLe 8 (2 ^ 51 + 2 ^ 42 + 0xFB))
  modPort { s with hub := { s.hub with peers := [(1, ⟨ports, [(0, 0x10000)]⟩)] } } 2 fun r => { r with up := up }
theorem witness_retirement_asks : ∀ ports ∈ [[], [2]], (assocGet (farJoin ports true none).waves u0).any (fun (w : Wave) =>
    w.leaving == [(0, 4, true, none)] && (assocGet (farJoin ports true none).ctxs w.ctx).any fun (c : Context) =>
      (joinPeer (farJoin ports true none) c 0x20100).any fun pa => portOf (farJoin ports true none) pa == ports.head? &&
        ports.all (portSends (farJoin ports true none))) = true := by decide +kernel
def joinAsk : Ask := ⟨0, 2, 0, 1, 1, true⟩
theorem witness_retirement_answer : ∀ up ∈ [true, false], (assocGet (farJoin [2] up (some joinAsk)).waves u0).any (fun (w : Wave) =>
    w.live == 0 && w.entries.isEmpty && w.leaving == [(0, 4, true, some joinAsk)] &&
      joinAsk.answers (farJoin [2] up (some joinAsk)) == up && match xlateService (farJoin [2] up (some joinAsk)) w.ctx 0x20100 .write
        (some (coreDom w.core)) with | .ok _ => true | .error _ => false) = true := by decide +kernel

end Sys2Proof.Tests
end

section
/-!
SUPPORT. The device's own accesses of a context's memory: what firmware's service of pages, and a status block
written, leave of the state (01 R20; 06 R155, R158, R166; 11 R290).
-/

namespace Sys2Proof.Machine

/-- Of the hub, only firmware's record of frames, zone and line copies and the interrupts raised differ. -/
def HubWork (h h' : Hub) : Prop :=
  h' = { h with frames := h'.frames, lineCopies := h'.lineCopies, zonePages := h'.zonePages, irqs := h'.irqs }

theorem HubWork.trans {h h' h'' : Hub} (e : HubWork h h') (e' : HubWork h' h'') : HubWork h h'' := by
  unfold HubWork at *
  rw [e', e]

/-- What the device's accesses and reports change: bytes of memory, firmware's record of frames, zone and line copies,
the interrupts raised, and of a context its record of pages and tables alone. -/
structure DeviceWork (s t : State) : Prop where
  only : t = { s with mem := t.mem, undefMem := t.undefMem, past := t.past, hub := t.hub, ctxs := t.ctxs }
  hub : HubWork s.hub t.hub
  ctx : ∀ x c, assocGet s.ctxs x = some c →
    ∃ c', assocGet t.ctxs x = some c' ∧ c' = { c with pages := c'.pages, tables := c'.tables }
  wf : Memory.wf s.mem = true → Memory.wf t.mem = true

namespace DeviceWork

theorem refl (s : State) : DeviceWork s s := ⟨rfl, rfl, fun _ c h => ⟨c, h, rfl⟩, id⟩

theorem trans {s t r : State} (h : DeviceWork s t) (h' : DeviceWork t r) : DeviceWork s r := by
  refine ⟨?_, h.hub.trans h'.hub, ?_, h'.wf ∘ h.wf⟩
  · rw [h'.only, h.only]
  · intro x c hc
    obtain ⟨c1, h1, e1⟩ := h.ctx x c hc
    obtain ⟨c2, h2, e2⟩ := h'.ctx x c1 h1
    exact ⟨c2, h2, by rw [e2, e1]⟩

/-- Work on memory alone. -/
theorem of_mem {s t : State} (h : t = { s with mem := t.mem, undefMem := t.undefMem, past := t.past })
    (hw : Memory.wf s.mem = true → Memory.wf t.mem = true) : DeviceWork s t :=
  ⟨by rw [h], by rw [h]; rfl, fun x c hc => ⟨c, by rw [h]; exact hc, rfl⟩, hw⟩

/-- Work on firmware's record in the hub alone. -/
theorem of_hub {s : State} {h : Hub} (e : HubWork s.hub h) : DeviceWork s { s with hub := h } :=
  ⟨rfl, e, fun _ c hc => ⟨c, hc, rfl⟩, id⟩

/-- Work on the page record of one context. -/
theorem of_ctx {s : State} {x : Nat} {c c' : Context} (hc : assocGet s.ctxs x = some c)
    (e : c' = { c with pages := c'.pages, tables := c'.tables }) : DeviceWork s (setCtx s x c') := by
  refine ⟨rfl, rfl, fun y d hd => ?_, id⟩
  by_cases hy : y = x
  · subst hy
    obtain rfl : c = d := by simpa [hc] using hd
    exact ⟨c', by simp, e⟩
  · exact ⟨d, by simpa [hy] using hd, rfl⟩

theorem foldl {α : Type} {f : State → α → State} (hf : ∀ t a, DeviceWork t (f t a)) (l : List α) (s : State) :
    DeviceWork s (l.foldl f s) := by
  induction l generalizing s with
  | nil => exact refl s
  | cons a r ih => exact (hf s a).trans (ih _)

theorem foldl_fst {α β : Type} {f : State × β → α → State × β} (hf : ∀ r a, DeviceWork r.1 (f r a).1) (l : List α)
    (r : State × β) : DeviceWork r.1 (l.foldl f r).1 := by
  induction l generalizing r with
  | nil => exact refl r.1
  | cons a l ih => exact (hf r a).trans (ih _)

end DeviceWork

theorem physPut_work (s : State) (pa : Nat) (bs : List Byte) : DeviceWork s (physPut s pa bs) :=
  .of_mem rfl (memWriteN_wf pa bs)

theorem leafTouch_work (s : State) (leaf : Nat) (wr : Bool) : DeviceWork s (leafTouch s leaf wr) :=
  .of_mem rfl (touchLeaf_wf leaf wr)

theorem entryPut_work (s : State) (a e : Nat) : DeviceWork s (entryPut s a e) := .of_mem rfl (memPut_wf a 8 e)

theorem frameTake_work (s : State) (base size : Nat) : DeviceWork s (frameTake s base size) :=
  (DeviceWork.of_mem (t := { frameTake s base size with hub := s.hub }) rfl (memClear_wf base size)).trans (.of_hub rfl)

theorem frameFree_work (s : State) (base : Nat) : DeviceWork s (frameFree s base) := .of_hub rfl

theorem raiseIrq_work (s : State) (fn vec : Nat) : DeviceWork s (raiseIrq s fn vec) := .of_hub rfl

/-- A table's frame listed with its context. -/
theorem tableAdd_work (s : State) (x f : Nat) : DeviceWork s (modCtx s x fun c => { c with tables := f :: c.tables }) := by
  refine ⟨rfl, rfl, fun y d hd => ?_, id⟩
  by_cases hy : y = x
  · subst hy
    exact ⟨_, by simp [assocGet_mod_same, hd]; rfl, rfl⟩
  · exact ⟨d, by simpa [hy] using hd, rfl⟩

theorem putEntry_work {x va target e : Nat} (lvl : Nat) {s t : State} {table : Nat}
    (h : putEntry s x table va target e lvl = some t) : DeviceWork s t := by
  induction lvl generalizing s table with
  | zero =>
    unfold putEntry at h
    split at h
    · obtain rfl := Option.some.inj h; exact entryPut_work _ _ _
    · simp at h
  | succ l ih =>
    unfold putEntry at h
    split at h
    · obtain rfl := Option.some.inj h; exact entryPut_work _ _ _
    · dsimp only at h
      split at h
      · exact ih h
      · split at h
        · simp at h
        · exact ((frameTake_work _ _ _).trans ((entryPut_work _ _ _).trans (tableAdd_work _ _ _))).trans (ih h)

theorem pageReplace_eq (c : Context) (va : Nat) (new : List Pages) :
    pageReplace c va new = { c with pages := (pageReplace c va new).pages, tables := (pageReplace c va new).tables } := rfl

theorem compressPage_work {s t : State} {x va : Nat} (h : compressPage s x va = some t) : DeviceWork s t := by
  unfold compressPage at h
  split at h
  · simp at h
  · rename_i c hc
    split at h
    · simp at h
    · dsimp only at h
      split at h
      · simp at h
      · split at h
        · simp at h
        · rename_i s2 hp
          obtain rfl := Option.some.inj h
          exact ((DeviceWork.of_ctx hc (pageReplace_eq c va _)).trans (putEntry_work 4 hp)).trans
            ((frameFree_work _ _).trans (.of_hub rfl))

theorem frameFor_work {s t : State} {order : List Nat} {size f : Nat} (h : frameFor s order size = some (t, f)) :
    DeviceWork s t := by
  unfold frameFor at h
  split at h
  · obtain ⟨rfl, rfl⟩ : s = t ∧ _ = f := by simpa using h
    exact .refl s
  · obtain ⟨a, -, ha⟩ := Option.map_eq_some_iff.1 h
    obtain ⟨rfl, rfl⟩ := Prod.mk.inj ha
    refine DeviceWork.foldl_fst (fun r v => ?_) _ (s, none)
    split
    · exact .refl _
    · split
      · rename_i hc; exact compressPage_work hc
      · exact .refl _

theorem memFold_wf (f : Nat) (bs : List (Nat × Byte)) {m : List Host.Cell} (h : Memory.wf m = true) :
    Memory.wf (bs.foldl (fun m b => memWrite m (f + b.1) b.2) m) = true := by
  induction bs generalizing m with
  | nil => exact h
  | cons b r ih => exact ih (memWrite_wf _ _ h)

/-- The bytes of a compressed page written back from the zone. -/
theorem pageBytes_work (s : State) (f : Nat) (bs : List (Nat × Byte)) :
    DeviceWork s { s with mem := bs.foldl (fun m b => memWrite m (f + b.1) b.2) s.mem,
                          hub := { s.hub with zonePages := s.hub.zonePages - 1 } } :=
  ⟨rfl, rfl, fun _ c hc => ⟨c, hc, rfl⟩, memFold_wf f bs⟩

/-- A page placed: the context's record names it, and its entry is written. -/
theorem pagePlaced_work {s t : State} {x va ptb a psz e : Nat} {c0 c : Context} {new : List Pages}
    (hc0 : assocGet s.ctxs x = some c0)
    (h : putEntry (setCtx s x (pageReplace ((assocGet s.ctxs x).getD c) va new)) x ptb a psz e 4 = some t) :
    DeviceWork s t := by
  rw [hc0] at h
  exact (DeviceWork.of_ctx hc0 (pageReplace_eq c0 va new)).trans (putEntry_work 4 h)

theorem servicePage_work {s t : State} {x va home : Nat} {core : Option Nat} (h : servicePage s x va home core = .ok t) :
    DeviceWork s t := by
  unfold servicePage at h
  split at h
  · simp at h
  · rename_i c0 hc0
    split at h
    · simp at h
    · rename_i p hp
      split at h
      · obtain rfl : s = t := by simpa using h
        exact .refl s
      · dsimp only at h
        split at h
        · simp at h
        · rename_i s1 f hf
          have h1 : DeviceWork s (frameTake s1 f p.size) := (frameFor_work hf).trans (frameTake_work _ _ _)
          split at h
          · rename_i s3 hput
            obtain rfl : s3 = t := by simpa using h
            cases hst : p.stored with
            | none =>
              rw [hst] at hput
              obtain ⟨c', hc', -⟩ := h1.ctx x c0 hc0
              exact h1.trans (pagePlaced_work hc' hput)
            | some v =>
              rw [hst] at hput
              have h2 := h1.trans (pageBytes_work _ f v.2)
              obtain ⟨c', hc', -⟩ := h2.ctx x c0 hc0
              exact h2.trans (pagePlaced_work hc' hput)
          · simp at h

theorem xlateService_work {s t : State} {x va pa : Nat} {k : Acc} {core : Option Nat}
    (h : xlateService s x va k core = .ok (t, pa)) : DeviceWork s t := by
  unfold xlateService at h
  split at h
  · simp at h
  · split at h
    · obtain ⟨rfl, rfl⟩ : leafTouch s _ _ = t ∧ _ = pa := by simpa using h
      exact leafTouch_work _ _ _
    · split at h
      · simp at h
      · rename_i s1 hs
        split at h
        · simp at h
        · split at h
          · obtain ⟨rfl, rfl⟩ : leafTouch s1 _ _ = t ∧ _ = pa := by simpa using h
            exact (servicePage_work hs).trans (leafTouch_work _ _ _)
          · simp at h
    · simp at h

theorem devRead_work {x : Nat} {core : Option Nat} (n : Nat) {s t : State} {va : Nat} {bs : List Byte}
    (h : devRead s x va n core = .ok (t, bs)) : DeviceWork s t := by
  induction n generalizing s va bs with
  | zero =>
    obtain ⟨rfl, rfl⟩ : s = t ∧ [] = bs := by simpa [devRead] using h
    exact .refl s
  | succ n ih =>
    unfold devRead at h
    split at h
    · simp at h
    · rename_i s1 pa h1
      split at h
      · simp at h
      · rename_i s2 bs' h2
        obtain ⟨rfl, rfl⟩ : s2 = t ∧ _ = bs := by simpa using h
        exact (xlateService_work h1).trans (ih h2)

theorem devWrite_work {x : Nat} {core : Option Nat} (bs : List Byte) {s t : State} {va : Nat}
    (h : devWrite s x va bs core = .ok t) : DeviceWork s t := by
  induction bs generalizing s va with
  | nil =>
    obtain rfl : s = t := by simpa [devWrite] using h
    exact .refl s
  | cons b r ih =>
    unfold devWrite at h
    split at h
    · simp at h
    · rename_i s1 pa h1
      exact ((xlateService_work h1).trans (physPut_work _ _ _)).trans (ih h)

theorem devTry_work (s : State) (x va : Nat) (bs : List Byte) : DeviceWork s (devTry s x va bs) := by
  unfold devTry
  split
  · rename_i h; exact devWrite_work bs h
  · exact .refl s

theorem writeCsb_work (s : State) (x : Nat) : DeviceWork s (writeCsb s x) := by
  unfold writeCsb
  split
  · exact .refl s
  · exact (devTry_work _ _ _ _).trans (raiseIrq_work _ _ _)

end Sys2Proof.Machine
end

section
/-!
SUPPORT. Collections whose members are numbered in order, or changed member by member.
-/

namespace Sys2Proof.Machine

variable {α : Type}

theorem assocGet_mapVal (m : List (Nat × α)) (f : Nat → α → α) (k : Nat) :
    assocGet (m.map fun e => (e.1, f e.1 e.2)) k = (assocGet m k).map (f k) := by
  induction m with
  | nil => rfl
  | cons e r ih =>
    obtain ⟨j, v⟩ := e
    by_cases h : j = k
    · subst h; simp [assocGet]
    · simpa [assocGet, h] using ih

theorem assocGet_const {ks : List Nat} {k : Nat} (v : α) (h : k ∈ ks) : assocGet (ks.map fun j => (j, v)) k = some v := by
  induction ks with
  | nil => simp at h
  | cons j r ih =>
    by_cases hj : j = k
    · simp [assocGet, hj]
    · simpa [assocGet, hj] using ih (by simpa [Ne.symm hj] using h)

/-- Members chosen by their number are found as before, the others not at all. -/
theorem assocGet_filterKey (m : List (Nat × α)) (p : Nat → Bool) (k : Nat) :
    assocGet (m.filter fun e => p e.1) k = if p k then assocGet m k else none := by
  induction m with
  | nil => simp
  | cons e r ih =>
    obtain ⟨j, v⟩ := e
    by_cases h : j = k
    · subst h
      by_cases hp : p j = true <;> simp [assocGet, hp, ih]
    · by_cases hp : p j = true <;> simp [assocGet, hp, h, ih]

theorem mem_of_assocGet {m : List (Nat × α)} {k : Nat} {v : α} (h : assocGet m k = some v) : (k, v) ∈ m := by
  induction m with
  | nil => simp at h
  | cons e r ih =>
    obtain ⟨j, w⟩ := e
    by_cases hj : j = k
    · simp_all [assocGet]
    · simp [assocGet, hj] at h; simp [ih h]

end Sys2Proof.Machine
end

section
/-!
SUPPORT. Control registers (04 R102, R103; 15 R373): what a reader sees of each once no write of it is within its bound.
-/

namespace Sys2Proof.Machine

/-- A choice that no member makes leaves the value as it was. -/
theorem foldl_unchanged {α β : Type} {f : β → α → β} (l : List α) (v : β) (h : ∀ a ∈ l, ∀ b, f b a = b) : l.foldl f v = v := by
  induction l with
  | nil => rfl
  | cons a r ih =>
    rw [List.foldl_cons, h a (by simp)]
    exact ih fun b hb => h b (by simp [hb])

theorem effCsr_settled {s : State} {w : Wave} (h : ∀ p ∈ w.csrPend, p.2.2.1 ≤ s.cycle) (num : Nat) (cur : Word) :
    effCsr s w num cur = cur := by
  refine foldl_unchanged _ _ fun p hp v => if_neg ?_
  have := h p.1 (List.fst_mem_of_mem_zipIdx hp)
  omega

theorem ctxCsr_settled {s : State} {k : Issue}
    (h : ∀ p ∈ k.c.csrPend, p.2.2.2.1 ≤ s.cycle ∧ p.2.2.2.2 ≤ s.cycle) (num : Nat) (cur : Word) :
    ctxCsr s k num cur = cur := by
  refine foldl_unchanged _ _ fun p hp v => if_neg ?_
  have := h p.1 (List.fst_mem_of_mem_zipIdx hp)
  split <;> omega

theorem readFpstat_settled {s : State} {w : Wave} (h : ∀ p ∈ w.fpPend, p.2 ≤ s.cycle) :
    readFpstat s w = w.fpPend.foldl (fun v p => v ||| p.1) w.fpstat := by
  refine List.foldl_ext _ _ _ fun v p hp => ?_
  have := h p hp
  rw [if_neg (by omega)]

theorem toNat_append_add {m n : Nat} (x : BitVec m) (y : BitVec n) : (x ++ y).toNat = x.toNat * 2 ^ n + y.toNat := by
  rw [BitVec.toNat_append, ← Nat.shiftLeft_add_eq_or_of_lt y.isLt, Nat.shiftLeft_eq]

/-- The three words of an 80-bit register are the register. -/
theorem vaWord_join (a : VA) : (vaWord a 2).extractLsb' 0 16 ++ vaWord a 1 ++ vaWord a 0 = a := by
  apply BitVec.eq_of_toNat_eq
  have := a.isLt
  simp only [vaWord, toNat_append_add, BitVec.extractLsb'_toNat, BitVec.toNat_ofNat, Nat.shiftRight_zero]
  omega

theorem ofNat_words_join (n : Nat) : (BitVec.ofNat 32 (n / 2 ^ 32) ++ BitVec.ofNat 32 n).toNat = n % 2 ^ 64 := by
  simp only [toNat_append_add, BitVec.toNat_ofNat]
  omega

theorem dword_words_join (d : Dword) : d.extractLsb' 32 32 ++ d.extractLsb' 0 32 = d := by
  apply BitVec.eq_of_toNat_eq
  have := d.isLt
  simp only [toNat_append_add, BitVec.extractLsb'_toNat, Nat.shiftRight_eq_div_pow]
  omega

end Sys2Proof.Machine
end

section
/-!
The settled statements on what the control registers read (01 R9, R10; 02 R49; 03 R68; 04 R107; 06 R150; 11 R278) and on
the reset state (01 R26; 12 R301, R305, R309).
-/

namespace Sys2Proof.Machine

theorem extract_zeroExtend {n : Nat} (v : BitVec n) (h : n ≤ 32) : (v.zeroExtend 32).extractLsb' 0 n = v := by
  apply BitVec.eq_of_toNat_eq
  have := v.isLt
  have h2 : 2 ^ n ≤ 2 ^ 32 := Nat.pow_le_pow_right (by norm_num) h
  simp only [BitVec.extractLsb'_toNat, BitVec.toNat_setWidth, Nat.shiftRight_zero]
  rw [Nat.mod_eq_of_lt (by omega : v.toNat < 2 ^ 32), Nat.mod_eq_of_lt this]

/-- `TWSTAT` (04 R107): bit 31 of an open window, WAITED, G31 and G30. -/
theorem twstat_toNat {s : State} {k : Issue} {v : Window} (l : Nat) (h : k.w.window = some v) :
    (csrWord s k 0x01C l).toNat =
      2 ^ 31 + (if v.waited then 4 else 0) + (if v.g31 then 2 else 0) + (if v.g30 then 1 else 0) := by
  have hc : csrWord s k 0x01C l = BitVec.ofNat 32
      (2 ^ 31 + (if v.waited then 4 else 0) + (if v.g31 then 2 else 0) + (if v.g30 then 1 else 0)) := by
    simp only [csrWord, h]
  rw [hc, BitVec.toNat_ofNat]
  refine Nat.mod_eq_of_lt ?_
  split <;> split <;> split <;> norm_num

theorem twstat_zero_iff (s : State) (k : Issue) (l : Nat) : csrWord s k 0x01C l = 0 ↔ k.w.window = none := by
  cases h : k.w.window with
  | none => simp [csrWord, h]
  | some v =>
    have := twstat_toNat (s := s) l h
    refine iff_of_false (fun h0 => ?_) (by simp)
    rw [h0] at this
    simp at this
    omega

/-- `WAVEID` and `CLID` of a launched wave (02 R49). -/
theorem launched_ids {s : State} {k : Issue} {gr : Grid} (l : Nat) (hg : assocGet s.grids k.w.grid = some gr)
    (hl : k.w.spawned = false) (h0 : 0 < gr.pkt.s) (h16 : gr.pkt.s < 16) (hn0 : 0 < gr.pkt.n) (hn : gr.pkt.n ≤ 128)
    (hw : k.w.widx < 128) (hwg : k.w.wg < 2 ^ 28) :
    let x := (csrWord s k 0x000 l).toNat
    let y := (csrWord s k 0x002 l).toNat
    x % 2 ^ 8 = k.w.widx ∧ x / 2 ^ 8 % 2 ^ 16 = gr.pkt.n - 1 ∧ x / 2 ^ 24 = gr.pkt.s ∧
      y % 2 ^ 28 = k.w.wg / gr.pkt.s ∧ y / 2 ^ 28 = k.w.wg % gr.pkt.s := by
  have hx : (csrWord s k 0x000 l).toNat = gr.pkt.s * 2 ^ 24 + (gr.pkt.n - 1) * 2 ^ 8 + k.w.widx := by
    simp only [csrWord, hl, hg, Option.map_some, Bool.false_eq_true, if_false, BitVec.toNat_ofNat]
    omega
  have hq : k.w.wg / gr.pkt.s ≤ k.w.wg := Nat.div_le_self _ _
  have hr : k.w.wg % gr.pkt.s < gr.pkt.s := Nat.mod_lt _ h0
  have hy : (csrWord s k 0x002 l).toNat = k.w.wg % gr.pkt.s * 2 ^ 28 + k.w.wg / gr.pkt.s := by
    simp only [csrWord, hl, hg, Option.map_some, Bool.false_eq_true, if_false, BitVec.toNat_ofNat,
      Nat.max_eq_left (show 1 ≤ gr.pkt.s from h0)]
    generalize k.w.wg % gr.pkt.s = r at hr ⊢
    generalize k.w.wg / gr.pkt.s = q at hq ⊢
    omega
  dsimp only
  rw [hx, hy]
  generalize k.w.wg % gr.pkt.s = r at hr ⊢
  generalize k.w.wg / gr.pkt.s = q at hq ⊢
  omega

/-- `DIEID` and `COREID` (01 R9, R10). -/
theorem core_ids (s : State) {k : Issue} (l : Nat) (h : k.w.core < 18 * 32) :
    (csrWord s k 0x003 l).toNat = k.w.core / 32 + (if 16 ≤ k.w.core / 32 then 64 else 0) ∧
      (csrWord s k 0x004 l).toNat = k.w.core % 32 := by
  have hr : domRender (k.w.core / 32) = true ↔ 16 ≤ k.w.core / 32 := by simp [domRender]; omega
  constructor
  · simp only [csrWord, coreDom, hr, BitVec.toNat_ofNat]
    split <;> omega
  · simp only [csrWord, coreIdx, BitVec.toNat_ofNat]
    omega

/-- `BATCHNO` (06 R150): the open batch, and how many closed ones are not complete. -/
theorem batchno_toNat (s : State) {k : Issue} (l : Nat) (h : (pendingBatches k.w).length < 2 ^ 16) :
    (csrWord s k 0x032 l).toNat = k.w.open_ % 2 ^ 16 * 2 ^ 16 + (pendingBatches k.w).length := by
  simp only [csrWord, BitVec.toNat_ofNat]
  omega

/-- `SPAWNST` (03 R68): depth, whether the thread has a join word, and NEXT with the spawns in flight. -/
theorem spawnst_toNat (s : State) {k : Issue} (l : Nat) (h : (threadOf k.w l).depth < 8) :
    (csrWord s k 0x033 l).toNat = (threadOf k.w l).depth * 2 ^ 29 + (if (threadOf k.w l).join.isSome then 2 ^ 28 else 0) +
      min ((threadOf k.w l).next + spawnsFlying k.w l) (2 ^ 26 - 1) := by
  simp only [csrWord, BitVec.toNat_ofNat]
  split <;> omega

/-- `PREQ` (11 R278): REQ and FORCED. -/
theorem preqWord_bits (c : Context) : (contextCsr c 0x040).getLsbD 0 = c.preq ∧ (contextCsr c 0x040).getLsbD 1 = c.forced := by
  simp only [contextCsr]
  cases c.preq <;> cases c.forced <;> decide

theorem detmodeWord_bit (c : Context) : (contextCsr c 0x050).getLsbD 0 = c.detmode := by
  simp only [contextCsr]
  cases c.detmode <;> decide

/-- Settles O16: each register is the field that holds it, once `effCsr` and `ctxCsr` have no write left to show. -/
theorem controlRegistersRead : Obligations.ControlRegistersRead := by
  refine ⟨fun g sup num d => bitsComplete_of fun _ => rfl, fun s k l hw hc hf => ?_⟩
  have wave : ∀ num cur, effCsr s k.w num cur = cur := effCsr_settled hw
  have ctx : ∀ num cur, ctxCsr s k num cur = cur := ctxCsr_settled hc
  refine ⟨rfl, ?tlm, ?tpc, rfl, vaWord_join k.w.tval, ?trapbase, twstat_zero_iff s k l, ?fpstat, wave _ _, ?bintmr, ?preq, ?pdl, ?share,
    ?wdlim, ?detmode, fun h => ?spawned, fun gr hg hl h0 h16 hn0 hn hx hwg => launched_ids l hg hl h0 h16 hn0 hn hx hwg,
    fun h => ?wgid, core_ids s l, ofNat_words_join _, batchno_toNat s l, spawnst_toNat s l, rfl, rfl,
    fun v hv => ⟨twstat_toNat l hv, ?frame⟩, fun h => ?noframe⟩
  case tlm => exact (congrArg₂ _ (wave _ _) (wave _ _)).trans (dword_words_join _)
  case tpc =>
    simp only [csrWord, wave]
    exact vaWord_join _
  case trapbase =>
    simp only [csrWord, ctx]
    exact vaWord_join _
  case fpstat => exact (wave _ _).trans (readFpstat_settled hf)
  case bintmr => simp only [csrWord, ctx]; exact extract_zeroExtend _ (by norm_num)
  case preq => simp only [csrWord, ctx]; exact preqWord_bits k.c
  case pdl => simp only [csrWord, ctx]; exact extract_zeroExtend _ (by norm_num)
  case share => simp only [csrWord, ctx]; exact extract_zeroExtend _ (by norm_num)
  case wdlim => simp only [csrWord, ctx]; exact extract_zeroExtend _ (by norm_num)
  case detmode => simp only [csrWord, ctx]; exact detmodeWord_bit k.c
  case spawned => simp [csrWord, h]
  case wgid => simp only [csrWord, BitVec.toNat_ofNat]; omega
  case frame =>
    simp only [csrWord, hv, Option.isSome_some, if_true]
    exact vaWord_join _
  case noframe => simp [csrWord, h, vaWord]

/-- Settles O34, by evaluation of the reset state. -/
theorem resetLeavesThePackageIdle : Obligations.ResetLeavesThePackageIdle := by
  refine ⟨rfl, rfl, rfl, rfl, rfl, rfl, rfl, rfl, rfl, rfl, rfl, rfl, rfl, rfl, rfl, rfl, by decide, fun p hp => ?_, rfl,
    fun _ => rfl⟩
  refine ⟨Port.reset, assocGet_const _ (List.mem_range.2 hp), rfl, rfl, rfl, rfl, rfl, ?_⟩
  decide

end Sys2Proof.Machine
end

section
/-!
SUPPORT. Little-endian numbers in memory, bits of small masks, the ring of bridges.
-/

namespace Sys2Proof.Machine

theorem leNat_natLe (n v : Nat) : leNat (natLe n v) = v % 256 ^ n := by
  induction n generalizing v with
  | zero => simp [natLe, leNat, Nat.mod_one]
  | succ n ih =>
    simp only [natLe, leNat, ih, BitVec.toNat_ofNat]
    rw [show 256 ^ (n + 1) = 256 * 256 ^ n from pow_succ' _ _, Nat.mod_mul]

theorem memNat_memPut {m : List Host.Cell} (a n v : Nat) (h : Memory.wf m = true) :
    memNat (memPut m a n v) a n = v % 256 ^ n := by
  have hl : memReadN (memPut m a n v) a n = natLe n v := by
    have := memReadN_writeN a (natLe n v) h
    rwa [natLe_length] at this
  rw [memNat, hl, leNat_natLe]

/-- Host and peer memory reads as before, and package memory as zero (assumption 5). -/
theorem memRead_outerMem (m : List Host.Cell) (a : Nat) :
    memRead (outerMem m) a = if paRegion a = 0 then 0 else memRead m a := by
  have := assocGet_filterKey m (fun k => decide (paRegion k ≠ 0)) a
  unfold memRead outerMem
  rw [this]
  by_cases h : paRegion a = 0 <;> simp [h]

theorem bitOne_get {n : Nat} (d e : Nat) (he : e < n) : ((1 : BitVec n) <<< d).getLsbD e = decide (e = d) := by
  rw [BitVec.getLsbD_shiftLeft]
  by_cases h : e < d
  · simp [h, show e ≠ d by omega]
  · by_cases h2 : e = d
    · subst h2; simpa using ⟨he, Nat.zero_lt_of_lt he⟩
    · simp [he, h, h2, show e - d ≠ 0 by omega]

theorem bitFold_get {n : Nat} (ds : List Nat) (m : BitVec n) (e : Nat) (he : e < n) :
    (ds.foldl (fun m d => m ||| (1 : BitVec n) <<< d) m).getLsbD e = (m.getLsbD e || decide (e ∈ ds)) := by
  induction ds generalizing m with
  | nil => simp
  | cons d r ih =>
    rw [List.foldl_cons, ih, BitVec.getLsbD_or, bitOne_get d e he]
    by_cases h1 : e = d <;> by_cases h2 : e ∈ r <;> simp [h1, h2]

theorem ringDie_ringPos : ∀ d < 18, ringPos d < 18 ∧ ringDie (ringPos d) = d := by decide

theorem ringDie_next : ∀ a < 18, ∀ b < 18, ringPos b = (ringPos a + 1) % 18 → ringDie (ringPos a + 1) = b := by decide

theorem commonRev_isSome (a b : Nat × Nat) :
    (commonRev a b).isSome = true ↔ max (a.1 % 256) (b.1 % 256) ≤ min (a.2 % 256) (b.2 % 256) := by
  unfold commonRev
  dsimp only
  split <;> simp_all

theorem commonRev_eq {a b : Nat × Nat} {r : Nat} (h : commonRev a b = some r) : r = min (a.2 % 256) (b.2 % 256) := by
  unfold commonRev at h
  dsimp only at h
  split at h <;> simp_all

end Sys2Proof.Machine
end

section
/-!
SUPPORT. The package halts (01 R28; 12 R308): every context's status says why, and the hub keeps the rest.
-/

namespace Sys2Proof.Machine

/-- One context halts with error code `cerr`. -/
def haltContext (cerr : Nat) (t : State) (x : Nat) : State :=
  writeCsb (modCtx t x fun c => { c with cstate := 4, cerr := cerr, nerr := satNerr c.nerr }) x

/-- The context's status says that the package halted with error code `cerr`. -/
def HaltedWith (cerr : Nat) (c : Context) : Prop := c.cstate = 4 ∧ c.cerr = cerr

theorem haltContext_hub (cerr : Nat) (t : State) (x : Nat) : HubWork t.hub (haltContext cerr t x).hub :=
  (writeCsb_work _ x).hub

/-- The context named halts, and no context's halt is undone. -/
theorem haltContext_ctx {cerr : Nat} {t : State} {x y : Nat} {c : Context} (h : assocGet t.ctxs y = some c) :
    ∃ c', assocGet (haltContext cerr t x).ctxs y = some c' ∧ (y = x ∨ HaltedWith cerr c → HaltedWith cerr c') := by
  by_cases hy : y = x
  · subst hy
    obtain ⟨c', hc', he⟩ := (writeCsb_work (modCtx t y fun c =>
      { c with cstate := 4, cerr := cerr, nerr := satNerr c.nerr }) y).ctx y _ (by simp [assocGet_mod_same, h]; rfl)
    exact ⟨c', hc', fun _ => by rw [he]; exact ⟨rfl, rfl⟩⟩
  · obtain ⟨c', hc', he⟩ := (writeCsb_work (modCtx t x fun c =>
      { c with cstate := 4, cerr := cerr, nerr := satNerr c.nerr }) x).ctx y c (by simp [hy, h])
    refine ⟨c', hc', fun hor => ?_⟩
    have : HaltedWith cerr c := hor.resolve_left hy
    rw [he]
    exact this

theorem haltFold_hub (cerr : Nat) (l : List (Nat × Context)) (t : State) :
    HubWork t.hub (l.foldl (fun t c => haltContext cerr t c.1) t).hub := by
  induction l generalizing t with
  | nil => rfl
  | cons e r ih => exact (haltContext_hub cerr t e.1).trans (ih _)

theorem haltFold_ctx {cerr : Nat} (l : List (Nat × Context)) {t : State} {y : Nat} {c : Context}
    (h : assocGet t.ctxs y = some c) :
    ∃ c', assocGet (l.foldl (fun t c => haltContext cerr t c.1) t).ctxs y = some c' ∧
      (y ∈ l.map (·.1) ∨ HaltedWith cerr c → HaltedWith cerr c') := by
  induction l generalizing t c with
  | nil => exact ⟨c, h, fun hor => hor.resolve_left (by simp)⟩
  | cons e r ih =>
    obtain ⟨c1, h1, e1⟩ := haltContext_ctx (cerr := cerr) (x := e.1) h
    obtain ⟨c2, h2, e2⟩ := ih h1
    refine ⟨c2, h2, fun hor => e2 ?_⟩
    simp only [List.map_cons, List.mem_cons] at hor
    rcases hor with (hy | hy) | hc
    · exact .inr (e1 (.inl hy))
    · exact .inl hy
    · exact .inr (e1 (.inr hc))

theorem haltPackage_hub (s : State) (cerr : Nat) : HubWork { s.hub with halted := true } (haltPackage s cerr).hub := by
  have h : HubWork { s.hub with halted := true } (s.ctxs.foldl (fun t c => haltContext cerr t c.1)
    (modHub s fun h => { h with halted := true })).hub := haltFold_hub cerr s.ctxs (modHub s fun h => { h with halted := true })
  exact h.trans rfl

theorem haltPackage_online (s : State) (cerr d : Nat) : dieOnline (haltPackage s cerr).hub d = dieOnline s.hub d := by
  unfold dieOnline
  rw [haltPackage_hub s cerr]

/-- The package is halted, and every context's status says so. -/
theorem haltPackage_halts (s : State) (cerr : Nat) :
    (haltPackage s cerr).hub.halted = true ∧ ∀ x c, assocGet s.ctxs x = some c →
      ∃ c', assocGet (haltPackage s cerr).ctxs x = some c' ∧ c'.cstate = 4 ∧ c'.cerr = cerr := by
  refine ⟨by rw [haltPackage_hub s cerr], fun x c hc => ?_⟩
  obtain ⟨c', hc', he⟩ := haltFold_ctx (cerr := cerr) s.ctxs (t := modHub s fun h => { h with halted := true }) hc
  exact ⟨c', hc', he (.inl (List.mem_map.2 ⟨(x, c), mem_of_assocGet hc, rfl⟩))⟩

/-- A lost die is offline, and the others are as before. -/
theorem dieOnline_without (h : Hub) (d e : Nat) :
    dieOnline { h with online := h.online &&& ~~~((1 : BitVec 19) <<< d) } e = (dieOnline h e && decide (e ≠ d)) := by
  unfold dieOnline
  by_cases he : e < 19
  · rw [BitVec.getLsbD_and, BitVec.getLsbD_not, bitOne_get d e he]
    by_cases hd : e = d <;> simp [he, hd]
  · simp [he]

/-- A die lost halts the package with error code 5 and is offline alone (12 R308). -/
theorem loseDie_spec {s : State} {d : Nat} (h18 : d < 18) (hon : dieOnline s.hub d = true) :
    ∃ t, loseDie s d = some t ∧ (t.hub.halted = true ∧ ∀ x c, assocGet s.ctxs x = some c →
      ∃ c', assocGet t.ctxs x = some c' ∧ c'.cstate = 4 ∧ c'.cerr = 5) ∧
      ∀ e, dieOnline t.hub e = (dieOnline s.hub e && decide (e ≠ d)) := by
  have hs : loseDie s d = some (haltPackage (modHub s fun h => { h with online := h.online &&& ~~~((1 : BitVec 19) <<< d) }) 5) := by
    simp only [loseDie, hon, h18, decide_true, Bool.and_self, if_true]
  refine ⟨_, hs, haltPackage_halts _ 5, fun e => ?_⟩
  rw [haltPackage_online]
  exact dieOnline_without s.hub d e

end Sys2Proof.Machine
end

section
/-!
SUPPORT. Bring-up (12 R307 to R309): the dies, ports and bridges that trained.
-/

namespace Sys2Proof.Machine

/-- The revision on which die `d` and the hub agree, where the die passed its self-test. -/
def hubRev (dies : BitVec 18) (revs : List (Nat × Nat)) (d : Nat) : Option Nat :=
  if dies.getLsbD d then commonRev (revs.getD d (0, 0)) (revs.getD 18 (0, 0)) else none

/-- The bridge between the dies at places `i` and `i` + 1 of the ring has a revision. -/
def bridgeUp (dies : BitVec 18) (revs : List (Nat × Nat)) (i : Nat) : Bool :=
  dies.getLsbD (ringDie i) && dies.getLsbD (ringDie (i + 1)) &&
    (commonRev (revs.getD (ringDie i) (0, 0)) (revs.getD (ringDie (i + 1)) (0, 0))).isSome

/-- The hub after the bring-up, but for the command that asked for it. -/
def broughtUp (h : Hub) (dies ports : BitVec 18) (revs : List (Nat × Nat)) : Hub :=
  let up := (List.range 18).filter fun d => (hubRev dies revs d).isSome
  { h with online := (1 : BitVec 1) ++ (up.foldl (fun m d => m ||| (1 : BitVec 18) <<< d) 0 : BitVec 18), endpointUp := true,
           bootCmd := none,
           revs := (List.range 19).map fun d =>
             if d = 18 then (up.filterMap (hubRev dies revs)).foldl min 255 else (hubRev dies revs d).getD 0,
           bridgesDown := (List.range 18).filter fun i => !bridgeUp dies revs i,
           ports := h.ports.map fun p => (p.1, { p.2 with up := ports.getLsbD p.1 }) }

theorem bringUp_plain {s : State} (dies ports : BitVec 18) (revs : List (Nat × Nat)) (h : s.hub.endpointUp = false)
    (hb : s.hub.bootCmd = none) : bringUp s dies ports revs = some { s with hub := broughtUp s.hub dies ports revs } := by
  unfold bringUp
  simp only [h, hb, Bool.false_eq_true, if_false]
  rfl

theorem bringUp_boot {s : State} (dies ports : BitVec 18) (revs : List (Nat × Nat)) {pa : Nat} (h : s.hub.endpointUp = false)
    (hb : s.hub.bootCmd = some pa) : bringUp s dies ports revs =
      some (blockDone { s with hub := broughtUp s.hub dies ports revs } 16 pa 0 0 []) := by
  unfold bringUp
  simp only [h, hb, Bool.false_eq_true, if_false]
  rfl

section
variable (h : Hub) (dies ports : BitVec 18) (revs : List (Nat × Nat))

theorem broughtUp_hubDie : dieOnline (broughtUp h dies ports revs) 18 = true := by
  simp only [dieOnline, broughtUp, BitVec.getLsbD_append]
  rfl

theorem hubRev_isSome (d : Nat) : (hubRev dies revs d).isSome = true ↔
    dies.getLsbD d = true ∧ max ((revs.getD d (0, 0)).1 % 256) ((revs.getD 18 (0, 0)).1 % 256) ≤
      min ((revs.getD d (0, 0)).2 % 256) ((revs.getD 18 (0, 0)).2 % 256) := by
  unfold hubRev
  by_cases hd : dies.getLsbD d = true
  · rw [if_pos hd, commonRev_isSome]; exact (and_iff_right hd).symm
  · rw [if_neg hd]; simp [hd]

theorem broughtUp_online {d : Nat} (hd : d < 18) :
    dieOnline (broughtUp h dies ports revs) d = (hubRev dies revs d).isSome := by
  unfold dieOnline broughtUp
  simp only [BitVec.getLsbD_append, hd, decide_true, if_true, show d < 19 by omega, Bool.true_and]
  rw [bitFold_get _ _ _ hd]
  cases hr : (hubRev dies revs d).isSome <;> simp [hd, hr]

theorem broughtUp_rev {d : Nat} (hd : d < 18) (hr : (hubRev dies revs d).isSome = true) :
    (broughtUp h dies ports revs).revs[d]? =
      some (min ((revs.getD d (0, 0)).2 % 256) ((revs.getD 18 (0, 0)).2 % 256)) := by
  obtain ⟨r, hr'⟩ := Option.isSome_iff_exists.1 hr
  have hc := hr'
  unfold hubRev at hc
  split at hc
  · rw [← commonRev_eq hc]
    simp [broughtUp, show d < 19 by omega, show d ≠ 18 by omega, hr']
  · simp at hc

theorem broughtUp_die {d : Nat} (hd : d < 18) :
    (dieOnline (broughtUp h dies ports revs) d = true ↔ dies.getLsbD d = true ∧
      max ((revs.getD d (0, 0)).1 % 256) ((revs.getD 18 (0, 0)).1 % 256) ≤
        min ((revs.getD d (0, 0)).2 % 256) ((revs.getD 18 (0, 0)).2 % 256)) ∧
    (dieOnline (broughtUp h dies ports revs) d = true → (broughtUp h dies ports revs).revs[d]? =
      some (min ((revs.getD d (0, 0)).2 % 256) ((revs.getD 18 (0, 0)).2 % 256))) := by
  rw [broughtUp_online h dies ports revs hd]
  exact ⟨hubRev_isSome dies revs d, broughtUp_rev h dies ports revs hd⟩

theorem broughtUp_bridge {a b : Nat} (ha : a < 18) (hb : b < 18) (hab : ringPos b = (ringPos a + 1) % 18) :
    ringPos a ∈ (broughtUp h dies ports revs).bridgesDown ↔ ¬(dies.getLsbD a = true ∧ dies.getLsbD b = true ∧
      max ((revs.getD a (0, 0)).1 % 256) ((revs.getD b (0, 0)).1 % 256) ≤
        min ((revs.getD a (0, 0)).2 % 256) ((revs.getD b (0, 0)).2 % 256)) := by
  obtain ⟨hp, hd⟩ := ringDie_ringPos a ha
  have hn := ringDie_next a ha b hb hab
  have hm : ringPos a ∈ (broughtUp h dies ports revs).bridgesDown ↔ bridgeUp dies revs (ringPos a) = false := by
    simp [broughtUp, hp]
  rw [hm, ← commonRev_isSome, ← Bool.not_eq_true]
  unfold bridgeUp
  rw [hd, hn]
  simp only [Bool.and_eq_true, and_assoc]

theorem broughtUp_port {p : Nat} {r : Port} (hp : assocGet h.ports p = some r) :
    (assocGet (broughtUp h dies ports revs).ports p).map (·.up) = some (ports.getLsbD p) := by
  have := assocGet_mapVal h.ports (fun p (r : Port) => { r with up := ports.getLsbD p }) p
  rw [hp] at this
  exact congrArg (Option.map (·.up)) this

end

end Sys2Proof.Machine
end

section
/-!
The settled statement on power and bring-up.
-/

namespace Sys2Proof.Machine

/-- The clock of the next power window (01 R26, R27). -/
theorem powerStep_eq (h : Hub) (w : Nat) : powerStep h w =
    { h with clockMHz := if h.powerLimit < w then max 1000 (h.clockMHz - 100)
      else if w * 100 < h.powerLimit * 95 then min 2100 (h.clockMHz + 100) else h.clockMHz } := by
  unfold powerStep
  split
  · rfl
  · split <;> rfl

/-- An event that the state enables is performed. -/
theorem completes_evStep {i : Instr} {s t : State} {o : Option State} {P : State → Prop} (he : exec i s = evStep s o)
    (ho : o = some t) (hp : P (bumpFree t)) : Completes i s P :=
  ⟨bumpFree t, by rw [he, ho]; rfl, hp⟩

theorem bridgeFails_ring {s : State} {a b : Nat} (ha : a < 18) (hb : b < 18) (hd : ringDist a b = 1)
    (hn : s.hub.bridgesDown = []) : ∃ r, (r = ringPos a ∨ r = ringPos b) ∧
      bridgeFails s a b = some { s with hub := { s.hub with bridgesDown := [r] } } := by
  refine ⟨if (ringPos a + 1) % 18 = ringPos b then ringPos a else ringPos b, by split <;> simp, ?_⟩
  unfold bridgeFails
  rw [if_pos ⟨ha, hb, hd⟩]
  simp only [modHub, hn]
  rfl

/-- What the statement says of a package that POWER_ON has brought up. -/
theorem powerOn_completes {s : State} (dies ports : BitVec 18) (revs : List (Nat × Nat)) {P : State → Prop}
    (hdown : s.hub.endpointUp = false)
    (hplain : s.hub.bootCmd = none → P (bumpFree { s with hub := broughtUp s.hub dies ports revs }))
    (hboot : ∀ pa, s.hub.bootCmd = some pa →
      P (bumpFree (blockDone { s with hub := broughtUp s.hub dies ports revs } 16 pa 0 0 []))) :
    Completes (.powerOn dies ports revs) s P := by
  cases hb : s.hub.bootCmd with
  | none => exact completes_evStep rfl (bringUp_plain dies ports revs hdown hb) (hplain hb)
  | some pa => exact completes_evStep rfl (bringUp_boot dies ports revs hdown hb) (hboot pa hb)

/-- Settles O54, event by event; a halt reaches every context by induction over those that stand. -/
theorem powerAndBringUp : Obligations.PowerAndBringUp := by
  intro s halts
  refine ⟨fun w => ?window, fun d hon hh => ?thermal, fun d h18 hon => ?die, fun d h18 hon => ?hubBridge,
    fun a b ha hb hd hn => ?ring, fun hwf => ?removed, fun dies ports revs hdown hwf => ?on, ?config⟩
  case window => exact ⟨_, rfl, rfl, powerStep_eq s.hub w⟩
  case thermal =>
    have ht : thermal s d = some (haltPackage s 4) := by simp [thermal, hon, hh]
    exact completes_evStep rfl ht (haltPackage_halts s 4)
  case die =>
    obtain ⟨t, ht, hhalt, hoff⟩ := loseDie_spec h18 hon
    exact completes_evStep rfl ht ⟨hhalt, (hoff d).trans (by simp), fun e he => (hoff e).trans (by simp [he])⟩
  case hubBridge =>
    obtain ⟨t, ht, hhalt, hoff⟩ := loseDie_spec h18 hon
    have hb : bridgeFails s d 18 = some t := by rw [← ht]; simp [bridgeFails]
    exact completes_evStep rfl hb ⟨hhalt, (hoff d).trans (by simp)⟩
  case ring =>
    obtain ⟨r, hr, hf⟩ := bridgeFails_ring ha hb hd hn
    exact completes_evStep rfl hf ⟨r, rfl, hr⟩
  case removed =>
    exact ⟨_, rfl, rfl, rfl, rfl, rfl, rfl, rfl, memRead_outerMem s.mem⟩
  case on =>
    have hdies := fun d hd => broughtUp_die s.hub dies ports revs (d := d) hd
    have hbridges := fun a b ha hb hab => broughtUp_bridge s.hub dies ports revs (a := a) (b := b) ha hb hab
    have hports := fun p r hp => broughtUp_port s.hub dies ports revs (p := p) (r := r) hp
    refine powerOn_completes dies ports revs hdown (fun hb => ?_) (fun pa hb => ?_)
    · exact ⟨rfl, broughtUp_hubDie s.hub dies ports revs, hdies, hbridges, hports, fun pa hpa => by simp [hb] at hpa⟩
    · refine ⟨rfl, broughtUp_hubDie s.hub dies ports revs, hdies, hbridges, hports, fun pa' hpa => ?_⟩
      obtain rfl : pa = pa' := by simpa [hb] using hpa
      exact ⟨memNat_memPut (pa + 4) 4 0 hwf, rfl⟩
  case config =>
    refine ⟨_, rfl, rfl, ?_⟩
    show (if s.hub.endpointUp then _ else _ : Hub) = _
    split <;> rfl

end Sys2Proof.Machine
end

section
/-!
SUPPORT. Operations that leave the mailboxes' pending commands and the canonical form of memory: what the failure of
requests to peers, and a port going down, may do (12 R301, R303, R304).
-/

namespace Sys2Proof.Machine

/-- The pending commands stand as they were, and memory stays canonical. -/
structure KeepsCommands (s t : State) : Prop where
  cmds : t.hub.cmds = s.hub.cmds
  wf : Memory.wf s.mem = true → Memory.wf t.mem = true

namespace KeepsCommands

theorem refl (s : State) : KeepsCommands s s := ⟨rfl, id⟩

theorem trans {s t r : State} (h : KeepsCommands s t) (h' : KeepsCommands t r) : KeepsCommands s r :=
  ⟨h'.cmds.trans h.cmds, h'.wf ∘ h.wf⟩

/-- Neither pending commands nor memory differ. -/
theorem of_same {s t : State} (hc : t.hub.cmds = s.hub.cmds) (hm : t.mem = s.mem) : KeepsCommands s t :=
  ⟨hc, fun h => by rwa [hm]⟩

/-- What follows without touching pending commands or memory. -/
theorem after {s t r : State} (h : KeepsCommands s t) (hc : r.hub.cmds = t.hub.cmds) (hm : r.mem = t.mem) :
    KeepsCommands s r := h.trans (of_same hc hm)

theorem of_work {s t : State} (h : DeviceWork s t) : KeepsCommands s t := ⟨by rw [h.hub], h.wf⟩

theorem foldl {α : Type} {f : State → α → State} (hf : ∀ t a, KeepsCommands t (f t a)) (l : List α) {s t : State}
    (h : KeepsCommands s t) : KeepsCommands s (l.foldl f t) := by
  induction l generalizing t with
  | nil => exact h
  | cons a r ih => exact ih (h.trans (hf t a))

theorem foldl_fst {α β : Type} {f : State × β → α → State × β} (hf : ∀ r a, KeepsCommands r.1 (f r a).1) (l : List α)
    (r : State × β) : KeepsCommands r.1 (l.foldl f r).1 := by
  induction l generalizing r with
  | nil => exact refl r.1
  | cons a l ih => exact (hf r a).trans (ih _)

end KeepsCommands

/-! Updates of waves, contexts, workgroups, banks and cores. -/

section
variable {s t : State} (h : KeepsCommands s t)
include h

theorem modWave_keeps (u : Nat) (f : Wave → Wave) : KeepsCommands s (modWave t u f) := h.after rfl rfl
theorem setWave_keeps (u : Nat) (w : Wave) : KeepsCommands s (setWave t u w) := h.after rfl rfl
theorem modCtx_keeps (x : Nat) (f : Context → Context) : KeepsCommands s (modCtx t x f) := h.after rfl rfl
theorem modWg_keeps (g k : Nat) (f : Wg → Wg) : KeepsCommands s (modWg t g k f) := h.after rfl rfl
theorem modBank_keeps (b : Nat) (f : Bank → Bank) : KeepsCommands s (modBank t b f) := h.after rfl rfl
theorem modCore_keeps (p : Nat) (f : Core → Core) : KeepsCommands s (modCore t p f) := h.after rfl rfl

end

/-! Faults of a context. -/

theorem qcbPut_work (s : State) (x : Nat) (qcb : VA) (fs : List (Nat × Nat × Nat)) : DeviceWork s (qcbPut s x qcb fs).1 := by
  refine DeviceWork.foldl_fst (fun r f => ?_) fs (s, none)
  split
  · rename_i h; exact devWrite_work _ h
  · exact .refl _

theorem stopOne_keeps (s : State) (x q st errc : Nat) (eseq : Word) : KeepsCommands s (stopOne s x q st errc eseq).1 := by
  unfold stopOne
  split
  · exact .refl s
  · split
    · exact .refl s
    · exact (KeepsCommands.of_work (qcbPut_work _ _ _ _)).trans (.of_same rfl rfl)

theorem stopAllQueues_keeps (s : State) (x : Nat) : KeepsCommands s (stopAllQueues s x) := by
  unfold stopAllQueues
  split
  · exact .refl s
  · exact .foldl (fun t k => stopOne_keeps _ _ _ _ _ _) _ (.refl s)

theorem contextFault_keeps (s : State) (x : Nat) (e : Cause) : KeepsCommands s (contextFault s x e) :=
  ((stopAllQueues_keeps s x).after (r := modCtx (withdraw (stopAllQueues s x) x) x fun c =>
    { c with cstate := 3, cerr := 3, nerr := satNerr c.nerr, cause := e.code, saving := true }) rfl rfl).trans
      (.of_work (writeCsb_work _ x))

theorem walkFault_keeps (s : State) (x : Nat) (e : Cause) (va : VA) : KeepsCommands s (walkFault s x e va) := by
  unfold walkFault
  split
  · split
    · exact contextFault_keeps _ _ _
    · exact .refl s
  · exact .refl s

theorem walked_keeps (st : LaneSt) (s : State) (x : Nat) : KeepsCommands s (st.walked s x) := by
  unfold LaneSt.walked
  split
  · exact walkFault_keeps _ _ _ _
  · exact .refl s

theorem setLane_keeps (s : State) (u seq l : Nat) (st : LaneSt) : KeepsCommands s (setLane s u seq l st) := by
  unfold setLane
  split
  · exact (walked_keeps st s _).after rfl rfl
  · exact .of_same rfl rfl

/-! Writes of locations. -/

theorem writeLoc_keeps (s : State) (l : Loc) (bs : List Byte) : KeepsCommands s (writeLoc s l bs) := by
  cases l with
  | phys pa leaf => exact .of_work (physPut_work s pa bs)
  | share g k off => exact .of_same rfl rfl

theorem lose_keeps (l : Loc) (n : Nat) (s : State) : KeepsCommands s (l.lose n s) := by
  cases l <;> exact .of_same rfl rfl

theorem touched_keeps (l : Loc) (wr : Bool) (s : State) : KeepsCommands s (l.touched wr s) := by
  cases l with
  | phys pa leaf =>
    show KeepsCommands s (touch s leaf wr)
    unfold touch
    split
    · exact .of_work (leafTouch_work _ _ _)
    · exact .refl s
  | share g k off => exact .refl s

theorem refresh_keeps (l : Loc) (p : Nat) (s : State) : KeepsCommands s (l.refresh p s) := by
  cases l with
  | phys pa leaf =>
    show KeepsCommands s (if cacheable pa then dropLine s p pa else s)
    split <;> exact .of_same rfl rfl
  | share g k off => exact .refl s

theorem wordPut_keeps (s : State) (l : Loc) (v : Nat) : KeepsCommands s (wordPut s l v) := by
  cases l with
  | phys pa leaf => exact ⟨rfl, memWriteN_wf pa _⟩
  | share g k off => exact .of_same rfl rfl

theorem lineRead_keeps (s : State) (p pa n : Nat) : KeepsCommands s (lineRead s p pa n).1 := by
  unfold lineRead
  dsimp only
  split
  · split <;> exact .of_same rfl rfl
  · exact .of_same rfl rfl

theorem lineWrite_keeps (s : State) (p pa : Nat) (bs : List Byte) : KeepsCommands s (lineWrite s p pa bs) := by
  unfold lineWrite
  split <;> exact .of_same rfl rfl

theorem coreRead_keeps (s : State) (p : Nat) (l : Loc) (n : Nat) : KeepsCommands s (coreRead s p l n).1 := by
  unfold coreRead
  split
  · split
    · refine KeepsCommands.foldl_fst (fun r v => ?_) _ (s, [])
      exact lineRead_keeps _ _ _ _
    · exact .refl s
  · exact .refl s

theorem coreWrite_keeps (s : State) (p : Nat) (l : Loc) (bs : List Byte) : KeepsCommands s (coreWrite s p l bs) := by
  have h := writeLoc_keeps s l bs
  unfold coreWrite
  split
  · split
    · exact .foldl (fun t v => lineWrite_keeps _ _ _ _) _ h
    · exact h
  · exact h

theorem engGet_keeps (s : State) (p : Option Nat) (l : Loc) (n : Nat) : KeepsCommands s (engGet s p l n).1 := by
  cases p with
  | none => exact .refl s
  | some p => exact coreRead_keeps s p l n

/-! Engines' operations cut short. -/

theorem readRec_keeps {s t : State} {p : Option Nat} {c : Context} {bad : Bool} {va : VA} {r : TRec}
    (h : readRec s p c bad va = .ok (t, r)) : KeepsCommands s t := by
  unfold readRec at h
  split at h
  · simp at h
  · split at h
    · simp at h
    · split at h
      · simp at h
      · dsimp only at h
        split at h
        · obtain ⟨rfl, -⟩ : (engGet _ p _ 64).1 = t ∧ _ := by simpa using h
          exact (touched_keeps _ _ _).trans (engGet_keeps _ _ _ _)
        · simp at h

theorem copySides_keeps {s t : State} {w : Wave} {c : Context} {args : List Nat} {a b : Side}
    (h : copySides s w c args = .ok (t, a, b)) : KeepsCommands s t := by
  unfold copySides at h
  dsimp only at h
  split at h
  · split at h
    · simp at h
    · rename_i s1 r h1
      split at h
      · simp at h
      · rename_i s2 q h2
        split at h
        · obtain ⟨rfl, -⟩ : s2 = t ∧ _ := by simpa using h
          exact (readRec_keeps h1).trans (readRec_keeps h2)
        · simp at h
  case h_5 => simp at h
  all_goals
    split at h
    · simp at h
    · rename_i s1 r h1
      split at h
      · simp at h
      · obtain ⟨rfl, -⟩ : s1 = t ∧ _ := by simpa using h
        exact readRec_keeps h1

theorem movePieces_keeps (p : Nat) (c : Context) (src dst : Side) (all todo : List Nat) (s : State) :
    KeepsCommands s (movePieces p c src dst all todo s).1 := by
  unfold movePieces
  refine KeepsCommands.foldl_fst (fun r i => ?_) todo (s, [], none)
  obtain ⟨t, left, err⟩ := r
  dsimp only
  split
  · split
    · exact (touched_keeps _ _ _).trans (coreRead_keeps _ _ _ _)
    · exact ((touched_keeps _ _ _).trans (coreRead_keeps _ _ _ _)).trans
        ((coreWrite_keeps _ _ _ _).trans (touched_keeps _ _ _))
  · exact .refl _
  · exact .refl _

theorem storePieces_keeps (p : Nat) (c : Context) (r : TRec) (img : Image) (all todo : List Nat) (s : State) :
    KeepsCommands s (storePieces p c r img all todo s).1 := by
  unfold storePieces
  refine KeepsCommands.foldl_fst (fun r i => ?_) todo (s, [], none)
  obtain ⟨t, left, err⟩ := r
  dsimp only
  split
  · split
    · exact .refl _
    · exact (coreWrite_keeps _ _ _ _).trans (touched_keeps _ _ _)
  · exact .refl _

theorem copyCut_keeps (s : State) (u : Nat) (w : Wave) (e : Entry) (c : Context) (l : Nat) (args : List Nat) (x : Cause)
    (a : VA) : KeepsCommands s (copyCut s u w e c l args x a) := by
  unfold copyCut
  dsimp only
  split
  · split
    · rename_i h _
      refine .trans (modWave_keeps ?_ u _) (setLane_keeps _ _ _ _ _)
      exact (readRec_keeps h).trans (storePieces_keeps _ _ _ _ _ _ _)
    · exact setLane_keeps _ _ _ _ _
  · split
    · refine KeepsCommands.trans (.foldl (fun t i => ?_) _ (.refl s)) (setLane_keeps _ _ _ _ _)
      split
      · split
        · exact lose_keeps _ _ _
        · exact .refl t
      · exact .refl t
    · exact setLane_keeps _ _ _ _ _
  · split
    · rename_i h
      refine .trans (modWave_keeps ?_ u _) (setLane_keeps _ _ _ _ _)
      exact (copySides_keeps h).trans (movePieces_keeps _ _ _ _ _ _ _)
    · exact setLane_keeps _ _ _ _ _

theorem joinUp_keeps {s t : State} {p : Nat} {c : Context} {j : Option (Bool × VA)} {o : Option Nat}
    (h : joinUp s p c j = .ok (t, o)) : KeepsCommands s t := by
  unfold joinUp at h
  split at h
  · obtain ⟨rfl, -⟩ : s = t ∧ _ := by simpa using h
    exact .refl s
  · split at h
    · simp at h
    · dsimp only at h
      split at h
      · obtain ⟨rfl, -⟩ : s = t ∧ _ := by simpa using h
        exact .refl s
      · split at h
        · obtain ⟨rfl, -⟩ : s = t ∧ _ := by simpa using h
          exact .refl s
        · obtain ⟨rfl, -⟩ : Loc.touched _ true (Loc.refresh _ p (wordPut s _ _)) = t ∧ _ := by simpa using h
          exact ((wordPut_keeps _ _ _).trans (refresh_keeps _ _ _)).trans (touched_keeps _ _ _)

theorem engLose_keeps (s : State) (c : Context) (r : Nat × Nat) : KeepsCommands s (engLose s c r) := by
  unfold engLose
  refine .foldl (fun t i => ?_) _ (.refl s)
  dsimp only
  split
  · exact lose_keeps _ _ _
  · exact .refl t

theorem loseClash_keeps (q : Query) (x : Nat) (c : Context) (s : State) : KeepsCommands s (q.loseClash x c s) := by
  unfold Query.loseClash
  refine .foldl (fun t r => engLose_keeps t c r) _ ?_
  split
  · exact .refl s
  · exact .of_same rfl rfl

theorem rayFault_keeps (s : State) (u : Nat) (e : Entry) (l : Nat) (q : Query) (x : AccErr) :
    KeepsCommands s (rayFault s u e l q x) := by
  have h : KeepsCommands s (clashLost s u q) := by
    unfold clashLost
    split
    · split
      · exact loseClash_keeps _ _ _ _
      · exact .refl s
    · exact .refl s
  exact (modWave_keeps h u _).trans (setLane_keeps _ _ _ _ _)

/-! The end of a wave, and traps. -/

theorem discardOp_keeps (s : State) (w : Wave) (e : Entry) : KeepsCommands s (discardOp s w e) := by
  unfold discardOp
  split
  · unfold fillUnwritten
    split
    · exact .refl s
    · exact .foldl (fun t x => modWg_keeps (.refl t) _ _ _) _ (modBank_keeps (.refl s) _ _)
  all_goals exact .of_same rfl rfl

theorem discardFaults_keeps (s : State) (u : Nat) : KeepsCommands s (discardFaults s u) := by
  unfold discardFaults
  split
  · exact .refl s
  · exact .foldl (fun t e => discardOp_keeps t _ e) _ (.of_same rfl rfl)

theorem checkPhase_keeps (s : State) (g k : Nat) (cluster : Bool) (id u clk : Nat) :
    KeepsCommands s (checkPhase s g k cluster id u clk) := by
  unfold checkPhase
  dsimp only
  split
  · cases cluster <;> exact .of_same rfl rfl
  · exact .refl s

theorem checkPhases_keeps (s : State) (u : Nat) (w : Wave) (clk : Nat) : KeepsCommands s (checkPhases s u w clk) := by
  unfold checkPhases
  split
  · exact .refl s
  · exact .foldl (fun t id => checkPhase_keeps _ _ _ _ _ _ _) _
      (.foldl (fun t id => checkPhase_keeps _ _ _ _ _ _ _) _ (.refl s))

theorem semAcquire_keeps (s : State) (p g k off : Nat) : KeepsCommands s (semAcquire s p g k off) := by
  unfold semAcquire
  split <;> exact .of_same rfl rfl

theorem wakeOne_keeps (s : State) (g k off : Nat) (e : Nat × Nat × Nat × Nat) : KeepsCommands s (wakeOne s g k off e) := by
  unfold wakeOne
  dsimp only
  split
  · exact modWave_keeps ((wordPut_keeps s (.share g k off) _).trans (semAcquire_keeps _ _ _ _ _)) _ _
  · split <;> exact .of_same rfl rfl

theorem closeTriple_keeps (s : State) (w : Wave) : KeepsCommands s (closeTriple s w) := by
  unfold closeTriple
  split
  · exact .refl s
  · split
    · exact .refl s
    · split
      · exact .refl s
      · refine .foldl (fun t o => ?_) _ (.foldl (fun t o => modWg_keeps (.refl t) _ _ _) _ (modWg_keeps (.refl s) _ _ _))
        exact .foldl (fun t e => wakeOne_keeps _ _ _ _ _) _ (.refl t)

theorem retireQuads_keeps (s : State) (u : Nat) (qs : QuadMask) (own : Bool) : KeepsCommands s (retireQuads s u qs own) := by
  unfold retireQuads
  split
  · exact .refl s
  · rename_i w hw
    have h : ∀ w1 clk, KeepsCommands s (checkPhases (setWave s u w1) u w clk) := fun w1 clk =>
      (setWave_keeps (.refl s) u w1).trans (checkPhases_keeps _ _ _ _)
    dsimp only
    split
    · exact (h _ _).trans (closeTriple_keeps _ _)
    · exact h _ _

theorem killQuads_keeps (s : State) (u : Nat) : KeepsCommands s (killQuads s u) := by
  unfold killQuads
  split
  · exact .refl s
  · split
    · exact retireQuads_keeps _ _ _ _
    · exact .refl s

theorem endWave_keeps (s : State) (u : Nat) (cerr : Option Nat) : KeepsCommands s (endWave s u cerr) := by
  unfold endWave
  split
  · exact .refl s
  · rename_i w hw
    dsimp only
    have hf : KeepsCommands s (w.frags.foldl (fun t f => match f.park with
        | .mcast y q e => dropClaimed t w y q e.id
        | _ => t) (discardFaults s u)) := by
      refine .foldl (fun t f => ?_) _ (discardFaults_keeps s u)
      split
      · exact modBank_keeps (.refl t) _ _
      · exact .refl t
    have hk := fun f g k => (modWg_keeps (modCore_keeps (modWave_keeps hf u f) w.core g) w.grid w.wg k).trans (killQuads_keeps _ u)
    split
    · exact hk _ _ _
    · exact (modCtx_keeps (hk _ _ _) _ _).trans (.of_work (writeCsb_work _ _))

/-- Frames are stored in memory alone. -/
theorem storeFrame_keeps (s : State) (w : Wave) (pa : Nat) : KeepsCommands s (storeFrame s w pa) := by
  have put : ∀ t q bs, KeepsCommands t (physPut t q bs) := fun t q bs => .of_work (physPut_work t q bs)
  have h : KeepsCommands s (if holds30 w then (List.range 8).foldl
      (fun t i => physPut t (pa + 256 * i) (frameRow s w i)) s else s) := by
    split
    · exact .foldl (fun t i => put t _ _) _ (.refl s)
    · exact .refl s
  unfold storeFrame
  dsimp only
  split
  · exact .foldl (fun t i => put t _ _) _ h
  · exact h

theorem frameStore_keeps (s : State) (u : Nat) (w : Wave) : KeepsCommands s (frameStore s u w) := by
  unfold frameStore
  split
  · split
    · rename_i h
      exact modWave_keeps ((KeepsCommands.of_work (xlateService_work h)).trans (storeFrame_keeps _ _ _)) _ _
    · exact endWave_keeps _ _ _
  · exact .refl s

theorem storeDue_keeps (s : State) (u : Nat) : KeepsCommands s (storeDue s u) := by
  unfold storeDue
  split
  · exact .refl s
  · split
    · exact frameStore_keeps _ _ _
    · exact .refl s

theorem openWindow_keeps (s : State) (u q : Nat) (waited : Bool) (r : TrapRec) :
    KeepsCommands s (openWindow s u q waited r) := by
  unfold openWindow
  split
  · exact .refl s
  · split
    · exact (setWave_keeps (.refl s) _ _).trans (storeDue_keeps _ _)
    · exact .refl s

theorem holdTrap_keeps (s : State) (u q : Nat) (r : TrapRec) : KeepsCommands s (holdTrap s u q r) := .of_same rfl rfl

theorem takeTrap_keeps (s : State) (u q : Nat) (r : TrapRec) : KeepsCommands s (takeTrap s u q r) := by
  have met := fun f => modWave_keeps (.refl s) u f
  unfold takeTrap
  split
  · exact .refl s
  · split
    · split
      · exact endWave_keeps _ _ _
      · split
        · exact (met _).trans (openWindow_keeps _ _ _ _ _)
        · exact holdTrap_keeps _ _ _ _
    · split
      · exact .refl s
      · dsimp only
        split
        · exact holdTrap_keeps _ _ _ _
        · split
          · exact (met _).trans (endWave_keeps _ _ _)
          · split
            · exact (met _).trans (openWindow_keeps _ _ _ _ _)
            · exact modCore_keeps ((modWave_keeps (met _) u _).trans (holdTrap_keeps _ _ _ _)) _ _

theorem freshTrap_keeps (s : State) (u q : Nat) (r : TrapRec) : KeepsCommands s (freshTrap s u q r) :=
  (modWave_keeps (.refl s) u fun w => w.modFrag q fun f => { f with retry := false, closed := false }).trans
    (takeTrap_keeps _ u q r)

/-! Requests to peers that end, and ports that go down. -/

theorem peerEnds_keeps (s : State) (u : Nat) (w : Wave) (e : Entry) (c : Context) (l : Nat) (op : Op) (x : Cause) (a : VA) :
    KeepsCommands s (peerEnds s u w e c l op x a) := by
  unfold peerEnds
  split
  · exact rayFault_keeps _ _ _ _ _ _
  · exact copyCut_keeps _ _ _ _ _ _ _ _ _
  · refine KeepsCommands.trans ?_ (setLane_keeps _ _ _ _ _)
    split
    · split
      · exact writeLoc_keeps _ _ _
      · exact .refl s
    · split
      · split
        · exact writeLoc_keeps _ _ _
        · exact .refl s
      · exact .refl s
    · exact .refl s
  · refine KeepsCommands.trans ?_ (setLane_keeps _ _ _ _ _)
    split
    · rename_i h
      split
      · exact joinUp_keeps h
      · exact .refl s
    · exact .refl s
  · exact .refl s

theorem loseStream_keeps (s : State) (q : Nat) : KeepsCommands s (loseStream s q) := .of_same rfl rfl

theorem endRequest_keeps (s : State) (p u seq l : Nat) : KeepsCommands s (endRequest s p u seq l) := by
  unfold endRequest
  split
  · exact .refl s
  · split
    · dsimp only
      split
      · split
        · exact loseStream_keeps _ _
        · exact .refl s
      · split
        · exact peerEnds_keeps _ _ _ _ _ _ _ _ _
        · exact .refl s
      · split
        · exact loseStream_keeps _ _
        · exact .refl s
      · split
        · exact peerEnds_keeps _ _ _ _ _ _ _ _ _
        · exact .refl s
    · exact .refl s

theorem endPolls_keeps (s : State) (p u q : Nat) : KeepsCommands s (endPolls s p u q) := by
  unfold endPolls
  split
  · exact .refl s
  · split
    · exact .refl s
    · exact (modWave_keeps (.refl s) u _).trans (freshTrap_keeps _ u _ _)

theorem leavingFails_keeps (s : State) (u l x : Nat) (cause : Cause) : KeepsCommands s (leavingFails s u l x cause) :=
  (modWave_keeps (.refl s) u _).trans (contextFault_keeps _ x cause)

theorem endLeaving_keeps (s : State) (p : Nat) : KeepsCommands s (endLeaving s p) := by
  refine .foldl (fun t w => .foldl (fun t v => ?_) _ (.refl t)) _ (.refl s)
  split
  · exact leavingFails_keeps _ _ _ _ _
  · exact .refl t

theorem endRequests_keeps (s : State) (p : Nat) : KeepsCommands s (endRequests s p) := by
  have lanes : ∀ t (u : Nat) (e : Entry), KeepsCommands t (e.lanes.foldl (fun t l => endRequest t p u e.seq l.1) t) :=
    fun t u e => .foldl (fun t l => endRequest_keeps _ _ _ _ _) _ (.refl t)
  unfold endRequests
  refine KeepsCommands.trans ?_ (endLeaving_keeps _ p)
  have polls : ∀ t (w : Nat × Wave), KeepsCommands t ((List.range 16).foldl (fun t q => endPolls t p w.1 q) t) :=
    fun t w => .foldl (fun t q => endPolls_keeps _ _ _ _) _ (.refl t)
  refine .foldl polls _ ?_
  exact .foldl (fun t w => .foldl (fun t e => lanes t _ e) _ (.refl t)) _ (.refl s)

theorem downPort_keeps (s : State) (p : Nat) : KeepsCommands s (downPort s p) := by
  have h : ∀ s1 : State, KeepsCommands s1 (s1.hub.streams.foldl (fun t q =>
      if (assocGet s1.hub.peers q.2.peer).any (·.ports.contains p) then loseStream t q.1 else t) s1) := by
    refine fun s1 => .foldl (fun t q => ?_) _ (.refl s1)
    split
    · exact loseStream_keeps _ _
    · exact .refl t
  exact ((endRequests_keeps s p).trans (h _)).after rfl rfl

end Sys2Proof.Machine
end

section
/-!
SUPPORT. The ROM commands (12 R295 to R297): what firmware does with an accepted command, and what its end writes.
-/

namespace Sys2Proof.Machine

/-! Numbers in bytes. -/

theorem leNat_lt (bs : List Byte) : leNat bs < 256 ^ bs.length := by
  induction bs with
  | nil => simp [leNat]
  | cons b r ih =>
    have hb := b.isLt
    rw [leNat, List.length_cons, pow_succ]
    omega

theorem fieldAt_lt (b : List Byte) (lo n : Nat) : fieldAt b lo n < 256 ^ n :=
  (leNat_lt _).trans_le (Nat.pow_le_pow_right (by norm_num) (by simp [sliceBytes]))

theorem memNat_writeN_other (m : List Host.Cell) {a n p : Nat} (bs : List Byte) (h : a + n ≤ p ∨ p + bs.length ≤ a) :
    memNat (memWriteN m p bs) a n = memNat m a n := by
  refine congrArg leNat (List.map_congr_left fun i hi => ?_)
  have := List.mem_range.1 hi
  exact memRead_writeN_other _ _ (by omega)

theorem memRead_writeN_get {m : List Host.Cell} {q j : Nat} {bs : List Byte} {v : Byte} (h : Memory.wf m = true)
    (hv : bs[j]? = some v) : memRead (memWriteN m q bs) (q + j) = v := by
  obtain ⟨hj, rfl⟩ := List.getElem?_eq_some_iff.1 hv
  exact memRead_writeN_same bs h hj

/-- A quantity that no step of a fold changes. -/
theorem foldl_keeps {α β : Type} {f : State → α → State} (p : State → β) (h : ∀ t a, p (f t a) = p t) (l : List α) (s : State) :
    p (l.foldl f s) = p s := by
  induction l generalizing s with
  | nil => rfl
  | cons a r ih => exact (ih _).trans (h s a)

/-! The checks before a command. -/

theorem firstBad_none {l : List (Nat × Bool)} (h : ∀ x ∈ l, x.2 = false) : firstBad l = none :=
  foldl_unchanged l none fun x hx m => by simp [h x hx]

/-- A command whose given fields are sound, with more fields that are. -/
theorem RomAccepts.withFields {op fn : Nat} {s : State} {pa : Nat} {b : List Byte} {l l' : List (Nat × Bool)}
    (h : RomAccepts op fn s pa b l) (hl : ∀ x ∈ l', x ∈ l ∨ x.2 = false) : RomAccepts op fn s pa b l' := by
  obtain ⟨hhead, hop, hup, hhalt, hperm, hctx, hf, hwf⟩ := h
  refine ⟨hhead, hop, hup, hhalt, hperm, hctx, fun x hx => ?_, hwf⟩
  rcases List.mem_append.1 hx with hx | hx
  · exact (hl x hx).elim (fun h => hf x (by simp [h])) id
  · exact hf x (by simp [hx])

section
variable {op fn : Nat} {s : State} {pa : Nat} {b : List Byte} {fields : List Byte → State → List (Nat × Bool)}
  {body : List Byte → State → CmdOut}

/-- No check refuses an accepted command: it comes to what its body says. -/
theorem romRun_accepted {o : Option State} (h : RomAccepts op fn s pa b (fields b s)) (hop : op ∈ romCodes)
    (he : ∀ st off res t, body b s = .ends st off res t → o = some (cmdDone t fn st off res))
    (hw : ∀ t, body b s = .waits t → o = t) : romRun op fn s fields body = evStep s o := by
  obtain ⟨hhead, hcode, hup, hhalt, hperm, hctx, hf, -⟩ := h
  have h1 : haltRefused s op b = false := by
    unfold haltRefused
    cases hh : s.hub.halted with
    | false => rfl
    | true => simp [hhalt hh]
  have h2 : (decide (fn < 16) && (pfCodes.contains op || (ctxCodes.contains op && romCtx b != fn))) = false := by
    by_cases hfn : fn < 16
    · obtain ⟨hp, hc⟩ := hperm hfn
      by_cases hx : op ∈ ctxCodes <;> simp [hp, hx, hc]
    · simp [hfn]
  have h3 : (ctxCodes.contains op && (assocGet s.ctxs (romCtx b)).isNone) = false := by
    by_cases hx : op ∈ ctxCodes
    · have := hctx hx
      simp_all
    · simp [hx]
  have h4 : firstBad ((8, false) :: fields b s ++ romSpare op b) = none :=
    firstBad_none fun x hx => by
      rcases List.mem_cons.1 hx with rfl | hx
      · rfl
      · exact hf x hx
  have hin : romCodes.contains op = true := by simpa using hop
  unfold romRun
  congr 1
  simp only [hhead, hcode, hup, hin, h1, h2, h3, h4, Bool.not_true, Bool.false_eq_true, if_false, Bool.or_self, ne_eq, not_true_eq_false]
  cases hb : body b s with
  | ends st off res t => exact (he st off res t hb).symm
  | waits t => exact (hw t hb).symm

end

/-! The end of a command. -/

/-- The function's oldest command is taken from its mailbox, its results and status are written, and its interrupt is raised. -/
structure CommandDone (fn pa st off : Nat) (res : List (Nat × List Byte)) (t t' : State) : Prop where
  hub : t'.hub = { t.hub with cmds := t'.hub.cmds, irqs := t'.hub.irqs }
  mem : t'.mem = memPut (res.foldl (fun m r => memWriteN m (pa + r.1) r.2) t.mem) (pa + 4) 4 (st + off * 2 ^ 16)

theorem resultsPut_mem (pa : Nat) (res : List (Nat × List Byte)) (s : State) :
    (res.foldl (fun s r => physPut s (pa + r.1) r.2) s).mem = res.foldl (fun m r => memWriteN m (pa + r.1) r.2) s.mem := by
  induction res generalizing s with
  | nil => rfl
  | cons r l ih => exact ih _

theorem resultsMem_wf (pa : Nat) (res : List (Nat × List Byte)) {m : List Host.Cell} (h : Memory.wf m = true) :
    Memory.wf (res.foldl (fun m r => memWriteN m (pa + r.1) r.2) m) = true := by
  induction res generalizing m with
  | nil => exact h
  | cons r l ih => exact ih (memWriteN_wf _ _ h)

theorem cmdHead_cmds {s : State} {fn pa : Nat} {b : List Byte} (h : cmdHead s fn = some (pa, b)) :
    ∃ a l, assocGet s.hub.cmds fn = some (a :: l) ∧ hostPa a.toNat = pa := by
  unfold cmdHead at h
  split at h
  · rename_i a l hc
    exact ⟨a, l, hc, by simp_all⟩
  · simp at h

/-- The block that ends is the one that began, where the pending commands still stand. -/
theorem cmdDone_eq {s t : State} {fn pa : Nat} {b : List Byte} (st off : Nat) (res : List (Nat × List Byte))
    (h : cmdHead s fn = some (pa, b)) (hk : t.hub.cmds = s.hub.cmds) : cmdDone t fn st off res =
      blockDone (modHub t fun h => { h with cmds := assocMod h.cmds fn fun l => l.drop 1 }) fn pa st off res := by
  obtain ⟨a, l, hc, rfl⟩ := cmdHead_cmds h
  simp only [cmdDone, cmdHead, hk, hc]

theorem blockDone_hub (s : State) (fn pa st off : Nat) (res : List (Nat × List Byte)) :
    (blockDone s fn pa st off res).hub = { s.hub with irqs := (fn, if fn = 16 then 0 else 9) :: s.hub.irqs } := by
  have h := foldl_keeps (f := fun s r => physPut s (pa + r.1) r.2) State.hub (fun _ _ => rfl) res s
  simp only [blockDone, raiseIrq, modHub_hub, physPut_hub, h]

theorem blockDone_mem (s : State) (fn pa st off : Nat) (res : List (Nat × List Byte)) :
    (blockDone s fn pa st off res).mem =
      memPut (res.foldl (fun m r => memWriteN m (pa + r.1) r.2) s.mem) (pa + 4) 4 (st + off * 2 ^ 16) := by
  rw [← resultsPut_mem]
  rfl

theorem commandDone_cmdDone {s t : State} {fn pa : Nat} {b : List Byte} (st off : Nat) (res : List (Nat × List Byte))
    (h : cmdHead s fn = some (pa, b)) (hk : t.hub.cmds = s.hub.cmds) :
    CommandDone fn pa st off res t (bumpFree (cmdDone t fn st off res)) := by
  rw [cmdDone_eq st off res h hk]
  exact ⟨by rw [bumpFree_hub, blockDone_hub]; rfl, by rw [bumpFree_mem, blockDone_mem, modHub_mem]⟩

theorem romEnds_cmdDone {s t : State} {fn pa st off : Nat} {b : List Byte} (res : List (Nat × List Byte))
    (h : cmdHead s fn = some (pa, b)) (hk : t.hub.cmds = s.hub.cmds) (hwf : Memory.wf t.mem = true)
    (hlt : st + off * 2 ^ 16 < 2 ^ 32) : RomEnds fn pa st off s (bumpFree (cmdDone t fn st off res)) := by
  obtain ⟨a, l, hc, -⟩ := cmdHead_cmds h
  rw [cmdDone_eq st off res h hk]
  refine ⟨?_, by rw [bumpFree_hub, blockDone_hub]; rfl, a, l, hc, ?_⟩
  · rw [bumpFree_mem, blockDone_mem, modHub_mem, memNat_memPut _ _ _ (resultsMem_wf pa res hwf)]
    exact Nat.mod_eq_of_lt (by simpa using hlt)
  · rw [bumpFree_hub, blockDone_hub]
    show assocGet (assocMod t.hub.cmds fn _) fn = _
    rw [assocGet_mod_same, hk, hc]
    rfl

/-- An accepted command that ends: its status is written, and its effect is that of its body. -/
theorem rom_completes {i : Instr} {op fn : Nat} {s t : State} {pa st off : Nat} {b : List Byte}
    {fields : List Byte → State → List (Nat × Bool)} {body : List Byte → State → CmdOut} {res : List (Nat × List Byte)}
    {P : State → Prop} (he : exec i s = romRun op fn s fields body) (ha : RomAccepts op fn s pa b (fields b s))
    (hop : op ∈ romCodes) (hb : body b s = .ends st off res t) (hlt : st + off * 2 ^ 16 < 2 ^ 32) (hk : KeepsCommands s t)
    (hp : ∀ t', CommandDone fn pa st off res t t' → P t') : Completes i s fun t' => RomEnds fn pa st off s t' ∧ P t' := by
  have ⟨hhead, _, _, _, _, _, _, hwf⟩ := ha
  refine ⟨bumpFree (cmdDone t fn st off res), ?_, romEnds_cmdDone res hhead hk.cmds (hk.wf hwf) hlt,
    hp _ (commandDone_cmdDone st off res hhead hk.cmds)⟩
  rw [he, romRun_accepted (o := some (cmdDone t fn st off res)) ha hop
    (fun st' off' res' t' h => by rw [hb] at h; cases h; rfl) (fun t' h => by rw [hb] at h; cases h)]
  rfl

end Sys2Proof.Machine
end

section
/-!
SUPPORT. What each command on the package does (10 R249, R254, R258, R260; 12 R297, R298, R300, R304).
-/

namespace Sys2Proof.Machine

/-! Result buffers (12 R298). -/

theorem RomAccepts.wf {op fn : Nat} {s : State} {pa : Nat} {b : List Byte} {l : List (Nat × Bool)}
    (h : RomAccepts op fn s pa b l) : Memory.wf s.mem = true := by
  obtain ⟨_, _, _, _, _, _, _, hwf⟩ := h
  exact hwf

/-- A field of an accepted command is not at fault. -/
theorem RomAccepts.field {op fn : Nat} {s : State} {pa : Nat} {b : List Byte} {l : List (Nat × Bool)}
    (h : RomAccepts op fn s pa b l) {x : Nat × Bool} (hx : x ∈ l) : x.2 = false := by
  obtain ⟨_, _, _, _, _, _, hf, _⟩ := h
  exact hf x (List.mem_append_left _ hx)

theorem fieldAt_lt_word (b : List Byte) (lo : Nat) : fieldAt b lo 4 < 2 ^ 32 :=
  (fieldAt_lt b lo 4).trans_eq (by norm_num)

/-- A buffer that the results and the status of its command overlap at most where `out` says reads as written. -/
theorem CommandDone.buffer {fn pa st off q : Nat} {bs : List Byte} {res : List (Nat × List Byte)} {s t t' : State}
    (h : CommandDone fn pa st off res t t') (ht : t.mem = memWriteN s.mem q bs) (hwf : Memory.wf s.mem = true) {j : Nat} {v : Byte}
    (hv : bs[j]? = some v) (ha : q + j < pa + 4 ∨ pa + 8 ≤ q + j)
    (hr : ∀ r ∈ res, q + j < pa + r.1 ∨ pa + r.1 + r.2.length ≤ q + j) : memRead t'.mem (q + j) = v := by
  have fold : ∀ (l : List (Nat × List Byte)) (m : List Host.Cell),
      (∀ r ∈ l, q + j < pa + r.1 ∨ pa + r.1 + r.2.length ≤ q + j) →
      memRead (l.foldl (fun m r => memWriteN m (pa + r.1) r.2) m) (q + j) = memRead m (q + j) := by
    intro l
    induction l with
    | nil => exact fun _ _ => rfl
    | cons r l ih =>
      intro m hl
      rw [List.foldl_cons, ih _ fun r hr => hl r (by simp [hr])]
      exact memRead_writeN_other _ _ (hl r (by simp))
  rw [h.mem, memPut, memRead_writeN_other _ _ (by rw [natLe_length]; omega), fold res _ hr, ht]
  exact memRead_writeN_get hwf hv

/-- A result of four bytes, with none written over it later. -/
theorem memNat_result {m : List Host.Cell} {pa a v w : Nat} (hwf : Memory.wf m = true) (h : pa + 8 ≤ a) (hv : v < 2 ^ 32) :
    memNat (memPut (memWriteN m a (natLe 4 v)) (pa + 4) 4 w) a 4 = v := by
  have h1 : memNat (memPut (memWriteN m a (natLe 4 v)) (pa + 4) 4 w) a 4 = memNat (memPut m a 4 v) a 4 :=
    memNat_writeN_other _ _ (by rw [natLe_length]; omega)
  rw [h1, memNat_memPut _ _ _ hwf]
  exact Nat.mod_eq_of_lt hv

theorem bufferOut_fits {s t : State} {b : List Byte} {lenOff : Nat} {res : List (Nat × List Byte)} {bs : List Byte}
    (h : bs.length ≤ fieldAt b lenOff 4) :
    bufferOut s t b lenOff res bs = .ends 0 0 res (physPut t (hostPa (fieldAt b (lenOff - 8) 8)) bs) := by
  unfold bufferOut
  rw [if_neg (by omega)]

theorem errorLog_length (h : Hub) : 32 * h.faults.length ≤ (errorLog h).length := by
  unfold errorLog
  rw [List.length_append, List.length_flatMap]
  have : (h.faults.map fun f => (natLe 1 f.1 ++ natLe 1 f.2.1 ++ List.replicate 6 (0 : Byte) ++ natLe 8 f.2.2 ++
      List.replicate 16 0).length) = h.faults.map fun _ => 32 :=
    List.map_congr_left fun f _ => by simp [natLe_length]
  rw [this]
  simp
  omega

theorem clearLog_keeps (s : State) : KeepsCommands s (modHub s clearLog) := .of_same rfl rfl

section
variable {fn pa : Nat} {s : State} {b : List Byte}

theorem identify_completes (ha : RomAccepts 0x01 fn s pa b [(8, hostBad (fieldAt b 8 8) || fieldAt b 8 8 % 64 != 0)])
    {bs : List Byte} (hbs : bs = identity s.hub) (hl : bs.length ≤ fieldAt b 16 4) :
    Completes (.identify fn) s fun t => RomEnds fn pa 0 0 s t ∧
      (∀ j v, bs[j]? = some v → let a := hostPa (fieldAt b 8 8) + j
        (a < pa + 4 ∨ pa + 8 ≤ a) → (a < pa + 20 ∨ pa + 20 + 4 ≤ a) → memRead t.mem a = v) ∧
      memNat t.mem (pa + 20) 4 = bs.length := by
  have he : exec (.identify fn) s = execIdentify fn s := rfl
  unfold execIdentify at he
  refine rom_completes he ha (by decide)
    ((bufferOut_fits (res := [(20, natLe 4 bs.length)]) hl).symm.trans (by rw [hbs])).symm (by norm_num)
    (.of_work (physPut_work _ _ _)) fun t' h => ⟨?_, ?_⟩
  · intro j v hv a hst hr
    exact h.buffer rfl ha.wf hv hst (by simpa [natLe_length] using hr)
  · rw [h.mem]
    exact memNat_result (memWriteN_wf _ _ ha.wf) (by omega) (hl.trans_lt (fieldAt_lt_word b 16))

theorem attest_completes (ha : RomAccepts 0x02 fn s pa b [(72, hostBad (fieldAt b 72 8))]) {bs : List Byte}
    (hbs : bs = report s fn (sliceBytes b 8 64) ++ natLe 4627 (Config.sign (sha3 (report s fn (sliceBytes b 8 64)))).toNat)
    (hl : bs.length ≤ fieldAt b 80 4) : Completes (.attest fn) s fun t => RomEnds fn pa 0 0 s t ∧
      ∀ j v, bs[j]? = some v → let a := hostPa (fieldAt b 72 8) + j
        (a < pa + 4 ∨ pa + 8 ≤ a) → (a < pa + 20 ∨ pa + 20 + 0 ≤ a) → memRead t.mem a = v := by
  have he : exec (.attest fn) s = execAttest fn s := rfl
  unfold execAttest at he
  refine rom_completes he ha (by decide) ((bufferOut_fits (by rw [← hbs]; exact hl)).trans (by rw [← hbs])) (by norm_num)
    (.of_work (physPut_work _ _ _)) fun t' h => ?_
  intro j v hv a hst _
  exact h.buffer rfl ha.wf hv hst (by simp)

theorem errlog_completes (ha : RomAccepts 0x48 fn s pa b [(8, hostBad (fieldAt b 8 8))])
    (hl : (errorLog s.hub).length ≤ fieldAt b 16 4) : Completes (.errlog fn) s fun t => RomEnds fn pa 0 0 s t ∧
      (∀ j v, (errorLog s.hub)[j]? = some v → let a := hostPa (fieldAt b 8 8) + j
        (a < pa + 4 ∨ pa + 8 ≤ a) → (a < pa + 20 ∨ pa + 20 + 8 ≤ a) → memRead t.mem a = v) ∧
      t.hub.faults = [] ∧ memNat t.mem (pa + 24) 4 = s.hub.faults.length := by
  have hlen : s.hub.faults.length < 2 ^ 32 := by
    have := errorLog_length s.hub
    have := fieldAt_lt_word b 16
    omega
  have he : exec (.errlog fn) s = execErrlog fn s := rfl
  unfold execErrlog at he
  refine rom_completes he ha (by decide) (bufferOut_fits hl) (by norm_num)
    ((clearLog_keeps s).trans (.of_work (physPut_work _ _ _))) fun t' h => ⟨?_, by rw [h.hub]; rfl, ?_⟩
  · intro j v hv a hst hr
    exact h.buffer (s := modHub s clearLog) rfl ha.wf hv hst (by simp [natLe_length]; omega)
  · rw [h.mem]
    simp only [hl, decide_true, if_true]
    exact memNat_result (memWriteN_wf _ _ (memWriteN_wf _ _ ha.wf)) (by omega) hlen

/-! The zone and power (06 R167; 01 R26). -/

theorem zoneSet_fits (ha : RomAccepts 0x25 fn s pa b [(8, decide (2 ^ 18 ≤ fieldAt b 8 4))])
    (hz : zoneFits (zoneHub s.hub (BitVec.ofNat 18 (fieldAt b 8 4)) (fieldAt b 12 4)) = true) :
    Completes (.zoneSet fn) s fun t => RomEnds fn pa 0 0 s t ∧ t.hub.zoneDrop = (fieldAt b 12 4 == 0) ∧
      (fieldAt b 12 4 ≠ 0 → t.hub.zoneDies.toNat = fieldAt b 8 4 ∧ t.hub.zoneSize = fieldAt b 12 4) := by
  have hd : fieldAt b 8 4 < 2 ^ 18 := Nat.lt_of_not_le (of_decide_eq_false (ha.field (List.mem_singleton_self _)))
  have he : exec (.zoneSet fn) s = execZoneSet fn s := rfl
  unfold execZoneSet at he
  refine rom_completes he ha (by decide) (if_pos hz) (by norm_num) ?_ fun t' h => ?_
  · unfold zoneHub
    split <;> exact .of_same rfl rfl
  · rw [h.hub]
    by_cases h0 : fieldAt b 12 4 = 0
    · simp [zoneHub, h0]
    · simpa [zoneHub, h0] using hd

theorem zoneSet_refused (ha : RomAccepts 0x25 fn s pa b [(8, decide (2 ^ 18 ≤ fieldAt b 8 4))])
    (hz : zoneFits (zoneHub s.hub (BitVec.ofNat 18 (fieldAt b 8 4)) (fieldAt b 12 4)) = false) :
    Completes (.zoneSet fn) s (RomEnds fn pa 4 0 s) := by
  have he : exec (.zoneSet fn) s = execZoneSet fn s := rfl
  unfold execZoneSet at he
  obtain ⟨t, ht, he, -⟩ := rom_completes (P := fun _ => True) he ha (by decide)
    (if_neg (by rw [hz]; simp)) (by norm_num) (.refl s) fun _ _ => trivial
  exact ⟨t, ht, he⟩

end

end Sys2Proof.Machine
end

section
/-!
SUPPORT. The commands on streams, governors, peers and ports, and the reset (10 R249, R254, R258, R260; 12 R300, R301,
R304).
-/

namespace Sys2Proof.Machine

/-! Streams bound (10 R249, R260). -/

theorem eq_ofNat_of_toNat {n m : Nat} {v : BitVec n} (h : v.toNat = m) : v = BitVec.ofNat n m := by
  rw [← h, BitVec.ofNat_toNat, BitVec.setWidth_eq]

/-- The stream that JSTREAM_BIND makes. -/
def boundStream (b : List Byte) : Stream :=
  let first := BitVec.ofNat 64 (fieldAt b 48 8)
  { ctx := romCtx b, st := .open_, peer := fieldAt b 11 1, area := vaAt b 16, parea := fieldAt b 26 6,
    cap := 2 ^ fieldAt b 12 1, oq := vaAt b 32, oqN := 2 ^ fieldAt b 13 1, wdig := sliceBytes b 128 64,
    shapeid := BitVec.ofNat 32 (fieldAt b 64 4), mode := BitVec.ofNat 32 (fieldAt b 68 4), first := first, next := first,
    tseq := first - 1, eord := BitVec.ofNat 64 (fieldAt b 56 8), floor := BitVec.ofNat 64 (fieldAt b 56 8),
    acked := first - 1, src := 0, srcHseq := 0, srcCap := 0, peerTseq := first - 1 }

/-- The stream that JSTREAM_REPLAY makes from the header `h` of the source area. -/
def replayedStream (h b : List Byte) : Stream :=
  let tseq := BitVec.ofNat 64 (fieldAt h 80 8)
  { ctx := romCtx b, st := .replaying, peer := fieldAt b 11 1, area := vaAt b 26, parea := fieldAt b 36 6,
    cap := 2 ^ fieldAt b 12 1, oq := vaAt b 42, oqN := 2 ^ fieldAt b 13 1, wdig := sliceBytes b 128 64,
    shapeid := BitVec.ofNat 32 (fieldAt b 72 4), mode := BitVec.ofNat 32 (fieldAt b 76 4),
    first := BitVec.ofNat 64 (fieldAt h 88 8), next := tseq + 1, tseq := tseq, eord := BitVec.ofNat 64 (fieldAt b 56 8),
    floor := BitVec.ofNat 64 (fieldAt b 64 8), acked := tseq, src := vaAt b 16,
    srcHseq := BitVec.ofNat 64 (fieldAt h 96 8), srcCap := fieldAt h 76 4, peerTseq := tseq }

theorem linkSend_keeps (s : State) (pa kind n : Nat) : KeepsCommands s (linkSend s pa kind n) := by
  unfold linkSend
  dsimp only
  split <;> exact .of_same rfl rfl

theorem linkSend_streams (s : State) (pa kind n : Nat) : (linkSend s pa kind n).hub.streams = s.hub.streams := by
  unfold linkSend
  dsimp only
  split <;> rfl

theorem partnerPut_keeps (s : State) (t : Stream) (off : Nat) (bs : List Byte) (n : Nat) :
    KeepsCommands s (partnerPut s t off bs n) :=
  (KeepsCommands.of_work (physPut_work s _ _)).trans (linkSend_keeps _ _ _ _)

theorem partnerPut_streams (s : State) (t : Stream) (off : Nat) (bs : List Byte) (n : Nat) :
    (partnerPut s t off bs n).hub.streams = s.hub.streams := linkSend_streams _ _ _ _

/-- A bind whose local header is written: the stream stands. -/
theorem bindStream_ends {s s1 : State} {x q : Nat} {t : Stream} (both : Bool) (off : Nat)
    (h : devWrite s x t.area.toNat (areaHeader t q t.tseq) none = .ok s1) :
    ∃ r, bindStream s x q t both off = .ends 0 0 [] r ∧ KeepsCommands s r ∧ getStream r q = some t := by
  have hk : KeepsCommands s (modHub s1 fun h => { h with streams := assocSet h.streams q t }) :=
    (KeepsCommands.of_work (devWrite_work _ h)).after rfl rfl
  simp only [bindStream, h]
  refine ⟨_, rfl, ?_⟩
  cases both with
  | false => exact ⟨hk, assocGet_set_same _ _ _⟩
  | true =>
    refine ⟨hk.trans (partnerPut_keeps _ _ _ _ _), ?_⟩
    simp [getStream, partnerPut_streams]

/-! Streams unbound and failed (10 R254, R258). -/

/-- A lane whose record is lost is not walked for a page. -/
theorem setLane_journalLost (s : State) (u seq l : Nat) :
    (setLane s u seq l (.faulted .journalLost 0 0)).hub = s.hub ∧ (setLane s u seq l (.faulted .journalLost 0 0)).mem = s.mem := by
  unfold setLane
  split <;> exact ⟨rfl, rfl⟩

theorem journalFail_hub (s : State) (q : Nat) (emits : Bool) : (journalFail s q emits).hub = s.hub :=
  foldl_keeps State.hub (fun _ _ => (setLane_journalLost _ _ _ _).1) _ s

theorem journalFail_mem (s : State) (q : Nat) (emits : Bool) : (journalFail s q emits).mem = s.mem :=
  foldl_keeps State.mem (fun _ _ => (setLane_journalLost _ _ _ _).2) _ s

theorem journalFail_keeps (s : State) (q : Nat) (emits : Bool) : KeepsCommands s (journalFail s q emits) :=
  .of_same (by rw [journalFail_hub]) (journalFail_mem s q emits)

theorem getStream_modStream (s : State) (q : Nat) (f : Stream → Stream) :
    getStream (modStream s q f) q = (getStream s q).map f := assocGet_mod_same _ _ _

theorem boundField_sound {s : State} {b : List Byte} {st : Stream} {p : Stream → Bool} (hq : getStream s (streamNo b) = some st)
    (hx : st.ctx = romCtx b) (hp : p st = true) : ∀ x ∈ boundField b s p, x.2 = false := by
  simp [boundField, hq, hx, hp]

/-! Peers (12 R300, R304). -/

theorem loseUnreachable_keeps (s : State) : KeepsCommands s (loseUnreachable s) := by
  refine .foldl (fun t q => ?_) _ (.refl s)
  split
  · exact .refl t
  · exact loseStream_keeps _ _

theorem loseUnreachable_peers (s : State) : (loseUnreachable s).hub.peers = s.hub.peers := by
  refine foldl_keeps (fun s => s.hub.peers) (fun t q => ?_) _ s
  split <;> rfl

theorem setPeers_keeps (s : State) (gone : List Nat) (g : Hub → List (Nat × Peer)) :
    KeepsCommands s (loseUnreachable (modHub (gone.foldl downPort s) fun h => { h with peers := g h })) := by
  have hdown : KeepsCommands s (gone.foldl downPort s) := .foldl downPort_keeps gone (.refl s)
  have hset := hdown.after (r := modHub (gone.foldl downPort s) fun h => { h with peers := g h }) rfl rfl
  exact hset.trans (loseUnreachable_keeps _)

theorem setPeers_peers (s : State) (g : Hub → List (Nat × Peer)) :
    (loseUnreachable (modHub s fun h => { h with peers := g h })).hub.peers = g s.hub := loseUnreachable_peers _

/-! Ports (12 R301). -/

theorem setTimers_get (h : Hub) (p t n : Nat) : assocGet (setTimers h p t).ports n =
    (assocGet h.ports n).map fun r => { r with logT := if p = 255 ∨ p = n then t else r.logT } := by
  have : (setTimers h p t).ports = h.ports.map fun e => (e.1, { e.2 with logT := if p = 255 ∨ p = e.1 then t else e.2.logT }) :=
    List.map_congr_left fun e _ => by split <;> simp_all
  rw [this]
  exact assocGet_mapVal h.ports (fun k r => { r with logT := if p = 255 ∨ p = k then t else r.logT }) n

section
variable {fn pa : Nat} {s : State} {b : List Byte}

theorem CommandDone.getStream {st off q : Nat} {res : List (Nat × List Byte)} {t t' : State}
    (h : CommandDone fn pa st off res t t') : getStream t' q = getStream t q := by
  unfold Machine.getStream
  rw [h.hub]

theorem powerLimit_completes
    (ha : RomAccepts 0x28 fn s pa b [(8, decide (fieldAt b 8 4 < 3000) || decide (6200 < fieldAt b 8 4))]) :
    Completes (.powerLimit fn) s fun t => RomEnds fn pa 0 0 s t ∧ t.hub.powerLimit = fieldAt b 8 4 := by
  have he : exec (.powerLimit fn) s = execPowerLimit fn s := rfl
  unfold execPowerLimit at he
  exact rom_completes he ha (by decide) rfl (by norm_num) (.of_same rfl rfl) fun t' h => by rw [h.hub]; rfl

theorem jstandby_completes (ha : RomAccepts 0x34 fn s pa b [(8, decide (16 < fieldAt b 8 1))]) :
    Completes (.jstandby fn) s fun t => RomEnds fn pa 0 0 s t ∧
      t.hub.standby = (List.range (fieldAt b 8 1)).map fun i => fieldAt b (9 + i) 1 := by
  have he : exec (.jstandby fn) s = execJstandby fn s := rfl
  unfold execJstandby at he
  exact rom_completes he ha (by decide) rfl (by norm_num) (.of_same rfl rfl) fun t' h => by rw [h.hub]; rfl

theorem jstreamBind_completes (ha : RomAccepts 0x30 fn s pa b (bindFields b s ++
      [(16, fieldAt b 16 10 % 128 != 0), (26, decide (2 ^ 42 ≤ fieldAt b 26 6)),
       (68, match assocGet s.ctxs (romCtx b) with | some c => bitOf (fieldAt b 68 4) 31 != c.detmode | none => false)]))
    {s1 : State} (hw : devWrite s (romCtx b) (boundStream b).area.toNat
      (areaHeader (boundStream b) (streamNo b) (boundStream b).tseq) none = .ok s1) :
    Completes (.jstreamBind fn) s fun t => RomEnds fn pa 0 0 s t ∧ getStream t (streamNo b) = some (boundStream b) := by
  obtain ⟨r, hb, hk, hr⟩ := bindStream_ends true 16 hw
  have he : exec (.jstreamBind fn) s = execJstreamBind fn s := rfl
  unfold execJstreamBind at he
  exact rom_completes he ha (by decide) hb (by norm_num) hk fun t' h => h.getStream.trans hr

theorem jstreamReplay_completes (ha : RomAccepts 0x31 fn s pa b (bindFields b s ++
      [(26, fieldAt b 26 10 % 128 != 0), (36, decide (2 ^ 42 ≤ fieldAt b 36 6))]))
    {c : Context} {s0 s1 : State} {h : List Byte} (hc : assocGet s.ctxs (romCtx b) = some c)
    (hr : devRead s (romCtx b) (fieldAt b 16 10) 128 none = .ok (s0, h)) (hbad : replayBad h b c = none)
    (hw : devWrite s0 (romCtx b) (replayedStream h b).area.toNat
      (areaHeader (replayedStream h b) (streamNo b) (replayedStream h b).tseq) none = .ok s1) :
    Completes (.jstreamReplay fn) s fun t => RomEnds fn pa 0 0 s t ∧
      getStream t (streamNo b) = some (replayedStream h b) := by
  obtain ⟨r, hb, hk, hr'⟩ := bindStream_ends false 26 hw
  have he : exec (.jstreamReplay fn) s = execJstreamReplay fn s := rfl
  unfold execJstreamReplay at he
  refine rom_completes (res := []) he ha (by decide) ?_ (by norm_num) ((KeepsCommands.of_work (devRead_work _ hr)).trans hk)
    fun t' h => h.getStream.trans hr'
  simp only [withCtx, hc, hr, hbad]
  exact hb

theorem jstreamUnbind_completes {st : Stream} (hq : getStream s (streamNo b) = some st) (hx : st.ctx = romCtx b)
    (ha : RomAccepts 0x32 fn s pa b []) :
    Completes (.jstreamUnbind fn) s fun t => RomEnds fn pa 0 0 s t ∧ getStream t (streamNo b) = none := by
  have he : exec (.jstreamUnbind fn) s = execJstreamUnbind fn s := rfl
  unfold execJstreamUnbind at he
  exact rom_completes he (ha.withFields fun y hy => .inr (boundField_sound hq hx rfl y hy)) (by decide) rfl (by norm_num)
    ((journalFail_keeps s (streamNo b) true).after rfl rfl) fun t' h => h.getStream.trans (assocGet_del_same _ _)

theorem jstreamFail_completes {st : Stream} (hq : getStream s (streamNo b) = some st) (hx : st.ctx = romCtx b)
    (hst : st.st = .reassigning) (ha : RomAccepts 0x33 fn s pa b []) : Completes (.jstreamFail fn) s fun t =>
      RomEnds fn pa 0 0 s t ∧ getStream t (streamNo b) = some { st with st := .failed } := by
  have he : exec (.jstreamFail fn) s = execJstreamFail fn s := rfl
  unfold execJstreamFail at he
  refine rom_completes he (ha.withFields fun y hy => .inr (boundField_sound hq hx (by simp [hst]) y hy)) (by decide) rfl
    (by norm_num) ((journalFail_keeps s (streamNo b) false).after rfl rfl) fun t' h => h.getStream.trans ?_
  have hf : getStream (journalFail s (streamNo b) false) (streamNo b) = some st := by
    rw [← hq]
    exact congrArg (fun h : Hub => assocGet h.streams (streamNo b)) (journalFail_hub s _ _)
  rw [getStream_modStream, hf]
  rfl

/-! Governors (10 R258). -/

theorem govBind_binds {g : Nat} (hg : fieldAt b 9 1 = g) (hlt : g < 16)
    (hown : ∀ v, assocGet s.hub.govs g = some v → v.ctx = romCtx b)
    (ha : RomAccepts 0x38 fn s pa b [(10, fieldAt b 10 1 == 0 || decide (fieldAt b 11 1 < fieldAt b 10 1)),
      (12, decide (fieldAt b 12 1 < fieldAt b 10 1) || decide (fieldAt b 11 1 < fieldAt b 12 1)), (16, fieldAt b 16 4 == 0)]) :
    Completes (.govBind fn) s fun t => RomEnds fn pa 0 0 s t ∧ assocGet t.hub.govs g =
      some ⟨romCtx b, fieldAt b 16 4, fieldAt b 10 1, fieldAt b 11 1, fieldAt b 12 1, none⟩ := by
  have he : exec (.govBind fn) s = execGovBind fn s := rfl
  unfold execGovBind at he
  have hmod : g % 16 = g := Nat.mod_eq_of_lt hlt
  have h128 : g < 128 := by omega
  have hbits : bitsOf g 6 4 = 0 := by unfold bitsOf; omega
  refine rom_completes he (ha.withFields fun y hy => ?_) (by decide) (if_pos (hg ▸ h128)) (by norm_num) (.of_same rfl rfl)
    fun t' h => ?_
  · simp only [hg, hmod, h128, if_true] at hy
    rcases List.mem_cons.1 hy with rfl | hy
    · refine .inr ?_
      cases hv : assocGet s.hub.govs g with
      | none => simp [hbits]
      | some v => simp [hbits, hown v hv]
    · exact .inl hy
  · rw [h.hub, hg, hmod]
    exact assocGet_set_same _ _ _

theorem govBind_releases {g : Nat} (hg : fieldAt b 9 1 = g) (hge : 128 ≤ g) (hlt : g < 144)
    (hown : ∃ v, assocGet s.hub.govs (g - 128) = some v ∧ v.ctx = romCtx b) (ha : RomAccepts 0x38 fn s pa b []) :
    Completes (.govBind fn) s fun t => RomEnds fn pa 0 0 s t ∧ assocGet t.hub.govs (g - 128) = none := by
  obtain ⟨v, hv, hx⟩ := hown
  have he : exec (.govBind fn) s = execGovBind fn s := rfl
  unfold execGovBind at he
  have hmod : g % 16 = g - 128 := by omega
  have h128 : ¬ g < 128 := by omega
  have hbits : bitsOf g 6 4 = 0 := by unfold bitsOf; omega
  refine rom_completes he (ha.withFields fun y hy => ?_) (by decide) (if_neg (hg ▸ h128)) (by norm_num) (.of_same rfl rfl)
    fun t' h => ?_
  · simp only [hg, hmod, h128, if_false, hv, hbits, hx, beq_self_eq_true, List.mem_singleton] at hy
    exact .inr (by rw [hy]; rfl)
  · rw [h.hub, hg, hmod]
    exact assocGet_del_same _ _

theorem peerMap_completes (ha : RomAccepts 0x40 fn s pa b (peerFields b s)) : Completes (.peerMap fn) s fun t =>
    RomEnds fn pa 0 0 s t ∧ assocGet t.hub.peers (fieldAt b 8 1) =
      if fieldAt b 9 1 = 1 then none else some ⟨peerPorts b, peerWindows b⟩ := by
  have he : exec (.peerMap fn) s = execPeerMap fn s := rfl
  unfold execPeerMap at he
  refine rom_completes he ha (by decide) rfl (by norm_num) (setPeers_keeps s _ _) fun t' h => ?_
  rw [h.hub]
  refine (congrArg (assocGet · (fieldAt b 8 1)) (setPeers_peers _ _)).trans ?_
  by_cases h9 : fieldAt b 9 1 = 1
  · simp only [h9, if_true, assocGet_del_same]
  · simp only [h9, if_false, assocGet_set_same]

theorem portTimer_completes (ha : RomAccepts 0x41 fn s pa b [(8, decide (17 < fieldAt b 8 1) && fieldAt b 8 1 != 255),
      (9, decide (fieldAt b 9 1 < 16) || decide (28 < fieldAt b 9 1))]) :
    Completes (.portTimer fn) s fun t => RomEnds fn pa 0 0 s t ∧ ∀ n r, assocGet s.hub.ports n = some r →
      assocGet t.hub.ports n = some { r with logT := if fieldAt b 8 1 = 255 ∨ fieldAt b 8 1 = n then fieldAt b 9 1 else r.logT } := by
  have he : exec (.portTimer fn) s = execPortTimer fn s := rfl
  unfold execPortTimer at he
  refine rom_completes he ha (by decide) rfl (by norm_num) (.of_same rfl rfl) fun t' h n r hn => ?_
  rw [h.hub]
  exact (setTimers_get s.hub _ _ n).trans (by rw [hn]; rfl)

/-- The reset answers later: its block is remembered, and nothing else of the package stands. -/
theorem pkgReset_completes (ha : RomAccepts 0x7F fn s pa b []) : Completes (.pkgReset fn) s fun t => t.waves = [] ∧ t.ctxs = [] ∧
    t.grids = [] ∧ t.hub.endpointUp = false ∧ t.hub.online = 0 ∧ t.hub.bootCmd = some pa ∧
    ∀ a, memRead t.mem a = if paRegion a = 0 then 0 else memRead s.mem a := by
  have ⟨hhead, _⟩ := ha
  have hx : exec (.pkgReset fn) s = execPkgReset fn s := rfl
  unfold execPkgReset at hx
  have he := hx.trans (romRun_accepted (o := some (downState s (some pa))) ha (by decide) (fun _ _ _ _ h => nomatch h)
    fun t h => by rw [← CmdOut.waits.inj h, hhead, Option.map_some])
  exact completes_evStep he rfl ⟨rfl, rfl, rfl, rfl, rfl, rfl, memRead_outerMem s.mem⟩

end

/-- Settles O60, command by command. -/
theorem romPackageCommands : Obligations.RomPackageCommands := by
  intro s fn pa b
  refine ⟨fun ha hl => identify_completes ha rfl hl, fun ha hl => attest_completes ha rfl hl, errlog_completes,
    fun ha => ⟨zoneSet_fits ha, zoneSet_refused ha⟩, powerLimit_completes, ?bind, ?replay,
    fun st hq hx => ⟨jstreamUnbind_completes hq hx, fun ha hst => jstreamFail_completes hq hx hst ha⟩, jstandby_completes,
    ⟨fun ⟨hlt, hown, ha⟩ => govBind_binds rfl hlt hown ha, fun ⟨hge, hlt, hown, ha⟩ => govBind_releases rfl hge hlt hown ha⟩,
    peerMap_completes, portTimer_completes, pkgReset_completes⟩
  case bind =>
    intro ha st s1 hctx hst hpeer hcap hoqN harea hparea hoq hfirst hnext htseq hacked hpeerT heord hfloor hshape hmode hwdig
      hsrc hhseq hscap hw
    replace hfirst := eq_ofNat_of_toNat hfirst
    replace heord := eq_ofNat_of_toNat heord
    replace hshape := eq_ofNat_of_toNat hshape
    replace hmode := eq_ofNat_of_toNat hmode
    obtain rfl : st = boundStream b := by
      cases st
      simp_all [boundStream, romCtx]
    exact jstreamBind_completes ha hw
  case replay =>
    intro ha c s0 h hc hr hbad st s1 hctx hst hpeer hcap hoqN hsrc harea hparea hoq heord hfloor hshape hmode hwdig htseq hnext
      hacked hpeerT hfirst hhseq hscap hw
    replace heord := eq_ofNat_of_toNat heord
    replace hfloor := eq_ofNat_of_toNat hfloor
    replace hshape := eq_ofNat_of_toNat hshape
    replace hmode := eq_ofNat_of_toNat hmode
    replace htseq := eq_ofNat_of_toNat htseq
    replace hfirst := eq_ofNat_of_toNat hfirst
    replace hhseq := eq_ofNat_of_toNat hhseq
    obtain rfl : st = replayedStream h b := by
      cases st
      simp_all [replayedStream, romCtx]
    exact jstreamReplay_completes ha hc hr hbad hw

end Sys2Proof.Machine
end

section
/-!
SUPPORT. The end of quads and of waves (02 R43; 11 R289), the entry of a trap of any fragment, and the retirement of an instruction
whose fragment other effects have changed.
-/

namespace Sys2Proof.Machine

/-! Effects on one wave. -/

theorem modWave_modWave (s : State) (u : Nat) (f g : Wave → Wave) : modWave (modWave s u f) u g = modWave s u (g ∘ f) := by
  unfold modWave assocMod
  simp only [List.map_map]
  congr 2
  funext e
  by_cases h : e.1 = u <;> simp [h]

theorem modWave_same (s : State) (u : Nat) (f : Wave → Wave) (h : ∀ w, f w = w) : modWave s u f = s := by
  unfold modWave assocMod
  simp only [h, Prod.mk.eta, ite_self, List.map_id']

theorem modWave_get {s : State} {u : Nat} {w : Wave} (f : Wave → Wave) (h : assocGet s.waves u = some w) :
    assocGet (modWave s u f).waves u = some (f w) := by
  simp [assocGet_mod_same, h]

theorem modWave_get_other (s : State) (u : Nat) (f : Wave → Wave) {v : Nat} (h : v ≠ u) :
    assocGet (modWave s u f).waves v = assocGet s.waves v := assocGet_mod_other _ _ _ _ h

/-- An effect on one wave leaves everything else. -/
theorem modWave_onlyWave (s : State) (u : Nat) (f : Wave → Wave) :
    OnlyWave s (bumpFree (modWave s u f)) u ∧ SameBytes s (bumpFree (modWave s u f)) :=
  ⟨⟨rfl, fun _ hv => modWave_get_other _ _ _ hv⟩, fun _ => rfl, rfl⟩

/-- A progress point is an effect on the issuing wave. -/
def progressed (k : Issue) (w : Wave) : Wave := if k.f.retry then w else { w with watchdog := 0 }

theorem progress_eq (s : State) (k : Issue) : progress s k = modWave s k.uid (progressed k) := by
  unfold progress progressed
  split
  · exact (modWave_same _ _ _ fun _ => rfl).symm
  · rfl

theorem progressed_only (k : Issue) (w : Wave) : progressed k w = { w with watchdog := (progressed k w).watchdog } := by
  unfold progressed
  split <;> rfl

/-! Retirement. -/

/-- Retirement of a wave whose issuing fragment still holds its quads. -/
theorem retire_get {i : Instr} {s : State} {k : Issue} {w : Wave} {f : Frag} (hw : assocGet s.waves k.uid = some w)
    (hf : w.frag? k.lead = some f) (hq : f.quads = k.f.quads) :
    assocGet (retire i k.uid k.lead s).waves k.uid = some (retiredWave i s.cycle k w) := by
  unfold retire
  rw [modWave_get _ hw, hf]
  simp only [hq]
  rfl

theorem retiredWave_frag? (i : Instr) (cycle : Nat) (k : Issue) (w : Wave) (q : Nat) :
    (retiredWave i cycle k w).frag? q = if q = k.lead then (w.frag? k.lead).map (·.retired i cycle) else w.frag? q :=
  modFrag_frag? (setClocks w k.f.quads (· + 1)) k.lead q (fun f => f.retired i cycle) fun _ => rfl

theorem retiredWave_only (i : Instr) (cycle : Nat) (k : Issue) (w : Wave) :
    retiredWave i cycle k w =
      { w with clocks := (retiredWave i cycle k w).clocks, frags := (retiredWave i cycle k w).frags } := rfl

theorem clockOf_retiredWave (i : Instr) (cycle : Nat) (k : Issue) (w : Wave) {q : Nat} (hq : q < 16) :
    clockOf (retiredWave i cycle k w) q = clockOf w q + if k.f.quads.getLsbD q then 1 else 0 := by
  refine (clockOf_setClocks w k.f.quads (· + 1) hq).trans ?_
  split <;> rfl

/-! Upkeep: what follows an event without the wave's own doing. -/

/-- Memory, contexts and the clock stay, and of every wave only what its fragments wait for differs. -/
structure Upkeep (s t : State) : Prop where
  only : t = { s with waves := t.waves, grids := t.grids, banks := t.banks, cores := t.cores, hub := t.hub, updates := t.updates }
  wave : ∀ u w, assocGet s.waves u = some w →
    ∃ w', assocGet t.waves u = some w' ∧ w' = { w with frags := w'.frags } ∧ w'.frags.length = w.frags.length

namespace Upkeep

theorem refl (s : State) : Upkeep s s := ⟨rfl, fun _ w h => ⟨w, h, rfl, rfl⟩⟩

theorem trans {s t r : State} (h : Upkeep s t) (h' : Upkeep t r) : Upkeep s r := by
  refine ⟨by rw [h'.only, h.only], fun u w hw => ?_⟩
  obtain ⟨w1, hw1, e1, l1⟩ := h.wave u w hw
  obtain ⟨w2, hw2, e2, l2⟩ := h'.wave u w1 hw1
  exact ⟨w2, hw2, by rw [e2, e1], l2.trans l1⟩

/-- Every wave stands as it was. -/
theorem of_waves {s t : State} (h : t = { s with grids := t.grids, banks := t.banks, cores := t.cores, hub := t.hub, updates := t.updates }) :
    Upkeep s t :=
  ⟨by rw [h], fun u w hw => ⟨w, by rw [h]; exact hw, rfl, rfl⟩⟩

theorem foldl {α : Type} {f : State → α → State} (hf : ∀ t a, Upkeep t (f t a)) (l : List α) (s : State) :
    Upkeep s (l.foldl f s) := by
  induction l generalizing s with
  | nil => exact refl s
  | cons a r ih => exact (hf s a).trans (ih _)

theorem sameBytes {s t : State} (h : Upkeep s t) : SameBytes s t := by
  rw [h.only]; exact ⟨fun _ => rfl, rfl⟩

theorem ctxs {s t : State} (h : Upkeep s t) : t.ctxs = s.ctxs := by rw [h.only]

end Upkeep

theorem modFrag_upkeep (s : State) (u q : Nat) (f : Frag → Frag) : Upkeep s (modFrag s u q f) := by
  refine ⟨rfl, fun v w hw => ?_⟩
  by_cases h : v = u
  · subst h
    exact ⟨w.modFrag q f, by simp [assocGet_mod_same, hw], rfl, by simp⟩
  · exact ⟨w, by simpa [h] using hw, rfl, rfl⟩

theorem modGrid_upkeep (s : State) (g : Nat) (f : Grid → Grid) : Upkeep s (modGrid s g f) := .of_waves rfl
theorem modBank_upkeep (s : State) (b : Nat) (f : Bank → Bank) : Upkeep s (modBank s b f) := .of_waves rfl
theorem modCore_upkeep (s : State) (p : Nat) (f : Core → Core) : Upkeep s (modCore s p f) := .of_waves rfl

/-! Barriers and semaphores wake their waiters. -/

theorem setBarrier_upkeep (s : State) (g k : Nat) (cluster : Bool) (id : Nat) (b : Barrier) :
    Upkeep s (setBarrier s g k cluster id b) := by
  cases cluster <;> exact .of_waves rfl

/-- A fragment that waits on the barrier goes on where its phase has ended. -/
def phaseWoken (cluster : Bool) (id : Nat) (phase : Word) (clk cycle : Nat) (f : Frag) : Frag :=
  match f.park with
  | .barrier c i t => if c = cluster ∧ i = id ∧ 0 < (phase - t).toInt then { f with park := .none, stamp := cycle, wakeClock := clk } else f
  | _ => f

theorem phaseWoken_keeps (cluster : Bool) (id : Nat) (phase : Word) (clk cycle : Nat) (f : Frag) :
    (phaseWoken cluster id phase clk cycle f).quads = f.quads ∧ (phaseWoken cluster id phase clk cycle f).pc = f.pc := by
  unfold phaseWoken
  split
  · split <;> exact ⟨rfl, rfl⟩
  · exact ⟨rfl, rfl⟩

/-- The waves of a barrier's participants, with their waiters awake. -/
theorem wakeBarrier_get (s : State) (g k : Nat) (cluster : Bool) (id : Nat) (phase : Word) (clk v : Nat) :
    assocGet (wakeBarrier s g k cluster id phase clk).waves v = (assocGet s.waves v).map fun w =>
      if ((participants s g k cluster).map (·.1)).contains v then
        { w with frags := w.frags.map (phaseWoken cluster id phase clk s.cycle) } else w := by
  refine Eq.trans ?_ (assocGet_mapVal s.waves (fun v w => if ((participants s g k cluster).map (·.1)).contains v then
    { w with frags := w.frags.map (phaseWoken cluster id phase clk s.cycle) } else w) v)
  unfold wakeBarrier
  dsimp only
  congr 2
  funext e
  split <;> rfl

theorem wakeBarrier_upkeep (s : State) (g k : Nat) (cluster : Bool) (id : Nat) (phase : Word) (clk : Nat) :
    Upkeep s (wakeBarrier s g k cluster id phase clk) := by
  refine ⟨rfl, fun v w hw => ?_⟩
  rw [wakeBarrier_get, hw]
  refine ⟨_, rfl, ?_, ?_⟩ <;> split <;> simp

theorem checkPhase_upkeep (s : State) (g k : Nat) (cluster : Bool) (id u clk : Nat) :
    Upkeep s (checkPhase s g k cluster id u clk) := by
  unfold checkPhase
  dsimp only
  split
  · exact (setBarrier_upkeep _ _ _ _ _ _).trans (wakeBarrier_upkeep _ _ _ _ _ _ _)
  · exact .refl s

theorem checkPhases_upkeep (s : State) (u : Nat) (w : Wave) (clk : Nat) : Upkeep s (checkPhases s u w clk) := by
  unfold checkPhases
  split
  · exact .refl s
  · exact (Upkeep.foldl (fun t id => checkPhase_upkeep _ _ _ _ _ _ _) _ s).trans
      (.foldl (fun t id => checkPhase_upkeep _ _ _ _ _ _ _) _ _)

theorem wakeOne_upkeep (s : State) (g k off : Nat) (e : Nat × Nat × Nat × Nat) : Upkeep s (wakeOne s g k off e) := by
  have acquire : ∀ t p, Upkeep t (semAcquire t p g k off) := fun t p => by
    unfold semAcquire
    split <;> exact .of_waves rfl
  have put : ∀ v, Upkeep s (wordPut s (.share g k off) v) := fun v => .of_waves rfl
  unfold wakeOne
  dsimp only
  split
  · exact ((put _).trans (acquire _ _)).trans (modFrag_upkeep _ _ _ _)
  · split
    · exact modFrag_upkeep _ _ _ _
    · exact .refl s

theorem closeTriple_upkeep (s : State) (w : Wave) : Upkeep s (closeTriple s w) := by
  unfold closeTriple
  split
  · exact .refl s
  · split
    · exact .refl s
    · split
      · exact .refl s
      · refine ((modGrid_upkeep s _ _).trans (.foldl (fun t o => .of_waves rfl) _ _)).trans (.foldl (fun t o => ?_) _ _)
        exact .foldl (fun t e => wakeOne_upkeep _ _ _ _ _) _ t

/-! Quads retire. -/

/-- Merging changes fragments, clocks and the order of accesses alone. -/
theorem mergeRegang_only (cycle : Nat) (fuel : Nat) (w : Wave) :
    mergeRegang cycle w fuel = { w with clocks := (mergeRegang cycle w fuel).clocks, frags := (mergeRegang cycle w fuel).frags,
                                        entries := (mergeRegang cycle w fuel).entries } := by
  induction fuel generalizing w with
  | zero => rfl
  | succ n ih =>
    unfold mergeRegang
    split
    · rfl
    · dsimp only
      rw [ih]
      rfl

theorem mergeRegang_nil {w : Wave} (cycle fuel : Nat) (h : w.frags = []) : mergeRegang cycle w fuel = w := by
  cases fuel with
  | zero => rfl
  | succ n => simp [mergeRegang, h]

/-- The wave whose quads `qs` have retired, before the upkeep that follows. -/
def quadsRetired (cycle : Nat) (w : Wave) (qs : QuadMask) (own : Bool) : Wave :=
  mergeRegang cycle
    { w with live := w.live &&& ~~~qs, frags := w.frags.filter fun f => f.quads &&& ~~~qs != 0,
             leaving := w.leaving ++ leavingLanes w qs own } 16

theorem quadsRetired_only (cycle : Nat) (w : Wave) (qs : QuadMask) (own : Bool) :
    let w' := quadsRetired cycle w qs own
    w' = { w with live := w.live &&& ~~~qs, leaving := w.leaving ++ leavingLanes w qs own, clocks := w'.clocks,
                  frags := w'.frags, entries := w'.entries } :=
  mergeRegang_only _ _ _

theorem quadsRetired_nil (cycle : Nat) {w : Wave} (qs : QuadMask) (own : Bool) (h : w.frags = []) :
    (quadsRetired cycle w qs own).frags = [] := by
  unfold quadsRetired
  rw [mergeRegang_nil _ _ (by simp [h])]
  simp [h]

theorem retireQuads_upkeep {s : State} {u : Nat} {w : Wave} (qs : QuadMask) (own : Bool) (hw : assocGet s.waves u = some w) :
    Upkeep (setWave s u (quadsRetired s.cycle w qs own)) (retireQuads s u qs own) := by
  have h := fun clk => checkPhases_upkeep (setWave s u (quadsRetired s.cycle w qs own)) u w clk
  unfold retireQuads
  rw [hw]
  dsimp only
  split
  · exact (h _).trans (closeTriple_upkeep _ _)
  · exact h _

/-- The wave once quads of it have retired: nothing else of it ends (02 R43). -/
theorem retireQuads_get {s : State} {u : Nat} {w : Wave} (qs : QuadMask) (own : Bool) (hw : assocGet s.waves u = some w) :
    ∃ w', assocGet (retireQuads s u qs own).waves u = some w' ∧ w'.live = w.live &&& ~~~qs ∧
      w' = { w with live := w'.live, leaving := w'.leaving, clocks := w'.clocks, frags := w'.frags, entries := w'.entries } ∧
      (w.frags = [] → w'.frags = []) := by
  obtain ⟨w', h, e, hl⟩ := (retireQuads_upkeep qs own hw).wave u _ (assocGet_set_same _ _ _)
  have e1 := quadsRetired_only s.cycle w qs own
  dsimp only at e1
  refine ⟨w', h, ?_, ?_, fun hn => ?_⟩
  · rw [e, e1]
  · rw [e, e1]
  · rw [quadsRetired_nil s.cycle qs own hn] at hl
    simpa using hl

/-! Trap entry. -/

/-- `takeTrap` of a fragment that can enter its handler at once, whichever fragment issues. -/
theorem takeTrap_enters {s : State} {k : Issue} {r : TrapRec} (hw : assocGet s.waves k.uid = some k.w)
    (hf : k.w.frag? k.lead = some k.f) (hc : assocGet s.ctxs k.w.ctx = some k.c) (hcan : CanTrap s k) :
    ∃ v us, WaveIs s (takeTrap s k.uid k.lead r) k.uid (opened s.cycle (trapMeets s.cycle k.w r) k.lead k.c v us) ∧
      (k.w.gran ≤ 30 → SameBytes s (takeTrap s k.uid k.lead r)) ∧ WindowOf v k.w k.f r := by
  obtain ⟨hwin, hwait, hrep, hlow, hbase, hres, hmap⟩ := hcan
  rw [takeTrap_open hw hc hwin hwait hrep hbase hlow hres]
  have hx : 30 < k.w.gran → FrameMapped (modWave s k.uid fun w => trapMeets s.cycle w r) k.c (trapMeets s.cycle k.w r) .write :=
    fun hg => ⟨(hmap hg).1, by
      obtain ⟨pa, leaf, h⟩ := (hmap hg).2
      exact ⟨pa, leaf, (xlate_congr rfl rfl k.c _ _).trans h⟩⟩
  obtain ⟨v, us, hi, hb, -, hv, -⟩ := openWindow_opens (r := r) (modWave_get (fun w => trapMeets s.cycle w r) hw)
    (show (trapMeets s.cycle k.w r).frag? k.lead = some k.f from hf) hc hx
  refine ⟨v, us, ⟨WavesMem.trans (t := modWave s k.uid fun w => trapMeets s.cycle w r) rfl hi.only, hi.here, fun x hx' => ?_⟩,
    fun hg => ⟨(hb hg).1, (hb hg).2⟩, ⟨hv.quads, hv.mask, hv.cc, hv.tpc, hv.blk, hv.fin, hv.left⟩⟩
  exact (hi.other x hx').trans (modWave_get_other _ _ _ hx')

/-- What a change of the wave must keep for its fragment's trap to be taken at once. -/
structure KeepsEntry (k : Issue) (g : Wave → Wave) : Prop where
  reserve : ∀ w, (g w).reserve = w.reserve ∧ (g w).core = w.core ∧ (g w).ctx = w.ctx
  window : (g k.w).window = k.w.window
  trapWait : (g k.w).trapWait = k.w.trapWait
  report : (g k.w).report = k.w.report
  gran : (g k.w).gran = k.w.gran
  frame : (g k.w).frame = k.w.frame
  low : lowerDue k.c (g k.w) k.lead = lowerDue k.c k.w k.lead

/-- A change of fragments from lead `q` on keeps the traps of lower quads. -/
theorem lowerDue_modFrag (c : Context) (w : Wave) (q : Nat) (f : Frag → Frag) (hf : ∀ x, (f x).quads = x.quads) :
    lowerDue c (w.modFrag q f) q = lowerDue c w q := by
  unfold lowerDue
  simp only [Wave_modFrag_frags, List.any_map]
  congr 1
  funext x
  simp only [Function.comp]
  split
  · rename_i h; simp [hf, h]
  · rfl

theorem CanTrap.modWave {s : State} {k : Issue} {g : Wave → Wave} (h : CanTrap s k) (hg : KeepsEntry k g) {f : Frag}
    (hq : f.quads = k.f.quads) : CanTrap (modWave s k.uid g) ⟨k.uid, g k.w, f, k.c⟩ := by
  obtain ⟨hwin, hwait, hrep, hlow, hbase, hres, hmap⟩ := h
  have hlead : (Issue.mk k.uid (g k.w) f k.c).lead = k.lead := congrArg leadQuad hq
  have hfa : frameAddr k.c (g k.w) = frameAddr k.c k.w := by
    unfold frameAddr; rw [(hg.reserve k.w).2.1, hg.frame]
  have hneed : reserveNeed (g k.w) = reserveNeed k.w := by unfold reserveNeed holds30 holds31; rw [hg.gran]
  refine ⟨hg.window.trans hwin, hg.trapWait.trans hwait, hg.report.trans hrep, ?_, hbase, ?_, fun hgr => ?_⟩
  · rw [hlead]; exact hg.low.trans hlow
  · show reserveNeed (g k.w) = 0 ∨ trapLine (Machine.modWave s k.uid g) (g k.w).core = [] ∧
      reserveUsed (Machine.modWave s k.uid g) (g k.w).core + reserveNeed (g k.w) ≤ 8
    rw [hneed, (hg.reserve k.w).2.1, trapLine_modWave _ _ _ _ fun w => (hg.reserve w).2.2, reserveUsed_modWave _ _ _ _ hg.reserve]
    exact hres
  · obtain ⟨hm, pa, leaf, hx⟩ := hmap (by rw [← hg.gran]; exact hgr)
    unfold FrameMapped
    simp only
    rw [hfa]
    exact ⟨hm, pa, leaf, (xlate_congr rfl rfl k.c _ _).trans hx⟩

/-- A trap that enters at once stands as `Trapped` says, where the wave before it is the state's but for changes of the fragment
that the handler's start overrides. -/
theorem trapped_takeTrap {s : State} {k : Issue} {g : Wave → Wave} {f : Frag} {cause : Cause} {rep hdr : Bool} {tlm : LaneMask}
    {tval : VA} (hw : assocGet s.waves k.uid = some k.w) (hc : assocGet s.ctxs k.w.ctx = some k.c) (hcan : CanTrap s k)
    (hg : KeepsEntry k g) (hfr : (g k.w).frag? k.lead = some f) (hq : f.quads = k.f.quads)
    (hb : f.blk = k.f.blk ∧ f.fin = k.f.fin ∧ f.left = k.f.left)
    (ho : ∀ q, q ≠ k.lead → (g k.w).frag? q = k.w.frag? q)
    (hk : g k.w = { k.w with frags := (g k.w).frags }) :
    Trapped s (bumpFree (takeTrap (modWave s k.uid g) k.uid k.lead ⟨cause, tlm, tval, rep, k.f.pc, hdr⟩)) k cause rep tlm tval := by
  have hlead : (Issue.mk k.uid (g k.w) f k.c).lead = k.lead := congrArg leadQuad hq
  have hget : assocGet (modWave s k.uid g).ctxs (g k.w).ctx = some k.c := by rw [(hg.reserve k.w).2.2]; exact hc
  obtain ⟨v, us, hi, hsame, hv⟩ := takeTrap_enters (r := ⟨cause, tlm, tval, rep, k.f.pc, hdr⟩) (s := modWave s k.uid g)
    (k := ⟨k.uid, g k.w, f, k.c⟩) (modWave_get g hw) (hlead ▸ hfr) hget (hcan.modWave hg hq)
  rw [hlead] at hi hsame
  dsimp only at hi hsame hv
  generalize htk : takeTrap (modWave s k.uid g) k.uid k.lead ⟨cause, tlm, tval, rep, k.f.pc, hdr⟩ = T at hi hsame ⊢
  have honly : WavesMem s T := WavesMem.trans (t := modWave s k.uid g) rfl hi.only
  refine ⟨?_, fun x hx => (hi.other x hx).trans (modWave_get_other _ _ _ hx), fun hgr => ?_, _, handlerFrag
    (max (s.cycle + 1) (g k.w).boundMax) k.c f, v, hi.here, ?_, rfl, rfl, rfl, rfl, rfl, hq, rfl, rfl, rfl, hv.quads.trans hq, ?_, ?_,
    hv.tpc, hv.blk.trans hb.1, hv.fin.trans hb.2.1, hv.left.trans hb.2.2, ?_, ?_, ?_, ?_, rfl, fun q hne => ?_⟩
  · unfold WavesMem at honly
    rw [honly]; rfl
  · exact hsame (by rw [hg.gran]; exact hgr)
  · rw [opened_frag?, if_pos rfl]
    show ((g k.w).frag? k.lead).map _ = _
    rw [hfr]; rfl
  · rw [hv.mask, hk]
  · rw [hv.cc, hk]
  · show (g k.w).mask = _
    rw [hk]
  · show (g k.w).cc = _
    rw [hk]
  · show (g k.w).live = _
    rw [hk]
  · show (g k.w).clocks = _
    rw [hk]
  · rw [opened_frag?, if_neg hne]
    exact ho q hne

end Sys2Proof.Machine
end

section
/-!
SUPPORT. `REGANG` (02 R40, R41; 10 R234; 13 R316): the fragments parked for one address and mask become one, once.
-/

namespace Sys2Proof.Machine

/-- The fragment that takes the place of the group of `f`. -/
def mergedFrag (cycle : Nat) (w : Wave) (f : Frag) : Frag :=
  { (((w.regangGroup f).find? fun x => leadQuad x.quads == leadQuad (unionQuads (w.regangGroup f))).getD f) with
    quads := unionQuads (w.regangGroup f), pc := f.pc + 4, park := .none, retry := false, only := none,
    stamp := (w.regangGroup f).foldl (fun m x => min m x.stamp) f.stamp,
    readyAt := max (cycle + 1 + match f.park.regangAt with | some (_, n) => n | none => 0) w.boundMax,
    waited := 0, promoted := none, stall := 0 }

/-- Entry `e` comes before what the fragment of quads `qs` issues from number `n` on, where an acquire of one of them does. -/
def lateEntry (n : Nat) (qs : QuadMask) (e : Entry) : Entry :=
  if e.after.any fun a => a.2 &&& qs != 0 then { e with after := e.after ++ [(n, qs)] } else e

theorem lateEntry_eq (n : Nat) (qs : QuadMask) (e : Entry) :
    lateEntry n qs e = if ∃ a ∈ e.after, a.2 &&& qs ≠ 0 then { e with after := e.after ++ [(n, qs)] } else e := by
  refine if_congr (List.any_eq_true.trans (exists_congr fun a => and_congr_right fun _ => ?_)) rfl rfl
  exact bne_iff_ne

/-- The wave once the group of `f` has merged. -/
def regangMerged (cycle : Nat) (w : Wave) (f : Frag) : Wave :=
  let qs := unionQuads (w.regangGroup f)
  { setClocks w qs fun _ => maxClock w qs + 1 with
    frags := mergedFrag cycle w f :: w.frags.filter fun x => !(x.quads &&& qs != 0),
    entries := w.entries.map (lateEntry w.nextSeq qs) }

theorem mergeRegang_ready {w : Wave} {f : Frag} (cycle fuel : Nat) (h : w.frags.find? w.regangReady = some f) :
    mergeRegang cycle w (fuel + 1) = mergeRegang cycle (regangMerged cycle w f) fuel := by
  rw [mergeRegang, h]
  rfl

theorem mergeRegang_waits {w : Wave} (cycle fuel : Nat) (h : ∀ f ∈ w.frags, w.regangReady f = false) :
    mergeRegang cycle w fuel = w := by
  cases fuel with
  | zero => rfl
  | succ n => rw [mergeRegang, List.find?_eq_none.2 fun f hf => by simp [h f hf]]

theorem regangReady_parked {w : Wave} {f : Frag} (h : w.regangReady f = true) :
    ∃ m g, f.park.regangAt = some (m, g) ∧ unionQuads (w.regangGroup f) = m &&& w.live := by
  unfold Wave.regangReady at h
  split at h
  · rename_i m g hp
    exact ⟨m, g, hp, by simpa using h⟩
  · simp at h

/-- A quad of a union is a quad of one of its members. -/
theorem unionQuads_get (fs : List Frag) (q : Nat) : (unionQuads fs).getLsbD q = fs.any fun f => f.quads.getLsbD q := by
  have key : ∀ m : QuadMask, (fs.foldl (fun m f => m ||| f.quads) m).getLsbD q = (m.getLsbD q || fs.any fun f => f.quads.getLsbD q) := by
    induction fs with
    | nil => simp
    | cons f r ih => intro m; rw [List.foldl_cons, ih]; simp [Bool.or_assoc]
  exact (key 0).trans (by simp)

theorem unionQuads_zero {fs : List Frag} (h : ∀ f ∈ fs, f.quads = 0) : unionQuads fs = 0 := by
  refine BitVec.eq_of_getLsbD_eq fun q _ => ?_
  rw [unionQuads_get]
  simpa using fun f hf => by simp [h f hf]

/-- A member none of whose quads is in the union has no quad. -/
theorem quads_zero_of_mem {fs : List Frag} {f : Frag} (hf : f ∈ fs) (h : f.quads &&& unionQuads fs = 0) : f.quads = 0 := by
  refine BitVec.eq_of_getLsbD_eq fun q _ => ?_
  have hq : (f.quads &&& unionQuads fs).getLsbD q = false := by rw [h]; simp
  rw [BitVec.getLsbD_and, unionQuads_get] at hq
  by_contra hne
  have hf1 : f.quads.getLsbD q = true := by simpa using hne
  simp only [hf1, Bool.true_and, List.any_eq_false] at hq
  exact hq f hf hf1

/-- No quad is without a home: where the parked fragments hold no quad, merging changes no other fragment, clock or entry. -/
theorem mergeRegang_empty (cycle fuel : Nat) (w : Wave) (h : ∀ x ∈ w.frags, x.park.regangAt.isSome = true → x.quads = 0) :
    let w' := mergeRegang cycle w fuel
    w'.entries = w.entries ∧ (∀ q, q < 16 → clockOf w' q = clockOf w q) ∧ ∀ x ∈ w.frags, x ∈ w'.frags := by
  induction fuel generalizing w with
  | zero => exact ⟨rfl, fun _ _ => rfl, fun _ hx => hx⟩
  | succ n ih =>
    cases hf : w.frags.find? w.regangReady with
    | none =>
      rw [mergeRegang_waits _ _ fun f hm => by simpa using List.find?_eq_none.1 hf f hm]
      exact ⟨rfl, fun _ _ => rfl, fun _ hx => hx⟩
    | some f =>
      have hqs : unionQuads (w.regangGroup f) = 0 := unionQuads_zero fun x hx => by
        obtain ⟨hx, hp⟩ := List.mem_filter.1 hx
        simp only [Bool.and_eq_true] at hp
        exact h x hx hp.1.2
      have hfr : (regangMerged cycle w f).frags = mergedFrag cycle w f :: w.frags := by simp [regangMerged, hqs]
      have hen : (regangMerged cycle w f).entries = w.entries := by
        simp only [regangMerged, hqs]
        exact (List.map_congr_left fun e _ => by simp [lateEntry]).trans (List.map_id _)
      rw [mergeRegang_ready _ _ hf]
      obtain ⟨he, hc, hm⟩ := ih (regangMerged cycle w f) fun x hx hp => by
        rw [hfr] at hx
        rcases List.mem_cons.1 hx with rfl | hx
        · exact absurd hp Bool.false_ne_true
        · exact h x hx hp
      refine ⟨he.trans hen, fun q hq => (hc q hq).trans ?_, fun x hx => hm x ?_⟩
      · exact (clockOf_setClocks w _ (fun _ => maxClock w (unionQuads (w.regangGroup f)) + 1) hq).trans (by simp [hqs])
      · rw [hfr]; exact List.mem_cons_of_mem _ hx

/-! One group. -/

/-- The wave's fragments that are parked in `REGANG`. -/
def Wave.ganged (w : Wave) : List Frag := w.frags.filter fun x => x.park.regangAt.isSome

/-- Every parked fragment of the wave waits at `pc` for the quads `m`. -/
def OneGang (w : Wave) (pc : VA) (m : QuadMask) (gap : Nat) : Prop :=
  ∀ x ∈ w.frags, x.park.regangAt.isSome = true → x.pc = pc ∧ x.park.regangAt = some (m, gap)

section
variable {w : Wave} {pc : VA} {m : QuadMask} {gap : Nat} (h : OneGang w pc m gap)
include h

theorem OneGang.group {f : Frag} (hf : f ∈ w.frags) (hp : f.park.regangAt.isSome = true) : w.regangGroup f = w.ganged := by
  refine List.filter_congr fun x hx => ?_
  by_cases hxp : x.park.regangAt.isSome = true
  · simp [h x hx hxp, h f hf hp]
  · simp [hxp]

theorem OneGang.ready {f : Frag} (hf : f ∈ w.frags) :
    w.regangReady f = (f.park.regangAt.isSome && unionQuads w.ganged == (m &&& w.live)) := by
  by_cases hp : f.park.regangAt.isSome = true
  · unfold Wave.regangReady
    rw [h.group hf hp, (h f hf hp).2]
    simp
  · rw [Bool.eq_iff_iff]
    refine ⟨fun hr => ?_, fun hr => by simp [hp] at hr⟩
    obtain ⟨m', g', hs, -⟩ := regangReady_parked hr
    simp [hs] at hp

/-- Quads are missing: the group stays parked. -/
theorem OneGang.waits (cycle fuel : Nat) (hq : unionQuads w.ganged ≠ m &&& w.live) : mergeRegang cycle w fuel = w :=
  mergeRegang_waits cycle fuel fun f hf => by simp [h.ready hf, hq]

/-- All quads are there: the group becomes one fragment, and the rest stays. -/
theorem OneGang.merges (cycle fuel : Nat) (hq : unionQuads w.ganged = m &&& w.live) (hn : w.ganged ≠ []) :
    ∃ f ∈ w.frags, f.park.regangAt.isSome = true ∧
      let w' := mergeRegang cycle w (fuel + 1)
      w'.entries = w.entries.map (lateEntry w.nextSeq (unionQuads w.ganged)) ∧
      (∀ q, q < 16 → clockOf w' q = if (unionQuads w.ganged).getLsbD q then maxClock w (unionQuads w.ganged) + 1 else clockOf w q) ∧
      mergedFrag cycle w f ∈ w'.frags ∧ ∀ x ∈ w.frags, x.quads &&& unionQuads w.ganged = 0 → x ∈ w'.frags := by
  obtain ⟨y, hy⟩ := List.exists_mem_of_ne_nil _ hn
  obtain ⟨hyf, hyp⟩ := List.mem_filter.1 hy
  obtain ⟨f, hfind⟩ : ∃ f, w.frags.find? w.regangReady = some f :=
    Option.isSome_iff_exists.1 (List.find?_isSome.2 ⟨y, hyf, by rw [h.ready hyf, hyp, hq]; simp⟩)
  have hf : f ∈ w.frags := List.mem_of_find?_eq_some hfind
  have hp : f.park.regangAt.isSome = true := by
    have := List.find?_some hfind
    rw [h.ready hf] at this
    exact (Bool.and_eq_true _ _ ▸ this).1
  have hg := h.group hf hp
  refine ⟨f, hf, hp, ?_⟩
  rw [mergeRegang_ready _ _ hfind]
  obtain ⟨he, hc, hm⟩ := mergeRegang_empty cycle fuel (regangMerged cycle w f) fun x hx hxp => by
    simp only [regangMerged, List.mem_cons, List.mem_filter] at hx
    rcases hx with rfl | ⟨hx, hz⟩
    · exact absurd hxp Bool.false_ne_true
    · rw [hg] at hz
      exact quads_zero_of_mem (fs := w.ganged) (List.mem_filter.2 ⟨hx, hxp⟩) (by simpa using hz)
  dsimp only
  refine ⟨?_, fun q hlt => ?_, hm _ List.mem_cons_self, fun x hx hz => hm x (List.mem_cons_of_mem _ ?_)⟩
  · rw [he, regangMerged, hg]
  · rw [hc q hlt, ← hg]
    exact clockOf_setClocks w _ (fun _ => maxClock w (unionQuads (w.regangGroup f)) + 1) hlt
  · rw [hg]
    exact List.mem_filter.2 ⟨hx, by simp [hz]⟩

end

end Sys2Proof.Machine
end

section
/-!
SUPPORT. `EXIT`, `YIELD`, `PCHK` and `REGANG` issue (02 R40 to R43; 06 R156; 11 R280, R289; 15 R375).
-/

namespace Sys2Proof.Machine

/-! `EXIT`. -/

theorem exit_retires {s : State} {k : Issue} (h : MayRun .exit s k) (hw : k.w.window = none)
    (hl : k.w.live = k.f.quads → faultListEmpty k.w = true) :
    exec .exit s = .next (bumpFree (retireQuads s k.uid k.f.quads true)) := by
  show execExit s = _
  unfold execExit
  rw [issueWith_runs _ h]
  have : ¬(k.w.live = k.f.quads ∧ (!faultListEmpty k.w) = true) := fun hc => by simp [hl hc.1] at hc
  simp only [hw, Option.isSome_none, Bool.false_eq_true, if_false, if_neg this]
  rfl

theorem exit_ends {s : State} {k : Issue} (h : MayRun .exit s k) (hw : k.w.window.isSome = true) :
    exec .exit s = .next (bumpFree (endWave s k.uid (some 1))) := by
  show execExit s = _
  unfold execExit
  rw [issueWith_runs _ h]
  simp [hw, Eff.finish]

theorem exit_reports {s : State} {k : Issue} (h : MayRun .exit s k) (hw : k.w.window = none) (hl : k.w.live = k.f.quads)
    (hf : faultListEmpty k.w = false) : exec .exit s = .next (bumpFree (faultReport s k.uid k.lead)) := by
  show execExit s = _
  unfold execExit
  rw [issueWith_runs _ h]
  simp [hw, hl, hf, Eff.finish]

/-! The end of a wave. -/

/-- The wave with its faulted and held lanes discarded. -/
def faultsDiscarded (w : Wave) : Wave :=
  { w with entries := (w.entries.map fun e => { e with lanes := e.lanes.map fun l => match l.2 with
      | .faulted _ _ _ => (l.1, .done) | .held => (l.1, .done) | _ => l }).filter fun e => e.lanes.any fun l => l.2 != .done }

theorem discardOp_upkeep (s : State) (w : Wave) (e : Entry) : Upkeep s (discardOp s w e) := by
  unfold discardOp
  split
  · unfold fillUnwritten
    split
    · exact .refl s
    · exact (modBank_upkeep s _ _).trans (.foldl (fun t x => modGrid_upkeep t _ _) _ _)
  · exact modBank_upkeep _ _ _
  · exact modBank_upkeep _ _ _
  · exact .refl s

theorem discardFaults_upkeep {s : State} {u : Nat} {w : Wave} (hw : assocGet s.waves u = some w) :
    Upkeep (setWave s u (faultsDiscarded w)) (discardFaults s u) := by
  unfold discardFaults
  rw [hw]
  exact .foldl (fun t e => discardOp_upkeep t w e) _ _

/-- A lane in flight is in flight still. -/
theorem faultsDiscarded_flying (w : Wave) : (faultsDiscarded w).entries.any Entry.flying = w.entries.any Entry.flying := by
  have lane : ∀ l : Nat × LaneSt, ((match l.2 with
      | .faulted _ _ _ => (l.1, LaneSt.done) | .held => (l.1, .done) | _ => l).2.flying) = l.2.flying := by
    rintro ⟨j, _ | _ | _ | _⟩ <;> rfl
  have fl : ∀ e : Entry, e.flying = e.lanes.any fun l => l.2.flying := fun _ => rfl
  have entry : ∀ e : Entry, (Entry.flying { e with lanes := e.lanes.map fun l => match l.2 with
      | .faulted _ _ _ => (l.1, .done) | .held => (l.1, .done) | _ => l }) = e.flying := by
    intro e
    rw [fl, fl, List.any_map]
    exact congrArg _ (funext fun l => lane l)
  have keep : ∀ e : Entry, e.flying = true → (e.lanes.any fun l => l.2 != .done) = true := by
    intro e he
    obtain ⟨l, hl, hfl⟩ := List.any_eq_true.1 (fl e ▸ he)
    refine List.any_eq_true.2 ⟨l, hl, ?_⟩
    cases hs : l.2 <;> simp [hs, LaneSt.flying] at hfl ⊢
  unfold faultsDiscarded
  dsimp only
  rw [List.any_filter, List.any_map]
  refine congrArg _ (funext fun e => ?_)
  rw [Function.comp, ← entry e]
  cases hf : Entry.flying _
  · simp
  · simp [keep _ hf]

/-- What the end of a wave without resumption leaves of it: nothing runs, and its quads have retired unless a batch is in flight
(11 R289). -/
theorem endWave_result {s : State} {u : Nat} {w : Wave} {c : Context} (x : Nat) (hw : assocGet s.waves u = some w)
    (hc : assocGet s.ctxs w.ctx = some c) :
    ∃ w' c', assocGet (endWave s u (some x)).waves u = some w' ∧ w'.killed = true ∧ w'.frags = [] ∧
      w'.live = (if w.entries.any Entry.flying then w.live else 0) ∧
      assocGet (endWave s u (some x)).ctxs w.ctx = some c' ∧ c'.cerr = x := by
  unfold endWave
  rw [hw]
  dsimp only
  generalize h1 : w.frags.foldl (fun t f => match f.park with | .mcast y q e => dropClaimed t w y q e.id | _ => t) (discardFaults s u) = s1
  have up1 : Upkeep (setWave s u (faultsDiscarded w)) s1 := by
    rw [← h1]
    refine (discardFaults_upkeep hw).trans (.foldl (fun t f => ?_) _ _)
    split
    · exact modBank_upkeep _ _ _
    · exact .refl t
  obtain ⟨w1, hw1, e1, -⟩ := up1.wave u _ (assocGet_set_same _ _ _)
  generalize h2 : modWave s1 u _ = s2
  obtain ⟨w2, hw2, hk2, hf2, hl2, he2⟩ : ∃ w2, assocGet s2.waves u = some w2 ∧ w2.killed = true ∧ w2.frags = [] ∧
      w2.live = w.live ∧ w2.entries.any Entry.flying = w.entries.any Entry.flying :=
    ⟨_, by rw [← h2]; exact modWave_get _ hw1, rfl, rfl, by rw [e1]; rfl, by
      rw [e1]; exact faultsDiscarded_flying w⟩
  generalize h4 : modWg (modCore s2 w.core _) w.grid w.wg _ = s4
  have up4 : Upkeep s2 s4 := by
    rw [← h4]
    exact (modCore_upkeep s2 _ _).trans (modGrid_upkeep _ _ _)
  obtain ⟨w4, hw4, e4, l4⟩ := up4.wave u w2 hw2
  have hf4 : w4.frags = [] := by simpa [hf2] using l4
  have hx4 : s4.ctxs = s.ctxs := by
    rw [up4.ctxs, ← h2]
    exact up1.ctxs
  obtain ⟨w5, hw5, hk5, hf5, hl5, hx5⟩ : ∃ w5, assocGet (killQuads s4 u).waves u = some w5 ∧ w5.killed = true ∧ w5.frags = [] ∧
      w5.live = (if w.entries.any Entry.flying then w.live else 0) ∧ (killQuads s4 u).ctxs = s.ctxs := by
    have hk4 : w4.killed = true := by rw [e4]; exact hk2
    have hl4 : w4.live = w.live := by rw [e4]; exact hl2
    have he4 : w4.entries.any Entry.flying = w.entries.any Entry.flying := by rw [e4]; exact he2
    unfold killQuads
    rw [hw4]
    dsimp only
    rw [hk4, hl4, he4]
    by_cases hfly : w.entries.any Entry.flying = true
    · simp only [hfly, Bool.not_true, Bool.and_false, if_true]
      exact ⟨w4, hw4, hk4, hf4, hl4, hx4⟩
    · by_cases hz : w.live = 0
      · simp only [hz, bne_self_eq_false, Bool.and_false, Bool.false_and, ite_self]
        exact ⟨w4, hw4, hk4, hf4, hl4.trans hz, hx4⟩
      · have hif : (true && w.live != 0 && !w.entries.any Entry.flying) = true := by
          rw [Bool.eq_false_iff.2 hfly, bne_iff_ne.2 hz]; rfl
        rw [if_pos hif, if_neg hfly]
        obtain ⟨w5, hw5, hl5, e5, hn5⟩ := retireQuads_get w.live false hw4
        refine ⟨w5, hw5, by rw [e5]; exact hk4, hn5 hf4, ?_, ?_⟩
        · rw [hl5, hl4]; simp
        · rw [(retireQuads_upkeep w.live false hw4).ctxs]; exact hx4
  generalize h6 : modCtx (killQuads s4 u) w.ctx _ = s6
  have hwork := writeCsb_work s6 w.ctx
  obtain ⟨c6, hc6, hce⟩ : ∃ c6, assocGet s6.ctxs w.ctx = some c6 ∧ c6.cerr = x := by
    rw [← h6]
    exact ⟨_, by rw [modCtx_ctxs, assocGet_mod_same, hx5, hc]; rfl, rfl⟩
  obtain ⟨c', hc', ec⟩ := hwork.ctx _ _ hc6
  refine ⟨w5, c', ?_, hk5, hf5, hl5, hc', by rw [ec]; exact hce⟩
  rw [hwork.only, ← h6]
  exact hw5

/-! A fault report. -/

/-- The reporting fragment stands at its instruction, to issue it again. -/
def reporting (f : Frag) : Frag := { f with retry := true, park := .none, waited := 0, promoted := none }

/-- An entry with a lowest faulted lane is in the fault list. -/
theorem stuck_of_lowest {e : Entry} (h : e.lowest.isSome = true) : e.stuck = true := by
  by_contra hs
  unfold Entry.lowest at h
  dsimp only at h
  rw [List.filterMap_eq_nil_iff.2] at h
  · simp at h
  · intro l hl
    have hl' := List.any_eq_false.1 (Bool.eq_false_iff.2 hs) l hl
    cases hst : l.2 <;> simp [hst] at hl' ⊢

/-- A report that firmware services nothing of is the trap of its fragment. -/
theorem faultReport_traps {s : State} {k : Issue} {e : Entry} {l : Nat} {c : Cause} {a p : VA} (hk : getIssue s = some k)
    (he : (k.w.entries.filter Entry.stuck).head? = some e) (hl : e.lowest = some (l, c, a, p))
    (hs : ∀ e ∈ k.w.entries, e.stuck = true → e.lowest.isSome = true ∧ e.serviced k.c = false) :
    faultReport s k.uid k.lead = takeTrap (modWave s k.uid fun w => w.modFrag k.lead reporting) k.uid k.lead
      ⟨c, (k.w.entries.filter Entry.stuck).foldl (fun m e => m ||| e.faultedLanes) 0, a, true, k.f.pc, k.f.header⟩ := by
  obtain ⟨-, hw, hf, hc⟩ := getIssue_spec hk
  have hany : (k.w.entries.any fun e => e.lowest.isSome && e.serviced k.c) = false := by
    refine List.any_eq_false.2 fun d hd hx => ?_
    obtain ⟨hlo, hse⟩ := Bool.and_eq_true_iff.1 hx
    simp [(hs d hd (stuck_of_lowest hlo)).2] at hse
  have hbad : (k.w.entries.filter fun e => e.stuck && !e.serviced k.c) = k.w.entries.filter Entry.stuck := by
    refine List.filter_congr fun d hd => ?_
    by_cases hst : d.stuck = true
    · simp [hst, (hs d hd hst).2]
    · simp [hst]
  have hfind : (k.w.entries.filter Entry.stuck).findSome? Entry.lowest = some (l, c, a, p) := by
    cases hes : k.w.entries.filter Entry.stuck with
    | nil => simp [hes] at he
    | cons d r =>
      obtain rfl : d = e := by simpa [hes] using he
      simp [hl]
  have hfr : (k.w.modFrag k.lead reporting).frag? k.lead = some (reporting k.f) := by
    rw [modFrag_frag? _ _ _ reporting fun _ => rfl, if_pos rfl, hf]; rfl
  have hrep : faultReport s k.uid k.lead = reportTrap (modFrag s k.uid k.lead reporting) k.uid k.lead := by
    unfold faultReport
    rw [hw]
    simp only [hc, hany]
    rfl
  rw [hrep]
  unfold reportTrap
  have hg : assocGet (modFrag s k.uid k.lead reporting).waves k.uid = some (k.w.modFrag k.lead reporting) :=
    modWave_get (fun w => w.modFrag k.lead reporting) hw
  have hx : assocGet (modFrag s k.uid k.lead reporting).ctxs (k.w.modFrag k.lead reporting).ctx = some k.c := hc
  rw [hg]
  dsimp only
  rw [hfr, hx]
  dsimp only
  rw [Wave_modFrag_entries, hbad, hfind]
  rfl

/-- Parking or waking the issuing fragment keeps what its trap rests on. -/
theorem keepsEntry_modFrag (k : Issue) (f : Frag → Frag) (hf : ∀ x, (f x).quads = x.quads) :
    KeepsEntry k fun w => w.modFrag k.lead f :=
  ⟨fun _ => ⟨rfl, rfl, rfl⟩, rfl, rfl, rfl, rfl, rfl, lowerDue_modFrag _ _ _ _ hf⟩

theorem faultReport_trapped {s : State} {k : Issue} {e : Entry} {l : Nat} {c : Cause} {a p : VA} (hk : getIssue s = some k)
    (he : (k.w.entries.filter Entry.stuck).head? = some e) (hl : e.lowest = some (l, c, a, p))
    (hs : ∀ e ∈ k.w.entries, e.stuck = true → e.lowest.isSome = true ∧ e.serviced k.c = false) (hcan : CanTrap s k) :
    Trapped s (bumpFree (faultReport s k.uid k.lead)) k c true
      ((k.w.entries.filter Entry.stuck).foldl (fun m e => m ||| e.faultedLanes) 0) a := by
  obtain ⟨-, hw, hf, hc⟩ := getIssue_spec hk
  have hfr := fun q => modFrag_frag? k.w k.lead q reporting fun _ => rfl
  rw [faultReport_traps hk he hl hs]
  refine trapped_takeTrap hw hc hcan (keepsEntry_modFrag k reporting fun _ => rfl) (f := reporting k.f) ?_ rfl ⟨rfl, rfl, rfl⟩
    (fun q hq => (hfr q).trans (if_neg hq)) rfl
  rw [hfr, if_pos rfl, hf]; rfl

/-! `YIELD` and `PCHK`. -/

/-- A fragment that answers a pre-emption request once its instruction has retired. -/
def preempted (req : Bool) (f : Frag) : Frag := if req then { f with park := .preempt } else f

/-- The issuing wave of a pre-emption point: `g` is what the instruction itself does to it. -/
def pointPassed (i : Instr) (cycle : Nat) (req : Bool) (k : Issue) (g : Wave → Wave) (w : Wave) : Wave :=
  (retiredWave i cycle k (g w)).modFrag k.lead (preempted req)

/-- A pre-emption point goes on, and parks where a request is set (11 R280). -/
theorem point_completes {i : Instr} {s : State} {k : Issue} (g : Wave → Wave) (hk : getIssue s = some k) {f : Frag}
    (hf : (g k.w).frag? k.lead = some f) (hq : f.quads = k.f.quads) :
    let t := Eff.finish (if seesReq s k then parkPreempt i k (modWave s k.uid g) else .done (modWave s k.uid g)) i k
    OnlyWave s t k.uid ∧ SameBytes s t ∧
      assocGet t.waves k.uid = some (pointPassed i s.cycle (seesReq s k) k g k.w) := by
  have hw := (getIssue_spec hk).2.1
  have hget := retire_get (i := i) (modWave_get g hw) hf hq
  have ht : Eff.finish (if seesReq s k then parkPreempt i k (modWave s k.uid g) else .done (modWave s k.uid g)) i k =
      bumpFree (modFrag (retire i k.uid k.lead (modWave s k.uid g)) k.uid k.lead (preempted (seesReq s k))) := by
    cases seesReq s k
    · have hid : ∀ w : Wave, w.modFrag k.lead (preempted false) = w := fun w => by simp [Wave.modFrag, preempted]
      exact congrArg bumpFree (modWave_same _ _ _ hid).symm
    · rfl
  have honly : OnlyWave s (bumpFree (modFrag (retire i k.uid k.lead (modWave s k.uid g)) k.uid k.lead (preempted (seesReq s k)))) k.uid ∧
      SameBytes s (bumpFree (modFrag (retire i k.uid k.lead (modWave s k.uid g)) k.uid k.lead (preempted (seesReq s k)))) := by
    unfold modFrag retire
    rw [modWave_modWave, modWave_modWave]
    exact modWave_onlyWave _ _ _
  dsimp only
  rw [ht]
  exact ⟨honly.1, honly.2, modWave_get (fun w => w.modFrag k.lead (preempted (seesReq s k))) hget⟩

theorem pointPassed_frag? (i : Instr) (cycle : Nat) (req : Bool) (k : Issue) (g : Wave → Wave) (w : Wave) :
    (pointPassed i cycle req k g w).frag? k.lead =
      ((g w).frag? k.lead).map fun f => preempted req (f.retired i cycle) := by
  refine (modFrag_frag? _ _ _ (preempted req) fun f => by cases req <;> rfl).trans ?_
  rw [if_pos rfl, retiredWave_frag?, if_pos rfl, Option.map_map]
  rfl

theorem pointPassed_only (i : Instr) (cycle : Nat) (req : Bool) (k : Issue) (g : Wave → Wave) (w : Wave) :
    pointPassed i cycle req k g w = { g w with clocks := (pointPassed i cycle req k g w).clocks,
                                               frags := (pointPassed i cycle req k g w).frags } := rfl

/-- What a pre-emption point leaves of its fragment. -/
theorem preempted_retired (req : Bool) (i : Instr) (cycle : Nat) (f : Frag) :
    let f' := preempted req (f.retired i cycle)
    f'.quads = f.quads ∧ f'.pc = f.pc + BitVec.ofNat 80 (2 * i.parcels) ∧ f'.park = (if req then .preempt else .none) ∧
      f'.stamp = (if f.retry && f.waited == 0 then cycle else f.stamp) := by
  cases req <;> exact ⟨rfl, rfl, rfl, rfl⟩

/-- A pre-emption point, with the fragment `f` that its instruction's own effect leaves. -/
theorem point_result {i : Instr} {s : State} {k : Issue} (g : Wave → Wave) (hk : getIssue s = some k) {f : Frag}
    (hf : (g k.w).frag? k.lead = some f) (hq : f.quads = k.f.quads) (hpc : f.pc = k.f.pc) :
    let t := Eff.finish (if seesReq s k then parkPreempt i k (modWave s k.uid g) else .done (modWave s k.uid g)) i k
    OnlyWave s t k.uid ∧ SameBytes s t ∧
    ∃ w' f', assocGet t.waves k.uid = some w' ∧ w'.frag? k.lead = some f' ∧ f'.quads = k.f.quads ∧
      f'.pc = k.f.pc + BitVec.ofNat 80 (2 * i.parcels) ∧ f'.park = (if seesReq s k then .preempt else .none) ∧
      f'.stamp = (if f.retry && f.waited == 0 then s.cycle else f.stamp) ∧
      w' = { g k.w with clocks := w'.clocks, frags := w'.frags } := by
  obtain ⟨ho, hb, hg⟩ := point_completes (i := i) g hk hf hq
  obtain ⟨hq', hpc', hpk, hst⟩ := preempted_retired (seesReq s k) i s.cycle f
  exact ⟨ho, hb, _, _, hg, by rw [pointPassed_frag?, hf]; rfl, hq'.trans hq, by rw [hpc', hpc], hpk, hst, pointPassed_only _ _ _ _ _ _⟩

/-- `YIELD`'s own effect: a progress point, and the age renewed (02 R62; 11 R280). -/
def yielded (cycle : Nat) (k : Issue) (w : Wave) : Wave := (progressed k w).modFrag k.lead fun f => { f with stamp := cycle }

theorem yielded_only (cycle : Nat) (k : Issue) (w : Wave) :
    yielded cycle k w = { w with watchdog := (yielded cycle k w).watchdog, frags := (yielded cycle k w).frags } := by
  unfold yielded
  rw [progressed_only]
  rfl

theorem yielded_frag? {s : State} {k : Issue} (cycle : Nat) (hk : getIssue s = some k) :
    (yielded cycle k k.w).frag? k.lead = some { k.f with stamp := cycle } := by
  have hp : (progressed k k.w).frag? k.lead = k.w.frag? k.lead := by
    unfold Wave.frag?
    rw [progressed_only]
  refine (modFrag_frag? _ _ _ (fun f => { f with stamp := cycle }) fun _ => rfl).trans ?_
  rw [if_pos rfl, hp, (getIssue_spec hk).2.2.1]
  rfl

theorem yield_eq (g : BitVec 2) {s : State} {k : Issue} (h : MayRun (.yield g) s k) :
    exec (.yield g) s = .next (Eff.finish (if seesReq s k then parkPreempt (.yield g) k (modWave s k.uid (yielded s.cycle k))
      else .done (modWave s k.uid (yielded s.cycle k))) (.yield g) k) := by
  show execYield g s = _
  unfold execYield
  rw [issueWith_runs _ h, progress_eq]
  unfold modFrag
  rw [modWave_modWave]
  rfl

theorem pchk_eq (g : BitVec 2) {s : State} {k : Issue} (h : MayRun (.pchk g) s k) :
    exec (.pchk g) s = .next (Eff.finish (if seesReq s k then parkPreempt (.pchk g) k (modWave s k.uid id)
      else .done (modWave s k.uid id)) (.pchk g) k) := by
  show execPchk g s = _
  unfold execPchk
  rw [issueWith_runs _ h, modWave_same s k.uid id fun _ => rfl]

/-! `REGANG`. -/

/-- The fragment parks in `REGANG`. -/
def ganging (m : QuadMask) (gap : Nat) (f : Frag) : Frag :=
  { f with park := .regang m gap, retry := true, waited := 0, promoted := none }

/-- The wave with its issuing fragment parked. -/
def gangWave (k : Issue) (m : QuadMask) (gap : Nat) : Wave := k.w.modFrag k.lead (ganging m gap)

theorem gangWave_frag? (k : Issue) (m : QuadMask) (gap q : Nat) :
    (gangWave k m gap).frag? q = if q = k.lead then (k.w.frag? k.lead).map (ganging m gap) else k.w.frag? q :=
  modFrag_frag? _ _ _ (ganging m gap) fun _ => rfl

theorem regang_runs {g : BitVec 2} {r : Reg} {s : State} {k : Issue} (h : MayRun (.regang g r) s k) {m : QuadMask}
    (hm : (readLane s k.w r.toNat k.low).extractLsb' 0 16 = m) (hq : k.f.quads &&& ~~~m = 0) :
    exec (.regang g r) s = .next (bumpFree (modWave s k.uid fun w =>
      mergeRegang s.cycle (w.modFrag k.lead (ganging m g.toNat)) 16)) := by
  show execRegang g r s = _
  unfold execRegang
  rw [issueWith_runs _ h]
  simp only [hm, hq, ne_eq, not_true_eq_false, if_false]
  rfl

theorem regang_traps {g : BitVec 2} {r : Reg} {s : State} {k : Issue} (h : MayRun (.regang g r) s k) {m : QuadMask}
    (hm : (readLane s k.w r.toNat k.low).extractLsb' 0 16 = m) (hq : k.f.quads &&& ~~~m ≠ 0) :
    exec (.regang g r) s = .next ((Eff.trap .regangMismatch (k.actAll s) 0 s).finish (.regang g r) k) := by
  show execRegang g r s = _
  unfold execRegang
  rw [issueWith_runs _ h]
  simp only [hm, ne_eq, hq, not_false_eq_true, if_true]

section
variable {k : Issue} {m : QuadMask} {gap : Nat}

/-- A fragment of the wave once the issuing one is parked. -/
theorem mem_gangWave {x : Frag} : x ∈ (gangWave k m gap).frags ↔
    ∃ f ∈ k.w.frags, x = if leadQuad f.quads = k.lead then ganging m gap f else f := by
  simp [gangWave, eq_comm]

/-- The issuing fragment and those parked before it are the group. -/
theorem gangWave_union :
    unionQuads (gangWave k m gap).ganged =
      unionQuads (k.w.frags.filter fun f => leadQuad f.quads == k.lead || f.park.regangAt.isSome) := by
  refine BitVec.eq_of_getLsbD_eq fun q _ => ?_
  rw [unionQuads_get, unionQuads_get, Wave.ganged, gangWave, Wave_modFrag_frags, List.any_filter, List.any_filter, List.any_map]
  refine congrArg _ (funext fun f => ?_)
  by_cases hl : leadQuad f.quads = k.lead
  · simp [hl, ganging, Park.regangAt]
  · rw [beq_eq_false_iff_ne.2 hl]; simp [hl]

theorem gangWave_oneGang (hone : ∀ f ∈ k.w.frags, leadQuad f.quads = k.lead → f = k.f)
    (hgang : ∀ f ∈ k.w.frags, leadQuad f.quads ≠ k.lead → f.park.regangAt.isSome = true → f.pc = k.f.pc ∧ f.park = .regang m gap) :
    OneGang (gangWave k m gap) k.f.pc m gap := by
  intro x hx hp
  obtain ⟨f, hf, rfl⟩ := mem_gangWave.1 hx
  by_cases hl : leadQuad f.quads = k.lead
  · rw [if_pos hl, hone f hf hl]
    exact ⟨rfl, rfl⟩
  · rw [if_neg hl] at hp ⊢
    obtain ⟨hpc, hpk⟩ := hgang f hf hl hp
    exact ⟨hpc, by rw [hpk]; rfl⟩

/-- The merged fragment takes the block state of the one that leads. -/
theorem mergedFrag_block {y : Frag} (cycle : Nat) (hone : OneGang (gangWave k m gap) k.f.pc m gap)
    (hy : y ∈ (gangWave k m gap).frags) (hyp : y.park.regangAt.isSome = true) {f : Frag} (hf : f ∈ k.w.frags)
    (hlead : leadQuad f.quads = leadQuad (unionQuads (gangWave k m gap).ganged))
    (hp : leadQuad f.quads = k.lead ∨ f.park.regangAt.isSome = true)
    (huniq : ∀ x ∈ k.w.frags, leadQuad x.quads = leadQuad f.quads → x = f) :
    let f' := mergedFrag cycle (gangWave k m gap) y
    f'.blk = f.blk ∧ f'.fin = f.fin ∧ f'.left = f.left := by
  have hg := hone.group hy hyp
  have hin : (if leadQuad f.quads = k.lead then ganging m gap f else f) ∈ (gangWave k m gap).ganged := by
    refine List.mem_filter.2 ⟨mem_gangWave.2 ⟨f, hf, rfl⟩, ?_⟩
    split
    · rfl
    · exact hp.resolve_left ‹_›
  obtain ⟨x, hx⟩ : ∃ x, (gangWave k m gap).ganged.find? (fun x =>
      leadQuad x.quads == leadQuad (unionQuads (gangWave k m gap).ganged)) = some x := by
    refine Option.isSome_iff_exists.1 (List.find?_isSome.2 ⟨_, hin, ?_⟩)
    split <;> simp [ganging, hlead]
  have hxl : leadQuad x.quads = leadQuad (unionQuads (gangWave k m gap).ganged) := by simpa using List.find?_some hx
  obtain ⟨z, hz, hxz⟩ := mem_gangWave.1 (List.mem_filter.1 (List.mem_of_find?_eq_some hx)).1
  have hzq : x.quads = z.quads ∧ x.blk = z.blk ∧ x.fin = z.fin ∧ x.left = z.left := by
    rw [hxz]; split <;> exact ⟨rfl, rfl, rfl, rfl⟩
  obtain ⟨hq, hblk, hfin, hleft⟩ := hzq
  obtain rfl : z = f := huniq z hz (by rw [← hq, hxl, hlead])
  simp only [mergedFrag, hg, hx, Option.getD_some]
  exact ⟨hblk, hfin, hleft⟩

end

/-- Settles O15: `EXIT` is `retireQuads`, `endWave` or a fault report; a pre-emption point is `pointPassed`; `REGANG` parks its
fragment and merges the one group there is. -/
theorem exitYieldAndRegang : Obligations.ExitYieldAndRegang := by
  refine ⟨fun s k h => ⟨fun hw hl => ?retires, fun hw => ?ends, fun e l c a p hlive he hlo hs hcan => ?reports⟩,
    fun i g s k hi h => ?point, fun g r s k h => ⟨fun hq hcan => ?mismatch, fun hq hone hgang => ?meets⟩⟩
  case retires =>
    have hget := (getIssue_spec h.1).2.1
    have up := retireQuads_upkeep k.f.quads true hget
    obtain ⟨w', hw', hlive, e, -⟩ := retireQuads_get k.f.quads true hget
    refine ⟨_, exit_retires h hw hl, up.sameBytes, up.ctxs, w', hw', hlive, ?_, ?_, ?_, ?_⟩ <;> rw [e]
  case ends =>
    obtain ⟨-, hget, -, hc⟩ := getIssue_spec h.1
    exact ⟨_, exit_ends h hw, endWave_result 1 hget hc⟩
  case reports =>
    have hlist : faultListEmpty k.w = false := by
      refine List.all_eq_false.2 ⟨e, (List.mem_filter.1 (List.mem_of_mem_head? he)).1, ?_⟩
      simpa using (List.mem_filter.1 (List.mem_of_mem_head? he)).2
    exact ⟨_, exit_reports h hcan.1 hlive hlist, faultReport_trapped h.1 he hlo hs hcan⟩
  case point =>
    have hf := (getIssue_spec h.1).2.2.1
    rcases hi with rfl | rfl
    · obtain ⟨ho, hb, w', f', hg, hf', hq, hpc, hpk, hst, e⟩ :=
        point_result (i := .yield g) (yielded s.cycle k) h.1 (yielded_frag? s.cycle h.1) rfl rfl
      refine ⟨_, yield_eq g h, ho, hb, w', f', hg, hf', hq, hpc, hpk, fun _ => ⟨?_, fun hr => ?_⟩, ?_⟩
      · rw [hst, ite_self]
      · rw [e]
        show (progressed k k.w).watchdog = 0
        simp [progressed, hr]
      · rw [e, yielded_only]
    · obtain ⟨ho, hb, w', f', hg, hf', hq, hpc, hpk, -, e⟩ := point_result (i := .pchk g) id h.1 hf rfl rfl
      exact ⟨_, pchk_eq g h, ho, hb, w', f', hg, hf', hq, hpc, hpk, (nomatch ·), by rw [e, id]⟩
  case mismatch => exact ⟨_, regang_traps h rfl hq, trap_only _ _ h.1 hcan⟩
  case meets =>
    obtain ⟨-, hget, hf, -⟩ := getIssue_spec h.1
    generalize hm : (readLane s k.w r.toNat k.low).extractLsb' 0 16 = m at hq hgang ⊢
    have hg := gangWave_oneGang hone hgang
    have hmod := modWave_onlyWave s k.uid fun w => mergeRegang s.cycle (w.modFrag k.lead (ganging m g.toNat)) 16
    refine ⟨_, regang_runs h hm hq, hmod.1, hmod.2, mergeRegang s.cycle (gangWave k m g.toNat) 16,
      modWave_get (fun w => mergeRegang s.cycle (w.modFrag k.lead (ganging m g.toNat)) 16) hget, mergeRegang_only _ _ _, ?_⟩
    rw [← gangWave_union (m := m) (gap := g.toNat)]
    by_cases hall : unionQuads (gangWave k m g.toNat).ganged = m &&& k.w.live
    · have hne : (gangWave k m g.toNat).ganged ≠ [] := List.ne_nil_of_mem
        (List.mem_filter.2 ⟨mem_gangWave.2 ⟨k.f, List.mem_of_find?_eq_some hf, rfl⟩, by
          rw [if_pos (show leadQuad k.f.quads = k.lead from rfl)]; rfl⟩)
      obtain ⟨y, hy, hyp, he, hc, hmem, hkeep⟩ := hg.merges s.cycle 15 hall hne
      obtain ⟨hypc, hypk⟩ := hg y hy hyp
      simp only [if_pos hall]
      refine ⟨?entries, fun q hlt hn => ?stays, fun f hfm hl hp hz => hkeep f ?_ hz,
        ⟨_, hmem, congrArg unionQuads (hg.group hy hyp), ?pc, rfl, ?ready,
          fun f hfm hl hp hu => mergedFrag_block s.cycle hg hy hyp hfm hl hp hu⟩, fun q hlt hn => ?clock⟩
      case entries =>
        rw [he]
        exact List.map_congr_left fun e _ => lateEntry_eq _ _ e
      case stays => rw [hc q hlt, hn]; rfl
      case pc => rw [← hypc]; rfl
      case ready => simp only [mergedFrag, hypk]; exact Nat.le_max_left _ _
      case clock => rw [hc q hlt, hn]; rfl
      exact mem_gangWave.2 ⟨f, hfm, by rw [if_neg hl]⟩
    · rw [hg.waits s.cycle 16 hall]
      simp only [if_neg hall]
      refine ⟨rfl, fun _ _ _ => rfl, fun f hfm hl _ _ => mem_gangWave.2 ⟨f, hfm, by rw [if_neg hl]⟩,
        ganging m g.toNat k.f, ?_, rfl, rfl⟩
      rw [gangWave_frag?, if_pos rfl, hf]; rfl

end Sys2Proof.Machine
end

section
/-!
SUPPORT. Quads of condition codes, registers written beside other effects, and barriers (02 R51 to R55; 10 R240, R242).
-/

namespace Sys2Proof.Machine

/-! Bits of quads. -/

theorem quadBit_get (j : Nat) {q : Nat} (hq : q < 16) : (quadBit j).getLsbD q = decide (q = j) := by
  unfold quadBit
  rw [BitVec.getLsbD_shiftLeft]
  by_cases h : q < j
  · simp [h, Nat.ne_of_lt h]
  · by_cases he : q = j
    · subst he; simp [hq]
    · have : q - j ≠ 0 := by omega
      simp [he, this]

theorem quadSet_get (p : Nat → Bool) (on : QuadMask) {q : Nat} (hq : q < 16) :
    (quadSet p on).getLsbD q = (on.getLsbD q && p q) := by
  have key : ∀ (l : List Nat) (m : QuadMask), (l.foldl (fun m k => if p k then m ||| quadBit k else m) m).getLsbD q =
      (m.getLsbD q || (decide (q ∈ l) && p q)) := by
    intro l
    induction l with
    | nil => simp
    | cons j r ih =>
      intro m
      rw [List.foldl_cons, ih]
      by_cases hj : q = j
      · subst hj
        cases hp : p q <;> simp [quadBit_get _ hq]
      · cases hp : p j <;> simp [quadBit_get _ hq, hj]
  have hmem : q ∈ quadList on ↔ on.getLsbD q = true := by simp [quadList, hq]
  refine (key (quadList on) 0).trans ?_
  cases h : on.getLsbD q <;> simp [hmem, h]

theorem ccBit_get (old on : QuadMask) (p : Nat → Bool) {q : Nat} (hq : q < 16) :
    (ccBit old on p).getLsbD q = if on.getLsbD q then p q else old.getLsbD q := by
  unfold ccBit
  rw [BitVec.getLsbD_or, quadSet_get p on hq, BitVec.getLsbD_and, BitVec.getLsbD_not]
  cases on.getLsbD q <;> simp [hq]

/-! Registers written beside other effects. -/

/-- What `writeLanes` does to the issuing wave. -/
def lanesWritten (s : State) (k : Issue) (d : Reg) (n bound : Nat) (f : Nat → Dword) (w : Wave) : Wave :=
  (k.actList s).foldl (fun w l => writeVal w n d.toNat l (f l)) (markFixed s w d.toNat n (lanesMask (k.actList s)) bound)

theorem writeLanes_modWave (s : State) (k : Issue) (d : Reg) (n bound : Nat) (f : Nat → Dword) :
    writeLanes s k d n bound f = modWave s k.uid (lanesWritten s k d n bound f) := rfl

theorem lanesWritten_only (s : State) (k : Issue) (d : Reg) (n bound : Nat) (f : Nat → Dword) (w : Wave) :
    let w' := lanesWritten s k d n bound f w
    w' = { w with regs := w'.regs, undef := w'.undef, boundMax := w'.boundMax } := by
  have val : ∀ (l : List Nat) (w : Wave), l.foldl (fun w l => writeVal w n d.toNat l (f l)) w =
      { w with regs := (l.foldl (fun w l => writeVal w n d.toNat l (f l)) w).regs } := by
    intro l
    induction l with
    | nil => exact fun _ => rfl
    | cons j r ih =>
      intro w
      rw [List.foldl_cons, ih]
      unfold writeVal
      split <;> rfl
  dsimp only
  unfold lanesWritten
  rw [val]
  rfl

theorem lanesWritten_regs {s : State} {k : Issue} (i : Instr) (d : Reg) (n b : Nat) (f : Nat → Dword) (hk : getIssue s = some k) :
    RegsHold k.w (lanesWritten s k d n b f k.w) d.toNat (k.act s) fun l => valWords n (f l) := by
  obtain ⟨-, -, w', hw', -, -, hr, -⟩ := writeLanes_result i d n b f hk
  have hget : assocGet ((Eff.done (writeLanes s k d n b f)).finish i k).waves k.uid =
      some (retiredWave i s.cycle k (lanesWritten s k d n b f k.w)) :=
    retire_get (modWave_get (lanesWritten s k d n b f) (getIssue_spec hk).2.1)
      (show (lanesWritten s k d n b f k.w).frag? k.lead = some k.f by
        unfold Wave.frag?; rw [lanesWritten_only]; exact (getIssue_spec hk).2.2.1) rfl
  obtain rfl : retiredWave i s.cycle k (lanesWritten s k d n b f k.w) = w' := Option.some.inj (hget.symm.trans hw')
  exact hr

theorem retire_get_other (i : Instr) (s : State) (u q : Nat) {v : Nat} (h : v ≠ u) :
    assocGet (retire i u q s).waves v = assocGet s.waves v := modWave_get_other s u _ h

/-- An instruction that changes its wave alone, and retires. -/
theorem done_onlyWave (i : Instr) (s : State) (k : Issue) (g : Wave → Wave) :
    OnlyWave s ((Eff.done (modWave s k.uid g)).finish i k) k.uid ∧ SameBytes s ((Eff.done (modWave s k.uid g)).finish i k) := by
  unfold Eff.finish retire
  dsimp only
  rw [modWave_modWave]
  exact modWave_onlyWave _ _ _

/-- An instruction that changes its wave alone, and parks. -/
theorem park_result {i : Instr} {s : State} {k : Issue} (p : Park) (g : Wave → Wave) (hk : getIssue s = some k) {f : Frag}
    (hf : (g k.w).frag? k.lead = some f) :
    let t := (Eff.park p (modWave s k.uid g)).finish i k
    OnlyWave s t k.uid ∧ SameBytes s t ∧ ∃ w', assocGet t.waves k.uid = some w' ∧ w' = { g k.w with frags := w'.frags } ∧
      w'.frag? k.lead = some { f with park := p, retry := true, waited := 0, promoted := none } := by
  have ht : (Eff.park p (modWave s k.uid g)).finish i k = bumpFree (modWave s k.uid
      ((fun w => w.modFrag k.lead fun f => { f with park := p, retry := true, waited := 0, promoted := none }) ∘ g)) := by
    unfold Eff.finish modFrag
    dsimp only
    rw [modWave_modWave]
  have ho := modWave_onlyWave s k.uid
    ((fun w => w.modFrag k.lead fun f => { f with park := p, retry := true, waited := 0, promoted := none }) ∘ g)
  dsimp only
  rw [ht]
  refine ⟨ho.1, ho.2, _, modWave_get _ (getIssue_spec hk).2.1, rfl, ?_⟩
  refine (modFrag_frag? _ _ _ (fun f => { f with park := p, retry := true, waited := 0, promoted := none }) fun _ => rfl).trans ?_
  rw [if_pos rfl, hf]; rfl

/-! Barriers, read and written. -/

theorem setBarrier_grid {s : State} {g : Nat} {gr : Grid} (k : Nat) (cluster : Bool) (id : Nat) (b : Barrier)
    (h : assocGet s.grids g = some gr) :
    ∃ gr', assocGet (setBarrier s g k cluster id b).grids g = some gr' ∧ gr'.pkt = gr.pkt ∧ gr'.det = gr.det := by
  cases cluster <;> simp [setBarrier, assocGet_mod_same, h]

theorem setBarrier_wgOf {s : State} {g k : Nat} (cluster : Bool) (id : Nat) (b : Barrier) (h : (wgOf s g k).isSome = true) :
    (wgOf (setBarrier s g k cluster id b) g k).isSome = true := by
  unfold wgOf at h ⊢
  cases hg : assocGet s.grids g with
  | none => simp [hg] at h
  | some gr =>
    cases cluster
    · rw [setBarrier, if_neg Bool.false_ne_true, modWg_grids, assocGet_mod_same, hg]
      simpa [assocGet_mod_same, hg] using h
    · rw [setBarrier, if_pos rfl, modGrid_grids, assocGet_mod_same, hg]
      simpa [hg] using h

/-- A barrier of a workgroup that stands reads as it was set. -/
theorem getBarrier_set {s : State} {g k : Nat} (cluster : Bool) (id : Nat) (b : Barrier) (h : (wgOf s g k).isSome = true) :
    getBarrier (setBarrier s g k cluster id b) g k cluster id = b := by
  unfold wgOf at h
  unfold getBarrier
  cases hg : assocGet s.grids g with
  | none => simp [hg] at h
  | some gr =>
    obtain ⟨x, hx⟩ := Option.isSome_iff_exists.1 (by simpa [hg] using h)
    cases cluster
    · rw [setBarrier, if_neg Bool.false_ne_true, modWg_grids, assocGet_mod_same, hg]
      simp [assocGet_mod_same, hx]
    · rw [setBarrier, if_pos rfl, modGrid_grids, assocGet_mod_same, hg]
      simp

theorem getBarrier_congr {s t : State} (h : t.grids = s.grids) (g k : Nat) (cluster : Bool) (id : Nat) :
    getBarrier t g k cluster id = getBarrier s g k cluster id := by
  unfold getBarrier
  rw [h]

theorem gridS_setBarrier (s : State) (g k : Nat) (cluster : Bool) (id : Nat) (b : Barrier) :
    gridS (setBarrier s g k cluster id b) g = gridS s g := by
  unfold gridS
  cases hg : assocGet s.grids g with
  | none => cases cluster <;> simp [setBarrier, assocGet_mod_same, hg]
  | some gr =>
    obtain ⟨gr', h', hp, -⟩ := setBarrier_grid k cluster id b hg
    rw [h']
    simp [hp]

theorem participants_setBarrier (s : State) (g k : Nat) (cluster : Bool) (id : Nat) (b : Barrier) :
    participants (setBarrier s g k cluster id b) g k cluster = participants s g k cluster := by
  unfold participants
  rw [gridS_setBarrier]
  cases cluster <;> rfl

/-- A change of one wave that keeps where it stands keeps who takes part. -/
theorem participants_modWave (s : State) (u g k : Nat) (cluster : Bool) {f : Wave → Wave}
    (hf : ∀ w, (f w).grid = w.grid ∧ (f w).spawned = w.spawned ∧ (f w).wg = w.wg) :
    participants (modWave s u f) g k cluster = assocMod (participants s g k cluster) u f := by
  have hs : gridS (modWave s u f) g = gridS s g := rfl
  unfold participants
  rw [hs, modWave_waves]
  unfold assocMod
  rw [List.filter_map]
  refine congrArg _ (List.filter_congr fun e _ => ?_)
  by_cases h : e.1 = u
  · simp [h, hf]
  · simp [h]

/-! The end of a phase. -/

theorem laterWave_irrefl (a : Nat × Nat × Nat) : laterWave a a = false := by simp [laterWave]

theorem laterWave_false {a b : Nat × Nat × Nat} : laterWave a b = false ↔ a.2.1 < b.2.1 ∨ a.2.1 = b.2.1 ∧ a.2.2 ≤ b.2.2 := by
  rw [← Bool.not_eq_true]
  simp only [laterWave, Bool.or_eq_true, Bool.and_eq_true, decide_eq_true_eq, beq_iff_eq]
  omega

/-- The epilogue's wave of a phase in deterministic mode came, and none that came is later (10 R242). -/
theorem lastCame_last (b : Barrier) {e : Nat × Nat × Nat} (he : e ∈ b.came) :
    ∃ x ∈ b.came, b.lastCame = some x.1 ∧ ∀ y ∈ b.came, laterWave y x = false := by
  have key : ∀ (l : List (Nat × Nat × Nat)) (q : Nat × Nat × Nat), ∃ x ∈ q :: l,
      l.foldl (fun m p => match m with | none => some p | some q => if laterWave p q then some p else some q) (some q) = some x ∧
        ∀ y ∈ q :: l, laterWave y x = false := by
    intro l
    induction l with
    | nil => exact fun q => ⟨q, by simp, rfl, by simp [laterWave_irrefl]⟩
    | cons p r ih =>
      intro q
      rw [List.foldl_cons]
      dsimp only
      cases hp : laterWave p q
      · obtain ⟨x, hx, he, hl⟩ := ih q
        have hpx : laterWave p x = false := by
          have hqx := hl q (by simp)
          rw [laterWave_false] at hp hqx ⊢
          omega
        refine ⟨x, ?_, he, fun y hy => ?_⟩
        · rcases List.mem_cons.1 hx with rfl | hx <;> simp [*]
        · rcases List.mem_cons.1 hy with rfl | hy
          · exact hl y (by simp)
          · rcases List.mem_cons.1 hy with rfl | hy
            · exact hpx
            · exact hl y (by simp [hy])
      · obtain ⟨x, hx, he, hl⟩ := ih p
        have hqx : laterWave q x = false := by
          have hpx := hl p (by simp)
          simp only [laterWave, Bool.or_eq_true, Bool.and_eq_true, decide_eq_true_eq, beq_iff_eq] at hp
          rw [laterWave_false] at hpx ⊢
          omega
        refine ⟨x, List.mem_cons_of_mem _ hx, he, fun y hy => ?_⟩
        rcases List.mem_cons.1 hy with rfl | hy
        · exact hqx
        · exact hl y hy
  unfold Barrier.lastCame
  cases hc : b.came with
  | nil => simp [hc] at he
  | cons q l =>
    obtain ⟨x, hx, hf, hl⟩ := key l q
    exact ⟨x, hx, congrArg (Option.map (·.1)) hf, hl⟩

/-- The phase ends: the barrier as the next phase finds it, its waiters awake. -/
def phaseEnds (s : State) (g k : Nat) (cluster : Bool) (id : Nat) (epi : Option Nat) (clk : Nat) : State :=
  let b := getBarrier s g k cluster id
  wakeBarrier (setBarrier s g k cluster id ⟨b.phase + 1, [], epi, (b.phase, clk) :: b.done, []⟩) g k cluster id (b.phase + 1) clk

/-- Every live quad of every participant has arrived. -/
def allArrived (s : State) (g k : Nat) (cluster : Bool) (id : Nat) : Prop :=
  ∀ p ∈ participants s g k cluster, arrivedOf (getBarrier s g k cluster id) p.1 &&& p.2.live = p.2.live

/-- The wave that runs the epilogue where `u` completes the phase. -/
def epilogueOf (s : State) (g k : Nat) (cluster : Bool) (id u : Nat) : Option Nat :=
  if (match assocGet s.grids g with | some gr => gr.det | none => false) then (getBarrier s g k cluster id).lastCame else some u

theorem checkPhase_ends {s : State} {g k : Nat} {cluster : Bool} {id : Nat} (u clk : Nat) (h : allArrived s g k cluster id) :
    checkPhase s g k cluster id u clk = phaseEnds s g k cluster id (epilogueOf s g k cluster id u) clk := by
  unfold checkPhase
  dsimp only
  rw [if_pos (List.all_eq_true.2 fun p hp => beq_iff_eq.2 (h p hp))]
  rfl

theorem checkPhase_waits {s : State} {g k : Nat} {cluster : Bool} {id : Nat} (u clk : Nat) (h : ¬allArrived s g k cluster id) :
    checkPhase s g k cluster id u clk = s := by
  unfold checkPhase
  dsimp only
  exact if_neg fun ha => h fun p hp => beq_iff_eq.1 (List.all_eq_true.1 ha p hp)

/-- The waves once a phase has ended. -/
theorem phaseEnds_get (s : State) (g k : Nat) (cluster : Bool) (id : Nat) (epi : Option Nat) (clk v : Nat) :
    assocGet (phaseEnds s g k cluster id epi clk).waves v = (assocGet s.waves v).map fun w =>
      if ((participants s g k cluster).map (·.1)).contains v then
        { w with frags := w.frags.map (phaseWoken cluster id ((getBarrier s g k cluster id).phase + 1) clk s.cycle) } else w := by
  unfold phaseEnds
  dsimp only
  rw [wakeBarrier_get, participants_setBarrier]
  cases cluster <;> rfl

theorem phaseEnds_upkeep (s : State) (g k : Nat) (cluster : Bool) (id : Nat) (epi : Option Nat) (clk : Nat) :
    Upkeep s (phaseEnds s g k cluster id epi clk) :=
  (setBarrier_upkeep _ _ _ _ _ _).trans (wakeBarrier_upkeep _ _ _ _ _ _ _)

theorem phaseEnds_barrier {s : State} {g k : Nat} (cluster : Bool) (id : Nat) (epi : Option Nat) (clk : Nat)
    (h : (wgOf s g k).isSome = true) :
    getBarrier (phaseEnds s g k cluster id epi clk) g k cluster id =
      ⟨(getBarrier s g k cluster id).phase + 1, [], epi,
        ((getBarrier s g k cluster id).phase, clk) :: (getBarrier s g k cluster id).done, []⟩ :=
  (getBarrier_congr rfl _ _ _ _).trans (getBarrier_set cluster id _ h)

/-- A fragment that waits on the phase which ends goes on. -/
theorem phaseWoken_wakes {f : Frag} {cluster : Bool} {id : Nat} {phase t : Word} (clk cycle : Nat)
    (hp : f.park = .barrier cluster id t) (ht : 0 < (phase - t).toInt) :
    (phaseWoken cluster id phase clk cycle f).park = .none := by
  unfold phaseWoken
  rw [hp]
  dsimp only
  rw [if_pos ⟨rfl, rfl, ht⟩]

theorem frag?_woken (w : Wave) (q : Nat) (cluster : Bool) (id : Nat) (phase : Word) (clk cycle : Nat) :
    Wave.frag? { w with frags := w.frags.map (phaseWoken cluster id phase clk cycle) } q =
      (w.frag? q).map (phaseWoken cluster id phase clk cycle) :=
  frag?_map w.frags q _ fun f => (phaseWoken_keeps cluster id phase clk cycle f).1

end Sys2Proof.Machine
end

section
/-!
SUPPORT. `ARRIVE` and `WAITA` issue (02 R53 to R55; 10 R240, R242).
-/

namespace Sys2Proof.Machine

/-- The barrier with the arrival of the issuing fragment recorded. -/
def arrivedAt (b : Barrier) (k : Issue) : Barrier :=
  { b with arrived := assocSet b.arrived k.uid (arrivedOf b k.uid ||| k.f.quads), came := b.came ++ [(k.uid, k.w.wg, k.w.widx)] }

theorem arrivedOf_arrivedAt (b : Barrier) (k : Issue) (v : Nat) :
    arrivedOf (arrivedAt b k) v = if v = k.uid then arrivedOf b k.uid ||| k.f.quads else arrivedOf b v := by
  unfold arrivedOf arrivedAt
  dsimp only
  split
  · rename_i h; subst h; rw [assocGet_set_same]; rfl
  · rename_i h; rw [assocGet_set_other _ _ _ _ h]

/-- The phase an arrival writes, in the issuing wave. -/
def phaseWritten (s : State) (k : Issue) (d : Reg) (cluster : Bool) (id : Nat) : Wave → Wave :=
  lanesWritten s k d 1 bInt fun _ => (getBarrier s k.w.grid k.w.wg cluster id).phase.zeroExtend 64

/-- The state once the arrival is recorded, before the test of the phase. -/
def arrivalSet (s : State) (k : Issue) (d : Reg) (cluster : Bool) (id : Nat) : State :=
  setBarrier (modWave s k.uid (phaseWritten s k d cluster id)) k.w.grid k.w.wg cluster id
    (arrivedAt (getBarrier s k.w.grid k.w.wg cluster id) k)

section
variable {i : Instr} {cl : Bool} {d : Reg} {n : Nat} {s : State} {k : Issue}
  (hi : (∃ g id, i = .arriveWg g d id ∧ cl = false ∧ n = id.toNat) ∨ (∃ g id, i = .arriveCl g d id ∧ cl = true ∧ n = id.toNat))
  (h : MayRun i s k)
include hi h

theorem arrive_runs : exec i s = .next ((arrive cl d n k s).finish i k) := by
  rcases hi with ⟨g, id, rfl, rfl, rfl⟩ | ⟨g, id, rfl, rfl, rfl⟩ <;> exact issueWith_runs _ h

theorem arrive_traps {c : Cause} (ha : arrive cl d n k s = .trap c (k.act s) 0 s) (hcan : CanTrap s k) :
    Completes i s fun t => Trapped s t k c false (k.act s) 0 :=
  ⟨_, arrive_runs hi h, by rw [ha]; exact (trap_only _ _ h.1 hcan).1⟩

end

section
variable {s : State} {k : Issue} (d : Reg) (cl : Bool) (n : Nat)

theorem arrive_spawned (hs : k.w.spawned = true) : arrive cl d n k s = .trap .illegalBarrier (k.act s) 0 s := by
  simp [arrive, hs]

theorem arrive_again (hs : k.w.spawned = false) (ha : k.f.quads &&& arrivedOf (getBarrier s k.w.grid k.w.wg cl n) k.uid ≠ 0) :
    arrive cl d n k s = .trap .barrierRearrival (k.act s) 0 s := by
  unfold arrive
  rw [if_neg (by simp [hs])]
  exact if_pos ha

variable (hs : k.w.spawned = false) (ha : k.f.quads &&& arrivedOf (getBarrier s k.w.grid k.w.wg cl n) k.uid = 0)
  (hw : releaseWaits k = false)
include hs ha hw

theorem arrive_stuck (hf : releaseStuck k = true) : arrive cl d n k s = .park .faults (modWave s k.uid id) := by
  rw [modWave_same s k.uid id fun _ => rfl]
  simp [arrive, hs, ha, hw, hf]

theorem arrive_arrives (hf : releaseStuck k = false) (ht : k.turn s = true) :
    arrive cl d n k s = .done (checkPhase (arrivalSet s k d cl n) k.w.grid k.w.wg cl n k.uid (maxClock k.w k.f.quads + 1)) := by
  simp [arrive, hs, ha, hw, hf, ht, arrivalSet, phaseWritten, writeLanes_modWave, arrivedAt]

end

section
variable {s : State} {k : Issue} (d : Reg) (cl : Bool) (n : Nat)

theorem phaseWritten_only (w : Wave) :
    let w' := phaseWritten s k d cl n w
    w' = { w with regs := w'.regs, undef := w'.undef, boundMax := w'.boundMax } := lanesWritten_only _ _ _ _ _ _ _

theorem phaseWritten_stands (w : Wave) : (phaseWritten s k d cl n w).grid = w.grid ∧ (phaseWritten s k d cl n w).spawned = w.spawned ∧
    (phaseWritten s k d cl n w).wg = w.wg := by
  refine ⟨?_, ?_, ?_⟩ <;> rw [phaseWritten_only]

theorem phaseWritten_frag? (w : Wave) (q : Nat) : (phaseWritten s k d cl n w).frag? q = w.frag? q := by
  unfold Wave.frag?
  rw [phaseWritten_only]

theorem arrivalSet_get (v : Nat) : assocGet (arrivalSet s k d cl n).waves v =
    assocGet (modWave s k.uid (phaseWritten s k d cl n)).waves v := by
  unfold arrivalSet setBarrier
  cases cl <;> rfl

theorem arrivalSet_participants : participants (arrivalSet s k d cl n) k.w.grid k.w.wg cl =
    assocMod (participants s k.w.grid k.w.wg cl) k.uid (phaseWritten s k d cl n) :=
  (participants_setBarrier _ _ _ _ _ _).trans (participants_modWave _ _ _ _ _ (phaseWritten_stands d cl n))

theorem arrivalSet_barrier (hg : (wgOf s k.w.grid k.w.wg).isSome = true) :
    getBarrier (arrivalSet s k d cl n) k.w.grid k.w.wg cl n = arrivedAt (getBarrier s k.w.grid k.w.wg cl n) k :=
  getBarrier_set cl n _ hg

/-- Whether the arrival completes the phase, as the state before it shows. -/
theorem allArrived_arrivalSet (hg : (wgOf s k.w.grid k.w.wg).isSome = true) :
    allArrived (arrivalSet s k d cl n) k.w.grid k.w.wg cl n ↔ ∀ p ∈ participants s k.w.grid k.w.wg cl,
      (if p.1 = k.uid then arrivedOf (getBarrier s k.w.grid k.w.wg cl n) k.uid ||| k.f.quads
        else arrivedOf (getBarrier s k.w.grid k.w.wg cl n) p.1) &&& p.2.live = p.2.live := by
  have live : ∀ w : Wave, (phaseWritten s k d cl n w).live = w.live := fun w => by rw [phaseWritten_only]
  unfold allArrived
  rw [arrivalSet_participants, arrivalSet_barrier d cl n hg]
  unfold assocMod
  rw [List.forall_mem_map]
  refine forall₂_congr fun p hp => ?_
  rw [arrivedOf_arrivedAt]
  split <;> simp [*]

theorem epilogueOf_arrivalSet {gr : Grid} (hgr : assocGet s.grids k.w.grid = some gr) (hg : (wgOf s k.w.grid k.w.wg).isSome = true) :
    epilogueOf (arrivalSet s k d cl n) k.w.grid k.w.wg cl n k.uid =
      if gr.det then (arrivedAt (getBarrier s k.w.grid k.w.wg cl n) k).lastCame else some k.uid := by
  obtain ⟨gr', h', -, hd⟩ := setBarrier_grid (s := modWave s k.uid (phaseWritten s k d cl n)) k.w.wg cl n
    (arrivedAt (getBarrier s k.w.grid k.w.wg cl n) k) hgr
  unfold epilogueOf
  rw [arrivalSet_barrier d cl n hg, show assocGet (arrivalSet s k d cl n).grids k.w.grid = some gr' from h']
  simp only [hd]

end

/-- The issuing wave of an arrival, once its phase has been tested and it has retired: of the wave before, only fragments and
clocks differ. -/
theorem arrival_retires {i : Instr} {s t : State} {k : Issue} {d : Reg} {cl : Bool} {n : Nat} {w : Wave} {f : Frag} (hk : getIssue s = some k)
    (hup : Upkeep (arrivalSet s k d cl n) t)
    (hw : assocGet t.waves k.uid = some w) (he : w = { phaseWritten s k d cl n k.w with frags := w.frags })
    (hf : w.frag? k.lead = some f) (hq : f.quads = k.f.quads) (hpc : f.pc = k.f.pc) :
    let t' := (Eff.done t).finish i k
    SameBytes s t' ∧ ∃ w' f', assocGet t'.waves k.uid = some w' ∧ RegsOnly k.w w' ∧ w'.frag? k.lead = some f' ∧
      f'.quads = k.f.quads ∧ f'.park = .none ∧ f'.pc = k.f.pc + BitVec.ofNat 80 (2 * i.parcels) ∧
      (∀ q, q < 16 → clockOf w' q = clockOf k.w q + if k.f.quads.getLsbD q then 1 else 0) ∧
      RegsHold k.w w' d.toNat (k.act s) fun _ => [(getBarrier s k.w.grid k.w.wg cl n).phase] := by
  have hregs := lanesWritten_regs i d 1 bInt (fun _ => (getBarrier s k.w.grid k.w.wg cl n).phase.zeroExtend 64) hk
  have hval : valWords 1 ((getBarrier s k.w.grid k.w.wg cl n).phase.zeroExtend 64) = [(getBarrier s k.w.grid k.w.wg cl n).phase] := by
    refine congrArg (fun x : Word => [x]) (BitVec.eq_of_toNat_eq ?_)
    simp only [BitVec.extractLsb'_toNat, BitVec.toNat_setWidth, Nat.shiftRight_zero]
    omega
  simp only [hval] at hregs
  have hsame : SameBytes s (arrivalSet s k d cl n) :=
    (setBarrier_upkeep (modWave s k.uid (phaseWritten s k d cl n)) _ _ _ _ _).sameBytes
  have hst : SameBytes s t := ⟨fun a => (hup.sameBytes.1 a).trans (hsame.1 a), hup.sameBytes.2.trans hsame.2⟩
  refine ⟨hst, _, f.retired i t.cycle, retire_get hw hf hq, ?only, by rw [retiredWave_frag?, if_pos rfl, hf]; rfl, hq, rfl,
    ?pc, fun q hlt => ?clock, ?regs⟩
  case only =>
    unfold RegsOnly
    rw [retiredWave_only, he, phaseWritten_only]
  case pc => show f.pc + _ = _; rw [hpc]
  case clock =>
    rw [clockOf_retiredWave _ _ _ _ hlt]
    unfold clockOf
    rw [he, phaseWritten_only]
  case regs =>
    have hh : ∀ r l, held (retiredWave i t.cycle k w) r l = held (phaseWritten s k d cl n k.w) r l := fun r l => by
      show held w r l = _
      unfold held
      rw [he]
    exact ⟨fun l j v hl ha hv => (hh _ _).trans (hregs.1 l j v hl ha hv), fun l r hl hor => (hh _ _).trans (hregs.2 l r hl hor)⟩

/-- A fragment as the end of the phase leaves it: where it waited for that, it goes on. -/
theorem phaseEnds_frag {s : State} {k : Issue} (d : Reg) (cl : Bool) (n : Nat) (epi : Option Nat) (clk : Nat) {v q : Nat} {x : Wave}
    {f : Frag} (hx : assocGet s.waves v = some x) (hf : x.frag? q = some f) (hg : (wgOf s k.w.grid k.w.wg).isSome = true) :
    ∃ x' f', assocGet (phaseEnds (arrivalSet s k d cl n) k.w.grid k.w.wg cl n epi clk).waves v = some x' ∧
      x' = { (if v = k.uid then phaseWritten s k d cl n x else x) with frags := x'.frags } ∧ x'.frag? q = some f' ∧
      f'.quads = f.quads ∧ f'.pc = f.pc ∧
      ∀ y t, (v, y) ∈ participants s k.w.grid k.w.wg cl → f.park = .barrier cl n t →
        0 < ((getBarrier s k.w.grid k.w.wg cl n).phase + 1 - t).toInt → f'.park = .none := by
  have hget : assocGet (arrivalSet s k d cl n).waves v = some (if v = k.uid then phaseWritten s k d cl n x else x) := by
    rw [arrivalSet_get]
    split
    · rename_i hv; subst hv; exact modWave_get _ hx
    · rename_i hv; rw [modWave_get_other _ _ _ hv]; exact hx
  have hfr : (if v = k.uid then phaseWritten s k d cl n x else x).frag? q = some f := by
    split
    · rw [phaseWritten_frag?]; exact hf
    · exact hf
  rw [phaseEnds_get, hget, Option.map_some, arrivalSet_barrier d cl n hg, arrivalSet_participants]
  by_cases hin : ((assocMod (participants s k.w.grid k.w.wg cl) k.uid (phaseWritten s k d cl n)).map (·.1)).contains v = true
  · rw [if_pos hin]
    obtain ⟨hq, hpc⟩ := phaseWoken_keeps cl n ((arrivedAt (getBarrier s k.w.grid k.w.wg cl n) k).phase + 1) clk
      (arrivalSet s k d cl n).cycle f
    refine ⟨_, _, rfl, rfl, by rw [frag?_woken, hfr, Option.map_some], hq, hpc, fun y t _ hp ht => ?_⟩
    exact phaseWoken_wakes _ _ hp ht
  · rw [if_neg hin]
    refine ⟨_, f, rfl, rfl, hfr, rfl, rfl, fun y t hy _ _ => absurd ?_ hin⟩
    rw [List.contains_iff_mem, assocMod, List.map_map]
    refine List.mem_map.2 ⟨(v, y), hy, ?_⟩
    rw [Function.comp]
    split <;> rfl

/-! `WAITA`. -/

/-- The clocks that a `WAITA` for phase `t` returns with (10 R240). -/
def phaseClocks (k : Issue) (b : Barrier) (t : Word) (w : Wave) : Wave :=
  match b.done.find? fun p => p.1 == t with | some (_, c) => setClocks w k.f.quads (max c) | none => w

theorem phaseClocks_only (k : Issue) (b : Barrier) (t : Word) (w : Wave) :
    phaseClocks k b t w = { w with clocks := (phaseClocks k b t w).clocks } := by
  unfold phaseClocks
  split <;> rfl

/-- What a `WAITA` that returns does to the issuing wave: clocks, and C. -/
def phasePassed (s : State) (k : Issue) (b : Barrier) (t : Word) (w : Wave) : Wave :=
  let w1 := phaseClocks k b t (progressed k w)
  writeCC s w1 k.f.quads (cCC w1.cc k.f.quads fun _ => t == b.phase - 1 && b.epilogue == some k.uid) bInt

theorem phasePassed_keeps (s : State) (k : Issue) (b : Barrier) (t : Word) (w : Wave) :
    let w' := phasePassed s k b t w
    w'.frags = w.frags ∧ w'.regs = w.regs ∧ w'.mask = w.mask ∧
      w'.cc = cCC w.cc k.f.quads fun _ => t == b.phase - 1 && b.epilogue == some k.uid := by
  unfold phasePassed writeCC
  dsimp only
  rw [phaseClocks_only, progressed_only]
  exact ⟨rfl, rfl, rfl, rfl⟩

theorem phasePassed_clock {s : State} {k : Issue} {b : Barrier} {t : Word} {c q : Nat} (w : Wave)
    (hd : b.done.find? (fun p => p.1 == t) = some (t, c)) (hq : q < 16) (hin : k.f.quads.getLsbD q = true) :
    clockOf (phasePassed s k b t w) q = max (clockOf w q) c := by
  have h : clockOf (phasePassed s k b t w) q = clockOf (setClocks (progressed k w) k.f.quads (max c)) q := by
    show clockOf (phaseClocks k b t (progressed k w)) q = _
    unfold phaseClocks
    rw [hd]
  rw [h, clockOf_setClocks _ _ _ hq, if_pos hin, Nat.max_comm]
  unfold clockOf
  rw [progressed_only]

section
variable {i : Instr} {cl : Bool} {r : Reg} {n : Nat} {s : State} {k : Issue}
  (hi : (∃ g id, i = .waitaWg g id r ∧ cl = false ∧ n = id.toNat) ∨ (∃ g id, i = .waitaCl g id r ∧ cl = true ∧ n = id.toNat))
  (h : MayRun i s k)
include hi h

theorem waita_runs : exec i s = .next ((waitPhase cl n r k s).finish i k) := by
  rcases hi with ⟨g, id, rfl, rfl, rfl⟩ | ⟨g, id, rfl, rfl, rfl⟩ <;> exact issueWith_runs _ h

end

section
variable {s : State} {k : Issue} (cl : Bool) (n : Nat) (r : Reg)

theorem waitPhase_spawned (hs : k.w.spawned = true) : waitPhase cl n r k s = .trap .illegalBarrier (k.act s) 0 s := by
  simp [waitPhase, hs]

theorem waitPhase_parks (hs : k.w.spawned = false)
    (ht : ((getBarrier s k.w.grid k.w.wg cl n).phase - readLane s k.w r.toNat k.low).toInt ≤ 0) :
    waitPhase cl n r k s =
      .park (.barrier cl n (readLane s k.w r.toNat k.low)) (modWave s k.uid (progressed k)) := by
  unfold waitPhase
  rw [if_neg (by simp [hs]), progress_eq]
  exact if_pos ht

theorem waitPhase_passes (hs : k.w.spawned = false)
    (ht : 0 < ((getBarrier s k.w.grid k.w.wg cl n).phase - readLane s k.w r.toNat k.low).toInt) :
    waitPhase cl n r k s = .done (modWave s k.uid
      (phasePassed s k (getBarrier s k.w.grid k.w.wg cl n) (readLane s k.w r.toNat k.low))) := by
  unfold waitPhase
  rw [if_neg (by simp [hs]), progress_eq]
  dsimp only
  rw [if_neg (by omega)]
  unfold phasePassed phaseClocks writeQuadCC raiseClocks
  generalize (getBarrier s k.w.grid k.w.wg cl n).done.find? _ = o
  cases o with
  | none => rw [modWave_modWave]; rfl
  | some p => rw [modWave_modWave, modWave_modWave]; rfl

end

/-- Settles O18: an arrival is recorded by `arrivalSet` and may end the phase (`phaseEnds`); `WAITA` parks, or passes
(`phasePassed`). -/
theorem clusterBarriersArriveAndWait : Obligations.ClusterBarriersArriveAndWait := by
  refine ⟨fun i cl d n s k hi h => ⟨fun hs hcan => ?_, fun hs ha hcan => ?_, fun hs ha hw hf => ?stuck, fun hs ha hw hf ht hg => ?arrives⟩,
    fun i cl r n s k hi h => ⟨fun hs hcan => ?_, fun hs ht => ?passes, fun hs ht => ?parks⟩⟩
  · exact arrive_traps hi h (arrive_spawned d cl n hs) hcan
  · exact arrive_traps hi h (arrive_again d cl n hs ha) hcan
  case stuck =>
    obtain ⟨ho, hb, w', hw', e, hf'⟩ := park_result (i := i) .faults id h.1 (getIssue_spec h.1).2.2.1
    exact ⟨_, (arrive_runs hi h).trans (by rw [arrive_stuck d cl n hs ha hw hf]), ho, hb, w', hw', e, hf'⟩
  case arrives =>
    obtain ⟨-, hget, hfr, -⟩ := getIssue_spec h.1
    have hrun := (arrive_runs hi h).trans (by rw [arrive_arrives d cl n hs ha hw hf ht])
    have hall := allArrived_arrivalSet d cl n hg
    by_cases hc : allArrived (arrivalSet s k d cl n) k.w.grid k.w.wg cl n
    · rw [checkPhase_ends _ _ hc] at hrun
      generalize hepi : epilogueOf (arrivalSet s k d cl n) k.w.grid k.w.wg cl n k.uid = epi at hrun
      have hfrag := fun v q x f => phaseEnds_frag (s := s) (k := k) (v := v) (q := q) (x := x) (f := f) d cl n epi (maxClock k.w k.f.quads + 1)
      have hbar : getBarrier (phaseEnds (arrivalSet s k d cl n) k.w.grid k.w.wg cl n epi (maxClock k.w k.f.quads + 1))
          k.w.grid k.w.wg cl n = _ := phaseEnds_barrier cl n epi _ (setBarrier_wgOf cl n _ hg)
      rw [arrivalSet_barrier d cl n hg] at hbar
      obtain ⟨w2, f2, hw2, e2, hf2, hq2, hpc2, -⟩ := hfrag _ _ _ _ hget hfr hg
      rw [if_pos rfl] at e2
      obtain ⟨hbytes, w', f', hw', hro, hf', hq', hpk', hpc', hcl', hreg'⟩ :=
        arrival_retires (i := i) h.1 (phaseEnds_upkeep _ _ _ _ _ _ _) hw2 e2 hf2 hq2 hpc2
      refine ⟨_, hrun, hbytes, ⟨w', f', hw', hro, hf', hq', hpk', hpc', hcl', hreg', fun hn => absurd (hall.1 hc) hn⟩,
        fun _ => ⟨?_, ?_, fun gr hgr => ?_, fun v x q f t hps hx hfx hne hp hlt => ?_⟩, fun hn => absurd (hall.1 hc) hn⟩
      · exact congrArg Barrier.phase hbar
      · exact congrArg Barrier.arrived hbar
      · have he := epilogueOf_arrivalSet d cl n hgr hg
        rw [hepi] at he
        refine ⟨fun hd => ?_, fun hd => ?_⟩
        · exact (congrArg Barrier.epilogue hbar).trans (by rw [he, hd]; rfl)
        · obtain ⟨y, hy, hly, hlast⟩ := lastCame_last (arrivedAt (getBarrier s k.w.grid k.w.wg cl n) k)
            (List.mem_append_right _ (List.mem_singleton.2 rfl))
          exact ⟨y, hy, (congrArg Barrier.epilogue hbar).trans (by rw [he, hd, if_pos rfl, hly]), hlast⟩
      · obtain ⟨x', f', hx', -, hf', -, hpc', hpk'⟩ := hfrag v q x f hx hfx hg
        have hpk := hpk' _ t hps hp hlt
        by_cases hv : v = k.uid
        · subst hv
          obtain rfl : w2 = x' := Option.some.inj (hw2.symm.trans hx')
          exact ⟨_, f', retire_get hw2 hf2 hq2, by rw [retiredWave_frag?, if_neg (hne.resolve_left (· rfl)), hf'],
            hpk, hpc'⟩
        · exact ⟨x', f', (retire_get_other _ _ _ _ hv).trans hx', hf', hpk, hpc'⟩
    · rw [checkPhase_waits _ _ hc] at hrun
      have hup := Upkeep.refl (arrivalSet s k d cl n)
      have hw2 := (arrivalSet_get d cl n k.uid).trans (modWave_get (phaseWritten s k d cl n) hget)
      have hf2 := (phaseWritten_frag? (s := s) (k := k) d cl n k.w k.lead).trans hfr
      obtain ⟨hbytes, w', f', hw', hro, hf', hq', hpk', hpc', hcl', hreg'⟩ := arrival_retires (i := i) h.1 hup hw2 rfl hf2 rfl rfl
      have hbar := arrivalSet_barrier d cl n hg
      refine ⟨_, hrun, hbytes, ⟨w', f', hw', hro, hf', hq', hpk', hpc', hcl', hreg', fun _ => ?_⟩, fun ha => absurd (hall.2 ha) hc,
        fun _ => ⟨(congrArg Barrier.phase hbar).trans rfl, ?_, fun v hv => ?_⟩⟩
      · obtain rfl : _ = w' := Option.some.inj ((retire_get hw2 hf2 rfl).symm.trans hw')
        refine advanced_retiredWave _ h.1 ?_ ?_ <;> rw [phaseWritten_only]
      · refine (congrArg (arrivedOf · k.uid) hbar).trans ?_
        rw [arrivedOf_arrivedAt, if_pos rfl]
      · refine (congrArg (arrivedOf · v) hbar).trans ?_
        rw [arrivedOf_arrivedAt, if_neg hv]
  · exact ⟨_, waita_runs hi h, by rw [waitPhase_spawned cl n r hs]; exact (trap_only _ _ h.1 hcan).1⟩
  case passes =>
    obtain ⟨-, hget, hfr, -⟩ := getIssue_spec h.1
    generalize hb : getBarrier s k.w.grid k.w.wg cl n = b at ht ⊢
    generalize hv : readLane s k.w r.toNat k.low = v at ht ⊢
    have hrun := (waita_runs hi h).trans (by rw [waitPhase_passes cl n r hs (by rw [hb, hv]; exact ht), hb, hv])
    obtain ⟨hfrags, hregs, hmask, hcc⟩ := phasePassed_keeps s k b v k.w
    have hf2 : (phasePassed s k b v k.w).frag? k.lead = some k.f := by unfold Wave.frag?; rw [hfrags]; exact hfr
    obtain ⟨ho, hbytes⟩ := done_onlyWave i s k (phasePassed s k b v)
    refine ⟨_, hrun, ho, hbytes, _, k.f.retired i s.cycle, retire_get (modWave_get _ hget) hf2 rfl,
      by rw [retiredWave_frag?, if_pos rfl, hf2]; rfl, rfl, rfl, rfl, hregs, hmask, ?_, ?_, ?_, fun q hq => ?_, fun c hd q hq hin => ?_⟩
    · show (phasePassed s k b v k.w).cc.z = _
      rw [hcc]; rfl
    · show (phasePassed s k b v k.w).cc.n = _
      rw [hcc]; rfl
    · show (phasePassed s k b v k.w).cc.v = _
      rw [hcc]; rfl
    · exact (congrArg (·.c.getLsbD q) hcc).trans (ccBit_get _ _ _ hq)
    · rw [clockOf_retiredWave _ _ _ _ hq, if_pos hin, phasePassed_clock _ hd hq hin]
  case parks =>
    have hfr := (getIssue_spec h.1).2.2.1
    have hp : (progressed k k.w).frag? k.lead = some k.f := by unfold Wave.frag?; rw [progressed_only]; exact hfr
    obtain ⟨ho, hb, w', hw', e, hf'⟩ := park_result (i := i)
      (.barrier cl n (readLane s k.w r.toNat k.low)) (progressed k) h.1 hp
    refine ⟨_, (waita_runs hi h).trans (by rw [waitPhase_parks cl n r hs ht]), ho, hb, w', _, hw', hf', rfl, rfl, ?_⟩
    rw [e, progressed_only]

end Sys2Proof.Machine
end

section
/-!
SUPPORT. The placing of a cluster on a pair of cores (02 R50; 11 R271, R272): which waves stand once each of its workgroups has
taken its resources.
-/

namespace Sys2Proof.Machine

/-! Steps that may fail, one after another. -/

theorem foldl_bind_eq_foldlM {α : Type} (f : State → α → Option State) (l : List α) (o : Option State) :
    l.foldl (fun r a => r.bind fun t => f t a) o = o.bind fun t => l.foldlM f t := by
  induction l generalizing o with
  | nil => cases o <;> rfl
  | cons a r ih =>
    rw [List.foldl_cons, ih]
    cases o <;> rfl

/-- What a list of steps keeps, and the states between which one of them stands. -/
theorem foldlM_passes {α : Type} {R : State → State → Prop} (hrefl : ∀ s, R s s) (htrans : ∀ {a b c}, R a b → R b c → R a c)
    {f : State → α → Option State} (hf : ∀ s a t, f s a = some t → R s t) {l : List α} {s t : State} (h : l.foldlM f s = some t) :
    R s t ∧ ∀ a ∈ l, ∃ s1 s2, R s s1 ∧ f s1 a = some s2 ∧ R s2 t := by
  induction l generalizing s with
  | nil =>
    obtain rfl : s = t := Option.some.inj h
    exact ⟨hrefl s, fun a ha => nomatch ha⟩
  | cons a r ih =>
    obtain ⟨m, hm, hr⟩ := Option.bind_eq_some_iff.1 (List.foldlM_cons.symm.trans h)
    obtain ⟨hmt, hall⟩ := ih hr
    have hsm := hf s a m hm
    refine ⟨htrans hsm hmt, fun b hb => ?_⟩
    rcases List.mem_cons.1 hb with rfl | hb
    · exact ⟨s, m, hrefl s, hm, hmt⟩
    · obtain ⟨s1, s2, h1, h2, h3⟩ := hall b hb
      exact ⟨s1, s2, htrans hsm h1, h2, h3⟩

/-- Launched waves stay, and the grids' next clusters. -/
structure Placing (s t : State) : Prop where
  uids : s.nextUid ≤ t.nextUid
  waves : ∀ u, u < s.nextUid → assocGet t.waves u = assocGet s.waves u
  grids : ∀ g gr, assocGet s.grids g = some gr → ∃ gr', assocGet t.grids g = some gr' ∧ gr'.next = gr.next

namespace Placing

theorem refl (s : State) : Placing s s := ⟨le_rfl, fun _ _ => rfl, fun _ gr h => ⟨gr, h, rfl⟩⟩

theorem trans {s t r : State} (h : Placing s t) (h' : Placing t r) : Placing s r := by
  refine ⟨h.uids.trans h'.uids, fun u hu => (h'.waves u (hu.trans_le h.uids)).trans (h.waves u hu), fun g gr hg => ?_⟩
  obtain ⟨g1, hg1, e1⟩ := h.grids g gr hg
  obtain ⟨g2, hg2, e2⟩ := h'.grids g g1 hg1
  exact ⟨g2, hg2, e2.trans e1⟩

end Placing

/-! Banks. -/

/-- A bank gained changes the banks and the core's credits alone. -/
theorem gainBank_only {s t : State} {p x : Nat} (h : gainBank s p x = some t) :
    t = { s with banks := t.banks, cores := t.cores } := by
  unfold gainBank at h
  split at h
  · obtain rfl := Option.some.inj h; rfl
  · split at h
    · cases h
    · split at h
      · cases h
      · split at h
        · cases h
        · obtain rfl := Option.some.inj h; rfl

theorem gainBank_placing {s t : State} {p x : Nat} (h : gainBank s p x = some t) : Placing s t := by
  rw [gainBank_only h]
  exact ⟨le_rfl, fun _ _ => rfl, fun _ gr hg => ⟨gr, hg, rfl⟩⟩

/-- Banks gained where they can be change the banks and the cores' credits alone. -/
theorem gainBanks_only (x : Nat) (ps : List Nat) (s : State) :
    ∃ b c, ps.foldl (fun t p => (gainBank t p x).getD t) s = { s with banks := b, cores := c } := by
  induction ps generalizing s with
  | nil => exact ⟨s.banks, s.cores, rfl⟩
  | cons p r ih =>
    rw [List.foldl_cons]
    obtain ⟨b, c, e⟩ := ih ((gainBank s p x).getD s)
    rw [e]
    cases h : gainBank s p x with
    | none => exact ⟨b, c, rfl⟩
    | some t => exact ⟨b, c, by rw [Option.getD_some, gainBank_only h]⟩

/-! Waves. -/

/-- A wave of a cluster as it starts (02 R50). -/
def launchedWave (s : State) (p g k : Nat) (gr : Grid) (widx : Nat) (c : Claim) : Wave :=
  { Wave.start gr.ctx p (lowSlot s p) c gr.pkt.gran (lowFrame s p gr.ctx) g k widx false gr.det
      (gr.pkt.entry &&& ~~~1) (-1) (-1) s.cycle with regs := argRegs gr.pkt.args }

theorem launchWave_launches {s t : State} {p g k widx : Nat} {gr : Grid} (h : launchWave s p g k gr widx = some t) :
    Placing s t ∧ s.nextUid < t.nextUid ∧ ∃ c, assocGet t.waves s.nextUid = some (launchedWave s p g k gr widx c) := by
  obtain ⟨c, -, rfl⟩ := Option.map_eq_some_iff.1 h
  exact ⟨⟨Nat.le_succ _, fun u hu => assocGet_set_other _ _ _ _ (Nat.ne_of_lt hu), fun _ gr' hg => ⟨gr', hg, rfl⟩⟩,
    Nat.lt_succ_self _, c, assocGet_set_same _ _ _⟩

/-- Wave `widx` of workgroup `k` stands, launched on core `p`. -/
def WaveStands (t : State) (p g k : Nat) (gr : Grid) (widx : Nat) : Prop :=
  ∃ u s c, u < t.nextUid ∧ assocGet t.waves u = some (launchedWave s p g k gr widx c)

theorem WaveStands.keeps {s t : State} {p g k widx : Nat} {gr : Grid} (h : WaveStands s p g k gr widx) (ht : Placing s t) :
    WaveStands t p g k gr widx := by
  obtain ⟨u, r, c, hu, hw⟩ := h
  exact ⟨u, r, c, hu.trans_le ht.uids, (ht.waves u hu).trans hw⟩

theorem modGrid_get {s : State} {g : Nat} {gr : Grid} (f : Grid → Grid) (h : assocGet s.grids g = some gr) :
    assocGet (modGrid s g f).grids g = some (f gr) := (assocGet_mod_same _ _ _).trans (by rw [h]; rfl)

theorem modGrid_placing (s : State) (g : Nat) (f : Grid → Grid) (hf : ∀ gr, (f gr).next = gr.next) : Placing s (modGrid s g f) := by
  refine ⟨le_rfl, fun _ _ => rfl, fun h gr hg => ?_⟩
  by_cases e : h = g
  · subst e
    exact ⟨f gr, modGrid_get f hg, hf gr⟩
  · exact ⟨gr, (assocGet_mod_other _ _ _ _ e).trans hg, rfl⟩

theorem placeWg_places {s t : State} {p g k : Nat} {gr : Grid} (h : placeWg s p g k gr = some t) :
    Placing s t ∧ ∀ i, i < gr.pkt.n → WaveStands t p g k gr i := by
  unfold placeWg at h
  dsimp only at h
  split at h
  · cases h
  · split at h
    · cases h
    · rw [foldl_bind_eq_foldlM] at h
      obtain ⟨hp, hall⟩ := foldlM_passes Placing.refl Placing.trans (fun _ _ _ hl => (launchWave_launches hl).1) h
      refine ⟨Placing.trans (modGrid_placing s g _ fun _ => by rfl) hp, fun i hi => ?_⟩
      obtain ⟨s1, s2, -, hl, h2⟩ := hall i (List.mem_range.2 hi)
      obtain ⟨-, hlt, c, hw⟩ := launchWave_launches hl
      exact WaveStands.keeps ⟨_, s1, c, hlt, hw⟩ h2

theorem placeCluster_places {s t : State} {g k cq c0 : Nat} {gr : Grid} (h : placeCluster s g gr k cq c0 = some t) :
    Placing s t ∧ ∀ r i, r < gr.pkt.s → i < gr.pkt.n →
      WaveStands t (rankCore (clusterDie gr k) cq c0 r) g (k * gr.pkt.s + r) gr i := by
  unfold placeCluster at h
  dsimp only at h
  rw [foldl_bind_eq_foldlM, foldl_bind_eq_foldlM] at h
  obtain ⟨s1, hb, hs⟩ := Option.bind_eq_some_iff.1 h
  obtain ⟨h1, -⟩ := foldlM_passes Placing.refl Placing.trans (fun _ _ _ hl => gainBank_placing hl) hb
  obtain ⟨h2, hall⟩ := foldlM_passes Placing.refl Placing.trans (fun _ _ _ hl => (placeWg_places hl).1) hs
  refine ⟨h1.trans h2, fun r i hr hi => ?_⟩
  obtain ⟨a, b, -, hl, hp⟩ := hall r (List.mem_range.2 hr)
  exact ((placeWg_places hl).2 i hi).keeps hp

theorem assocGet_tabulate {α : Type} (ks : List Nat) (f : Nat → α) (k : Nat) :
    assocGet (ks.map fun j => (j, f j)) k = if k ∈ ks then some (f k) else none := by
  induction ks with
  | nil => rfl
  | cons j r ih =>
    by_cases h : j = k
    · simp [assocGet, h]
    · simp [assocGet, h, Ne.symm h, ih]

/-- What v0 to v2 hold, and every other register (02 R50). -/
theorem held_launchedWave (s : State) (p g k : Nat) (gr : Grid) (widx : Nat) (c : Claim) (r : Nat) {l : Nat} (hl : l < 64) :
    held (launchedWave s p g k gr widx c) r l =
      if r < 3 then (gr.pkt.args.zeroExtend 96).extractLsb' (32 * r) 32 else 0 := by
  have table : argRegs gr.pkt.args =
      (List.range 192).map fun i => (i, (gr.pkt.args.zeroExtend 96).extractLsb' (32 * (i / 64)) 32) := rfl
  have hget : assocGet (argRegs gr.pkt.args) (64 * r + l) =
      if r < 3 then some ((gr.pkt.args.zeroExtend 96).extractLsb' (32 * r) 32) else none := by
    rw [table, assocGet_tabulate, show (64 * r + l) / 64 = r by omega]
    simp only [List.mem_range, show 64 * r + l < 192 ↔ r < 3 by omega]
  refine (congrArg (Option.getD · 0) hget).trans ?_
  split <;> rfl

theorem argWord_low (a : VA) (i : Nat) (hi : i + 32 ≤ 80) : (a.zeroExtend 96).extractLsb' i 32 = a.extractLsb' i 32 := by
  refine BitVec.eq_of_getLsbD_eq fun j hj => ?_
  simp only [BitVec.getLsbD_extractLsb', BitVec.truncate_eq_setWidth, BitVec.getLsbD_setWidth, hj, show i + j < 96 by omega,
    decide_true, Bool.true_and]

theorem argWord_high (a : VA) : (a.zeroExtend 96).extractLsb' 64 32 = (a.extractLsb' 64 16).zeroExtend 32 := by
  refine BitVec.eq_of_getLsbD_eq fun j hj => ?_
  simp only [BitVec.getLsbD_extractLsb', BitVec.truncate_eq_setWidth, BitVec.getLsbD_setWidth, hj, show 64 + j < 96 by omega,
    decide_true, Bool.true_and]
  by_cases h : j < 16
  · simp [h]
  · simp [h, BitVec.getLsbD_of_ge a (64 + j) (by omega)]

/-! The pair that is taken. -/

theorem bestPair_mem {f : Nat → Nat} {dom n : Nat} {vs : List (Nat × Nat)} {v : Nat × Nat} (h : bestPair f dom n vs = some v) :
    v ∈ vs := by
  unfold bestPair at h
  dsimp only at h
  generalize hf : (fun (m : Option (Nat × Nat)) (v : Nat × Nat) => _) = F at h
  have hF : ∀ m v x, F m v = some x → m = some x ∨ x = v := by
    intro m v x hx
    subst hf
    cases m with
    | none => exact .inr (Option.some.inj hx).symm
    | some u =>
      dsimp only at hx
      split at hx
      · exact .inr (Option.some.inj hx).symm
      · exact .inl hx
  have key : ∀ (l : List (Nat × Nat)) m, l.foldl F m = some v → m = some v ∨ v ∈ l := by
    intro l
    induction l with
    | nil => exact fun m h => .inl h
    | cons a r ih =>
      intro m hm
      rcases ih _ hm with h1 | h1
      · rcases hF _ _ _ h1 with h2 | h2
        · exact .inl h2
        · exact .inr (h2 ▸ List.mem_cons_self)
      · exact .inr (List.mem_cons_of_mem _ h1)
  exact (key vs none h).resolve_left (by simp)

theorem listMod_const {α : Type} (l : List α) (j : Nat) (v : α) : (listMod l j fun _ => v) = l.set j v := by
  induction l generalizing j with
  | nil => rfl
  | cons a r ih => cases j with
    | zero => rfl
    | succ j => exact congrArg (a :: ·) (ih j)

/-- A grid comes not before itself. -/
theorem gridBefore_irrefl (h : Nat × Grid) : gridBefore h h = false := by simp [gridBefore]

/-! Guards. -/

def guarded (r : Nat × Nat) (c : Core) : Core := if c.guards.contains r then c else { c with guards := c.guards ++ [r] }

theorem mem_guarded (r : Nat × Nat) (c : Core) : r ∈ (guarded r c).guards := by
  unfold guarded
  split
  case isTrue h => simpa using h
  case isFalse => simp

theorem getCore_modCore (s : State) (p q : Nat) (f : Core → Core) :
    getCore (modCore s p f) q = if q = p then f (getCore s p) else getCore s q := by
  unfold getCore modCore
  split
  case isTrue h => subst h; simp [getCore]
  case isFalse h => simp [h]

/-- Guarding the cores changes them alone, and leaves the request on each. -/
theorem guardCores (r : Nat × Nat) (ps : List Nat) (s : State) :
    ∃ c, ps.foldl (fun t p => modCore t p (guarded r)) s = { s with cores := c } ∧
      ∀ q, q ∈ ps ∨ r ∈ (getCore s q).guards → r ∈ (getCore { s with cores := c } q).guards := by
  induction ps generalizing s with
  | nil => exact ⟨s.cores, rfl, fun q hq => hq.resolve_left (by simp)⟩
  | cons p l ih =>
    obtain ⟨c, e, hc⟩ := ih (modCore s p (guarded r))
    refine ⟨c, e, fun q hq => hc q ?_⟩
    rw [getCore_modCore]
    by_cases hp : q = p
    · rw [if_pos hp]; exact .inr (mem_guarded _ _)
    · rw [if_neg hp]; exact hq.imp (fun h => (List.mem_cons.1 h).resolve_left hp) id

/-! The events. -/

/-- The grid whose cluster `k`, the next of die group `j`, has been placed. -/
def offerNext (j k : Nat) (gr : Grid) : Grid := { gr with next := listMod gr.next j fun _ => k + 1, waits := assocDel gr.waits k }

/-- A cluster that takes a pair has been placed there and is no longer offered. -/
theorem takePair_admits {s t : State} {g k cq c0 : Nat} {gr : Grid} {since : Option Nat} (hg : assocGet s.grids g = some gr)
    (h : takePair s g gr k cq c0 since = some t) :
    (∃ gr', assocGet (admitted t g gr k).grids g = some gr' ∧
      gr'.next = gr.next.set (gr.dies.idxOf (clusterDie gr k)) (k + 1)) ∧
    ∀ r i, r < gr.pkt.s → i < gr.pkt.n →
      WaveStands (admitted t g gr k) (rankCore (clusterDie gr k) cq c0 r) g (k * gr.pkt.s + r) gr i := by
  unfold takePair at h
  split at h
  · obtain ⟨hp, hall⟩ := placeCluster_places h
    obtain ⟨gr', hg', hn⟩ := hp.grids g gr hg
    have hadm := modGrid_get (offerNext (gr.dies.idxOf (clusterDie gr k)) k) hg'
    exact ⟨⟨_, hadm, (listMod_const _ _ _).trans (by rw [hn])⟩, hall⟩
  · cases h

/-- The grid whose cluster `k` begins to wait. -/
def waitOn (k : Nat) (v : ClWait) (gr : Grid) : Grid := { gr with waits := assocSet gr.waits k v }

/-- No cluster that a die would offer first stands in the way (11 R271). -/
theorem noneBefore {s : State} {g dom : Nat} {gr : Grid} {later open_ : Nat × Grid → Bool}
    (h : ∀ h ∈ s.grids, gridBefore h (g, gr) = true → h.2.discarded = true ∨ (assocGet s.ctxs h.2.ctx).any (launches s) = false ∨
      h.2.nextOn dom = none) (hnext : ∀ h, h.2.nextOn dom = none → later h = false) :
    (s.grids.any fun h => gridBefore h (g, gr) && !h.2.discarded && (assocGet s.ctxs h.2.ctx).any (launches s) && later h &&
      open_ h) = false := by
  refine List.any_eq_false.2 fun x hx hc => ?_
  simp only [Bool.and_eq_true, Bool.not_eq_true'] at hc
  obtain ⟨⟨⟨⟨hb, hd⟩, hl⟩, hm⟩, -⟩ := hc
  rcases h x hx hb with h1 | h1 | h1
  · rw [hd] at h1; cases h1
  · rw [hl] at h1; cases h1
  · rw [hnext x h1] at hm; cases hm

/-- The pairs that the offered cluster fits. -/
def fitPairs (s : State) (g k : Nat) (gr : Grid) : List (Nat × Nat) :=
  (candPairs s gr (clusterDie gr k)).filter fun v => (takePair s g gr k v.1 v.2 none).isSome

section
variable {s : State} {g k : Nat} {gr : Grid} (hg : assocGet s.grids g = some gr) (hd : gr.discarded = false)
  (hn : gr.nextOn (clusterDie gr k) = some k) (hl : (assocGet s.ctxs gr.ctx).any (launches s) = true) (hw : assocGet gr.waits k = none)
  (hbefore : ∀ h ∈ s.grids, gridBefore h (g, gr) = true → h.2.discarded = true ∨
    (assocGet s.ctxs h.2.ctx).any (launches s) = false ∨ h.2.nextOn (clusterDie gr k) = none)
include hg hd hn hl hw hbefore

theorem admitCluster_takes {v : Nat × Nat} (hbest : bestPair (freeSlots s) (clusterDie gr k) gr.pkt.s (fitPairs s g k gr) = some v)
    (hc : (rankCores (clusterDie gr k) v.1 v.2 gr.pkt.s).any (candFits s) = false)
    (he : earlierFits s g gr k (rankCores (clusterDie gr k) v.1 v.2 gr.pkt.s) none = false) :
    ∃ t, takePair s g gr k v.1 v.2 none = some t ∧ admitCluster s g k = some (admitted t g gr k) := by
  obtain ⟨t, ht⟩ := Option.isSome_iff_exists.1 (List.mem_filter.1 (bestPair_mem hbest)).2
  refine ⟨t, ht, ?_⟩
  unfold fitPairs at hbest
  unfold admitCluster
  rw [hg]
  dsimp only
  rw [if_neg (by simp [hd, hn, hl]), hw]
  dsimp only
  rw [noneBefore hbefore fun h hh => by rw [hh], if_neg Bool.false_ne_true, hbest]
  dsimp only
  rw [if_pos (by rw [hc, he]; rfl), ht]
  rfl

theorem admitCluster_waits {v : Nat × Nat} (hnone : bestPair (freeSlots s) (clusterDie gr k) gr.pkt.s (fitPairs s g k gr) = none)
    (hbest : bestPair (freeGrans s) (clusterDie gr k) gr.pkt.s (candPairs s gr (clusterDie gr k)) = some v) :
    ∃ b c, admitCluster s g k =
      some (modGrid { s with banks := b, cores := c } g (waitOn k ⟨v.1, v.2, s.cycle⟩)) := by
  obtain ⟨b, c, e⟩ := gainBanks_only gr.ctx (rankCores (clusterDie gr k) v.1 v.2 gr.pkt.s) s
  refine ⟨b, c, ?_⟩
  unfold fitPairs at hnone
  unfold admitCluster
  rw [hg]
  dsimp only
  rw [if_neg (by simp [hd, hn, hl]), hw]
  dsimp only
  rw [noneBefore hbefore fun h hh => by rw [hh], if_neg Bool.false_ne_true, hnone]
  dsimp only
  rw [hbest]
  dsimp only
  rw [e]
  rfl

end

/-- A cluster that has waited longer than any other is guarded next (04 R97). -/
theorem guardCluster_guards {s : State} {g k : Nat} {gr : Grid} {v : ClWait} (hg : assocGet s.grids g = some gr)
    (hv : assocGet gr.waits k = some v) (hold : v.since + 4096 ≤ s.cycle)
    (hfirst : ∀ h ∈ s.grids, ∀ u ∈ h.2.waits, v.since < u.2.since ∨ (h = (g, gr) ∧ u = (k, v)))
    (hmiss : ∃ p ∈ rankCores (clusterDie gr k) v.cq v.c0 gr.pkt.s, (g, k) ∉ (getCore s p).guards) :
    guardCluster s g k =
      some ((rankCores (clusterDie gr k) v.cq v.c0 gr.pkt.s).foldl (fun t p => modCore t p (guarded (g, k))) s) := by
  obtain ⟨p, hp, hpg⟩ := hmiss
  unfold guardCluster
  rw [hg]
  dsimp only
  rw [hv]
  dsimp only
  rw [if_neg]
  · rfl
  · rw [Bool.or_eq_true, Bool.or_eq_true, decide_eq_true_iff, List.any_eq_true, List.all_eq_true]
    rintro ((hc | ⟨h, hh, hc⟩) | hall)
    · omega
    · obtain ⟨u, hu, hc⟩ := List.any_eq_true.1 hc
      rw [Bool.and_eq_true] at hc
      rcases hfirst h hh u hu with hlt | ⟨rfl, rfl⟩
      · simp [Nat.ne_of_gt hlt, Nat.not_lt.2 hlt.le] at hc
      · simp [gridBefore_irrefl] at hc
    · exact hpg (by simpa using hall p hp)

/-- Settles O51: the offered cluster is placed, waits or is guarded as its conditions say. -/
theorem clustersAreAdmitted : Obligations.ClustersAreAdmitted := by
  intro s g gr k hg
  refine ⟨fun hd hn hl hw hbefore => ⟨fun v hbest hcand hearly => ?_, fun v hnone hbest => ?_⟩, fun v hv hold hfirst hmiss => ?_⟩
  · obtain ⟨t, ht, he⟩ := admitCluster_takes hg hd hn hl hw hbefore hbest hcand hearly
    obtain ⟨hgrid, hall⟩ := takePair_admits hg ht
    refine ⟨_, congrArg (evStep s) he, hgrid, fun r i hr hi => ?_⟩
    obtain ⟨u, s1, c, -, hu⟩ := hall r i hr hi
    refine ⟨u, _, _, hu, rfl, rfl, rfl, rfl, rfl, rfl, rfl, rfl, rfl, rfl, rfl, rfl, rfl, rfl, rfl, rfl, rfl, fun l hl => ?_⟩
    simp only [held_launchedWave _ _ _ _ _ _ _ _ hl]
    exact ⟨argWord_low _ 0 (by decide), argWord_low _ 32 (by decide), argWord_high _, fun r hr => if_neg (Nat.not_lt.2 hr)⟩
  · obtain ⟨b, c, e⟩ := admitCluster_waits hg hd hn hl hw hbefore hnone hbest
    exact ⟨_, congrArg (evStep s) e, ⟨fun _ => rfl, rfl⟩, rfl, modGrid_get (waitOn k ⟨v.1, v.2, s.cycle⟩) hg⟩
  · obtain ⟨c, e, hc⟩ := guardCores (g, k) (rankCores (clusterDie gr k) v.cq v.c0 gr.pkt.s) s
    refine ⟨_, congrArg (evStep s) ((guardCluster_guards hg hv hold hfirst hmiss).trans (congrArg some e)), ?_⟩
    exact ⟨⟨fun _ => rfl, rfl⟩, rfl, fun p hp => hc p (.inl hp)⟩

end Sys2Proof.Machine
end

section
/-!
SUPPORT. The events of a fragment: the watchdog, promotion, and what a parked `WAITW` does as its words change or its time runs
out (02 R62; 11 R277, R291; 17 R419, R420).
-/

namespace Sys2Proof.Machine

/-! The watchdog and promotion. -/

theorem mem_of_frag? {w : Wave} {q : Nat} {f : Frag} (h : w.frag? q = some f) : f ∈ w.frags ∧ leadQuad f.quads = q := by
  unfold Wave.frag? at h
  exact ⟨List.mem_of_find?_eq_some h, by simpa using List.find?_some h⟩

theorem fragAt_eq {s : State} {u q : Nat} {w : Wave} {f : Frag} (hw : assocGet s.waves u = some w) (hf : w.frag? q = some f) :
    fragAt s u q = some (w, f) := by
  unfold fragAt
  rw [hw]
  dsimp only
  rw [hf]
  rfl

/-- The watchdog's trap of the fragment that is next (02 R62). -/
theorem watchdog_traps {s : State} {u : Nat} {w : Wave} {f : Frag} {c : Context} (hw : assocGet s.waves u = some w)
    (hc : assocGet s.ctxs w.ctx = some c) (hi : issues s w.ctx = true) (hd : watchdogDue s w = true)
    (hn : firstFrag ((w.frags.filter (·.free s w)).map fun f => (u, w, f)) = some (u, w, f))
    (hf : w.frag? (leadQuad f.quads) = some f) (hcan : CanTrap s ⟨u, w, f, c⟩) :
    Completes (.watchdog u) s fun t => Trapped s t ⟨u, w, f, c⟩ .watchdog false ((Issue.mk u w f c).act s) 0 := by
  have hev : watchdogEvent s u =
      some (takeTrap (modWave s u id) u (leadQuad f.quads) ⟨.watchdog, (Issue.mk u w f c).act s, 0, false, f.pc, f.header⟩) := by
    unfold watchdogEvent
    rw [hw]
    dsimp only
    rw [hi, hd, hn]
    refine congrArg some ?_
    unfold watchdogTrap
    rw [hw]
    dsimp only
    rw [hf, hc, modWave_same s u id fun _ => rfl]
  exact ⟨_, congrArg (evStep s) hev, trapped_takeTrap (k := ⟨u, w, f, c⟩) (g := id) hw hc hcan
    ⟨fun _ => ⟨rfl, rfl, rfl⟩, rfl, rfl, rfl, rfl, rfl, rfl⟩ hf rfl ⟨rfl, rfl, rfl⟩ (fun _ _ => rfl) rfl⟩

/-- A change of one fragment alone. -/
theorem modFrag_result {s : State} {u q : Nat} {w : Wave} {f : Frag} {g : Frag → Frag} (hw : assocGet s.waves u = some w)
    (hf : w.frag? q = some f) (hg : ∀ x, (g x).quads = x.quads) :
    assocGet (modFrag s u q g).waves u = some (w.modFrag q g) ∧ (w.modFrag q g).frag? q = some (g f) :=
  ⟨modWave_get _ hw, by rw [modFrag_frag? _ _ _ _ hg, if_pos rfl, hf]; rfl⟩

theorem fragment_promotes {s : State} {u q : Nat} {w : Wave} {f : Frag} (hw : assocGet s.waves u = some w)
    (hf : w.frag? q = some f) (hwait : 256 ≤ f.waited) (hp : f.promoted = none) :
    Completes (.fragmentPromotion u q) s fun t => SameBytes s t ∧ OnlyWave s t u ∧
      ∃ w', assocGet t.waves u = some w' ∧ w'.frag? q = some { f with promoted := some s.cycle } := by
  have hev : promote s u q = some (modFrag s u q fun f => { f with promoted := some s.cycle }) := by
    unfold promote
    rw [fragAt_eq hw hf]
    dsimp only
    rw [if_neg (by rw [hp]; simp; omega)]
  have ⟨ho, hb⟩ := modWave_onlyWave s u fun w => w.modFrag q fun f => { f with promoted := some s.cycle }
  exact ⟨_, congrArg (evStep s) hev, hb, ho, _, modFrag_result hw hf fun _ => rfl⟩

/-! The words of a `WAITW`. -/

/-- The state but for the copies of lines that slice groups hold. -/
def withLines (s : State) (c : List (Nat × List Byte)) : State := { s with hub := { s.hub with lineCopies := c } }

theorem refresh_lines (l : Loc) (p : Nat) (s : State) : ∃ c, l.refresh p s = withLines s c := by
  unfold Loc.refresh
  split
  · split
    · exact ⟨_, rfl⟩
    · exact ⟨s.hub.lineCopies, rfl⟩
  · exact ⟨s.hub.lineCopies, rfl⟩

theorem dropWords_lines (core : Nat) (ws : List (Nat × Nat × Dword)) (s : State) : ∃ c, dropWords s core ws = withLines s c := by
  induction ws generalizing s with
  | nil => exact ⟨s.hub.lineCopies, rfl⟩
  | cons r l ih =>
    obtain ⟨c1, e1⟩ := refresh_lines (.phys r.2.1 0) core s
    obtain ⟨c2, e2⟩ := ih (withLines s c1)
    refine ⟨c2, ?_⟩
    show dropWords ((Loc.phys r.2.1 0).refresh core s) core l = _
    rw [e1, e2]
    rfl

theorem CanTrap.withLines {s : State} {k : Issue} (h : CanTrap s k) (c : List (Nat × List Byte)) : CanTrap (withLines s c) k := h

/-- A fragment parked in `WAITW` stands with what its words now hold, awake where each has changed (17 R420). -/
def wordsSeen (i : Instr) (n : Nat) (left : Option Nat) (now : List WaitWord) (f : Frag) : Frag :=
  { f with park := .waitw i now n left (now.all fun x => x.m != x.vb), stall := 0 }

theorem wordsSeen_result {s r : State} {u q : Nat} {w : Wave} {f : Frag} (i : Instr) (n : Nat) (left : Option Nat)
    (now : List WaitWord) (c : List (Nat × List Byte)) (hr : r.waves = s.waves) (hm : r.mem = s.mem) (hx : r.undefMem = s.undefMem)
    (hw : assocGet s.waves u = some w) (hf : w.frag? q = some f) :
    let t := bumpFree (modFrag (withLines r c) u q (wordsSeen i n left now))
    SameBytes s t ∧ (∀ v, v ≠ u → assocGet t.waves v = assocGet s.waves v) ∧
      ∃ w', assocGet t.waves u = some w' ∧ w'.regs = w.regs ∧ w'.window = w.window ∧
        w'.frag? q = some (wordsSeen i n left now f) := by
  have hw' : assocGet (withLines r c).waves u = some w := by rw [← hw, ← hr]; rfl
  have ⟨h1, h2⟩ := modFrag_result (g := wordsSeen i n left now) hw' hf fun _ => rfl
  refine ⟨⟨fun a => congrArg (memRead · a) hm, hx⟩, fun v hv => ?_, _, h1, rfl, rfl, h2⟩
  exact (modWave_get_other (withLines r c) u (·.modFrag q (wordsSeen i n left now)) hv).trans (congrArg (assocGet · v) hr)

/-- The retest of words of which none is polled, or whose answers have not come, reads them. -/
theorem retest_reads {s : State} {n : Nat} {ws : List WaitWord} (h : ∀ y ∈ ws, paRegion y.pa ≠ 2) :
    ws.foldl (fun (r : State × List WaitWord) x =>
      let a := answerPoll r.1 n (x.now s n)
      (a.1, r.2 ++ [a.2])) (s, []) = (s, ws.map (WaitWord.now s n)) := by
  have hans : ∀ y ∈ ws, answerPoll s n (y.now s n) = (s, y.now s n) := fun y hy => by
    have hp : (y.now s n).polled = false := by
      unfold WaitWord.now WaitWord.read WaitWord.polled
      simp [h y hy]
    unfold answerPoll
    rw [hp]
    rfl
  have key : ∀ (l acc : List WaitWord), (∀ y ∈ l, y ∈ ws) → l.foldl (fun (r : State × List WaitWord) x =>
      let a := answerPoll r.1 n (x.now s n)
      (a.1, r.2 ++ [a.2])) (s, acc) = (s, acc ++ l.map (WaitWord.now s n)) := by
    intro l
    induction l with
    | nil => simp
    | cons y r ih =>
      intro acc hl
      rw [List.foldl_cons, hans y (hl y List.mem_cons_self), ih _ fun z hz => hl z (List.mem_cons_of_mem _ hz)]
      simp
  simpa using key ws [] fun _ hy => hy

section
variable {s : State} {u q : Nat} {w : Wave} {f : Frag} {i : Instr} {ws : List WaitWord} {n : Nat} {left : Option Nat}
  (hw : assocGet s.waves u = some w) (hf : w.frag? q = some f) (hp : f.park = .waitw i ws n left false) (ht : turnWave w = false)
include hw hf hp ht

theorem waitwTest_eq {s1 : State} {now : List WaitWord}
    (h : ws.foldl (fun (r : State × List WaitWord) x =>
      let a := answerPoll r.1 n (x.now s n)
      (a.1, r.2 ++ [a.2])) (s, []) = (s1, now)) (hne : now ≠ ws) :
    ∃ c, waitwTest s u q = some (modFrag (withLines s1 c) u q (wordsSeen i n left now)) := by
  obtain ⟨c, e⟩ := dropWords_lines w.core (ws.map fun x => (x.lane, x.pa, x.m)) s1
  refine ⟨c, ?_⟩
  unfold waitwTest
  rw [fragAt_eq hw hf]
  dsimp only
  rw [hp]
  dsimp only at h ⊢
  rw [h]
  dsimp only
  rw [if_neg (by simp [ht, hne]), e]
  rfl

/-- The test of a parked fragment's words leaves memory and every other wave as they were. -/
theorem waitwRetest_sees {h : Hub} {now : List WaitWord}
    (hs : ws.foldl (fun (r : State × List WaitWord) x =>
      let a := answerPoll r.1 n (x.now s n)
      (a.1, r.2 ++ [a.2])) (s, []) = ({ s with hub := h }, now)) (hne : now ≠ ws) :
    Completes (.waitwRetest u q) s fun t => SameBytes s t ∧ (∀ v, v ≠ u → assocGet t.waves v = assocGet s.waves v) ∧
      ∃ w', assocGet t.waves u = some w' ∧ w'.regs = w.regs ∧
        w'.frag? q = some { f with park := .waitw i now n left (now.all fun x => x.m != x.vb), stall := 0 } := by
  obtain ⟨c, e⟩ := waitwTest_eq hw hf hp ht hs hne
  obtain ⟨hb, ho, w', h1, h2, -, h3⟩ := wordsSeen_result (r := { s with hub := h }) i n left now c rfl rfl rfl hw hf
  exact ⟨_, congrArg (evStep s) e, hb, ho, w', h1, h2, h3⟩

end

/-- A peer's answer is the word as the peer holds it; the next poll leaves. -/
theorem answerPoll_answers {s : State} {n : Nat} {y : WaitWord} (hp : paRegion y.pa = 2) (hs : y.sent ≠ 0)
    (ha : portAnswers s y.port (y.sent - 1) = true) :
    ∃ y', (answerPoll s n (y.now s n)).2 = y' ∧ y' = { y.read s n with port := y'.port, sent := y'.sent } ∧
      ∃ h, (answerPoll s n (y.now s n)).1 = { s with hub := h } := by
  have hpol : y.polled = true := by unfold WaitWord.polled; simp [hp]
  have hnow : y.now s n = y := if_pos hpol
  rw [hnow]
  unfold answerPoll
  rw [if_pos (by simp [hpol, hs, ha])]
  unfold pollWord
  split
  · refine ⟨_, rfl, rfl, ?_⟩
    unfold linkSend
    dsimp only
    split <;> exact ⟨_, rfl⟩
  · exact ⟨_, rfl, rfl, s.hub, rfl⟩

/-! The time of a `WAITW` runs out. -/

/-- The words as the last test sees them. -/
def testedWord (s : State) (w : Wave) (n : Nat) (y : WaitWord) : WaitWord := if turnWave w then y else WaitWord.now s n y

theorem testedWord_map (s : State) (w : Wave) (n : Nat) (ws : List WaitWord) :
    (if turnWave w then ws else ws.map (WaitWord.now s n)) = ws.map (testedWord s w n) := by
  unfold testedWord
  split <;> simp

theorem testedWord_lane (s : State) (w : Wave) (n : Nat) (y : WaitWord) : (testedWord s w n y).lane = y.lane := by
  unfold testedWord WaitWord.now WaitWord.read
  split
  · rfl
  · split <;> rfl

theorem testedWord_vb (s : State) (w : Wave) (n : Nat) (y : WaitWord) : (testedWord s w n y).vb = y.vb := by
  unfold testedWord WaitWord.now WaitWord.read
  split
  · rfl
  · split <;> rfl

theorem held_of_regs {w w' : Wave} {r l : Nat} (h : w'.regs = w.regs) : held w' r l = held w r l := by
  unfold held
  rw [h]

/-- The wave with the words of the test written. -/
def wordsWritten (d n : Nat) (now : List WaitWord) (w : Wave) : Wave := now.foldl (fun w x => writeVal w n d x.lane x.m) w

theorem writeVal_only (w : Wave) (n r l : Nat) (v : Dword) : writeVal w n r l v = { w with regs := (writeVal w n r l v).regs } := by
  unfold writeVal
  split <;> rfl

theorem wordsWritten_only (d n : Nat) (now : List WaitWord) (w : Wave) :
    wordsWritten d n now w = { w with regs := (wordsWritten d n now w).regs } := by
  induction now generalizing w with
  | nil => rfl
  | cons x r ih =>
    show wordsWritten d n r (writeVal w n d x.lane x.m) = { w with regs := (wordsWritten d n r (writeVal w n d x.lane x.m)).regs }
    rw [ih, writeVal_only]

theorem held_writeVal (w : Wave) (n r l : Nat) (v : Dword) {a b : Nat} (hl : l < 64) (hb : b < 64) :
    held (writeVal w n r l v) a b = if b = l ∧ r ≤ a then ((valWords n v)[a - r]?).getD (held w a b) else held w a b := by
  refine Eq.trans ?_ (held_writeWords (valWords n v) w r l a b hl hb)
  unfold writeVal valWords
  split <;> rfl

/-- Each word stands in its lane. -/
theorem held_wordsWritten {d n : Nat} {now : List WaitWord} (hl : ∀ y ∈ now, y.lane < 64) (hn : (now.map (·.lane)).Nodup)
    {y : WaitWord} (hy : y ∈ now) {j : Nat} {v : Word} (hv : (valWords n y.m)[j]? = some v) (w : Wave) :
    held (wordsWritten d n now w) (d + j) y.lane = v := by
  have other : ∀ (l : List WaitWord) (w : Wave), (∀ x ∈ l, x.lane < 64) → y.lane ∉ l.map (·.lane) →
      held (wordsWritten d n l w) (d + j) y.lane = held w (d + j) y.lane := by
    intro l
    induction l with
    | nil => exact fun _ _ _ => rfl
    | cons x r ih =>
      intro w hx hne
      rw [List.map_cons, List.mem_cons, not_or] at hne
      refine (ih _ (fun z hz => hx z (List.mem_cons_of_mem _ hz)) hne.2).trans ?_
      rw [held_writeVal _ _ _ _ _ (hx x List.mem_cons_self) (hl y hy), if_neg fun h => hne.1 h.1]
  induction now generalizing w with
  | nil => cases hy
  | cons x r ih =>
    obtain ⟨hx, hr⟩ := List.nodup_cons.1 hn
    have hlr : ∀ z ∈ r, z.lane < 64 := fun z hz => hl z (List.mem_cons_of_mem _ hz)
    rcases List.mem_cons.1 hy with rfl | hy
    · refine (other r _ hlr hx).trans ?_
      rw [held_writeVal _ _ _ _ _ (hl _ List.mem_cons_self) (hl _ List.mem_cons_self), if_pos ⟨rfl, Nat.le_add_right _ _⟩,
        Nat.add_sub_cancel_left, hv]
      rfl
    · exact ih hlr hr hy _

/-- The wave as its `WAITW` retires with the words of its last test. -/
def timedOut (s : State) (i : Instr) (q d m : Nat) (now : List WaitWord) (ls : LaneMask) (w : Wave) : Wave :=
  let w1 := wordsWritten d m now (markFixed s w d m ls bInt)
  match w1.frag? q with
  | none => w1
  | some f => (setClocks w1 f.quads (· + 1)).modFrag q fun f => f.retired i s.cycle

theorem timedOut_keeps (s : State) (i : Instr) (q d m : Nat) (now : List WaitWord) (ls : LaneMask) (w : Wave) :
    ∃ us b cs fs, timedOut s i q d m now ls w = { w with
      regs := (wordsWritten d m now (markFixed s w d m ls bInt)).regs, undef := us, boundMax := b, clocks := cs, frags := fs } := by
  have hw := wordsWritten_only d m now (markFixed s w d m ls bInt)
  unfold timedOut
  dsimp only
  generalize wordsWritten d m now (markFixed s w d m ls bInt) = w1 at hw ⊢
  split
  · rw [hw]; exact ⟨_, _, _, _, rfl⟩
  · rw [hw]; exact ⟨_, _, _, _, rfl⟩

theorem timedOut_regs (s : State) (i : Instr) (q d m : Nat) (now : List WaitWord) (ls : LaneMask) (w : Wave) :
    (timedOut s i q d m now ls w).regs = (wordsWritten d m now (markFixed s w d m ls bInt)).regs := by
  obtain ⟨_, _, _, _, e⟩ := timedOut_keeps s i q d m now ls w
  rw [e]

theorem timedOut_frags (s : State) (i : Instr) (q d m : Nat) (now : List WaitWord) (ls : LaneMask) {w : Wave} {f : Frag}
    (hf : w.frag? q = some f) :
    (timedOut s i q d m now ls w).frags = (w.modFrag q fun f => f.retired i s.cycle).frags := by
  have hw := wordsWritten_only d m now (markFixed s w d m ls bInt)
  unfold timedOut
  dsimp only
  generalize wordsWritten d m now (markFixed s w d m ls bInt) = w1 at hw ⊢
  have hf1 : w1.frag? q = some f := by rw [hw]; exact hf
  have hfr : w1.frags = w.frags := by rw [hw]; rfl
  rw [hf1]
  exact congrArg (List.map _) hfr

theorem timedOut_frag? (s : State) (i : Instr) (d m : Nat) (now : List WaitWord) (ls : LaneMask) {w : Wave} {f : Frag}
    (hf : w.frag? (leadQuad f.quads) = some f) :
    (timedOut s i (leadQuad f.quads) d m now ls w).frag? (leadQuad f.quads) = some (f.retired i s.cycle) := by
  unfold Wave.frag?
  rw [timedOut_frags _ _ _ _ _ _ _ hf]
  refine (modFrag_frag? w _ _ (fun g => g.retired i s.cycle) fun _ => rfl).trans ?_
  rw [if_pos rfl, hf]
  rfl

/-- The fragment's trap can be taken after it as before. -/
theorem timedOut_entry (s : State) (i : Instr) (u d m : Nat) (now : List WaitWord) (ls : LaneMask) {w : Wave} {f : Frag} (c : Context)
    (hf : w.frag? (leadQuad f.quads) = some f) :
    KeepsEntry ⟨u, w, f, c⟩ (timedOut s i (leadQuad f.quads) d m now ls) := by
  have hkeep := timedOut_keeps s i (leadQuad f.quads) d m now ls
  refine ⟨fun w => ?_, ?_, ?_, ?_, ?_, ?_, ?low⟩
  · obtain ⟨_, _, _, _, e⟩ := hkeep w
    rw [e]; exact ⟨rfl, rfl, rfl⟩
  case low =>
    refine Eq.trans ?_ (lowerDue_modFrag c w (leadQuad f.quads) (fun g => g.retired i s.cycle) fun _ => rfl)
    unfold lowerDue
    exact congrArg (List.any · _) (timedOut_frags s i _ d m now ls hf)
  all_goals
    obtain ⟨_, _, _, _, e⟩ := hkeep w
    dsimp only
    rw [e]

section
variable {s : State} {u q : Nat} {w : Wave} {f : Frag} {ty : WTy} {x : Long} {ws : List WaitWord} {c : Context}
  (hw : assocGet s.waves u = some w) (hf : w.frag? q = some f)
  (hp : f.park = .waitw (.waitw ty x) ws (wBytes ty) (some 0) false) (hc : assocGet s.ctxs w.ctx = some c)
  (hi : issues s w.ctx = true) (ht : ∀ g ∈ w.frags, g.trap = none) (hcan : CanTrap s ⟨u, w, f, c⟩)
include hw hf hp hc hi ht hcan

theorem waitEnds_eq : ∃ x', waitEnds s u q = some (
    if (ws.map (testedWord s w (wBytes ty))).all fun y => y.m != y.vb then
      modFrag (withLines s x') u q (wordsSeen (.waitw ty x) (wBytes ty) (some 0) (ws.map (testedWord s w (wBytes ty))))
    else
      takeTrap (modWave (withLines s x') u (timedOut s (.waitw ty x) q x.d.toNat ty.regs (ws.map (testedWord s w (wBytes ty)))
        (lanesMask (ws.map (·.lane))))) u q
        ⟨.waitTimeout, (Issue.mk u w f c).act s, 0, false, f.pc + BitVec.ofNat 80 (2 * (Instr.waitw ty x).parcels), false⟩) := by
  obtain ⟨hwin, hwait, hrep, -⟩ := hcan
  have hlines : ∃ x', (if turnWave w then s else dropWords s w.core (ws.map fun x => (x.lane, x.pa, x.m))) = withLines s x' := by
    split
    · exact ⟨s.hub.lineCopies, rfl⟩
    · exact dropWords_lines _ _ _
  obtain ⟨x', hx'⟩ := hlines
  refine ⟨x', ?_⟩
  have hopen : (w.window.isNone && w.trapWait.isNone && w.report.isNone && w.frags.all (·.trap.isNone)) = true := by
    simp [show w.window = none from hwin, show w.trapWait = none from hwait, show w.report = none from hrep]
    exact ht
  have hft := ht f (mem_of_frag? hf).1
  unfold waitEnds
  rw [fragAt_eq hw hf]
  dsimp only
  rw [hp, hc]
  simp only
  rw [if_neg (by rw [hopen, hi, hft]; simp), testedWord_map, hx']
  split
  case isTrue hall => unfold wordsSeen; rw [hall]
  case isFalse hall =>
    refine congrArg some (congrArg (takeTrap · u q _) ?_)
    unfold retire
    dsimp only [waitDest]
    rw [modWave_modWave]
    rfl

/-- The fragment goes on where every word has changed. -/
theorem waitTimeout_wakes (hall : ∀ y ∈ ws, (testedWord s w (wBytes ty) y).m ≠ y.vb) :
    Completes (.waitTimeout u q) s fun t => SameBytes s t ∧ ∃ w', assocGet t.waves u = some w' ∧ w'.regs = w.regs ∧
      w'.window = none ∧ w'.frag? q = some { f with
        park := .waitw (.waitw ty x) (ws.map (testedWord s w (wBytes ty))) (wBytes ty) (some 0) true, stall := 0 } := by
  obtain ⟨x', he⟩ := waitEnds_eq hw hf hp hc hi ht hcan
  have hyes : ((ws.map (testedWord s w (wBytes ty))).all fun y => y.m != y.vb) = true := by
    rw [List.all_map, List.all_eq_true]
    intro y hy
    simpa [testedWord_vb] using hall y hy
  rw [if_pos hyes] at he
  obtain ⟨hb, -, w', h1, h2, h3, h4⟩ := wordsSeen_result (r := s) (.waitw ty x) (wBytes ty) (some 0)
    (ws.map (testedWord s w (wBytes ty))) x' rfl rfl rfl hw hf
  refine ⟨_, congrArg (evStep s) he, hb, w', h1, h2, h3.trans hcan.1, h4.trans ?_⟩
  unfold wordsSeen
  rw [hyes]

/-- It traps, past the `WAITW`, with the words of the test in its lanes, where one is unchanged. -/
theorem waitTimeout_traps (hq : q = leadQuad f.quads) (hn : (ws.map (·.lane)).Nodup) (hl : ∀ y ∈ ws, y.lane < 64)
    (hsome : ∃ y ∈ ws, (testedWord s w (wBytes ty) y).m = y.vb) :
    Completes (.waitTimeout u q) s fun t => ∃ w' f' v, assocGet t.waves u = some w' ∧ w'.frag? q = some f' ∧
      w'.window = some v ∧ f'.pc = c.trapbase ∧ w'.tcause = BitVec.ofNat 32 Cause.waitTimeout.code ∧
      w'.tlm = (Issue.mk u w f c).act s ∧ w'.tpc = f.pc + BitVec.ofNat 80 (2 * (Instr.waitw ty x).parcels) ∧
      ∀ y ∈ ws, ∀ j v, (valWords ty.regs (testedWord s w (wBytes ty) y).m)[j]? = some v → held w' (x.d.toNat + j) y.lane = v := by
  subst hq
  obtain ⟨x', he⟩ := waitEnds_eq hw hf hp hc hi ht hcan
  rw [if_neg (by
    obtain ⟨y, hy, e⟩ := hsome
    rw [List.all_map, List.all_eq_true]
    intro h
    simpa [testedWord_vb, e] using h y hy)] at he
  have hG := timedOut_entry s (.waitw ty x) u x.d.toNat ty.regs (ws.map (testedWord s w (wBytes ty))) (lanesMask (ws.map (·.lane))) c hf
  have hfr := timedOut_frag? s (.waitw ty x) x.d.toNat ty.regs (ws.map (testedWord s w (wBytes ty))) (lanesMask (ws.map (·.lane))) hf
  have hregs : (timedOut s (.waitw ty x) (leadQuad f.quads) x.d.toNat ty.regs (ws.map (testedWord s w (wBytes ty)))
      (lanesMask (ws.map (·.lane))) w).regs = _ := timedOut_regs _ _ _ _ _ _ _ _
  generalize timedOut s (.waitw ty x) (leadQuad f.quads) x.d.toNat ty.regs (ws.map (testedWord s w (wBytes ty)))
    (lanesMask (ws.map (·.lane))) = G at he hG hfr hregs
  obtain ⟨v, us, hi', -, -⟩ := takeTrap_enters (s := modWave (withLines s x') u G) (k := ⟨u, G w, f.retired (.waitw ty x) s.cycle, c⟩)
    (r := ⟨.waitTimeout, (Issue.mk u w f c).act s, 0, false, f.pc + BitVec.ofNat 80 (2 * (Instr.waitw ty x).parcels), false⟩)
    (modWave_get G hw) hfr ((congrArg (assocGet s.ctxs) (hG.reserve w).2.2).trans hc) ((hcan.withLines x').modWave hG rfl)
  have hfo := fun r : TrapRec => (opened_frag? s.cycle (trapMeets s.cycle (G w) r) (leadQuad f.quads) (leadQuad f.quads) c v us).trans
    ((if_pos rfl).trans (congrArg (Option.map (handlerFrag (max (s.cycle + 1) (G w).boundMax) c)) hfr))
  refine ⟨_, congrArg (evStep s) he, _, _, v, hi'.here, hfo _, rfl, rfl, rfl, rfl, rfl, fun y hy j t ht => ?_⟩
  have hlane : ∀ z ∈ ws.map (testedWord s w (wBytes ty)), z.lane < 64 := fun z hz => by
    obtain ⟨y, hy, rfl⟩ := List.mem_map.1 hz
    rw [testedWord_lane]; exact hl y hy
  have hnow : ((ws.map (testedWord s w (wBytes ty))).map (·.lane)).Nodup := by
    rw [List.map_map, show (fun y => y.lane) ∘ testedWord s w (wBytes ty) = fun y => y.lane from funext (testedWord_lane s w _)]
    exact hn
  have hheld := held_wordsWritten hlane hnow (List.mem_map_of_mem hy) ht (d := x.d.toNat)
    (markFixed s w x.d.toNat ty.regs (lanesMask (ws.map (·.lane))) bInt)
  rw [testedWord_lane] at hheld
  exact (held_of_regs hregs).trans hheld

end

end Sys2Proof.Machine
end

section
/-!
SUPPORT. The turns of a deterministic wave's atomics: what performing one leaves of its lane, and the turn that stalls to its
limit (10 R238, R241).
-/

namespace Sys2Proof.Machine

/-! A lane of an entry. -/

/-- The entry once lane `l` has come to `st`: its requests have ended. -/
def Entry.laneSet (e : Entry) (l : Nat) (st : LaneSt) : Entry :=
  { e with lanes := assocSet e.lanes l st, asks := e.asks.filter (·.lane != l) }

/-- The wave once lane `l` of entry `seq` has come to `st`. -/
def Wave.laneSet (seq l : Nat) (st : LaneSt) (w : Wave) : Wave :=
  openEntries { w with entries := w.entries.map fun e => if e.seq = seq then e.laneSet l st else e }

/-- A lane's state that reports no walk changes its wave alone. -/
theorem setLane_eq (s : State) (u seq l : Nat) {st : LaneSt} (h : ∀ x, st.walked s x = s) :
    setLane s u seq l st = modWave s u (Wave.laneSet seq l st) := by
  unfold setLane
  split
  · rw [h]; rfl
  · rfl

theorem setLane_get {s : State} {u seq l : Nat} {st : LaneSt} {w : Wave} (h : ∀ x, st.walked s x = s)
    (hw : assocGet s.waves u = some w) : assocGet (setLane s u seq l st).waves u = some (w.laneSet seq l st) := by
  rw [setLane_eq s u seq l h]
  exact modWave_get _ hw

theorem laneSet_lane {seq l : Nat} {st : LaneSt} {w : Wave} {e : Entry} (he : e ∈ (w.laneSet seq l st).entries) (hs : e.seq = seq) :
    assocGet e.lanes l = some st := by
  obtain ⟨x, -, rfl⟩ := List.mem_map.1 (List.mem_of_mem_filter he)
  by_cases h : x.seq = seq
  · rw [if_pos h]; exact assocGet_set_same _ _ _
  · rw [if_neg h] at hs; exact absurd hs h

theorem laneSet_entry {seq l : Nat} {st : LaneSt} {w : Wave} {e : Entry} (he : w.entries.find? (·.seq == seq) = some e)
    (hst : st ≠ .done) : (w.laneSet seq l st).entries.find? (·.seq == seq) = some (e.laneSet l st) := by
  have hopen : ∀ x : Entry, ((x.laneSet l st).lanes.any fun l => l.2 != .done) = true := fun x =>
    List.any_eq_true.2 ⟨(l, st), mem_of_assocGet (assocGet_set_same _ _ _), by simpa using hst⟩
  unfold Wave.laneSet openEntries
  dsimp only
  generalize w.entries = es at he ⊢
  induction es with
  | nil => cases he
  | cons x r ih =>
    by_cases h : x.seq = seq
    · rw [List.find?_cons_of_pos (by simpa using h)] at he
      obtain rfl := Option.some.inj he
      rw [List.map_cons, if_pos h, List.filter_cons, if_pos (hopen x), List.find?_cons_of_pos (by simpa [Entry.laneSet] using h)]
    · rw [List.find?_cons_of_neg (by simpa using h)] at he
      rw [List.map_cons, if_neg h, List.filter_cons]
      split
      · rw [List.find?_cons_of_neg (by simpa using h)]; exact ih he
      · exact ih he

theorem laneOp_eq {s : State} {u seq l : Nat} {w : Wave} {e : Entry} {op : Op} {ad : VA} (hw : assocGet s.waves u = some w)
    (he : w.entries.find? (·.seq == seq) = some e) (hl : assocGet e.lanes l = some (.inflight op ad))
    (hc : (assocGet s.ctxs w.ctx).isSome = true) : laneOp s u seq l = some (w, e, op, ad) := by
  obtain ⟨c, hc⟩ := Option.isSome_iff_exists.1 hc
  have hf : findEntry s u seq = some (w, e, c) := by
    unfold findEntry
    rw [hw]
    dsimp only
    rw [he, hc]
  unfold laneOp
  rw [hf]
  dsimp only
  rw [hl]

/-- A turn that has stalled to the limit faults its lane (10 R241). -/
theorem deterministicStall_faults {s : State} {u seq l lim : Nat} {w : Wave} {e : Entry} {op : Op} {ad : VA}
    (hw : assocGet s.waves u = some w) (he : w.entries.find? (·.seq == seq) = some e)
    (hl : assocGet e.lanes l = some (.inflight op ad)) (hc : (assocGet s.ctxs w.ctx).isSome = true)
    (hlim : limitOf s w = some lim) (ht : turnWave w = true) (hi : isTurnInstr e.instr = true)
    (hst : turnStalled s u w (e.key w l) e.quads = true) (hn : lim ≤ (assocGet e.stalls l).getD 0) :
    Completes (.deterministicStall u seq l) s fun t => SameBytes s t ∧ ∃ w' e', assocGet t.waves u = some w' ∧
      w'.entries.find? (·.seq == seq) = some e' ∧ assocGet e'.lanes l = some (.faulted .deterministicStall ad ad) ∧
      e'.stalls = e.stalls := by
  have hev : stallEnd s u seq l = some (modWave s u (Wave.laneSet seq l (.faulted .deterministicStall ad ad))) := by
    unfold stallEnd
    rw [hw]
    dsimp only
    rw [hlim]
    dsimp only
    rw [laneOp_eq hw he hl hc]
    dsimp only
    rw [if_pos (by rw [ht, hi, hst]; simpa using hn), setLane_eq _ _ _ _ fun _ => rfl]
  exact ⟨_, congrArg (evStep s) hev, ⟨fun _ => rfl, rfl⟩, _, _, modWave_get _ hw, laneSet_entry he (by simp),
    assocGet_set_same _ _ _, rfl⟩

/-! An atomic performed. -/

theorem touched_waves (l : Loc) (wr : Bool) (s : State) : (l.touched wr s).waves = s.waves := by
  unfold Loc.touched touch
  split
  · split <;> rfl
  · rfl

theorem refresh_waves (l : Loc) (p : Nat) (s : State) : (l.refresh p s).waves = s.waves := by
  obtain ⟨c, e⟩ := refresh_lines l p s
  rw [e]
  rfl

/-- Numbered members changed each by itself. -/
theorem assocGet_mapKeeps {α : Type} {F : Nat × α → Nat × α} {P : α → α → Prop} (hF : ∀ e, (F e).1 = e.1 ∧ P e.2 (F e).2)
    {m : List (Nat × α)} {k : Nat} {v : α} (h : assocGet m k = some v) : ∃ v', assocGet (m.map F) k = some v' ∧ P v v' := by
  induction m with
  | nil => cases h
  | cons e r ih =>
    obtain ⟨j, x⟩ := e
    obtain ⟨h1, h2⟩ := hF (j, x)
    rw [List.map_cons]
    generalize F (j, x) = y at h1 h2 ⊢
    obtain ⟨j', x'⟩ := y
    obtain rfl : j' = j := h1
    by_cases hj : j' = k
    · obtain rfl : x = v := by simpa [assocGet, hj] using h
      exact ⟨x', by simp [assocGet, hj], h2⟩
    · obtain ⟨v', hv, hp⟩ := ih (by simpa [assocGet, hj] using h)
      exact ⟨v', by simpa [assocGet, hj] using hv, hp⟩

/-- Waking the waves of a domain leaves their entries. -/
theorem wakeDomain_entries {s : State} {w w1 : Wave} {u : Nat} (loc : Loc) (m clk : Nat) (h : assocGet s.waves u = some w1) :
    ∃ w2, assocGet (wakeDomain s w loc m clk).waves u = some w2 ∧ w2.entries = w1.entries := by
  unfold wakeDomain
  refine assocGet_mapKeeps (P := fun a b => b.entries = a.entries) (fun e => ?_) h
  split <;> exact ⟨rfl, rfl⟩

/-- An atomic that ends: its lane is done. -/
theorem atomEnd_done {s : State} {u l pa leaf : Nat} {w w0 : Wave} {e : Entry} {ty : WTy} {x : LongM} (old : Nat) (b c : Dword)
    (hi : e.instr = .atom ty x) (hw : assocGet s.waves u = some w0) :
    ∃ w', assocGet (atomEnd s u w e l (.phys pa leaf) old b c).waves u = some w' ∧ LaneDone w' e.seq l := by
  have hstore : ∀ v : Option Nat, (match v with | some v => writeLoc s (.phys pa leaf) (natLe (wBytes ty) v) | none => s).waves = s.waves := by
    intro v
    cases v <;> rfl
  unfold atomEnd
  rw [hi]
  dsimp only
  have hdone : ∀ r : State, r.waves = s.waves → ∀ wr f, ∃ w', assocGet (setLane ((Loc.phys pa leaf).touched wr
      (modWave ((Loc.phys pa leaf).refresh w.core r) u f)) u e.seq l .done).waves u = some w' ∧ LaneDone w' e.seq l := by
    intro r hr wr f
    have hf : assocGet ((Loc.phys pa leaf).touched wr (modWave ((Loc.phys pa leaf).refresh w.core r) u f)).waves u = some (f w0) := by
      rw [touched_waves]
      exact modWave_get f (by rw [refresh_waves, hr]; exact hw)
    exact ⟨_, setLane_get (fun _ => rfl) hf, fun e' he' hs => laneSet_lane he' hs⟩
  obtain ⟨w1, h1, hd⟩ := hdone _ (hstore (atomValue x (wBytes ty) old b c)) (atomValue x (wBytes ty) old b c).isSome
    fun w => writeVal w ty.regs x.d.toNat l (BitVec.ofNat 64 old)
  split
  · obtain ⟨w2, h2, he⟩ := wakeDomain_entries (w := w) (.phys pa leaf) (wBytes ty) (e.clock + 1) h1
    exact ⟨w2, h2, fun e' he' => hd e' (he ▸ he')⟩
  · exact ⟨w1, h1, hd⟩

/-- An atomic performed is done, or has read and is still to write. -/
theorem performAtom_goes {s : State} {u l pa leaf : Nat} {w : Wave} {e : Entry} {ty : WTy} {x : LongM} (b c : Dword) (ad : VA)
    (resp : BitVec 128) (hi : e.instr = .atom ty x) (hw : assocGet s.waves u = some w) (hp : paRegion pa ≠ 2) :
    ∃ w', assocGet (performAtom s u w e l (.phys pa leaf) b c ad resp).waves u = some w' ∧ (LaneDone w' e.seq l ∨
      ∀ e' ∈ w'.entries, e'.seq = e.seq → ∃ old, assocGet e'.lanes l = some (.inflight (.atomWrite (.phys pa leaf) old b c) ad)) := by
  have hpeer : (Loc.phys pa leaf).peer = false := by simpa [Loc.peer] using hp
  have hdrop : (if farAcquire e.instr then dropCopies s w.core else s).waves = s.waves := by split <;> rfl
  unfold performAtom
  dsimp only
  rw [if_neg (by rw [hpeer]; simp)]
  split
  · exact ⟨_, setLane_get (fun _ => rfl) (by rw [touched_waves, refresh_waves, hdrop]; exact hw),
      .inr fun e' he' hs => ⟨_, laneSet_lane he' hs⟩⟩
  · obtain ⟨w', h1, h2⟩ := atomEnd_done (l := l) (w := w) (leNat (readLoc s (.phys pa leaf) (atomBytes e.instr))) b c hi
      ((congrArg (assocGet · u) hdrop).trans hw)
    exact ⟨w', h1, .inl h2⟩

/-- A turn that has come performs the atomic (10 R238). -/
theorem deterministicTurn_performs {s : State} {u seq l pa leaf : Nat} {w : Wave} {e : Entry} {ty : WTy} {x : LongM} {b c : Dword} {ad : VA}
    (h : Performable s u seq l w e (.atom (.phys pa leaf) b c) ad) (hi : e.instr = .atom ty x) (hd : w.det = true)
    (hs : w.spawned = false) (hp : paRegion pa ≠ 2) (hb : atomBlocked s u w e (.phys pa leaf) = false) :
    Completes (.deterministicTurn u seq l) s fun t => exec (.memoryAccessComplete u seq l 0) s = .next t ∧
      ∃ w', assocGet t.waves u = some w' ∧ (LaneDone w' seq l ∨ ∀ e' ∈ w'.entries, e'.seq = seq →
        ∃ old, assocGet e'.lanes l = some (.inflight (.atomWrite (.phys pa leaf) old b c) ad)) := by
  obtain ⟨hw, he, hl, hfly, hstuck, hlane, hturn, hc, -⟩ := h
  have hseq : e.seq = seq := by simpa using List.find?_some he
  have hacc : performAccess s u seq l 0 = some (performAtom s u w e l (.phys pa leaf) b c ad 0) := by
    unfold performAccess
    rw [hw]
    dsimp only
    rw [he]
    dsimp only
    rw [hl]
    dsimp only
    rw [if_neg (by rw [hfly, hturn]; simp [Op.span]), if_neg (by rw [hstuck, hlane]; simp)]
    have hpeer : Op.peerPa (.atom (.phys pa leaf) b c) = none := by simp [Op.peerPa, Op.span, hp]
    rw [hpeer]
    dsimp only [performNow]
    rw [hb]
    rfl
  have hop : performOp s u seq l 0 = some (performAtom s u w e l (.phys pa leaf) b c ad 0) := by
    unfold performOp
    rw [laneOp_eq hw he hl hc]
    exact hacc
  have hrun : turnRun s u seq l = performOp s u seq l 0 := by
    unfold turnRun
    rw [laneOp_eq hw he hl hc]
    dsimp only
    rw [if_pos (by rw [hi]; simp [turnWave, hd, hs, isTurnInstr, Op.awaits])]
  refine ⟨_, congrArg (evStep s) (hrun.trans hop), congrArg (evStep s) hop, ?_⟩
  rw [← hseq]
  exact performAtom_goes b c ad 0 hi hw hp

end Sys2Proof.Machine
end

section
/-!
SUPPORT. The retirement of a wave: what it releases, the count of its last thread, and the fault of its context where that count
cannot be made (02 R43; 03 R83, R88; 06 R158; 11 R290).
-/

namespace Sys2Proof.Machine

/-! Workgroups. -/

theorem wgOf_modGrid {s : State} {g : Nat} (f : Grid → Grid) (hf : ∀ gr, (f gr).wgs = gr.wgs) (h k : Nat) :
    wgOf (modGrid s g f) h k = wgOf s h k := by
  unfold wgOf modGrid
  dsimp only
  by_cases e : h = g
  · subst e
    rw [assocGet_mod_same]
    cases assocGet s.grids h with
    | none => rfl
    | some gr => exact congrArg (assocGet · k) (hf gr)
  · rw [assocGet_mod_other _ _ _ _ e]

/-- Grids alone differ, and no workgroup does. -/
structure TicketsOnly (s t : State) : Prop where
  only : ∃ gs, t = { s with grids := gs }
  wgs : ∀ g k, wgOf t g k = wgOf s g k

namespace TicketsOnly

theorem refl (s : State) : TicketsOnly s s := ⟨⟨s.grids, rfl⟩, fun _ _ => rfl⟩

theorem trans {s t r : State} (h : TicketsOnly s t) (h' : TicketsOnly t r) : TicketsOnly s r := by
  obtain ⟨a, rfl⟩ := h.only
  obtain ⟨b, rfl⟩ := h'.only
  exact ⟨⟨b, rfl⟩, fun g k => (h'.wgs g k).trans (h.wgs g k)⟩

theorem foldl {α : Type} {f : State → α → State} (hf : ∀ t a, TicketsOnly t (f t a)) (l : List α) (s : State) :
    TicketsOnly s (l.foldl f s) := by
  induction l generalizing s with
  | nil => exact refl s
  | cons a r ih => exact (hf s a).trans (ih _)

end TicketsOnly

theorem setTicket_only (s : State) (g k id : Nat) (t : Ticket) : TicketsOnly s (setTicket s g k id t) :=
  by
  refine ⟨⟨_, rfl⟩, fun h j => ?_⟩
  unfold setTicket
  refine wgOf_modGrid _ ?_ h j
  exact fun _ => rfl

theorem grantTicket_only (g id : Nat) (fuel : Nat) (s : State) (k st : Nat) : TicketsOnly s (grantTicket s g k id st fuel) := by
  induction fuel generalizing s k st with
  | zero => exact .refl s
  | succ n ih =>
    unfold grantTicket
    dsimp only
    split
    · exact setTicket_only _ _ _ _ _
    · exact (setTicket_only _ _ _ _ _).trans (ih _ _ _)

theorem ticketsAtRetirement_only (s : State) (g k : Nat) (killed : Bool) : TicketsOnly s (ticketsAtRetirement s g k killed) := by
  unfold ticketsAtRetirement
  refine .foldl (fun t id => ?_) _ s
  dsimp only
  split
  · exact .refl t
  · split
    · exact (setTicket_only _ _ _ _ _).trans (grantTicket_only _ _ _ _ _ _)
    · exact setTicket_only _ _ _ _ _

theorem wgOf_modWg {s : State} {g k : Nat} {x : Wg} (f : Wg → Wg) (h : wgOf s g k = some x) : wgOf (modWg s g k f) g k = some (f x) := by
  unfold wgOf at h ⊢
  unfold modWg modGrid
  dsimp only
  rw [assocGet_mod_same]
  cases hg : assocGet s.grids g with
  | none => rw [hg] at h; cases h
  | some gr =>
    rw [hg] at h
    exact (assocGet_mod_same _ _ _).trans (by rw [show assocGet gr.wgs k = some x from h]; rfl)

/-- A workgroup's retirement changes grids and banks alone. -/
theorem retireWg_only (s : State) (g k : Nat) : ∃ gs bs, retireWg s g k = { s with grids := gs, banks := bs } := by
  unfold retireWg
  split
  · rename_i gr wg _ _
    obtain ⟨gs, e⟩ := (ticketsAtRetirement_only s g k wg.anyKilled).only
    dsimp only
    rw [e]
    exact ⟨_, _, rfl⟩
  · exact ⟨s.grids, s.banks, rfl⟩

/-- It is retired. -/
theorem retireWg_retires {s : State} {g k : Nat} {x : Wg} (h : wgOf s g k = some x) :
    ∃ x', wgOf (retireWg s g k) g k = some x' ∧ x'.retired = true := by
  obtain ⟨gr, hgr⟩ : ∃ gr, assocGet s.grids g = some gr := by
    unfold wgOf at h
    split at h
    · exact ⟨_, ‹_›⟩
    · cases h
  unfold retireWg
  rw [hgr, h]
  dsimp only
  refine ⟨_, wgOf_modWg (x := x) _ ?_, rfl⟩
  exact ((ticketsAtRetirement_only s g k x.anyKilled).wgs g k).trans h

theorem giveUpBank_only (s : State) (p x : Nat) : ∃ bs cs, giveUpBank s p x = { s with banks := bs, cores := cs } := by
  unfold giveUpBank
  split
  · dsimp only
    split
    · exact ⟨_, _, rfl⟩
    · exact ⟨s.banks, s.cores, rfl⟩
  · exact ⟨s.banks, s.cores, rfl⟩

/-! The wave's release. -/

theorem mem_assocDel {α : Type} {m : List (Nat × α)} {k : Nat} {e : Nat × α} (h : e ∈ assocDel m k) : e ∈ m ∧ e.1 ≠ k := by
  induction m with
  | nil => cases h
  | cons x r ih =>
    obtain ⟨j, v⟩ := x
    unfold assocDel at h
    split at h
    · exact ⟨List.mem_cons_of_mem _ (ih h).1, (ih h).2⟩
    · rcases List.mem_cons.1 h with rfl | h
      · exact ⟨List.mem_cons_self, ‹_›⟩
      · exact ⟨List.mem_cons_of_mem _ (ih h).1, (ih h).2⟩

theorem mem_assocSet {α : Type} {m : List (Nat × α)} {k : Nat} {v : α} {e : Nat × α} (h : e ∈ assocSet m k v) : e = (k, v) ∨ e ∈ m := by
  induction m with
  | nil => exact .inl (by simpa [assocSet] using h)
  | cons x r ih =>
    obtain ⟨j, w⟩ := x
    unfold assocSet at h
    split at h
    · exact (List.mem_cons.1 h).imp id fun h => h
    · split at h
      · exact (List.mem_cons.1 h).imp id fun h => List.mem_cons_of_mem _ h
      · rcases List.mem_cons.1 h with rfl | h
        · exact .inr List.mem_cons_self
        · exact (ih h).imp id fun h => List.mem_cons_of_mem _ h

/-- A wave whose fault list is empty leaves nothing to discard. -/
theorem discardFaults_none {s : State} {u : Nat} {w : Wave} (hw : assocGet s.waves u = some w) (he : w.entries = []) :
    discardFaults s u = setWave s u w := by
  unfold discardFaults
  rw [hw]
  dsimp only
  rw [he]
  show setWave s u { w with entries := [] } = _
  rw [← he]

/-- The waves left as one leaves. -/
def wavesLeft (s : State) (u : Nat) (w : Wave) : List (Nat × Wave) := assocDel (assocSet s.waves u w) u

theorem releaseWave_eq {s : State} {u : Nat} {w : Wave} (hw : assocGet s.waves u = some w) (he : w.entries = []) :
    ∃ s2 : State, (∃ cs, s2 = { s with waves := wavesLeft s u w, cores := cs }) ∧
      releaseWave s u w = giveUpBank (if !w.spawned && !((wavesLeft s u w).any fun e => !e.2.spawned && e.2.grid == w.grid && e.2.wg == w.wg)
        then retireWg s2 w.grid w.wg else s2) w.core w.ctx := by
  unfold releaseWave
  rw [discardFaults_none hw he]
  exact ⟨_, ⟨_, rfl⟩, rfl⟩

/-- A wave that leaves: no byte and no context differs. -/
theorem releaseWave_leaves {s : State} {u : Nat} {w : Wave} (hw : assocGet s.waves u = some w) (he : w.entries = []) :
    let t := releaseWave s u w
    assocGet t.waves u = none ∧ t.mem = s.mem ∧ t.undefMem = s.undefMem ∧ t.ctxs = s.ctxs := by
  obtain ⟨s2, ⟨cs, hs2⟩, e⟩ := releaseWave_eq hw he
  dsimp only
  rw [e]
  have h2 : assocGet s2.waves u = none ∧ s2.mem = s.mem ∧ s2.undefMem = s.undefMem ∧ s2.ctxs = s.ctxs := by
    rw [hs2]; exact ⟨assocGet_del_same _ _, rfl, rfl, rfl⟩
  split
  · obtain ⟨gs, bs, e1⟩ := retireWg_only s2 w.grid w.wg
    obtain ⟨bs', cs', e2⟩ := giveUpBank_only (retireWg s2 w.grid w.wg) w.core w.ctx
    rw [e2, e1]; exact h2
  · obtain ⟨bs', cs', e2⟩ := giveUpBank_only s2 w.core w.ctx
    rw [e2]; exact h2

/-- With the last wave of a workgroup the workgroup retires. -/
theorem releaseWave_last {s : State} {u : Nat} {w : Wave} {x : Wg} (hw : assocGet s.waves u = some w) (he : w.entries = [])
    (hlast : ∀ e ∈ s.waves, e.1 ≠ u → e.2.spawned = true ∨ e.2.grid ≠ w.grid ∨ e.2.wg ≠ w.wg) (hs : w.spawned = false)
    (hx : wgOf s w.grid w.wg = some x) : ∃ x', wgOf (releaseWave s u w) w.grid w.wg = some x' ∧ x'.retired = true := by
  obtain ⟨s2, ⟨cs, hs2⟩, e⟩ := releaseWave_eq hw he
  have hnone : ((wavesLeft s u w).any fun e => !e.2.spawned && e.2.grid == w.grid && e.2.wg == w.wg) = false := by
    refine List.any_eq_false.2 fun y hy hc => ?_
    obtain ⟨hy1, hy2⟩ := mem_assocDel hy
    have hmem : y ∈ s.waves := (mem_assocSet hy1).resolve_left fun h => hy2 (congrArg Prod.fst h)
    simp only [Bool.and_eq_true, Bool.not_eq_true', beq_iff_eq] at hc
    obtain ⟨⟨h1, h2⟩, h3⟩ := hc
    rcases hlast y hmem hy2 with h | h | h
    · rw [h1] at h; cases h
    · exact h h2
    · exact h h3
  rw [e, hs, hnone]
  obtain ⟨x', h1, h2⟩ := retireWg_retires (s := s2) (g := w.grid) (k := w.wg) (x := x) (by rw [hs2]; exact hx)
  obtain ⟨bs, cs', e2⟩ := giveUpBank_only (retireWg s2 w.grid w.wg) w.core w.ctx
  refine ⟨x', ?_, h2⟩
  show wgOf (giveUpBank (retireWg s2 w.grid w.wg) w.core w.ctx) w.grid w.wg = _
  rw [e2]
  exact h1

/-! A context's fault. -/

/-- No wave differs, and every context stands. -/
structure CtxWork (s t : State) : Prop where
  waves : t.waves = s.waves
  ctx : ∀ x, (assocGet s.ctxs x).isSome = true → (assocGet t.ctxs x).isSome = true

namespace CtxWork

theorem refl (s : State) : CtxWork s s := ⟨rfl, fun _ h => h⟩

theorem trans {s t r : State} (h : CtxWork s t) (h' : CtxWork t r) : CtxWork s r :=
  ⟨h'.waves.trans h.waves, fun x hx => h'.ctx x (h.ctx x hx)⟩

theorem foldl {α : Type} {f : State → α → State} (hf : ∀ t a, CtxWork t (f t a)) (l : List α) (s : State) : CtxWork s (l.foldl f s) := by
  induction l generalizing s with
  | nil => exact refl s
  | cons a r ih => exact (hf s a).trans (ih _)

theorem of_work {s t : State} (h : DeviceWork s t) : CtxWork s t := by
  refine ⟨by rw [h.only], fun x hx => ?_⟩
  obtain ⟨c, hc⟩ := Option.isSome_iff_exists.1 hx
  obtain ⟨c', hc', -⟩ := h.ctx x c hc
  rw [hc']; rfl

theorem modCtx (s : State) (x : Nat) (f : Context → Context) : CtxWork s (modCtx s x f) := by
  refine ⟨rfl, fun y hy => ?_⟩
  by_cases e : y = x
  · subst e
    rw [show assocGet (Machine.modCtx s y f).ctxs y = (assocGet s.ctxs y).map f from assocGet_mod_same _ _ _, Option.isSome_map]
    exact hy
  · rw [show assocGet (Machine.modCtx s x f).ctxs y = assocGet s.ctxs y from assocGet_mod_other _ _ _ _ e]
    exact hy

end CtxWork

theorem stopOne_work (s : State) (x q st errc : Nat) (eseq : Word) : CtxWork s (stopOne s x q st errc eseq).1 := by
  unfold stopOne
  split
  · exact .refl s
  · split
    · exact .refl s
    · exact ((CtxWork.of_work (qcbPut_work _ _ _ _)).trans (.modCtx _ _ _)).trans (.of_work (raiseIrq_work _ _ _))

theorem stopAllQueues_work (s : State) (x : Nat) : CtxWork s (stopAllQueues s x) := by
  unfold stopAllQueues
  split
  · exact .refl s
  · exact .foldl (fun t k => stopOne_work _ _ _ _ _ _) _ s

/-- A context that faults is stopped and says why; its waves stand (11 R290). -/
theorem contextFault_faults {s : State} {x : Nat} (e : Cause) (hx : (assocGet s.ctxs x).isSome = true) :
    (contextFault s x e).waves = s.waves ∧ ContextFaulted (contextFault s x e) x e := by
  have hstop := stopAllQueues_work s x
  obtain ⟨c, hc⟩ := Option.isSome_iff_exists.1 (hstop.ctx x hx)
  let f : Context → Context := fun c => { c with cstate := 3, cerr := 3, nerr := satNerr c.nerr, cause := e.code, saving := true }
  have hmod : assocGet (modCtx (withdraw (stopAllQueues s x) x) x f).ctxs x = some (f c) :=
    (assocGet_mod_same _ _ _).trans (by rw [show assocGet (withdraw (stopAllQueues s x) x).ctxs x = some c from hc]; rfl)
  have hcsb := writeCsb_work (modCtx (withdraw (stopAllQueues s x) x) x f) x
  obtain ⟨c', hc', e'⟩ := hcsb.ctx x _ hmod
  exact ⟨(CtxWork.of_work hcsb).waves.trans hstop.waves, c', hc', by rw [e'], by rw [e'], by rw [e']⟩

/-! The count of a retired thread. -/

/-- Waves differ in what their fragments wait for alone. -/
def FragsOnly (w w' : Wave) : Prop := w' = { w with frags := w'.frags }

theorem wakeJoins_get {s : State} {u : Nat} {w : Wave} (pa : Nat) (h : assocGet s.waves u = some w) :
    ∃ w', assocGet (wakeJoins s pa).waves u = some w' ∧ FragsOnly w w' := by
  unfold wakeJoins
  refine assocGet_mapKeeps (P := FragsOnly) ?_ h
  exact fun _ => ⟨rfl, rfl⟩

/-- A word with no undefined byte is read as memory holds it. -/
theorem physGet_defined {s : State} {pa n : Nat} (h : ∀ j, j < n → rangesHave s.undefMem (pa + j) = false) :
    leNat (physGet s pa n) = memNat s.mem pa n := by
  unfold physGet bytesAt memNat memReadN
  refine congrArg leNat (List.map_congr_left fun j hj => ?_)
  rw [h j (List.mem_range.1 hj)]
  rfl

theorem memNat_lt (m : List Host.Cell) (a n : Nat) : memNat m a n < 256 ^ n := by
  have h := leNat_lt (memReadN m a n)
  rwa [show (memReadN m a n).length = n by simp [memReadN]] at h

/-- The join word of a thread that retires by itself is counted down (03 R83). -/
theorem joinDown_counts {s s1 : State} {u core x pa : Nat} {va : VA} {w : Wave} (hw : assocGet s.waves u = some w)
    (h : xlateService s x va.toNat .write (some (coreDom core)) = .ok (s1, pa)) (hwf : Memory.wf s.mem = true)
    (hdef : ∀ j, j < 4 → rangesHave s1.undefMem (pa + j) = false) (hn : memNat s1.mem pa 4 % 2 ^ 24 ≠ 0) :
    (∃ w', assocGet (joinDown s core x va true).waves u = some w' ∧ FragsOnly w w') ∧
      memNat (joinDown s core x va true).mem pa 4 = memNat s1.mem pa 4 - 1 := by
  have hwork := xlateService_work h
  have hw1 : assocGet s1.waves u = some w := by rw [(CtxWork.of_work hwork).waves]; exact hw
  have hread := physGet_defined hdef
  obtain ⟨c, hc⟩ := refresh_lines (.phys pa 0) core (wordPut s1 (.phys pa 0) (memNat s1.mem pa 4 - 1))
  have hdown : joinDown s core x va true =
      if memNat s1.mem pa 4 % 2 ^ 24 = 1 then wakeJoins (withLines (wordPut s1 (.phys pa 0) (memNat s1.mem pa 4 - 1)) c) pa
      else withLines (wordPut s1 (.phys pa 0) (memNat s1.mem pa 4 - 1)) c := by
    unfold joinDown
    rw [h]
    dsimp only
    have hpoison : ((!true || memNat s1.mem pa 4 % 2 ^ 24 == 0) && !bitOf (memNat s1.mem pa 4 - 1) 31) = false := by
      rw [beq_false_of_ne hn]; rfl
    rw [hread, if_neg hn, hpoison, if_neg Bool.false_ne_true, hc]
  have hput : memNat (memPut s1.mem pa 4 (memNat s1.mem pa 4 - 1)) pa 4 = memNat s1.mem pa 4 - 1 := by
    rw [memNat_memPut _ _ _ (hwork.wf hwf), Nat.mod_eq_of_lt]
    exact Nat.lt_of_le_of_lt (Nat.sub_le _ _) (memNat_lt _ _ _)
  rw [hdown]
  split
  · exact ⟨wakeJoins_get pa hw1, hput⟩
  · exact ⟨⟨w, hw1, rfl⟩, hput⟩

/-- A count that cannot be made faults the context (06 R158). -/
theorem joinDown_faults {s : State} {core x : Nat} {va : VA} {own : Bool} {f : Cause}
    (h : xlateService s x va.toNat .write (some (coreDom core)) = .error f) : joinDown s core x va own = contextFault s x f := by
  unfold joinDown
  rw [h]

/-! The event. -/

section
variable {s : State} {u : Nat} {w : Wave} (hw : assocGet s.waves u = some w)
include hw

theorem killQuads_none (hl : w.live = 0) : killQuads s u = s := by
  unfold killQuads
  rw [hw]
  dsimp only
  rw [hl, if_neg (by simp)]

/-- A wave whose threads are counted leaves. -/
theorem waveEnd_releases {s1 : State} {w1 : Wave} (hl : w.live = 0) (hcount : countLeaving s u = s1) (hw1 : assocGet s1.waves u = some w1)
    (hl1 : w1.live = 0) (he1 : w1.entries = []) (hv1 : w1.leaving = []) : waveEnd s u = some (releaseWave s1 u w1) := by
  have hmends : ∀ c, w1.mends c = false := fun c => by unfold Wave.mends; rw [he1]; rfl
  unfold waveEnd
  rw [hw]
  dsimp only
  rw [killQuads_none hw hl, hcount, hw1]
  dsimp only
  rw [if_pos]
  rw [hl1, he1, hv1]
  cases h : assocGet s1.ctxs w1.ctx <;> simp [hmends]

/-- The wave once the count of retired lane `v` has left `r` of it. -/
def laneCounted (v : Nat × Nat × Bool × Option Ask) (r : Option (Nat × Nat × Bool × Option Ask)) (w : Wave) : Wave :=
  { w with leaving := w.leaving.filter (· != v) ++ r.toList }

/-- The count of the wave's one retired lane. -/
theorem countLeaving_one {v : Nat × Nat × Bool × Option Ask} {c : Context} (he : w.entries = []) (hv : w.leaving = [v])
    (hc : assocGet s.ctxs w.ctx = some c) :
    countLeaving s u = modWave (countLane w c s v).1 u (laneCounted v (countLane w c s v).2) := by
  have hheld : leavingHeld w c v.2.1 = false := by unfold leavingHeld; rw [he]; rfl
  unfold countLeaving
  rw [hw]
  dsimp only
  rw [hc]
  dsimp only
  rw [hv, List.foldl_cons, List.foldl_nil, hheld, if_neg Bool.false_ne_true]
  rfl

/-- A wave without threads to count leaves. -/
theorem waveRetirement_leaves (hl : w.live = 0) (he : w.entries = []) (hv : w.leaving = []) :
    waveEnd s u = some (releaseWave s u w) := by
  refine waveEnd_releases hw hl ?_ hw hl he hv
  unfold countLeaving
  rw [hw]
  dsimp only
  split
  · rfl
  · rw [hv, List.foldl_nil]

end

theorem laneCounted_leaving {v : Nat × Nat × Bool × Option Ask} (r : Option (Nat × Nat × Bool × Option Ask)) {w : Wave}
    (hv : w.leaving = [v]) : (laneCounted v r w).leaving = r.toList := by
  unfold laneCounted
  simp [hv]

section
variable {s : State} {u l seq : Nat} {w : Wave} {th : Thread} {va : VA} {c : Context} {ask : Option Ask}
  (hw : assocGet s.waves u = some w) (hl : w.live = 0) (he : w.entries = []) (hv : w.leaving = [(l, seq, true, ask)])
  (hth : assocGet w.threads l = some th) (hj : th.join = some va) (hq : th.query = none) (hc : assocGet s.ctxs w.ctx = some c)

section
include hw hl he hv hc

/-- Once its one thread is counted, a wave leaves what the count left. -/
theorem waveRetirement_counts {t1 : State} {w1 : Wave} (hlane : countLane w c s (l, seq, true, ask) = (t1, none))
    (hw1 : assocGet t1.waves u = some w1) (hf : FragsOnly w w1) : Completes (.waveRetirement u) s fun t =>
      assocGet t.waves u = none ∧ t.mem = t1.mem ∧ t.ctxs = t1.ctxs := by
  have hcount : countLeaving s u = modWave t1 u (laneCounted (l, seq, true, ask) none) := by
    rw [countLeaving_one hw he hv hc, hlane]
  have hleft : (laneCounted (l, seq, true, ask) none w1).leaving = [] := laneCounted_leaving none (by rw [hf]; exact hv)
  have hget := modWave_get (laneCounted (l, seq, true, ask) none) hw1
  have hempty : (laneCounted (l, seq, true, ask) none w1).entries = [] := by
    show w1.entries = []
    rw [hf]; exact he
  have hev := waveEnd_releases hw hl hcount hget (by show w1.live = 0; rw [hf]; exact hl) hempty hleft
  obtain ⟨h1, h2, -, h4⟩ := releaseWave_leaves hget hempty
  exact ⟨_, congrArg (evStep s) hev, h1, h2, h4⟩

/-- While the count is out, the wave stays with it. -/
theorem waveEnd_stays {t1 : State} {v' : Nat × Nat × Bool × Option Ask}
    (hlane : countLane w c s (l, seq, true, ask) = (t1, some v')) (hw1 : assocGet t1.waves u = some w) :
    waveEnd s u = if v' = (l, seq, true, ask) then none else some (modWave t1 u (laneCounted (l, seq, true, ask) (some v'))) := by
  have hleft : (laneCounted (l, seq, true, ask) (some v') w).leaving = [v'] := laneCounted_leaving _ hv
  unfold waveEnd
  rw [hw]
  dsimp only
  rw [killQuads_none hw hl, countLeaving_one hw he hv hc, hlane]
  dsimp only
  rw [modWave_get _ hw1]
  dsimp only
  rw [if_neg (by rw [hleft]; simp), hleft, hv]
  have hlive : (laneCounted (l, seq, true, ask) (some v') w).live = w.live := rfl
  rw [hlive]
  by_cases h : v' = (l, seq, true, ask)
  · rw [if_pos h, if_neg (by rw [h]; simp)]
  · rw [if_neg h, if_pos (by simpa using h)]

end

section
include hth hj

theorem countLane_lost {pa : Nat} (ha : ask = none) (hp : joinPeer s c va = some pa) (hport : portOf s pa = none) :
    countLane w c s (l, seq, true, ask) = (contextFault s w.ctx .remoteTimeout, none) := by
  unfold countLane
  rw [hth, ha]
  dsimp only
  rw [hj]
  dsimp only
  rw [hp]
  dsimp only
  rw [hport]

theorem countLane_sends {pa p : Nat} (ha : ask = none) (hp : joinPeer s c va = some pa) (hport : portOf s pa = some p)
    (hs : portSends s p = true) : countLane w c s (l, seq, true, ask) =
      (linkSend s pa 4 4, some (l, seq, true, some ⟨l, p, s.cycle, nextAsk s, paPeer pa, true⟩)) := by
  unfold countLane
  rw [hth, ha]
  dsimp only
  rw [hj]
  dsimp only
  rw [hp]
  dsimp only
  rw [hport]
  dsimp only
  rw [hs]
  rfl

theorem countLane_waits {x : Ask} (ha : ask = some x) (hn : x.answers s = false) :
    countLane w c s (l, seq, true, ask) = (s, some (l, seq, true, ask)) := by
  unfold countLane
  rw [hth, ha]
  dsimp only
  rw [hj]
  dsimp only
  rw [hn]
  rfl

include hq

theorem countLane_down (h : (ask = none ∧ joinPeer s c va = none) ∨ ∃ x, ask = some x ∧ x.answers s = true) :
    countLane w c s (l, seq, true, ask) = (joinDown s w.core w.ctx va true, none) := by
  unfold countLane
  rw [hth]
  dsimp only
  rw [hj, hq]
  rcases h with ⟨rfl, hp⟩ | ⟨x, rfl, hx⟩
  · dsimp only
    rw [hp]
  · dsimp only
    rw [hx]
    rfl

end
end

end Sys2Proof.Machine
end

section
/-!
SUPPORT. The clauses of the wave events that put the lemmas before together, and O52.
-/

namespace Sys2Proof.Machine

/-- A request to a peer leaves every wave and every byte as it was. -/
theorem linkSend_keepsState (s : State) (pa kind n : Nat) : ∃ h, linkSend s pa kind n = { s with hub := h } := by
  unfold linkSend
  dsimp only
  split <;> exact ⟨_, rfl⟩

/-- A wave with nothing to count leaves, and with the last of its workgroup the workgroup retires (02 R43; 03 R88). -/
theorem retirement_ends {s : State} {u : Nat} {w : Wave} (hw : assocGet s.waves u = some w) (hl : w.live = 0) (he : w.entries = [])
    (hv : w.leaving = []) : Completes (.waveRetirement u) s fun t => assocGet t.waves u = none ∧ SameBytes s t ∧
      ((∀ e ∈ s.waves, e.1 ≠ u → e.2.spawned = true ∨ e.2.grid ≠ w.grid ∨ e.2.wg ≠ w.wg) → w.spawned = false →
        ∀ x, wgOf s w.grid w.wg = some x → ∃ x', wgOf t w.grid w.wg = some x' ∧ x'.retired = true) := by
  obtain ⟨h1, h2, h3, -⟩ := releaseWave_leaves hw he
  exact ⟨_, congrArg (evStep s) (waveRetirement_leaves hw hl he hv), h1, ⟨fun a => congrArg (memRead · a) h2, h3⟩,
    fun hlast hs x hx => releaseWave_last hw he hlast hs hx⟩

section
variable {s : State} {u l seq : Nat} {w : Wave} {th : Thread} {va : VA} {c : Context} {ask : Option Ask}
  (hw : assocGet s.waves u = some w) (hl : w.live = 0) (he : w.entries = []) (hv : w.leaving = [(l, seq, true, ask)])
  (hth : assocGet w.threads l = some th) (hj : th.join = some va) (hc : assocGet s.ctxs w.ctx = some c)
include hw hl he hv hc

theorem retirement_faults {f : Cause} (h : countLane w c s (l, seq, true, ask) = (contextFault s w.ctx f, none)) :
    Completes (.waveRetirement u) s fun t => assocGet t.waves u = none ∧ ContextFaulted t w.ctx f := by
  obtain ⟨hwaves, hfault⟩ := contextFault_faults f (x := w.ctx) (s := s) (by rw [hc]; rfl)
  obtain ⟨t, ht, h1, -, h3⟩ := waveRetirement_counts hw hl he hv hc h (by rw [hwaves]; exact hw) (w1 := w) rfl
  refine ⟨t, ht, h1, ?_⟩
  obtain ⟨c', hc', hs⟩ := hfault
  exact ⟨c', h3 ▸ hc', hs⟩

include hth hj

theorem retirement_asks {pa p : Nat} (ha : ask = none) (hp : joinPeer s c va = some pa) (hport : portOf s pa = some p)
    (hs : portSends s p = true) : Completes (.waveRetirement u) s fun t => SameBytes s t ∧ ∃ w', assocGet t.waves u = some w' ∧
      w'.leaving = [(l, seq, true, some ⟨l, p, s.cycle, nextAsk s, paPeer pa, true⟩)] := by
  obtain ⟨h, e⟩ := linkSend_keepsState s pa 4 4
  have hlane := countLane_sends (w := w) (l := l) (seq := seq) hth hj ha hp hport hs
  rw [e] at hlane
  have hev := waveEnd_stays hw hl he hv hc hlane hw
  rw [if_neg (by rw [ha]; simp)] at hev
  exact ⟨_, congrArg (evStep s) hev, ⟨fun _ => rfl, rfl⟩, _, modWave_get _ hw, laneCounted_leaving _ hv⟩

theorem retirement_waits {x : Ask} (ha : ask = some x) (hn : x.answers s = false) : exec (.waveRetirement u) s = .next s := by
  have hev := waveEnd_stays hw hl he hv hc (countLane_waits hth hj ha hn) hw
  rw [if_pos rfl] at hev
  exact congrArg (evStep s) hev

theorem retirement_counts (hq : th.query = none)
    (h : (ask = none ∧ joinPeer s c va = none) ∨ ∃ x, ask = some x ∧ x.answers s = true) {s1 : State} {pa : Nat}
    (hx : xlateService s w.ctx va.toNat .write (some (coreDom w.core)) = .ok (s1, pa)) (hwf : Memory.wf s.mem = true)
    (hdef : ∀ j, j < 4 → rangesHave s1.undefMem (pa + j) = false) (hn : memNat s1.mem pa 4 % 2 ^ 24 ≠ 0) :
    Completes (.waveRetirement u) s fun t => assocGet t.waves u = none ∧ memNat t.mem pa 4 = memNat s1.mem pa 4 - 1 := by
  obtain ⟨⟨w', hw', hf⟩, hm⟩ := joinDown_counts hw hx hwf hdef hn
  obtain ⟨t, ht, h1, h2, -⟩ := waveRetirement_counts hw hl he hv hc (countLane_down hth hj hq h) hw' hf
  exact ⟨t, ht, h1, by rw [h2]; exact hm⟩

end

/-- Settles O52: each event of a wave by the lemmas on the function that makes it. -/
theorem waveEventsHappen : Obligations.WaveEventsHappen := by
  intro s u w hw
  refine ⟨fun f c hc hi hd hn hf hcan => watchdog_traps hw hc hi hd hn hf hcan,
    fun f q hf h1 h2 => fragment_promotes hw hf h1 h2, fun f q i ws n left hf hp ht => ⟨fun hr hne => ?_, fun y hws hr hs ha hne => ?_⟩,
    fun f q ty x ws c hf hp hc hi ht hcan hq hn hl => ⟨fun hall => ?_, fun hsome => ?_⟩,
    fun seq l e ty x pa leaf b c ad h hi hd hs hp hb => deterministicTurn_performs h hi hd hs hp hb,
    fun seq l e op ad lim he hl hc hlim ht hi hst hn => deterministicStall_faults hw he hl hc hlim ht hi hst hn,
    fun hl he hv => retirement_ends hw hl he hv,
    fun l seq th va c ask hl he hv hth hj hq hc => ⟨fun pa ha hp => ⟨fun hport => ?_, fun p hport hs => ?_⟩, fun x ha hx => ?_,
      fun h => ⟨fun s1 pa hx hwf hdef hn => ?_, fun f hx => ?_⟩⟩⟩
  · exact waitwRetest_sees (h := s.hub) hw hf hp ht (retest_reads hr) hne
  · obtain ⟨y', hy', hyeq, h, hst⟩ := answerPoll_answers (n := n) hr hs ha
    have hnow : [y'] ≠ ws := fun e => hne (by
      obtain rfl : y' = y := by simpa [hws] using e
      exact congrArg WaitWord.m hyeq)
    obtain ⟨t, ht', hw'⟩ := waitwRetest_sees (h := h) (now := [y']) hw hf hp ht (by rw [hws, ← hst, ← hy']; rfl) hnow
    exact ⟨t, ht', y', hyeq, hw'⟩
  · exact waitTimeout_wakes hw hf hp hc hi ht hcan hall
  · exact waitTimeout_traps hw hf hp hc hi ht hcan hq hn hl hsome
  · exact retirement_faults hw hl he hv hc (countLane_lost hth hj ha hp hport)
  · exact retirement_asks hw hl he hv hth hj hc ha hp hport hs
  · exact retirement_waits hw hl he hv hth hj hc ha hx
  · exact retirement_counts hw hl he hv hth hj hc hq h hx hwf hdef hn
  · exact retirement_faults hw hl he hv hc ((countLane_down hth hj hq h).trans (by rw [joinDown_faults hx]))

end Sys2Proof.Machine
end

section
/-!
SUPPORT. What an instruction that returns from a wait writes: registers of its active lanes and condition codes of its quads
(03 R84, R85; 13 R330).
-/

namespace Sys2Proof.Machine

section
variable {s t : State} (hc : t.cycle = s.cycle) (hf : t.free = s.free)
include hc hf

theorem readMask_congr (w : Wave) : readMask t w = readMask s w := by
  unfold readMask freeLanes
  rw [hc, hf]

theorem act_congr (k : Issue) : k.act t = k.act s := by
  unfold Issue.act activeLanes
  rw [readMask_congr hc hf]

theorem lanesWritten_congr (k : Issue) (d : Reg) (n b : Nat) (f : Nat → Dword) (w : Wave) :
    lanesWritten t k d n b f w = lanesWritten s k d n b f w := by
  have hlive : ∀ us, undefLive t w us = undefLive s w us := fun us => by
    have : UndefWhy.holds t w = UndefWhy.holds s w := by
      funext y
      cases y <;> simp [UndefWhy.holds, hc]
    unfold undefLive
    rw [this]
  unfold lanesWritten markFixed Issue.actList
  rw [act_congr hc hf, hlive, hc]

end

/-- The issuing wave with a register of its active lanes, and the condition codes of its quads, written. -/
def returned (s : State) (k : Issue) (d : Reg) (f : Nat → Dword) (cc : CC → CC) (w : Wave) : Wave :=
  let w1 := lanesWritten s k d 1 bInt f w
  writeCC s w1 k.f.quads (cc w1.cc) bInt

/-- Nothing else of the wave differs than registers, codes and what belongs to their latency. -/
theorem returned_only (s : State) (k : Issue) (d : Reg) (f : Nat → Dword) (cc : CC → CC) (w : Wave) :
    let w' := returned s k d f cc w
    w' = { w with regs := w'.regs, undef := w'.undef, boundMax := w'.boundMax, cc := cc w.cc, ccPend := w'.ccPend } := by
  unfold returned writeCC
  dsimp only
  rw [lanesWritten_only]

theorem returned_regs {s : State} {k : Issue} (i : Instr) (d : Reg) (f : Nat → Dword) (cc : CC → CC) (hk : getIssue s = some k) :
    RegsHold k.w (returned s k d f cc k.w) d.toNat (k.act s) fun l => valWords 1 (f l) :=
  lanesWritten_regs i d 1 bInt f hk

theorem writeQuadCC_writeLanes {s t : State} (hc : t.cycle = s.cycle) (hf : t.free = s.free) (k : Issue) (d : Reg) (f : Nat → Dword)
    (cc : CC → CC) : writeQuadCC (writeLanes t k d 1 bInt f) k cc = modWave t k.uid (returned s k d f cc) := by
  unfold writeQuadCC
  rw [writeLanes_modWave, modWave_modWave]
  refine congrArg (modWave t k.uid) (funext fun w => ?_)
  unfold returned writeCC
  dsimp only [Function.comp]
  rw [lanesWritten_congr hc hf, modWave_cycle, hc]

/-- An instruction that changes its wave as `g` says, and retires: the waves afterwards. -/
theorem done_waves {i : Instr} {s t : State} {k : Issue} {g : Wave → Wave} (hk : getIssue s = some k) (hw : t.waves = s.waves)
    (hg : (g k.w).frag? k.lead = some k.f) :
    assocGet ((Eff.done (modWave t k.uid g)).finish i k).waves k.uid = some (retiredWave i t.cycle k (g k.w)) ∧
      ∀ v, v ≠ k.uid → assocGet ((Eff.done (modWave t k.uid g)).finish i k).waves v = assocGet s.waves v := by
  refine ⟨retire_get (modWave_get g ?_) hg rfl, fun v hv => ?_⟩
  · rw [hw]; exact (getIssue_spec hk).2.1
  · rw [← hw]
    exact (retire_get_other i _ _ _ hv).trans (modWave_get_other _ _ _ hv)

/-- Registers are as before retirement. -/
theorem RegsHold.retired {w w' : Wave} {d : Nat} {ls : LaneMask} {f : Nat → List Word} (h : RegsHold w w' d ls f) (i : Instr)
    (cycle : Nat) (k : Issue) : RegsHold w (retiredWave i cycle k w') d ls f := h

theorem valWords_ofNat (n : Nat) : valWords 1 (BitVec.ofNat 64 n) = [BitVec.ofNat 32 n] := by
  refine congrArg (fun x : Word => [x]) (BitVec.eq_of_toNat_eq ?_)
  simp only [BitVec.extractLsb'_toNat, BitVec.toNat_ofNat, Nat.shiftRight_zero]
  omega

end Sys2Proof.Machine
end

section
/-!
SUPPORT. Tickets (03 R85 to R88): one set, the chain of releases that a grant runs through, and the instructions' cases.
-/

namespace Sys2Proof.Machine

/-! A ticket set. -/

section
variable {s : State} {g : Nat} (hg : (assocGet s.grids g).isSome = true)
include hg

theorem setTicket_grid (k id : Nat) (t : Ticket) : (assocGet (setTicket s g k id t).grids g).isSome = true := by
  unfold setTicket
  rw [modGrid_grids, assocGet_mod_same]
  simpa using hg

theorem ticketAt_setTicket (k id j n : Nat) (t : Ticket) :
    ticketAt (setTicket s g k id t) g j n = if 4 * j + n = 4 * k + id then t else ticketAt s g j n := by
  obtain ⟨gr, hgr⟩ := Option.isSome_iff_exists.1 hg
  unfold ticketAt setTicket
  rw [modGrid_grids, assocGet_mod_same, hgr]
  dsimp only [Option.map_some]
  split
  · rename_i h; rw [h, assocGet_set_same]; rfl
  · rename_i h; rw [assocGet_set_other _ _ _ _ h]

end

/-- The chain that a grant runs through is no longer than the grid's list of tickets. -/
theorem earlyChain_le {s : State} {g : Nat} {gr : Grid} (hgr : assocGet s.grids g = some gr) (k id m : Nat)
    (h : ∀ j, j < m → (ticketAt s g (k + j) id).early.isSome = true) : m ≤ gr.tickets.length := by
  have hnodup : ((List.range m).map fun j => 4 * (k + j) + id).Nodup :=
    List.nodup_range.map fun a b hab => by simpa using hab
  have hsub : ((List.range m).map fun j => 4 * (k + j) + id) ⊆ gr.tickets.map (·.1) := by
    intro x hx
    obtain ⟨j, hj, rfl⟩ := List.mem_map.1 hx
    have hj' := h j (List.mem_range.1 hj)
    unfold ticketAt at hj'
    simp only [hgr] at hj'
    cases hget : assocGet gr.tickets (4 * (k + j) + id) with
    | none => rw [hget] at hj'; cases hj'
    | some t => exact List.mem_map_of_mem (f := (·.1)) (mem_of_assocGet hget)
  simpa using (hnodup.subperm hsub).length_le

/-! The chain of a grant. -/

/-- The status that the ticket `j` places on takes in a grant of status `st`: that of the release recorded before it. -/
def chainStatus (s : State) (g k id st j : Nat) : Nat := if j = 0 then st else ((ticketAt s g (k + (j - 1)) id).early).getD 0

/-- A grant of ticket `k` with status `st` has run through `m` releases recorded before: each of those tickets is granted and
released, the next is granted, and every other is as it was (03 R88). -/
structure Granted (s t : State) (g k id st m : Nat) : Prop where
  passed : ∀ j, j < m → ticketAt t g (k + j) id =
    { ticketAt s g (k + j) id with granted := true, released := true, status := chainStatus s g k id st j, early := none }
  last : ticketAt t g (k + m) id = { ticketAt s g (k + m) id with granted := true, status := chainStatus s g k id st m }
  other : ∀ j n, n < 4 → (n ≠ id ∨ j < k ∨ k + m < j) → ticketAt t g j n = ticketAt s g j n

theorem grantTicket_grants {g id : Nat} (hid : id < 4) (m : Nat) : ∀ (fuel : Nat) (s : State) (k st : Nat), m < fuel →
    (assocGet s.grids g).isSome = true → (∀ j, j < m → (ticketAt s g (k + j) id).early.isSome = true) →
    (ticketAt s g (k + m) id).early = none → Granted s (grantTicket s g k id st fuel) g k id st m := by
  induction m with
  | zero =>
    intro fuel s k st hfuel hg _ hlast
    obtain ⟨fuel, rfl⟩ := Nat.exists_eq_succ_of_ne_zero (Nat.ne_zero_of_lt hfuel)
    have hlast : (ticketAt s g k id).early = none := hlast
    unfold grantTicket
    dsimp only
    rw [hlast]
    refine ⟨fun j hj => absurd hj (Nat.not_lt_zero j), ?_, fun j n hn hor => ?_⟩
    · exact (ticketAt_setTicket hg k id k id _).trans ((if_pos rfl).trans (by simp [chainStatus, hlast]))
    · exact (ticketAt_setTicket hg k id j n _).trans (if_neg (by omega))
  | succ m ih =>
    intro fuel s k st hfuel hg hearly hlast
    obtain ⟨fuel, rfl⟩ := Nat.exists_eq_succ_of_ne_zero (Nat.ne_zero_of_lt hfuel)
    obtain ⟨e, he⟩ : ∃ e, (ticketAt s g k id).early = some e := Option.isSome_iff_exists.1 (hearly 0 (Nat.succ_pos m))
    unfold grantTicket
    dsimp only
    rw [he]
    dsimp only
    generalize hs1 : setTicket s g k id _ = s1
    have hset : ∀ j n, n < 4 → (n ≠ id ∨ j ≠ k) → ticketAt s1 g j n = ticketAt s g j n := fun j n hn hor => by
      rw [← hs1, ticketAt_setTicket hg]
      exact if_neg (by omega)
    have hnext : ∀ j, ticketAt s1 g (k + 1 + j) id = ticketAt s g (k + (j + 1)) id := fun j => by
      rw [hset _ _ hid (.inr (by omega))]
      congr 1
      omega
    obtain ⟨hpassed, hlast', hother⟩ := ih fuel s1 (k + 1) e (by omega) (hs1 ▸ setTicket_grid hg _ _ _)
      (fun j hj => by rw [hnext]; exact hearly _ (by omega)) (by rw [hnext]; exact hlast)
    have hstatus : ∀ j, chainStatus s1 g (k + 1) id e j = chainStatus s g k id st (j + 1) := fun j => by
      unfold chainStatus
      cases j with
      | zero => simp [he]
      | succ j => simpa using congrArg (fun t => t.early.getD 0) (hnext j)
    have hmove : ∀ j, k + (j + 1) = k + 1 + j := fun j => by omega
    refine ⟨fun j hj => ?_, ?_, fun j n hn hor => ?_⟩
    · cases j with
      | zero =>
        exact (hother k id hid (.inr (.inl (by omega)))).trans (by rw [← hs1, ticketAt_setTicket hg, if_pos rfl]; rfl)
      | succ j => rw [← hnext j, ← hstatus j, ← hpassed j (by omega), ← hmove]
    · rw [← hnext m, ← hstatus m, ← hlast', ← hmove]
    · rw [hother j n hn (by omega), hset j n hn (by omega)]

theorem chainStatus_congr {s s' : State} {g k id : Nat} (st : Nat)
    (h : ∀ j, ticketAt s' g (k + j) id = ticketAt s g (k + j) id) (j : Nat) :
    chainStatus s' g k id st j = chainStatus s g k id st j := by
  unfold chainStatus
  rw [h]

/-- A release grants the next ticket, and those after it whose release came early. -/
theorem releaseTicket_grants {s : State} {g id : Nat} (hg : (assocGet s.grids g).isSome = true) (hid : id < 4) (k st m : Nat)
    (hearly : ∀ j, j < m → (ticketAt s g (k + 1 + j) id).early.isSome = true) (hlast : (ticketAt s g (k + 1 + m) id).early = none) :
    let t := releaseTicket s g k id st
    ticketAt t g k id = { ticketAt s g k id with held := false, released := true } ∧
      (∀ j, j < m → ticketAt t g (k + 1 + j) id = { ticketAt s g (k + 1 + j) id with
        granted := true, released := true, status := chainStatus s g (k + 1) id st j, early := none }) ∧
      ticketAt t g (k + 1 + m) id =
        { ticketAt s g (k + 1 + m) id with granted := true, status := chainStatus s g (k + 1) id st m } ∧
      ∀ j n, n < 4 → (n ≠ id ∨ j < k ∨ k + 1 + m < j) → ticketAt t g j n = ticketAt s g j n := by
  unfold releaseTicket
  dsimp only
  generalize hs1 : setTicket s g k id _ = s1
  have hg1 : (assocGet s1.grids g).isSome = true := hs1 ▸ setTicket_grid hg _ _ _
  have hset : ∀ j n, n < 4 → (n ≠ id ∨ j ≠ k) → ticketAt s1 g j n = ticketAt s g j n := fun j n hn hor => by
    rw [← hs1, ticketAt_setTicket hg]
    exact if_neg (by omega)
  have hnext : ∀ j, ticketAt s1 g (k + 1 + j) id = ticketAt s g (k + 1 + j) id := fun j => hset _ _ hid (.inr (by omega))
  have hearly1 : ∀ j, j < m → (ticketAt s1 g (k + 1 + j) id).early.isSome = true := fun j hj => by rw [hnext]; exact hearly j hj
  have hfuel : m < ticketFuel s1 g := by
    obtain ⟨gr, hgr⟩ := Option.isSome_iff_exists.1 hg1
    have hle := earlyChain_le hgr (k + 1) id m hearly1
    unfold ticketFuel
    rw [hgr]
    dsimp only
    omega
  obtain ⟨hpassed, hlast', hother⟩ := grantTicket_grants hid m (ticketFuel s1 g) s1 (k + 1) st hfuel hg1 hearly1
    (by rw [hnext]; exact hlast)
  refine ⟨?_, fun j hj => ?_, ?_, fun j n hn hor => ?_⟩
  · rw [hother k id hid (.inr (.inl (by omega))), ← hs1, ticketAt_setTicket hg, if_pos rfl]
  · rw [hpassed j hj, hnext, chainStatus_congr st hnext]
  · rw [hlast', hnext, chainStatus_congr st hnext]
  · rw [hother j n hn (by omega), hset j n hn (by omega)]

/-! `TICKET.ACQ`. -/

/-- The condition codes of an acquired ticket (03 R86). -/
def ticketCodes (k : Issue) (st : Nat) (cc : CC) : CC :=
  { z := ccBit cc.z k.f.quads fun _ => st == 0, n := ccBit cc.n k.f.quads fun _ => k.w.wg == 0,
    c := ccBit cc.c k.f.quads fun _ => st == 1, v := ccBit cc.v k.f.quads fun _ => st == 2 }

theorem ticketCodes_get (k : Issue) (st : Nat) (cc : CC) {q : Nat} (hq : q < 16) :
    let c := ticketCodes k st cc
    if k.f.quads.getLsbD q = true then
      c.z.getLsbD q = decide (st = 0) ∧ c.n.getLsbD q = decide (k.w.wg = 0) ∧ c.c.getLsbD q = decide (st = 1) ∧
        c.v.getLsbD q = decide (st = 2)
    else c.z.getLsbD q = cc.z.getLsbD q ∧ c.n.getLsbD q = cc.n.getLsbD q ∧ c.c.getLsbD q = cc.c.getLsbD q ∧
      c.v.getLsbD q = cc.v.getLsbD q := by
  unfold ticketCodes
  simp only [ccBit_get _ _ _ hq]
  split <;> exact ⟨rfl, rfl, rfl, rfl⟩

/-- The state once a granted ticket is taken: nothing of a wave. -/
def ticketTaken (s : State) (k : Issue) (id : Nat) : State :=
  let t := ticketAt s k.w.grid k.w.wg id
  dropCopies (setTicket s k.w.grid k.w.wg id { t with held := t.held || !t.released }) k.w.core

section
variable {g id : BitVec 2} {d : Reg} {s : State} {k : Issue} (h : MayRun (.ticketAcq g d id) s k)
include h

theorem ticketAcq_spawned (hs : k.w.spawned = true) :
    exec (.ticketAcq g d id) s = .next ((Eff.trap .illegalTicket (k.act s) 0 s).finish (.ticketAcq g d id) k) := by
  show execTicketAcq g d id s = _
  unfold execTicketAcq
  rw [issueWith_runs _ h]
  rw [if_pos hs]

theorem ticketAcq_reused (hs : k.w.spawned = false) (hr : (ticketAt s k.w.grid k.w.wg id.toNat).released = true)
    (hn : k.f.retry = false) :
    exec (.ticketAcq g d id) s = .next ((Eff.trap .ticketReused (k.act s) 0 s).finish (.ticketAcq g d id) k) := by
  show execTicketAcq g d id s = _
  unfold execTicketAcq
  rw [issueWith_runs _ h]
  simp [hs, hr, hn]

section
variable (hs : k.w.spawned = false) (hr : (ticketAt s k.w.grid k.w.wg id.toNat).released = false ∨ k.f.retry = true)
include hs hr

theorem ticketAcq_waits (hg : (ticketAt s k.w.grid k.w.wg id.toNat).granted = false) :
    exec (.ticketAcq g d id) s = .next ((Eff.park .wait s).finish (.ticketAcq g d id) k) := by
  show execTicketAcq g d id s = _
  unfold execTicketAcq
  rw [issueWith_runs _ h]
  rcases hr with hr | hr <;> simp [hs, hr, hg]

theorem ticketAcq_turn (hg : (ticketAt s k.w.grid k.w.wg id.toNat).granted = true) (ht : k.turn s = false) :
    exec (.ticketAcq g d id) s = .next ((Eff.park .turn s).finish (.ticketAcq g d id) k) := by
  show execTicketAcq g d id s = _
  unfold execTicketAcq
  rw [issueWith_runs _ h]
  rcases hr with hr | hr <;> simp [hs, hr, hg, ht]

theorem ticketAcq_takes (hg : (ticketAt s k.w.grid k.w.wg id.toNat).granted = true) (ht : k.turn s = true) :
    exec (.ticketAcq g d id) s = .next ((Eff.done (modWave (ticketTaken s k id.toNat) k.uid (returned s k d
      (fun _ => BitVec.ofNat 64 (ticketAt s k.w.grid k.w.wg id.toNat).status)
      (ticketCodes k (ticketAt s k.w.grid k.w.wg id.toNat).status)))).finish (.ticketAcq g d id) k) := by
  show execTicketAcq g d id s = _
  unfold execTicketAcq
  rw [issueWith_runs _ h]
  dsimp only
  rw [if_neg (by simp [hs]), if_neg (by rcases hr with hr | hr <;> simp [hr]), if_neg (by simp [hg]), if_neg (by simp [ht])]
  exact congrArg (fun t => Host.Outcome.next ((Eff.done t).finish (.ticketAcq g d id) k))
    (writeQuadCC_writeLanes (s := s) (t := ticketTaken s k id.toNat) rfl rfl k d _ (ticketCodes k _))

end
end

theorem ticketAt_taken {s : State} {k : Issue} (hg : (assocGet s.grids k.w.grid).isSome = true) (id j n : Nat) :
    ticketAt (ticketTaken s k id) k.w.grid j n = if 4 * j + n = 4 * k.w.wg + id then
      { ticketAt s k.w.grid k.w.wg id with
        held := (ticketAt s k.w.grid k.w.wg id).held || !(ticketAt s k.w.grid k.w.wg id).released }
      else ticketAt s k.w.grid j n :=
  ticketAt_setTicket hg k.w.wg id j n _

/-- A fragment that parks with nothing else done. -/
theorem parks_only {i : Instr} {s : State} {k : Issue} (p : Park) (hk : getIssue s = some k)
    (he : exec i s = .next ((Eff.park p s).finish i k)) : Completes i s fun s' => OnlyWave s s' k.uid ∧ SameBytes s s' ∧
      ∃ w' f', assocGet s'.waves k.uid = some w' ∧ w'.frag? k.lead = some f' ∧ f'.pc = k.f.pc ∧ f'.park = p := by
  have h := park_result (i := i) p id hk (getIssue_spec hk).2.2.1
  rw [modWave_same s k.uid id fun _ => rfl] at h
  obtain ⟨ho, hb, w', hw, -, hf⟩ := h
  exact ⟨_, he, ho, hb, w', _, hw, hf, rfl, rfl⟩

/-! `TICKET.REL`. -/

section
variable {g id : BitVec 2} {s : State} {k : Issue} (h : MayRun (.ticketRel g id) s k)
include h

theorem ticketRel_spawned (hs : k.w.spawned = true) :
    exec (.ticketRel g id) s = .next ((Eff.trap .illegalTicket (k.act s) 0 s).finish (.ticketRel g id) k) := by
  show execTicketRel g id s = _
  unfold execTicketRel
  rw [issueWith_runs _ h]
  rw [if_pos hs]

theorem ticketRel_notHeld (hs : k.w.spawned = false) (hh : (ticketAt s k.w.grid k.w.wg id.toNat).held = false)
    (hc : k.f.closed = false) :
    exec (.ticketRel g id) s = .next ((Eff.trap .ticketNotHeld (k.act s) 0 s).finish (.ticketRel g id) k) := by
  show execTicketRel g id s = _
  unfold execTicketRel
  rw [issueWith_runs _ h]
  simp [hs, hh, hc]

theorem ticketRel_releases (hs : k.w.spawned = false) (hh : (ticketAt s k.w.grid k.w.wg id.toNat).held = true)
    (hw : releaseWaits k = false) (hf : releaseStuck k = false) : exec (.ticketRel g id) s =
      .next ((Eff.done (modWave (releaseTicket s k.w.grid k.w.wg id.toNat 0) k.uid (fun w => w))).finish (.ticketRel g id) k) := by
  rw [modWave_same _ k.uid _ fun _ => rfl]
  show execTicketRel g id s = _
  unfold execTicketRel
  rw [issueWith_runs _ h]
  simp [hs, hh, hw, hf]

end

theorem releaseTicket_only (s : State) (g k id st : Nat) : TicketsOnly s (releaseTicket s g k id st) :=
  (setTicket_only _ _ _ _ _).trans (grantTicket_only _ _ _ _ _ _)

/-- Settles O22: the acquisition's cases; a release runs through the chain of `releaseTicket_grants`. -/
theorem ticketsAcquireAndRelease : Obligations.TicketsAcquireAndRelease := by
  refine ⟨fun g d id s k h => ⟨fun hs hcan => ?_, fun hs hg => ⟨fun hr hn hcan => ?_, fun hr => ⟨fun hgr => ?_, fun hgr ht => ?_,
    fun hgr ht => ?takes⟩⟩⟩, fun g id s k h => ⟨fun hs hcan => ?_, fun hs hg => ⟨fun hh hc hcan => ?_,
    fun m hh hw hf hearly hlast => ?releases⟩⟩⟩
  · exact ⟨_, ticketAcq_spawned h hs, (trap_only _ _ h.1 hcan).1⟩
  · exact ⟨_, ticketAcq_reused h hs hr hn, (trap_only _ _ h.1 hcan).1⟩
  · exact parks_only .wait h.1 (ticketAcq_waits h hs hr hgr)
  · exact parks_only .turn h.1 (ticketAcq_turn h hs hr hgr ht)
  case takes =>
    have hrun := ticketAcq_takes h hs hr hgr ht
    generalize hst : (ticketAt s k.w.grid k.w.wg id.toNat).status = st at hrun ⊢
    have hret := returned_regs (.ticketAcq g d id) d (fun _ => BitVec.ofNat 64 st) (ticketCodes k st) h.1
    have honly := returned_only s k d (fun _ => BitVec.ofNat 64 st) (ticketCodes k st) k.w
    simp only [valWords_ofNat] at hret
    generalize returned s k d (fun _ => BitVec.ofNat 64 st) (ticketCodes k st) = G at hrun hret honly
    have hfrags : (G k.w).frags = k.w.frags := by rw [honly]
    have hfr : (G k.w).frag? k.lead = some k.f := by
      unfold Wave.frag?
      rw [hfrags]
      exact (getIssue_spec h.1).2.2.1
    have hcc : (G k.w).cc = ticketCodes k st k.w.cc := by rw [honly]
    have hmask : (G k.w).mask = k.w.mask := by rw [honly]
    obtain ⟨hget, hother⟩ := done_waves (i := .ticketAcq g d id) (t := ticketTaken s k id.toNat) h.1 rfl hfr
    refine ⟨_, hrun, ⟨fun _ => rfl, rfl⟩, rfl, hother, ?_, fun j n hne hn => ?_, _, hget,
      advanced_retiredWave _ h.1 hfrags (by rw [honly]), hmask, hret.retired _ _ _, fun q hq => ?codes⟩
    · exact (ticketAt_taken hg id.toNat k.w.wg id.toNat).trans ((if_pos rfl).trans (by rw [← hst]))
    · exact (ticketAt_taken hg id.toNat j n).trans (if_neg (by omega))
    case codes =>
      have hcc' : (retiredWave (.ticketAcq g d id) (ticketTaken s k id.toNat).cycle k (G k.w)).cc = ticketCodes k st k.w.cc := hcc
      rw [hcc']
      exact ticketCodes_get k st k.w.cc hq
  · exact ⟨_, ticketRel_spawned h hs, (trap_only _ _ h.1 hcan).1⟩
  · exact ⟨_, ticketRel_notHeld h hs hh hc, (trap_only _ _ h.1 hcan).1⟩
  case releases =>
    have hrel := releaseTicket_grants hg id.isLt k.w.wg 0 m (fun j hj => ?e) ?l
    case e =>
      rw [Nat.add_assoc, Nat.add_comm 1]
      exact hearly (j + 1) (by omega) (by omega)
    case l =>
      rw [Nat.add_assoc, Nat.add_comm 1]
      exact hlast
    obtain ⟨hown, hpassed, hlast', hother⟩ := hrel
    obtain ⟨gs, eg⟩ := (releaseTicket_only s k.w.grid k.w.wg id.toNat 0).only
    have hmem : (releaseTicket s k.w.grid k.w.wg id.toNat 0).mem = s.mem := by rw [eg]
    have hundef : (releaseTicket s k.w.grid k.w.wg id.toNat 0).undefMem = s.undefMem := by rw [eg]
    have hrun := ticketRel_releases h hs hh hw hf
    obtain ⟨hget, hwaves⟩ := done_waves (i := .ticketRel g id) (t := releaseTicket s k.w.grid k.w.wg id.toNat 0) (g := (fun w => w)) h.1
      (by rw [eg]) (getIssue_spec h.1).2.2.1
    have hmove : ∀ j, k.w.wg + 1 + j = k.w.wg + (j + 1) := fun j => by omega
    have hstatus : ∀ j, chainStatus s k.w.grid (k.w.wg + 1) id.toNat 0 j =
        if j + 1 = 1 then 0 else ((ticketAt s k.w.grid (k.w.wg + (j + 1 - 1)) id.toNat).early).getD 0 := fun j => by
      unfold chainStatus
      cases j with
      | zero => rfl
      | succ j => simp [hmove]
    refine ⟨_, hrun, ⟨fun a => ?_, ?_⟩, hown, fun j h1 hj => ?_, ?_, fun j n hn hor => hother j n hn (by omega), hwaves, _, hget,
      advanced_retiredWave _ h.1 rfl rfl, rfl⟩
    · exact congrArg (memRead · a) hmem
    · exact hundef
    · obtain ⟨j, rfl⟩ := Nat.exists_eq_add_of_le' h1
      have := hpassed j (by omega)
      rw [hmove, hstatus] at this
      exact this
    · rw [hmove, hstatus] at hlast'
      exact hlast'

end Sys2Proof.Machine
end

section
/-!
SUPPORT. The gatherer (03 R70, R73, R75, R76, R78): the wave that a launch starts, and what bins and segments give up.
-/

namespace Sys2Proof.Machine

/-! The order of lanes. -/

theorem length_insertBy {α : Type} (le : α → α → Bool) (a : α) (l : List α) : (insertBy le a l).length = l.length + 1 := by
  induction l with
  | nil => rfl
  | cons b r ih =>
    unfold insertBy
    split
    · rfl
    · simp [ih]

theorem length_sortBy {α : Type} (le : α → α → Bool) (l : List α) : (sortBy le l).length = l.length := by
  induction l with
  | nil => rfl
  | cons a r ih =>
    unfold sortBy
    rw [length_insertBy, ih]
    rfl

theorem length_laneOrder (ts : List Child) : (laneOrder ts).length = ts.length := by
  unfold laneOrder
  split
  · exact length_sortBy _ _
  · rfl

/-- Threads none of which is deterministic take lanes in their order (03 R74). -/
theorem laneOrder_nondet {ts : List Child} (h : ∀ t ∈ ts, t.det = false) : laneOrder ts = ts := by
  have hany : ts.any (·.det) = false := List.any_eq_false.2 fun t ht => by simp [h t ht]
  unfold laneOrder
  rw [hany]
  rfl

/-! Registers of a launched wave. -/

/-- The payload of one thread, and its join handle, written to its lane. -/
def childWritten (l : Nat) (t : Child) (w : Wave) : Wave := t.words.foldl (fun w v => writeLane w v.1 l v.2) w

theorem foldl_writeLane_only (l : Nat) (vs : List (Nat × Word)) (w : Wave) :
    vs.foldl (fun w v => writeLane w v.1 l v.2) w =
      { w with regs := (vs.foldl (fun w v => writeLane w v.1 l v.2) w).regs } := by
  induction vs generalizing w with
  | nil => rfl
  | cons v r ih =>
    rw [List.foldl_cons, ih]
    rfl

/-- Of the registers that carry payload, a thread's lane holds its words and every other is as it was. -/
theorem held_childWritten (t : Child) (w : Wave) {j l b : Nat} (hj : j < 4) (hl : l < 64) (hb : b < 64) :
    held (childWritten l t w) j b = if b = l then (t.payload[j]?).getD (held w j b) else held w j b := by
  have hjoin : ∀ (vs : List (Nat × Word)) (w : Wave), (∀ v ∈ vs, 4 ≤ v.1) →
      held (vs.foldl (fun w v => writeLane w v.1 l v.2) w) j b = held w j b := by
    intro vs
    induction vs with
    | nil => exact fun _ _ => rfl
    | cons v r ih =>
      intro w hv
      rw [List.foldl_cons, ih _ fun x hx => hv x (List.mem_cons_of_mem _ hx), held_writeLane _ _ _ _ _ _ hl hb]
      have := hv v List.mem_cons_self
      exact if_neg (by omega)
  have hpay : held ((t.payload.zipIdx.map fun p => (p.2, p.1)).foldl (fun w v => writeLane w v.1 l v.2) w) j b =
      if b = l then (t.payload[j]?).getD (held w j b) else held w j b := by
    have h := held_writeWords t.payload w 0 l j b hl hb
    simp only [Nat.zero_add, Nat.zero_le, and_true, Nat.sub_zero] at h
    rw [List.foldl_map]
    exact h
  unfold childWritten Child.words
  rw [List.foldl_append, ← hpay]
  refine hjoin _ _ ?_
  cases t.thread.join with
  | none => simp
  | some v => simp

/-- The threads `us` written, in lanes from `n` up. -/
def childrenWritten (us : List Child) (n : Nat) (w : Wave) : Wave := (us.zipIdx n).foldl (fun w u => childWritten u.2 u.1 w) w

theorem childrenWritten_only (us : List Child) (n : Nat) (w : Wave) :
    childrenWritten us n w = { w with regs := (childrenWritten us n w).regs } := by
  induction us generalizing n w with
  | nil => rfl
  | cons u r ih =>
    show childrenWritten r (n + 1) (childWritten n u w) = { w with regs := (childrenWritten r (n + 1) (childWritten n u w)).regs }
    rw [ih, childWritten, foldl_writeLane_only]

theorem held_childrenWritten_below (us : List Child) {n : Nat} (w : Wave) {j b : Nat} (hj : j < 4) (hn : n + us.length ≤ 64)
    (hb : b < n) : held (childrenWritten us n w) j b = held w j b := by
  induction us generalizing n w with
  | nil => rfl
  | cons u r ih =>
    rw [List.length_cons] at hn
    refine (ih (n := n + 1) _ (by omega) (by omega)).trans ?_
    rw [held_childWritten u w hj (by omega) (by omega)]
    exact if_neg (by omega)

theorem held_childrenWritten (us : List Child) {n : Nat} (w : Wave) {j i : Nat} {t : Child} {v : Word} (hj : j < 4)
    (hn : n + us.length ≤ 64) (ht : us[i]? = some t) (hv : t.payload[j]? = some v) :
    held (childrenWritten us n w) j (n + i) = v := by
  induction us generalizing n w i with
  | nil => cases ht
  | cons u r ih =>
    rw [List.length_cons] at hn
    cases i with
    | zero =>
      obtain rfl : u = t := by simpa using ht
      refine (held_childrenWritten_below r (n := n + 1) _ hj (by omega) (by omega)).trans ?_
      rw [held_childWritten u w hj (by omega) (by omega), hv]
      exact if_pos rfl
    | succ i =>
      have := ih (n := n + 1) (childWritten n u w) (by omega) (by simpa using ht)
      rwa [Nat.add_right_comm, Nat.add_assoc n i 1] at this

theorem assocGet_zipIdx {α : Type} (f : Child → α) (us : List Child) (n i : Nat) :
    assocGet ((us.zipIdx n).map fun u => (u.2, f u.1)) (n + i) = (us[i]?).map f := by
  induction us generalizing n i with
  | nil => rfl
  | cons u r ih =>
    rw [List.zipIdx_cons, List.map_cons]
    cases i with
    | zero => simp [assocGet]
    | succ i =>
      have hne : n ≠ n + (i + 1) := by omega
      have := ih (n + 1) i
      rw [show n + 1 + i = n + (i + 1) by omega] at this
      simpa [assocGet, hne] using this

/-! The launch. -/

/-- The wave that the threads `t :: r`, in lane order, start in, before their registers are written. -/
def childrenWave (s : State) (p x : Nat) (t : Child) (r : List Child) (c : Claim) : Wave :=
  let us := t :: r
  let low := r.foldl (fun (m u : Child) => if u.thread.below m.thread then u else m) t
  { Wave.start x p (lowSlot s p) c (childGran us) (lowFrame s p x) low.thread.grid low.thread.wg 0 true low.det t.entry
      (BitVec.ofNat 16 (2 ^ ((us.length + 3) / 4) - 1)) (BitVec.ofNat 64 (2 ^ us.length - 1)) s.cycle with
    nthreads := us.length, threads := us.zipIdx.map fun u => (u.2, u.1.thread),
    clocks := (List.range 16).map fun q => ((us.drop (4 * q)).take 4).foldl (fun n u => max n u.clock) 0 }

theorem launchChildren_cons {s : State} {p x : Nat} {ts : List Child} {c : Claim} {t : Child} {r : List Child}
    (h : laneOrder ts = t :: r) : launchChildren s p x ts c =
      { setWave (dropCopies s p) s.nextUid (childrenWritten (t :: r) 0 (childrenWave s p x t r c)) with nextUid := s.nextUid + 1 } := by
  unfold launchChildren
  rw [h]
  rfl

theorem launchChildren_only (s : State) (p x : Nat) (ts : List Child) (c : Claim) :
    let t := launchChildren s p x ts c
    t = { s with waves := t.waves, hub := t.hub, nextUid := t.nextUid } := by
  cases h : laneOrder ts with
  | nil =>
    unfold launchChildren
    rw [h]
  | cons t r => rw [launchChildren_cons h]; rfl

/-- What a launch starts: one spawned wave, its threads by lane and payload where none is deterministic. -/
def Launched (t : State) (u p x : Nat) (ts : List Child) : Prop :=
  ∃ w, assocGet t.waves u = some w ∧ w.core = p ∧ w.ctx = x ∧ w.spawned = true ∧ w.nthreads = ts.length ∧
    w.mask = BitVec.ofNat 64 (2 ^ ts.length - 1) ∧
    ((∀ t ∈ ts, t.det = false ∧ t.payload.length ≤ 4) → ts.length ≤ 64 →
      (∃ f, w.frags = [f] ∧ f.header = true ∧ f.park = .none ∧ some f.pc = ts.head?.map (·.entry)) ∧
      ∀ l t, ts[l]? = some t → assocGet w.threads l = some t.thread ∧ ∀ j v, t.payload[j]? = some v → held w j l = v)

theorem launchChildren_launches (s : State) (p x : Nat) {ts : List Child} (c : Claim) (hts : ts ≠ []) :
    Launched (launchChildren s p x ts c) s.nextUid p x ts := by
  have hlen := length_laneOrder ts
  cases h : laneOrder ts with
  | nil =>
    rw [h] at hlen
    exact absurd (List.eq_nil_of_length_eq_zero hlen.symm) hts
  | cons t r =>
    rw [h] at hlen
    have honly := childrenWritten_only (t :: r) 0 (childrenWave s p x t r c)
    rw [launchChildren_cons h]
    refine ⟨_, assocGet_set_same _ _ _, by rw [honly]; rfl, by rw [honly]; rfl, by rw [honly]; rfl, ?_, ?_, fun hdet h64 => ?_⟩
    · rw [honly]; exact hlen
    · rw [honly, ← hlen]; rfl
    · obtain rfl : ts = t :: r := (laneOrder_nondet fun y hy => (hdet y hy).1).symm.trans h
      refine ⟨⟨_, by rw [honly]; rfl, rfl, rfl, rfl⟩, fun l y hy => ⟨?_, fun j v hv => ?_⟩⟩
      · rw [honly]
        have := assocGet_zipIdx (·.thread) (t :: r) 0 l
        rw [Nat.zero_add, hy] at this
        exact this
      · have hj : j < 4 := by
          have := (hdet y (List.mem_of_getElem? hy)).2
          have := (List.getElem?_eq_some_iff.1 hv).1
          omega
        have := held_childrenWritten (t :: r) (n := 0) (childrenWave s p x t r c) hj (by simpa using h64) hy hv
        rwa [Nat.zero_add] at this

/-! Records of segments: the device's accesses. -/

/-- Accesses one after another, the first that fails ending them. -/
theorem foldl_except_work {α ε : Type} {f : Except ε State → α → Except ε State} (he : ∀ e a, f (.error e) a = .error e)
    (hf : ∀ s a t, f (.ok s) a = .ok t → DeviceWork s t) (l : List α) :
    ∀ {r : Except ε State} {t : State}, l.foldl f r = .ok t → ∃ s, r = .ok s ∧ DeviceWork s t := by
  induction l with
  | nil => exact fun {r t} h => ⟨t, h, .refl t⟩
  | cons a l ih =>
    intro r t h
    obtain ⟨s1, h1, hw⟩ := ih h
    cases r with
    | error e => rw [he] at h1; cases h1
    | ok s => exact ⟨s, rfl, (hf s a s1 h1).trans hw⟩

theorem segWrite_work {s t : State} {p x d : Nat} {ts : List Child} (h : segWrite s p x d ts = .ok t) : DeviceWork s t := by
  unfold segWrite at h
  split at h
  · obtain ⟨s', hs, hw⟩ := foldl_except_work (fun _ _ => rfl) (fun _ _ _ h => devWrite_work _ h) _ h
    cases hs
    exact hw
  · cases h; exact .refl _

theorem segRead_work {s t : State} {p x d n : Nat} (h : segRead s p x d n = .ok t) : DeviceWork s t := by
  have hstep : ∀ (s t : State) (a : Nat), (devRead s x a 128 (some (coreDom p))).map (·.1) = .ok t → DeviceWork s t := by
    intro s t a h
    cases hr : devRead s x a 128 (some (coreDom p)) with
    | error e => rw [hr] at h; cases h
    | ok v =>
      rw [hr] at h
      cases h
      exact devRead_work 128 hr
  unfold segRead at h
  split at h
  · obtain ⟨s', hs, hw⟩ := foldl_except_work (fun _ _ => rfl) (fun s _ t h => hstep s t _ h) _ h
    cases hs
    exact hw
  · cases h; exact .refl _

/-! Banks. -/

theorem modBank_get {s : State} {k : Nat} {b : Bank} (f : Bank → Bank) (h : assocGet s.banks k = some b) :
    assocGet (modBank s k f).banks k = some (f b) := by
  rw [modBank_banks, assocGet_mod_same, h]
  rfl

/-- The bank once children are at the tail of a segment. -/
def segGrown (cycle d : Nat) (ts : List Child) (b : Bank) : Bank :=
  { b with segs := assocSet b.segs d (segOf b d ++ ts),
           segSince := if (segOf b d).isEmpty then assocSet b.segSince d cycle else b.segSince,
           segTail := assocSet b.segTail d ((assocGet b.segTail d).getD 0 + ts.length) }

theorem segOf_segGrown (cycle d : Nat) (ts : List Child) (b : Bank) : segOf (segGrown cycle d ts b) d = segOf b d ++ ts := by
  unfold segOf segGrown
  rw [assocGet_set_same]
  rfl

theorem segAppend_ok {s s1 : State} {p x d : Nat} {ts : List Child} (h : segWrite s p x d ts = .ok s1) :
    segAppend s p x d ts = modBank s1 (16 * p + x) (segGrown s.cycle d ts) := by
  unfold segAppend
  rw [h]
  rfl

theorem segAppend_error {s : State} {p x d : Nat} {ts : List Child} {e : Cause} (h : segWrite s p x d ts = .error e) :
    segAppend s p x d ts = contextFault s x e := by
  unfold segAppend
  rw [h]

theorem getBin_spec {s : State} {p x n : Nat} {c : Context} {b : Bank} {v : Bin} (h : getBin s p x n = some (c, b, v)) :
    assocGet s.ctxs x = some c ∧ assocGet s.banks (16 * p + x) = some b ∧ c.resident = true ∧ assocGet b.bins n = some v := by
  unfold getBin at h
  split at h
  · rename_i c' b' hc hb
    split at h
    · rename_i hr
      cases hv : assocGet b'.bins n with
      | none => rw [hv] at h; cases h
      | some v' =>
        rw [hv] at h
        cases h
        exact ⟨hc, hb, hr, hv⟩
    · cases h
  · cases h

theorem getBin_eq {s : State} {p x n : Nat} {c : Context} {b : Bank} {v : Bin} (hc : assocGet s.ctxs x = some c)
    (hb : assocGet s.banks (16 * p + x) = some b) (hr : c.resident = true) (hv : assocGet b.bins n = some v) :
    getBin s p x n = some (c, b, v) := by
  unfold getBin
  rw [hc, hb]
  dsimp only
  rw [if_pos hr, hv]
  rfl

/-! The events. -/

section
variable {s : State} {p x n : Nat} {c : Context} {b : Bank} {v : Bin} (h : getBin s p x n = some (c, b, v))
include h

theorem binTimerExpiry_readies (hr : v.ready = false) (ht : v.timer = 0) : Completes (.binTimerExpiry p x n) s fun t =>
    SameBytes s t ∧ getBin t p x n = some (c, { b with bins := assocSet b.bins n { v with ready := true, age := 0, since := s.cycle } },
      { v with ready := true, age := 0, since := s.cycle }) := by
  obtain ⟨hc, hb, hres, -⟩ := getBin_spec h
  have hev : binExpire s p x n = some (modBank s (16 * p + x) fun b =>
      { b with bins := assocSet b.bins n { v with ready := true, age := 0, since := s.cycle } }) := by
    unfold binExpire
    rw [h]
    dsimp only
    rw [if_neg (by simp [hr, ht])]
  refine ⟨_, congrArg (evStep s) hev, ⟨fun _ => rfl, rfl⟩, ?_⟩
  exact getBin_eq hc (modBank_get (fun b => { b with bins := assocSet b.bins n { v with ready := true, age := 0, since := s.cycle } }) hb)
    hres (assocGet_set_same _ _ _)

variable (hr : v.ready = true) (ha : max c.bintmr.toNat 256 ≤ v.age) (hcap : (segOf b v.depth).length + v.threads.length ≤ ringCap c)
include hr ha hcap

theorem binOverflow_moves : binOverflow s p x n =
    some (modBank (segAppend s p x v.depth v.threads) (16 * p + x) fun b => { b with bins := assocDel b.bins n }) := by
  unfold binOverflow
  rw [h]
  dsimp only
  rw [if_pos (by simp only [hr, ha, hcap, decide_true, Bool.and_self])]

theorem binOverflow_written {s1 : State} (hw : segWrite s p x v.depth v.threads = .ok s1) :
    Completes (.binOverflowWrite p x n) s fun t => t.mem = s1.mem ∧ ∃ b', assocGet t.banks (16 * p + x) = some b' ∧
      assocGet b'.bins n = none ∧ (∀ j, j ≠ n → assocGet b'.bins j = assocGet b.bins j) ∧
      segOf b' v.depth = segOf b v.depth ++ v.threads := by
  have hev := binOverflow_moves h hr ha hcap
  rw [segAppend_ok hw] at hev
  have hb1 : assocGet s1.banks (16 * p + x) = some b := by
    rw [(segWrite_work hw).only]
    exact (getBin_spec h).2.1
  exact ⟨_, congrArg (evStep s) hev, rfl, _, modBank_get (fun b => { b with bins := assocDel b.bins n })
    (modBank_get (segGrown s.cycle v.depth v.threads) hb1), assocGet_del_same _ _, fun j hj => assocGet_del_other _ _ _ hj,
    segOf_segGrown s.cycle _ _ _⟩

theorem binOverflow_faults {f : Cause} (hw : segWrite s p x v.depth v.threads = .error f) :
    Completes (.binOverflowWrite p x n) s fun t => ContextFaulted t x f := by
  have hev := binOverflow_moves h hr ha hcap
  rw [segAppend_error hw] at hev
  refine ⟨_, congrArg (evStep s) hev, ?_⟩
  exact (contextFault_faults f (by rw [(getBin_spec h).1]; rfl)).2

end

section
variable {s : State} {p x n : Nat} {a : Cand} {cl : Claim}

theorem binLaunch_launches (ha : (candidates s p).find? (fun a => a.ctx == x && !a.seg && a.num == n) = some a)
    (hs : serveCand s p a = some cl) {bk : Bank} (hb : assocGet s.banks (16 * p + x) = some bk) :
    Completes (.binLaunch p x n) s fun t => SameBytes s t ∧ (a.threads ≠ [] → Launched t s.nextUid p x a.threads) ∧
      assocGet t.banks (16 * p + x) = some { bk with bins := assocDel bk.bins n } := by
  have hev : binLaunch s p x n = some (modBank (launchChildren s p x a.threads cl) (16 * p + x)
      fun b => { b with bins := assocDel b.bins n }) := by
    unfold binLaunch
    rw [ha]
    dsimp only
    rw [hs]
    rfl
  have honly := launchChildren_only s p x a.threads cl
  refine ⟨_, congrArg (evStep s) hev, ⟨fun y => ?_, ?_⟩, launchChildren_launches s p x cl, ?_⟩
  · show memRead (launchChildren s p x a.threads cl).mem y = _
    rw [honly]
  · show (launchChildren s p x a.threads cl).undefMem = _
    rw [honly]
  · refine modBank_get (fun b => { b with bins := assocDel b.bins n }) ?_
    rw [honly]
    exact hb

variable {d : Nat} (ha : (candidates s p).find? (fun a => a.ctx == x && a.seg && a.num == d) = some a) (hs : serveCand s p a = some cl)
include ha hs

theorem segmentDrain_launches {b : Bank} (hb : assocGet s.banks (16 * p + x) = some b) {s1 : State}
    (hr : segRead s p x d a.threads.length = .ok s1) : Completes (.segmentDrainLaunch p x d) s fun t => t.mem = s1.mem ∧
      (a.threads ≠ [] → Launched t s.nextUid p x a.threads) ∧ ∃ b', assocGet t.banks (16 * p + x) = some b' ∧ b'.bins = b.bins ∧
        segOf b' d = (segOf b d).drop a.threads.length := by
  have hev : segLaunch s p x d = some (modBank (launchChildren s1 p x a.threads cl) (16 * p + x) fun b =>
      { b with segs := assocSet b.segs d ((segOf b d).drop a.threads.length), segSince := assocSet b.segSince d s.cycle }) := by
    unfold segLaunch
    rw [ha]
    dsimp only
    rw [hs]
    dsimp only [Option.map_some]
    rw [hr]
  have hwork := segRead_work hr
  have honly := launchChildren_only s1 p x a.threads cl
  have huid : s1.nextUid = s.nextUid := by rw [hwork.only]
  refine ⟨_, congrArg (evStep s) hev, ?_, fun hne => ?_, _, modBank_get (fun b => { b with
      segs := assocSet b.segs d ((segOf b d).drop a.threads.length), segSince := assocSet b.segSince d s.cycle }) ?_, rfl, ?_⟩
  · show (launchChildren s1 p x a.threads cl).mem = _
    rw [honly]
  · rw [← huid]
    exact launchChildren_launches s1 p x cl hne
  · rw [honly]
    show assocGet s1.banks (16 * p + x) = _
    rw [hwork.only]
    exact hb
  · unfold segOf
    rw [assocGet_set_same]
    rfl

theorem segmentDrain_faults {c : Context} (hc : assocGet s.ctxs x = some c) {f : Cause}
    (hr : segRead s p x d a.threads.length = .error f) :
    Completes (.segmentDrainLaunch p x d) s fun t => ContextFaulted t x f := by
  have hev : segLaunch s p x d = some (contextFault s x f) := by
    unfold segLaunch
    rw [ha]
    dsimp only
    rw [hs]
    dsimp only [Option.map_some]
    rw [hr]
  exact ⟨_, congrArg (evStep s) hev, (contextFault_faults f (by rw [hc]; rfl)).2⟩

end

/-- Settles O44: each event of a bin or a segment by the lemma on the function that makes it. -/
theorem binsLaunchOrOverflow : Obligations.BinsLaunchOrOverflow := by
  refine fun s p x => ⟨fun n c b v h hr ht => binTimerExpiry_readies h hr ht, fun n a cl bk ha hs hb => ?_,
    fun n c b v h hr hage hcap => ⟨fun s1 hw => binOverflow_written h hr hage hcap hw, fun f hw => binOverflow_faults h hr hage hcap hw⟩,
    fun d a c b cl ha hc hb hs => ⟨fun s1 hr => segmentDrain_launches ha hs hb hr, fun f hr => segmentDrain_faults ha hs hc hr⟩⟩
  obtain ⟨t, ht, hbytes, hl, hbank⟩ := binLaunch_launches ha hs hb
  exact ⟨t, ht, hbytes, hl, _, hbank, rfl, assocGet_del_same _ _, fun j hj => assocGet_del_other _ _ _ hj⟩

end Sys2Proof.Machine
end

section
/-!
SUPPORT. A `SPAWN` performed (03 R63 to R67, R74): what its lane receives, what each check of its placement comes to, and the place
it takes.
-/

namespace Sys2Proof.Machine

/-! Changes of memory and of the hub. -/

/-- Only bytes, the hub and the list of updated words differ. -/
def BytesOnly (s t : State) : Prop :=
  t = { s with mem := t.mem, undefMem := t.undefMem, past := t.past, hub := t.hub, updates := t.updates }

theorem BytesOnly.trans {s t r : State} (h : BytesOnly s t) (h' : BytesOnly t r) : BytesOnly s r := by
  unfold BytesOnly at *
  rw [h', h]

theorem touched_only (l : Loc) (wr : Bool) (s : State) :
    l.touched wr s = { s with mem := (l.touched wr s).mem, undefMem := (l.touched wr s).undefMem } := by
  unfold Loc.touched touch
  split
  · split <;> rfl
  · rfl

theorem touched_bytes (l : Loc) (wr : Bool) (s : State) : BytesOnly s (l.touched wr s) := by
  unfold BytesOnly
  rw [touched_only]

theorem refresh_bytes (l : Loc) (p : Nat) (s : State) : BytesOnly s (l.refresh p s) := by
  obtain ⟨c, e⟩ := refresh_lines l p s
  rw [e]
  rfl

theorem wordPut_bytes (s : State) (pa leaf v : Nat) : BytesOnly s (wordPut s (.phys pa leaf) v) := rfl

theorem portOf_touched (l : Loc) (wr : Bool) (s : State) (pa : Nat) : portOf (l.touched wr s) pa = portOf s pa := by
  unfold portOf
  rw [touched_only]

/-! A lane's end. -/

theorem setLane_wave {s : State} {u seq l : Nat} {st : LaneSt} {w : Wave} (hw : assocGet s.waves u = some w)
    (h : st.walked s w.ctx = s) : setLane s u seq l st = modWave s u (Wave.laneSet seq l st) := by
  unfold setLane
  rw [hw]
  dsimp only
  rw [h]
  rfl

/-- A fault whose walk met every table is the lane's own (06 R158). -/
theorem walked_faulted {s : State} {y : Nat} {x : Context} {f : Cause} {va page : VA} (hx : assocGet s.ctxs y = some x)
    (h : f = .physicalRange → walk s x page.toNat ≠ .outside) : (LaneSt.faulted f va page).walked s y = s := by
  unfold LaneSt.walked
  split
  · rename_i a p heq
    cases heq
    unfold walkFault
    rw [hx]
    exact if_neg fun hc => h rfl hc.2.1
  · rfl

/-- Lane `l` is done with `word` in register `d`, its thread's next ordinal is `next`, and every other register is as it was. -/
def LaneGiven (w : Wave) (u seq l d word next : Nat) (t : State) : Prop :=
  ∃ w', assocGet t.waves u = some w' ∧ LaneDone w' seq l ∧ held w' d l = BitVec.ofNat 32 word ∧
    threadOf w' l = { threadOf w l with next := next } ∧ ∀ r y, y < 64 → (r ≠ d ∨ y ≠ l) → held w' r y = held w r y

/-- Lane `l` has faulted at `va`, and its wave's registers and thread, memory and the banks are as they were. -/
def LaneFaults (s : State) (w : Wave) (u seq l : Nat) (f : Cause) (va : VA) (t : State) : Prop :=
  t.mem = s.mem ∧ t.banks = s.banks ∧ ∃ w' e', assocGet t.waves u = some w' ∧ w'.entries.find? (·.seq == seq) = some e' ∧
    assocGet e'.lanes l = some (.faulted f va va) ∧ w'.regs = w.regs ∧ threadOf w' l = threadOf w l

/-- A `SPAWN`'s lane ends with `v` in its destination. -/
def spawnEnd (s : State) (u seq l d v : Nat) : State :=
  setLane (modWave s u fun w => writeLane w d l (BitVec.ofNat 32 v)) u seq l .done

theorem spawnEnd_eq (s : State) (u seq l d v : Nat) : spawnEnd s u seq l d v =
    modWave s u fun w => (writeLane w d l (BitVec.ofNat 32 v)).laneSet seq l .done := by
  unfold spawnEnd
  rw [setLane_eq _ _ _ _ fun _ => rfl, modWave_modWave]
  rfl

theorem spawnEnd_gives {s : State} {u seq l d v : Nat} {w w1 : Wave} (hw : assocGet s.waves u = some w1) (hl : l < 64) {next : Nat}
    (ht : threadOf w1 l = { threadOf w l with next := next }) (hr : w1.regs = w.regs) :
    LaneGiven w u seq l d v next (spawnEnd s u seq l d v) := by
  rw [spawnEnd_eq]
  refine ⟨_, modWave_get _ hw, fun e he hs => laneSet_lane he hs, ?_, ht, fun r y hy hne => ?_⟩
  · show held (writeLane w1 d l (BitVec.ofNat 32 v)) d l = _
    rw [held_writeLane _ _ _ _ _ _ hl hl, if_pos ⟨rfl, rfl⟩]
  · show held (writeLane w1 d l (BitVec.ofNat 32 v)) r y = _
    rw [held_writeLane _ _ _ _ _ _ hl hy, if_neg (by omega), held_of_regs hr]

/-- The wave once the thread of lane `l` has taken an ordinal. -/
def ordinalTaken (l : Nat) (w : Wave) : Wave :=
  { w with threads := assocSet w.threads l { threadOf w l with next := (threadOf w l).next + 1 } }

theorem threadOf_ordinalTaken (l : Nat) (w : Wave) :
    threadOf (ordinalTaken l w) l = { threadOf w l with next := (threadOf w l).next + 1 } := by
  unfold threadOf ordinalTaken
  rw [assocGet_set_same]
  rfl

/-! The lane's turn. -/

theorem asking_answered {s : State} {u : Nat} {e : Entry} {c : Context} {l : Nat} {rs : List ((Nat × Nat) × Bool)}
    (h : Answered s c e l rs) (go : Option State) : asking s u e c l rs go = go := by
  unfold asking
  rcases h with ⟨hnone, hasks⟩ | ⟨hsome, hall⟩
  · rw [hnone]
    dsimp only
    rw [hasks]
  · have hans : ((e.asks.filter (·.lane == l)).all fun a => a.answers s) = true :=
      List.all_eq_true.2 fun a ha => hall a (List.mem_of_mem_filter ha) (by simpa using (List.mem_filter.1 ha).2)
    split
    · rename_i h; exact absurd h hsome
    · exact if_pos hans

/-- The state once the lane's placement with ordinal `o` has come to its fault or to its status. -/
def spawnOutcome (s : State) (u seq l d o : Nat) : Except (Cause × VA) (State × Nat) → State
  | .error (f, va) => setLane s u seq l (.faulted f va va)
  | .ok (s1, st) => spawnEnd (bumpNext s1 u l) u seq l d (64 * o + st)

/-- Lane `l` of a `SPAWN` in flight, which nothing stands before and whose requests to peers have been answered. -/
structure SpawnDue (s : State) (u seq l : Nat) (w : Wave) (e : Entry) (d : Nat) (entry : VA) (bad : Bool) (payload : List Word)
    (join : Option (Bool × VA)) (x : Context) (bk : Bank) : Prop where
  wave : assocGet s.waves u = some w
  found : w.entries.find? (·.seq == seq) = some e
  lane : ∃ ad, assocGet e.lanes l = some (.inflight (.spawn entry bad payload join) ad)
  instr : ∃ g pm h n, ∃ r : Reg, ∃ a b c, e.instr = .spawn g pm h n r a b c ∧ d = r.toNat
  ctx : assocGet s.ctxs w.ctx = some x
  bank : assocGet s.banks (bankKey w) = some bk
  lt : l < 64
  answered : Answered s x e l (spawnRanges entry bad join)
  flying : before s w e l (.spawn entry bad payload join) LaneSt.flying = false
  stuck : before s w e l (.spawn entry bad payload join) LaneSt.stuck = false
  first : spawnBefore w seq l = false
  turn : laneTurn s u w e l = true
  free : laneStuck w seq l = false

section
variable {s : State} {u seq l : Nat} {w : Wave} {e : Entry} {d : Nat} {entry : VA} {bad : Bool} {payload : List Word}
  {join : Option (Bool × VA)} {x : Context} {bk : Bank} (h : SpawnDue s u seq l w e d entry bad payload join x bk)
include h

theorem SpawnDue.runs (resp : BitVec 128) :
    exec (.memoryAccessComplete u seq l resp) s = evStep s (performSpawn s u seq l) := by
  obtain ⟨ad, hlane⟩ := h.lane
  refine congrArg (evStep s) ?_
  unfold performOp
  rw [laneOp_eq h.wave h.found hlane (by rw [h.ctx]; rfl)]

/-- The turn of the lane, by its ordinal and by what the placement comes to. -/
theorem SpawnDue.performs : performSpawn s u seq l = some (if 2 ^ 26 ≤ (threadOf w l).next then spawnEnd s u seq l d 7
    else spawnOutcome s u seq l d (threadOf w l).next
      (placeChild s w l (threadOf w l).next entry bad payload join none (e.clock + 2))) := by
  obtain ⟨ad, hlane⟩ := h.lane
  obtain ⟨g, pm, hh, n, r, a, b, c, hi, rfl⟩ := h.instr
  unfold performSpawn
  rw [h.wave]
  dsimp only
  rw [h.found]
  dsimp only
  rw [hlane, hi]
  dsimp only
  rw [if_neg (by simp [h.flying, h.first, h.turn]), if_neg (by simp [h.stuck, h.free]), h.ctx]
  dsimp only [Option.bind]
  rw [asking_answered h.answered]
  by_cases hn : 2 ^ 26 ≤ (threadOf w l).next
  · exact (if_pos hn).trans (congrArg some (if_pos hn).symm)
  · refine (if_neg hn).trans (Eq.trans ?_ (congrArg some (if_neg hn).symm))
    cases placeChild s w l (threadOf w l).next entry bad payload join none (e.clock + 2) <;> rfl

theorem SpawnDue.completes (resp : BitVec 128) : exec (.memoryAccessComplete u seq l resp) s =
    .next (bumpFree (if 2 ^ 26 ≤ (threadOf w l).next then spawnEnd s u seq l d 7
      else spawnOutcome s u seq l d (threadOf w l).next
        (placeChild s w l (threadOf w l).next entry bad payload join none (e.clock + 2)))) :=
  (h.runs resp).trans (by rw [h.performs]; rfl)

/-- Without an ordinal left the status is 7. -/
theorem SpawnDue.exhausted (resp : BitVec 128) (hn : 2 ^ 26 ≤ (threadOf w l).next) :
    Completes (.memoryAccessComplete u seq l resp) s (LaneGiven w u seq l d 7 (threadOf w l).next) :=
  ⟨_, h.completes resp, by rw [if_pos hn]; exact spawnEnd_gives h.wave h.lt rfl rfl⟩

variable (hn : (threadOf w l).next < 2 ^ 26)
include hn

/-- A placement that changes bytes alone gives the lane its ordinal and status. -/
theorem SpawnDue.gives (resp : BitVec 128) {s1 : State} {st : Nat}
    (hp : placeChild s w l (threadOf w l).next entry bad payload join none (e.clock + 2) = .ok (s1, st)) (hw : s1.waves = s.waves) :
    ∃ t, exec (.memoryAccessComplete u seq l resp) s = .next t ∧
      LaneGiven w u seq l d (64 * (threadOf w l).next + st) ((threadOf w l).next + 1) t ∧
      t.mem = s1.mem ∧ t.banks = s1.banks ∧ t.ctxs = s1.ctxs := by
  have hget : assocGet (bumpNext s1 u l).waves u = some (ordinalTaken l w) := modWave_get (ordinalTaken l) (by rw [hw]; exact h.wave)
  have hend := spawnEnd_gives (seq := seq) (d := d) (v := 64 * (threadOf w l).next + st) hget h.lt (threadOf_ordinalTaken l w) rfl
  have hrun := h.completes resp
  rw [if_neg (Nat.not_le.2 hn), hp] at hrun
  refine ⟨_, hrun, hend, ?_, ?_, ?_⟩ <;> (unfold spawnOutcome; dsimp only; rw [spawnEnd_eq]; rfl)

/-- A check that faults leaves the lane its ordinal. -/
theorem SpawnDue.faults (resp : BitVec 128) {f : Cause} {va : VA}
    (hp : placeChild s w l (threadOf w l).next entry bad payload join none (e.clock + 2) = .error (f, va))
    (hwalk : f = .physicalRange → walk s x va.toNat ≠ .outside) :
    Completes (.memoryAccessComplete u seq l resp) s (LaneFaults s w u seq l f va) := by
  have hrun := h.completes resp
  rw [if_neg (Nat.not_le.2 hn), hp] at hrun
  refine ⟨_, hrun, ?_⟩
  unfold spawnOutcome
  dsimp only
  rw [setLane_wave h.wave (walked_faulted h.ctx hwalk)]
  refine ⟨rfl, rfl, _, _, modWave_get _ h.wave, laneSet_entry h.found (by simp), assocGet_set_same _ _ _, rfl, rfl⟩

end

/-! Addresses of the entry and of the join word. -/

section
variable {s : State} {c : Context} {va : VA} {n : Nat} {k : Acc}

theorem farAddr_error {f : Cause} (h : xlate s c va.toNat k = .error f) : farAddr s c false va n k = .error f := by
  simp [farAddr, globalAddr, h]

theorem farAddr_nonCanonical : farAddr s c true va n k = .error .nonCanonical := by simp [farAddr, globalAddr]

variable {pa leaf : Nat} (h : xlate s c va.toNat k = .ok (pa, leaf))
include h

theorem farAddr_misaligned (ha : va.toNat % n ≠ 0) : farAddr s c false va n k = .error .misaligned := by
  simp [farAddr, globalAddr, h, ha]

theorem farAddr_far (ha : va.toNat % n = 0) (hp : paRegion pa = 2) (ho : portOf s pa = none) :
    farAddr s c false va n k = .error .remoteTimeout := by
  simp [farAddr, globalAddr, h, ha, hp, ho]

theorem farAddr_ok (ha : va.toNat % n = 0) (hp : paRegion pa = 2 → (portOf s pa).isSome = true) :
    farAddr s c false va n k = .ok (pa, leaf) := by
  have hneg : ¬(paRegion pa = 2 ∧ portOf s pa = none) := fun hc => by simpa [hc.2] using hp hc.1
  simp only [farAddr, globalAddr, h, ha, Bool.false_eq_true, if_false, ne_eq, not_true_eq_false, if_neg hneg]

end

/-- The granules that a descriptor `v` names, where the context can hold such a thread. -/
def grantedBy (c : Context) (v : Nat) : Option Nat :=
  if v / 256 ≠ 0 ∨ v % 256 = 0 ∨ 32 < v % 256 ∨ 16 * c.gplu < v % 256 ∨ c.spl = 0 then none else some (v % 256)

theorem readEntry_error {s : State} {c : Context} {entry : VA} {f : Cause} (h : farAddr s c false (entry - 8) 8 .read = .error f) :
    readEntry s c entry = .error (f, entry - 8) := by
  unfold readEntry
  rw [h]

theorem readEntry_ok {s : State} {c : Context} {entry : VA} {pa leaf : Nat}
    (h : farAddr s c false (entry - 8) 8 .read = .ok (pa, leaf)) :
    readEntry s c entry = .ok ((Loc.phys pa leaf).touched false s, grantedBy c (leNat (physGet s pa 8))) := by
  unfold readEntry
  rw [h]
  rfl

section
variable {s : State} {p : Nat} {c : Context} {bad : Bool} {va : VA}

theorem joinUp_error {f : Cause} (h : farAddr s c bad va 4 .write = .error f) : joinUp s p c (some (bad, va)) = .error (f, va) := by
  unfold joinUp
  dsimp only
  rw [h]

variable {pa leaf : Nat} (h : farAddr s c bad va 4 .write = .ok (pa, leaf))
include h

theorem joinUp_bad (hv : leNat (physGet s pa 4) / 2 ^ 24 % 128 ≠ 0) : joinUp s p c (some (bad, va)) = .ok (s, some 6) := by
  unfold joinUp
  dsimp only
  rw [h]
  dsimp only
  rw [if_pos (show bitsOf _ 30 24 ≠ 0 from hv)]

variable (hv : leNat (physGet s pa 4) / 2 ^ 24 % 128 = 0)
include hv

theorem joinUp_full (hn : leNat (physGet s pa 4) % 2 ^ 24 = 0xFFFFFF) : joinUp s p c (some (bad, va)) = .ok (s, some 5) := by
  unfold joinUp
  dsimp only
  rw [h]
  dsimp only
  rw [if_neg (show ¬bitsOf _ 30 24 ≠ 0 from fun hc => hc hv), if_pos hn]

theorem joinUp_counts (hn : leNat (physGet s pa 4) % 2 ^ 24 ≠ 0xFFFFFF) : joinUp s p c (some (bad, va)) =
    .ok ((Loc.phys pa leaf).touched true ((Loc.phys pa leaf).refresh p (wordPut s (.phys pa 0) (leNat (physGet s pa 4) + 1))), none) := by
  unfold joinUp
  dsimp only
  rw [h]
  dsimp only
  rw [if_neg (show ¬bitsOf _ 30 24 ≠ 0 from fun hc => hc hv), if_neg hn]

end

/-! Placement. -/

/-- The status of a thread placed (03 R66). -/
def placeStatus : Place → Nat
  | .bin _ => 0
  | .ring => 1

section
variable {s : State} {w : Wave} {l o : Nat} {entry : VA} {bad : Bool} {payload : List Word} {join : Option (Bool × VA)}
  {query : Option (Nat × Nat × Nat × Nat)} {clock : Nat} {x : Context} {bk : Bank} (hx : assocGet s.ctxs w.ctx = some x)
  (hb : assocGet s.banks (bankKey w) = some bk)
include hx hb

theorem placeChild_deep (hd : 7 ≤ (threadOf w l).depth) : placeChild s w l o entry bad payload join query clock = .ok (s, 3) := by
  simp [placeChild, hx, hb, hd]

variable (hd : (threadOf w l).depth < 7)
include hd

theorem placeChild_badEntry (he : bad = true ∨ entry.toNat % 8 ≠ 0) :
    placeChild s w l o entry bad payload join query clock = .ok (s, 4) := by
  simp [placeChild, hx, hb, Nat.not_le.2 hd, he]

variable (hbad : bad = false) (he : entry.toNat % 8 = 0)
include hbad he

theorem placeChild_entryFaults {v : Cause × VA} (hr : readEntry s x entry = .error v) :
    placeChild s w l o entry bad payload join query clock = .error v := by
  simp [placeChild, hx, hb, Nat.not_le.2 hd, hbad, he, hr]

theorem placeChild_refused {s1 : State} (hr : readEntry s x entry = .ok (s1, none)) :
    placeChild s w l o entry bad payload join query clock = .ok (s1, 4) := by
  simp [placeChild, hx, hb, Nat.not_le.2 hd, hbad, he, hr]

variable {s1 : State} {g : Nat} (hr : readEntry s x entry = .ok (s1, some g))
include hr

theorem placeChild_noPlace (hp : reservePlace bk x entry ((threadOf w l).depth + 1) = none) :
    placeChild s w l o entry bad payload join query clock = .ok (s1, 2) := by
  simp [placeChild, hx, hb, Nat.not_le.2 hd, hbad, he, hr, hp]

variable {pl : Place} (hp : reservePlace bk x entry ((threadOf w l).depth + 1) = some pl)
include hp

theorem placeChild_joinFaults {v : Cause × VA} (hj : joinUp s1 w.core x join = .error v) :
    placeChild s w l o entry bad payload join query clock = .error v := by
  simp [placeChild, hx, hb, Nat.not_le.2 hd, hbad, he, hr, hp, hj]

theorem placeChild_joinRefuses {s2 : State} {st : Nat} (hj : joinUp s1 w.core x join = .ok (s2, some st)) :
    placeChild s w l o entry bad payload join query clock = .ok (s2, st) := by
  simp [placeChild, hx, hb, Nat.not_le.2 hd, hbad, he, hr, hp, hj]

theorem placeChild_places {s2 : State} (hj : joinUp s1 w.core x join = .ok (s2, none)) :
    placeChild s w l o entry bad payload join query clock = .ok (commitChild s2 w.core w.ctx pl
      ⟨entry, g, w.grid, w.det, childThread (threadOf w l) o (join.map (·.2)) query, payload, clock⟩, placeStatus pl) := by
  cases pl <;> simp [placeChild, hx, hb, Nat.not_le.2 hd, hbad, he, hr, hp, hj, placeStatus]

end

/-! The place taken. -/

/-- A bin that takes a child is Ready at 64 threads, or with its timer at 0. -/
theorem binInsert_bin (cycle tmr : Nat) (b : Bank) (m : Nat) (t : Child) :
    ∃ v, assocGet (binInsert cycle tmr b m t).bins m = some v ∧
      v.threads = ((assocGet b.bins m).map (·.threads)).getD [] ++ [t] ∧ v.timer = ((assocGet b.bins m).map (·.timer)).getD tmr ∧
      (v.ready = true ↔ v.threads.length = 64 ∨ v.timer = 0) := by
  refine ⟨_, assocGet_set_same _ _ _, ?_, ?_, ?_⟩
  · cases assocGet b.bins m <;> rfl
  · cases assocGet b.bins m <;> rfl
  · simp

theorem binInsert_other (cycle tmr : Nat) (b : Bank) {m j : Nat} (t : Child) (h : j ≠ m) :
    assocGet (binInsert cycle tmr b m t).bins j = assocGet b.bins j := assocGet_set_other _ _ _ _ h

theorem commitChild_bin {s : State} {p x m : Nat} {c : Context} (t : Child) (hc : assocGet s.ctxs x = some c) :
    commitChild s p x (.bin m) t = modBank s (16 * p + x) fun b => binInsert s.cycle c.bintmr.toNat b m t := by
  unfold commitChild
  dsimp only
  rw [hc]

section
variable {s : State} {u seq l : Nat} {w : Wave} {e : Entry} {d : Nat} {entry : VA} {bad : Bool} {payload : List Word}
  {join : Option (Bool × VA)} {x : Context} {bk : Bank} (h : SpawnDue s u seq l w e d entry bad payload join x bk)
  (hn : (threadOf w l).next < 2 ^ 26)
include h hn

/-- A placement that refuses gives its status alone. -/
theorem SpawnDue.status (resp : BitVec 128) {s1 : State} {st : Nat}
    (hp : placeChild s w l (threadOf w l).next entry bad payload join none (e.clock + 2) = .ok (s1, st)) (hb : BytesOnly s s1) :
    Completes (.memoryAccessComplete u seq l resp) s
      (LaneGiven w u seq l d (64 * (threadOf w l).next + st) ((threadOf w l).next + 1)) := by
  obtain ⟨t, ht, hg, -⟩ := h.gives hn resp hp (by rw [hb])
  exact ⟨t, ht, hg⟩

variable (resp : BitVec 128) {s2 : State} (hs : BytesOnly s s2) {child : Child}
include hs

theorem SpawnDue.inBin {m : Nat} (hp : placeChild s w l (threadOf w l).next entry bad payload join none (e.clock + 2) =
      .ok (commitChild s2 w.core w.ctx (.bin m) child, 0)) : Completes (.memoryAccessComplete u seq l resp) s fun t =>
    LaneGiven w u seq l d (64 * (threadOf w l).next + 0) ((threadOf w l).next + 1) t ∧ t.mem = s2.mem ∧
    ∃ bk' v, assocGet t.banks (bankKey w) = some bk' ∧ assocGet bk'.bins m = some v ∧
      v.threads = ((assocGet bk.bins m).map (·.threads)).getD [] ++ [child] ∧
      v.timer = ((assocGet bk.bins m).map (·.timer)).getD x.bintmr.toNat ∧
      (v.ready = true ↔ v.threads.length = 64 ∨ v.timer = 0) ∧ ∀ j, j ≠ m → assocGet bk'.bins j = assocGet bk.bins j := by
  rw [commitChild_bin child (c := x) (by rw [hs]; exact h.ctx)] at hp
  obtain ⟨t, ht, hg, hmem, hbanks, -⟩ := h.gives hn resp hp (by rw [hs]; rfl)
  obtain ⟨v, hv, hthreads, htimer, hready⟩ := binInsert_bin s2.cycle x.bintmr.toNat bk m child
  refine ⟨t, ht, hg, hmem, _, v, ?_, hv, hthreads, htimer, hready, fun j hj => binInsert_other _ _ _ _ hj⟩
  rw [hbanks]
  exact modBank_get (fun b => binInsert s2.cycle x.bintmr.toNat b m child) (by rw [hs]; exact h.bank)

theorem SpawnDue.inSegment {s3 : State} {k : Nat} (hk : child.thread.depth = k)
    (hp : placeChild s w l (threadOf w l).next entry bad payload join none (e.clock + 2) =
      .ok (commitChild s2 w.core w.ctx .ring child, 1)) (hw : segWrite s2 w.core w.ctx k [child] = .ok s3) :
    Completes (.memoryAccessComplete u seq l resp) s fun t =>
      LaneGiven w u seq l d (64 * (threadOf w l).next + 1) ((threadOf w l).next + 1) t ∧ t.mem = s3.mem ∧
      ∃ bk', assocGet t.banks (bankKey w) = some bk' ∧ bk'.bins = bk.bins ∧ segOf bk' k = segOf bk k ++ [child] := by
  subst hk
  have hcommit : commitChild s2 w.core w.ctx .ring child = _ := segAppend_ok hw
  have hwork := segWrite_work hw
  rw [hcommit] at hp
  obtain ⟨t, ht, hg, hmem, hbanks, -⟩ := h.gives hn resp hp (by rw [modBank_waves, hwork.only, hs])
  refine ⟨t, ht, hg, hmem, segGrown s2.cycle child.thread.depth [child] bk, ?_, rfl, segOf_segGrown _ _ _ _⟩
  rw [hbanks]
  exact modBank_get _ (by rw [hwork.only, hs]; exact h.bank)

theorem SpawnDue.segmentFaults {k : Nat} (hk : child.thread.depth = k) {f : Cause}
    (hp : placeChild s w l (threadOf w l).next entry bad payload join none (e.clock + 2) =
      .ok (commitChild s2 w.core w.ctx .ring child, 1)) (hw : segWrite s2 w.core w.ctx k [child] = .error f) :
    Completes (.memoryAccessComplete u seq l resp) s fun t => ContextFaulted t w.ctx f := by
  subst hk
  have hcommit : commitChild s2 w.core w.ctx .ring child = _ := segAppend_error hw
  obtain ⟨hwaves, c, hc, hf⟩ := contextFault_faults (s := s2) (x := w.ctx) f (by rw [hs]; simp [h.ctx])
  rw [hcommit] at hp
  obtain ⟨t, ht, -, -, -, hctxs⟩ := h.gives hn resp hp (by rw [hwaves, hs])
  exact ⟨t, ht, c, by rw [hctxs]; exact hc, hf⟩

/-- The place taken, whichever it is. -/
theorem SpawnDue.placed {pl : Place} {k : Nat} (hk : child.thread.depth = k)
    (hp : placeChild s w l (threadOf w l).next entry bad payload join none (e.clock + 2) =
      .ok (commitChild s2 w.core w.ctx pl child, placeStatus pl)) :
    (∀ m, pl = .bin m → Completes (.memoryAccessComplete u seq l resp) s fun t =>
      LaneGiven w u seq l d (64 * (threadOf w l).next + 0) ((threadOf w l).next + 1) t ∧ t.mem = s2.mem ∧
      ∃ bk' v, assocGet t.banks (bankKey w) = some bk' ∧ assocGet bk'.bins m = some v ∧
        v.threads = ((assocGet bk.bins m).map (·.threads)).getD [] ++ [child] ∧
        v.timer = ((assocGet bk.bins m).map (·.timer)).getD x.bintmr.toNat ∧
        (v.ready = true ↔ v.threads.length = 64 ∨ v.timer = 0) ∧ ∀ j, j ≠ m → assocGet bk'.bins j = assocGet bk.bins j) ∧
    (∀ s3, pl = .ring → segWrite s2 w.core w.ctx k [child] = .ok s3 → Completes (.memoryAccessComplete u seq l resp) s fun t =>
      LaneGiven w u seq l d (64 * (threadOf w l).next + 1) ((threadOf w l).next + 1) t ∧ t.mem = s3.mem ∧
      ∃ bk', assocGet t.banks (bankKey w) = some bk' ∧ bk'.bins = bk.bins ∧ segOf bk' k = segOf bk k ++ [child]) ∧
    ∀ f, pl = .ring → segWrite s2 w.core w.ctx k [child] = .error f →
      Completes (.memoryAccessComplete u seq l resp) s fun t => ContextFaulted t w.ctx f := by
  refine ⟨fun m hm => ?_, fun s3 hm hw => ?_, fun f hm hw => ?_⟩ <;> rw [hm] at hp
  · exact h.inBin hn resp hs hp
  · exact h.inSegment hn resp hs hk hp hw
  · exact h.segmentFaults hn resp hs hk hp hw

end

theorem toNat_sub_eight {a : VA} (h : a.toNat % 8 = 0) : (a - 8).toNat % 8 = 0 := by
  rw [BitVec.toNat_sub]
  have : (8 : VA).toNat = 8 := rfl
  rw [this]
  omega

/-- Settles O43: `SpawnDue` collects what lets the lane go; each check of the placement has its lemma, and the place is taken in a
bin (`inBin`) or in a segment (`inSegment`). -/
theorem spawnPlacesAThread : Obligations.SpawnPlacesAThread := by
  intro s u seq l resp w e g pm hh n d a b c entry bad payload join ad x bk hw he hl hi hx hb hl64 hans hbefore hfirst hturn hstuck
  have due : SpawnDue s u seq l w e d.toNat entry bad payload join x bk :=
    ⟨hw, he, ⟨ad, hl⟩, ⟨g, pm, hh, n, d, a, b, c, hi, rfl⟩, hx, hb, hl64, hans, hbefore _ (.inl rfl), hbefore _ (.inr rfl), hfirst,
      hturn, hstuck⟩
  refine ⟨fun hn => due.exhausted resp hn, fun hn => ⟨fun hd => ?_, fun hd hbad => ?_, fun hd hbad he8 => ⟨fun f hf hwalk => ?_,
    fun pa leaf hxl => ⟨fun h2 hp => ?_, fun hport => ?granted⟩⟩⟩⟩
  · exact due.status hn resp (placeChild_deep hx hb hd) rfl
  · exact due.status hn resp (placeChild_badEntry hx hb hd hbad) rfl
  · exact due.faults hn resp (placeChild_entryFaults hx hb hd hbad he8 (readEntry_error (farAddr_error hf))) fun _ => hwalk
  · exact due.faults hn resp (placeChild_entryFaults hx hb hd hbad he8 (readEntry_error (farAddr_far hxl (toNat_sub_eight he8) h2 hp)))
      (by simp)
  case granted =>
    have hread := readEntry_ok (farAddr_ok hxl (toNat_sub_eight he8) hport)
    have hs1 := touched_bytes (.phys pa leaf) false s
    have hportOf := portOf_touched (.phys pa leaf) false s
    dsimp only
    generalize (Loc.phys pa leaf).touched false s = s1 at hread hs1 hportOf ⊢
    generalize leNat (physGet s pa 8) = v at hread ⊢
    refine ⟨fun href => ?_, fun hnref hres => ?_, fun p hnref hres => ?_⟩
    · rw [grantedBy, if_pos href] at hread
      exact due.status hn resp (placeChild_refused hx hb hd hbad he8 hread) hs1
    all_goals rw [grantedBy, if_neg hnref] at hread
    · exact due.status hn resp (placeChild_noPlace hx hb hd hbad he8 hread hres) hs1
    · have placed := fun s2 (hs2 : BytesOnly s s2) (hj : joinUp s1 w.core x join = .ok (s2, none)) =>
        due.placed hn resp hs2 rfl (placeChild_places (payload := payload) (o := (threadOf w l).next) (query := none)
          (clock := e.clock + 2) hx hb hd hbad he8 hread hres hj)
      have faults := fun f va (hj : joinUp s1 w.core x join = .error (f, va)) =>
        due.faults hn resp (placeChild_joinFaults hx hb hd hbad he8 hread hres hj)
      have refuses := fun st (hj : joinUp s1 w.core x join = .ok (s1, some st)) =>
        due.status hn resp (placeChild_joinRefuses hx hb hd hbad he8 hread hres hj) hs1
      refine ⟨fun hj => placed s1 hs1 (by rw [hj]; rfl), fun jva hj => ?_, fun jva hj => ⟨fun f hf hwalk => ?_, fun jpa jleaf hjx =>
        ⟨fun ha => ?_, fun ha h2 ho => ?_, fun ha hfar => ?counted⟩⟩⟩ <;> rw [hj] at faults refuses
      · exact faults _ _ (joinUp_error farAddr_nonCanonical) (by simp)
      · exact faults _ _ (joinUp_error (farAddr_error hf)) fun _ => hwalk
      · exact faults _ _ (joinUp_error (farAddr_misaligned hjx ha)) (by simp)
      · exact faults _ _ (joinUp_error (farAddr_far hjx ha h2 (by rw [hportOf]; exact ho))) (by simp)
      case counted =>
        have hok := farAddr_ok hjx ha (by rw [hportOf]; exact hfar)
        refine ⟨fun hv => refuses 6 (joinUp_bad hok hv), fun hv hm => refuses 5 (joinUp_full hok hv hm), fun hv hm =>
          placed _ (((hs1.trans (wordPut_bytes _ _ _ _)).trans (refresh_bytes _ _ _)).trans (touched_bytes _ _ _))
            (by rw [hj]; exact joinUp_counts hok hv hm)⟩

end Sys2Proof.Machine
end

section
/-!
SUPPORT. Batched issue (06 R149, R154): what a lane comes to rests on nothing that issue changes, so an instruction's lanes may be
taken at once; and what the new entry and the undefined destination are (04 R94).
-/

namespace Sys2Proof.Machine

/-! What a lane's resolution rests on. -/

/-- The state with other waves and another count of missed hints. -/
def withHints (s : State) (ws : List (Nat × Wave)) (hs : List (Nat × Nat)) : State :=
  { s with waves := ws, hub := { s.hub with hints := hs } }

/-- A lane's resolution counts a missed hint at most, rests on neither waves nor hints, leaves the lane not done, and of the entry
takes its number and the ordinals it kept. -/
structure Resolves (f : LaneIssue) : Prop where
  hints : ∀ e k l s, ∃ hs, (f e k l s).1 = withHints s s.waves hs
  congr : ∀ e k l s ws hs, (f e k l (withHints s ws hs)).2 = (f e k l s).2
  pending : ∀ e k l s, (f e k l s).2 ≠ .done
  entry : ∀ e e' k l s, e'.seq = e.seq → e'.rest = e.rest → (f e' k l s).2 = (f e k l s).2

/-- What an access comes to in its lane. -/
def accessSt (r : Except AccErr Loc) (op : Loc → Op) (addr : VA) : LaneSt :=
  match r with
  | .error (c, t, p) => .faulted c t p
  | .ok l => .inflight (op l) addr

theorem laneAccess_snd (k : Issue) (home : Nat) (r : Except AccErr Loc) (op : Loc → Op) (addr : VA) (s : State) :
    (laneAccess k home r op addr s).2 = accessSt r op addr := by
  unfold laneAccess accessSt
  split <;> rfl

theorem countHint_hints (k : Issue) (home : Nat) (l : Loc) (s : State) : ∃ hs, countHint k home l s = withHints s s.waves hs := by
  unfold countHint
  split
  · split
    · exact ⟨_, rfl⟩
    · exact ⟨s.hub.hints, rfl⟩
  · exact ⟨s.hub.hints, rfl⟩

/-- An access whose resolution rests on neither waves nor hints. -/
theorem laneAccess_resolves (home : Nat) (r : Issue → Nat → State → Except AccErr Loc) (op : Issue → Nat → State → Loc → Op)
    (addr : Issue → Nat → State → VA)
    (h : ∀ k l s ws hs, r k l (withHints s ws hs) = r k l s ∧ op k l (withHints s ws hs) = op k l s ∧
      addr k l (withHints s ws hs) = addr k l s) :
    Resolves fun _ k l s => laneAccess k home (r k l s) (op k l s) (addr k l s) s := by
  refine ⟨fun e k l s => ?_, fun e k l s ws hs => ?_, fun e k l s => ?_, fun _ _ _ _ _ _ _ => rfl⟩
  · unfold laneAccess
    split
    · exact ⟨s.hub.hints, rfl⟩
    · exact countHint_hints _ _ _ _
  · obtain ⟨hr, hop, had⟩ := h k l s ws hs
    simp only [laneAccess_snd, hr, hop, had]
  · simp only [laneAccess_snd]
    unfold accessSt
    split <;> simp

theorem ldLane_resolves (spc : Spc) (home n a : Nat) (p : Option Perms) : Resolves (ldLane spc home n a p) :=
  laneAccess_resolves home _ _ _ fun _ _ _ _ _ => ⟨rfl, rfl, rfl⟩

theorem stLane_resolves (spc : Spc) (home n d a : Nat) (p : Option Perms) : Resolves (stLane spc home n d a p) :=
  laneAccess_resolves home _ _ _ fun _ _ _ _ _ => ⟨rfl, rfl, rfl⟩

theorem rstLane_resolves (n : Nat) (x : LongM) : Resolves (rstLane n x) :=
  laneAccess_resolves 31 _ _ _ fun _ _ _ _ _ => ⟨rfl, rfl, rfl⟩

theorem atomLane_resolves (t : WTy) (x : LongM) : Resolves (atomLane t x) :=
  laneAccess_resolves x.m.home.toNat _ _ _ fun _ _ _ _ _ => ⟨rfl, rfl, rfl⟩

/-- A lane always in flight with an operation that rests on neither waves nor hints. -/
theorem inflight_resolves (op : Entry → Issue → Nat → State → Op) (addr : Issue → Nat → State → VA)
    (h : ∀ e k l s ws hs, op e k l (withHints s ws hs) = op e k l s ∧ addr k l (withHints s ws hs) = addr k l s)
    (he : ∀ e e' k l s, e'.seq = e.seq → e'.rest = e.rest → op e' k l s = op e k l s) :
    Resolves fun e k l s => (s, .inflight (op e k l s) (addr k l s)) := by
  refine ⟨fun e k l s => ⟨s.hub.hints, rfl⟩, fun e k l s ws hs => ?_, fun e k l s => by simp, fun e e' k l s h1 h2 => ?_⟩
  · obtain ⟨hop, had⟩ := h e k l s ws hs
    simp only [hop, had]
  · simp only [he e e' k l s h1 h2]

theorem rayLane_resolves (p : Prec) (replay : Bool) (a : Nat) (log : Option Nat) : Resolves (rayLane p replay a log) :=
  inflight_resolves _ _ (fun _ _ _ _ _ _ => ⟨rfl, rfl⟩) fun e e' k l s h1 h2 => by rw [h1, h2]

theorem rayALane_resolves (a : Nat) : Resolves (rayALane a) :=
  inflight_resolves _ _ (fun _ _ _ _ _ _ => ⟨rfl, rfl⟩) fun _ _ _ _ _ _ _ => rfl

theorem rayHLane_resolves (p : Prec) (a t x : Nat) : Resolves (rayHLane p a t x) :=
  inflight_resolves _ _ (fun _ _ _ _ _ _ => ⟨rfl, rfl⟩) fun _ _ _ _ _ _ _ => rfl

theorem spawnLane_resolves (perm : Option Perms) (h : Bool) (n : Nat) (a b c : Reg) : Resolves (spawnLane perm h n a b c) :=
  inflight_resolves _ _ (fun _ _ _ _ _ _ => ⟨rfl, rfl⟩) fun _ _ _ _ _ _ _ => rfl

/-! The lanes of an entry. -/

/-- The lanes `ls` of every entry numbered `seq` as `st` says. -/
def lanesIssued (seq : Nat) (st : Nat → LaneSt) (ls : List Nat) (w : Wave) : Wave :=
  { w with entries := w.entries.map fun x =>
      if x.seq = seq then { x with lanes := ls.foldl (fun m l => assocSet m l (st l)) x.lanes } else x }

theorem lanesIssued_nil (seq : Nat) (st : Nat → LaneSt) (w : Wave) : lanesIssued seq st [] w = w := by
  unfold lanesIssued
  simp

theorem lanesIssued_cons (seq : Nat) (st : Nat → LaneSt) (l : Nat) (r : List Nat) (w : Wave) :
    lanesIssued seq st r (lanesIssued seq st [l] w) = lanesIssued seq st (l :: r) w := by
  unfold lanesIssued
  rw [List.map_map]
  refine congrArg (fun es => { w with entries := es }) (List.map_congr_left fun x _ => ?_)
  dsimp only [Function.comp]
  split <;> simp_all

theorem assocGet_foldl_set {α : Type} (st : Nat → α) (ls : List Nat) (m : List (Nat × α)) (l : Nat) :
    assocGet (ls.foldl (fun m l => assocSet m l (st l)) m) l = if l ∈ ls then some (st l) else assocGet m l := by
  induction ls generalizing m with
  | nil => simp
  | cons j r ih =>
    rw [List.foldl_cons, ih]
    by_cases hj : l = j
    · subst hj
      simp
    · simp [hj]

/-- What lane `l` of an entry comes to. -/
def laneState (f : LaneIssue) (e : Entry) (k : Issue) (s : State) (l : Nat) : LaneSt :=
  if laneStuck k.w e.seq l then .held else (f e k l s).2

/-- While the context's tables stand, a lane's fault reports nothing else (06 R158). -/
theorem walked_stands {s : State} {y : Nat} {c : Context} (hc : assocGet s.ctxs y = some c) (h : ∀ va, walk s c va ≠ .outside)
    (st : LaneSt) : st.walked s y = s := by
  unfold LaneSt.walked
  split
  · unfold walkFault
    rw [hc]
    exact if_neg fun hc => h _ hc.2.1
  · rfl

section
variable {f : LaneIssue} (hf : Resolves f) {s : State} {k : Issue} (hc : assocGet s.ctxs k.w.ctx = some k.c)
  (hwalk : ∀ va, walk s k.c va ≠ .outside)
include hf hc hwalk

theorem issueLane_eq (e : Entry) (ws : List (Nat × Wave)) (hs : List (Nat × Nat)) (l : Nat) :
    ∃ hs', issueLane f e k (withHints s ws hs) l =
      modWave (withHints s ws hs') k.uid (lanesIssued e.seq (laneState f e k s) [l]) := by
  unfold issueLane
  dsimp only
  by_cases hl : laneStuck k.w e.seq l = true
  · have hst : laneState f e k s l = .held := if_pos hl
    rw [if_pos hl]
    refine ⟨hs, congrArg (modWave _ _) (funext fun w => ?_)⟩
    unfold lanesIssued
    simp only [List.foldl_cons, List.foldl_nil, hst]
  · have hst : laneState f e k s l = (f e k l s).2 := if_neg hl
    rw [if_neg hl]
    obtain ⟨hs', e1⟩ := hf.hints e k l (withHints s ws hs)
    have hstand : (f e k l s).2.walked (withHints s ws hs') k.w.ctx = withHints s ws hs' :=
      walked_stands (s := withHints s ws hs') (c := k.c) hc hwalk _
    rw [e1, hf.congr]
    refine ⟨hs', (congrArg (modWave · k.uid _) hstand).trans (congrArg (modWave _ _) (funext fun w => ?_))⟩
    unfold lanesIssued
    simp only [List.foldl_cons, List.foldl_nil, hst]

theorem issueLanes_eq (e : Entry) (ls : List Nat) : ∀ (ws : List (Nat × Wave)) (hs : List (Nat × Nat)),
    ∃ hs', ls.foldl (issueLane f e k) (withHints s ws hs) =
      modWave (withHints s ws hs') k.uid (lanesIssued e.seq (laneState f e k s) ls) := by
  induction ls with
  | nil => exact fun ws hs => ⟨hs, (modWave_same _ _ _ (lanesIssued_nil _ _)).symm⟩
  | cons l r ih =>
    intro ws hs
    obtain ⟨h1, e1⟩ := issueLane_eq hf hc hwalk e ws hs l
    obtain ⟨h2, e2⟩ := ih (assocMod ws k.uid (lanesIssued e.seq (laneState f e k s) [l])) h1
    refine ⟨h2, ?_⟩
    rw [List.foldl_cons, e1]
    refine e2.trans ?_
    show modWave (modWave (withHints s ws h2) k.uid (lanesIssued e.seq (laneState f e k s) [l])) k.uid _ = _
    rw [modWave_modWave]
    exact congrArg (modWave _ _) (funext fun w => lanesIssued_cons _ _ _ _ _)

end

/-! The batch joined. -/

/-- The destination of a batched instruction named in the wave. -/
def destMarked (s : State) (k : Issue) (d n : Nat) (w : Wave) : Wave :=
  if n = 0 then w else markBatch s w d n (k.act s) w.open_

theorem destMarked_only (s : State) (k : Issue) (d n : Nat) (w : Wave) :
    destMarked s k d n w = { w with undef := (destMarked s k d n w).undef } := by
  unfold destMarked
  split <;> rfl

/-- The wave with an entry more. -/
def entryAdded (e : Entry) (w : Wave) : Wave := { w with entries := w.entries ++ [e], nextSeq := w.nextSeq + 1 }

/-- The wave that has joined the open batch. -/
def batchJoined (i : Instr) (f : LaneIssue) (s : State) (k : Issue) (d n : Nat) (e0 : Entry) (w : Wave) : Wave :=
  openEntries (lanesIssued k.w.nextSeq (laneState f e0 k s) (k.actList s) (entryAdded (k.entry s i) (destMarked s k d n w)))

/-- Of the wave, entries, their numbering and undefined registers differ. -/
theorem batchJoined_only (i : Instr) (f : LaneIssue) (s : State) (k : Issue) (d n : Nat) (e0 : Entry) (w : Wave) :
    let w' := batchJoined i f s k d n e0 w
    w' = { w with entries := w'.entries, nextSeq := w.nextSeq + 1, undef := (destMarked s k d n w).undef } := by
  unfold batchJoined openEntries lanesIssued entryAdded
  dsimp only
  rw [destMarked_only]

/-- The entry found under the number of a new one: an earlier one of that number, or itself. -/
def entryFound (i : Instr) (s : State) (k : Issue) : Entry :=
  ((k.w.entries ++ [k.entry s i]).find? (·.seq == k.w.nextSeq)).getD (k.entry s i)

theorem entryFound_seq (i : Instr) (s : State) (k : Issue) : (entryFound i s k).seq = k.w.nextSeq := by
  unfold entryFound
  cases h : (k.w.entries ++ [k.entry s i]).find? (·.seq == k.w.nextSeq) with
  | none => rfl
  | some e => simpa using List.find?_some h

theorem entryFound_new (i : Instr) (s : State) (k : Issue) (h : ∀ e ∈ k.w.entries, e.seq < k.w.nextSeq) :
    entryFound i s k = k.entry s i := by
  have hnone : k.w.entries.find? (·.seq == k.w.nextSeq) = none :=
    List.find?_eq_none.2 fun e he => by simpa using Nat.ne_of_lt (h e he)
  have hself : (k.entry s i).seq = k.w.nextSeq := rfl
  unfold entryFound
  rw [List.find?_append, hnone]
  simp [hself]

section
variable {i : Instr} {d n : Nat} {f : LaneIssue} {s : State} {k : Issue} (hk : getIssue s = some k)
include hk

theorem batchOp_joins (hf : Resolves f) (hlen : k.w.entries.length < 64) (hwalk : ∀ va, walk s k.c va ≠ .outside) :
    ∃ hs, batchOp i d n f k s =
      .done (modWave (withHints s s.waves hs) k.uid (batchJoined i f s k d n (entryFound i s k))) := by
  obtain ⟨-, hw, -, hc⟩ := getIssue_spec hk
  have hmark : (if n = 0 then s else modWave s k.uid fun w => markBatch s w d n (k.act s) w.open_) =
      modWave s k.uid (destMarked s k d n) := by
    unfold destMarked
    split
    · exact (modWave_same _ _ _ fun _ => rfl).symm
    · rfl
  have hget : assocGet (modWave (modWave s k.uid (destMarked s k d n)) k.uid (entryAdded (k.entry s i))).waves k.uid =
      some (entryAdded (k.entry s i) (destMarked s k d n k.w)) := modWave_get _ (modWave_get _ hw)
  have hfound : (entryOf (modWave (modWave s k.uid (destMarked s k d n)) k.uid (entryAdded (k.entry s i))) k.uid
      (k.entry s i).seq).getD (k.entry s i) = entryFound i s k := by
    unfold entryOf
    rw [hget]
    unfold entryAdded entryFound
    rw [destMarked_only]
    rfl
  obtain ⟨hs, e⟩ := issueLanes_eq hf hc hwalk (entryFound i s k) (k.actList s)
    (modWave (modWave s k.uid (destMarked s k d n)) k.uid (entryAdded (k.entry s i))).waves s.hub.hints
  refine ⟨hs, ?_⟩
  unfold batchOp batchOver batchClaim
  dsimp only
  rw [if_neg (Nat.not_le.2 hlen), hmark]
  dsimp only
  refine congrArg Eff.done ?_
  show modWave (List.foldl (issueLane f ((entryOf (modWave (modWave s k.uid (destMarked s k d n)) k.uid (entryAdded (k.entry s i)))
    k.uid (k.entry s i).seq).getD (k.entry s i)) k) (modWave (modWave s k.uid (destMarked s k d n)) k.uid (entryAdded (k.entry s i)))
    (k.actList s)) k.uid openEntries = _
  rw [hfound]
  refine (congrArg (modWave · k.uid openEntries) e).trans ?_
  rw [entryFound_seq]
  show modWave (modWave (modWave (modWave (withHints s s.waves hs) k.uid (destMarked s k d n)) k.uid
    (entryAdded (k.entry s i))) k.uid _) k.uid _ = _
  simp only [modWave_modWave]
  rfl

omit hk in
theorem batchOp_waits (hlen : 64 ≤ k.w.entries.length) (h : ∃ e ∈ k.w.entries, e.stuck = false) :
    batchOp i d n f k s = .park .wait s := by
  have hall : k.w.entries.all Entry.stuck = false := List.all_eq_false.2 (by simpa using h)
  unfold batchOp batchOver batchClaim
  dsimp only
  rw [if_pos hlen, hall]
  rfl

omit hk in
theorem batchOp_reports (hlen : 64 ≤ k.w.entries.length) (h : ∀ e ∈ k.w.entries, e.stuck = true) :
    batchOp i d n f k s = .report s := by
  have hall : k.w.entries.all Entry.stuck = true := List.all_eq_true.2 h
  unfold batchOp batchOver batchClaim
  dsimp only
  rw [if_pos hlen, hall]
  rfl

end

/-! The entry and the destination. -/

section
variable {i : Instr} {f : LaneIssue} {s : State} {k : Issue} {d n : Nat} {e0 : Entry}

/-- An entry of the joined wave is an earlier one, or has the new number and the lanes as they issue. -/
theorem mem_batchJoined {e : Entry} (he : e ∈ (batchJoined i f s k d n e0 k.w).entries) : ∃ x ∈ k.w.entries ++ [k.entry s i],
    e = if x.seq = k.w.nextSeq then
      { x with lanes := (k.actList s).foldl (fun m l => assocSet m l (laneState f e0 k s l)) x.lanes } else x := by
  unfold batchJoined openEntries lanesIssued entryAdded at he
  rw [destMarked_only] at he
  obtain ⟨x, hx, rfl⟩ := List.mem_map.1 (List.mem_of_mem_filter he)
  exact ⟨x, hx, rfl⟩

theorem batchJoined_earlier {e : Entry} (he : e ∈ (batchJoined i f s k d n e0 k.w).entries) (hs : e.seq ≠ k.w.nextSeq) :
    e ∈ k.w.entries := by
  obtain ⟨x, hx, rfl⟩ := mem_batchJoined he
  by_cases hxs : x.seq = k.w.nextSeq
  · rw [if_pos hxs] at hs; exact absurd hxs hs
  · rw [if_neg hxs]
    rcases List.mem_append.1 hx with hx | hx
    · exact hx
    · obtain rfl : x = k.entry s i := List.mem_singleton.1 hx
      exact absurd rfl hxs

theorem laneState_pending (hf : Resolves f) (l : Nat) : laneState f e0 k s l ≠ .done := by
  unfold laneState
  split
  · simp
  · exact hf.pending _ _ _ _

/-- The new entry with its lanes. -/
def issuedEntry (i : Instr) (f : LaneIssue) (s : State) (k : Issue) (e0 : Entry) : Entry :=
  { k.entry s i with lanes := (k.actList s).foldl (fun m l => assocSet m l (laneState f e0 k s l)) [] }

theorem issuedEntry_lane (l : Nat) : assocGet (issuedEntry i f s k e0).lanes l =
    if l ∈ k.actList s then some (laneState f e0 k s l) else none :=
  assocGet_foldl_set (laneState f e0 k s) (k.actList s) [] l

theorem issuedEntry_mem (hf : Resolves f) (h : k.act s ≠ 0) : issuedEntry i f s k e0 ∈ (batchJoined i f s k d n e0 k.w).entries := by
  obtain ⟨l, hl⟩ : ∃ l, l ∈ k.actList s := by
    by_contra hno
    exact h (BitVec.eq_of_getLsbD_eq fun l hl =>
      (Bool.eq_false_iff.2 fun hb => hno ⟨l, mem_laneList.2 ⟨hl, hb⟩⟩).trans BitVec.getLsbD_zero.symm)
  unfold batchJoined openEntries lanesIssued entryAdded
  rw [destMarked_only]
  refine List.mem_filter.2 ⟨List.mem_map.2 ⟨k.entry s i, List.mem_append_right _ (List.mem_singleton.2 rfl), if_pos rfl⟩, ?_⟩
  refine List.any_eq_true.2 ⟨(l, laneState f e0 k s l), mem_of_assocGet ?_, by simpa using laneState_pending hf l⟩
  rw [issuedEntry_lane, if_pos hl]

/-- The destination is undefined from the issue on (04 R94). -/
theorem batchJoined_undef (t : State) {w' : Wave} (hu : w'.undef = (destMarked s k d n k.w).undef) (ho : w'.open_ = k.w.open_) {r l : Nat}
    (h1 : d ≤ r) (h2 : r < d + n) (hl : l < 64) (ha : (k.act s).getLsbD l = true) : undefAt t w' r l = true := by
  have hholds : ∀ y, y = UndefWhy.batch k.w.open_ ∨ y = UndefWhy.poison k.w.open_ → y.holds t w' = true := by
    rintro y (rfl | rfl)
    · simp [UndefWhy.holds, batchDone, ho]
    · rfl
  have hmem : ∃ u ∈ (destMarked s k d n k.w).undef, u.reg = r ∧ u.lanes.getLsbD l = true ∧
      (u.why = .batch k.w.open_ ∨ u.why = .poison k.w.open_) := by
    unfold destMarked markBatch
    rw [if_neg (by omega)]
    dsimp only
    generalize hlive : undefLive s k.w k.w.undef = live
    have hne : ∀ m : LaneMask, m.getLsbD l = true → (m != 0) = true := fun m hm => by
      refine bne_iff_ne.2 fun hz => ?_
      rw [hz] at hm
      simp at hm
    have hr : d + (r - d) = r := by omega
    by_cases htwo : (batchLanes live r).getLsbD l = true
    · have hbit : (k.act s &&& batchLanes live r).getLsbD l = true := by rw [BitVec.getLsbD_and, ha, htwo]; rfl
      refine ⟨⟨r, k.act s &&& batchLanes live r, .poison k.w.open_⟩, List.mem_append_right _ (List.mem_flatMap.2
        ⟨r - d, List.mem_range.2 (by omega), ?_⟩), rfl, hbit, .inr rfl⟩
      rw [hr]
      exact List.mem_filter.2 ⟨by simp, hne _ hbit⟩
    · have hbit : (k.act s &&& ~~~(k.act s &&& batchLanes live r)).getLsbD l = true := by
        rw [BitVec.getLsbD_and, BitVec.getLsbD_not, BitVec.getLsbD_and, ha, Bool.eq_false_iff.2 htwo]
        simpa using hl
      refine ⟨⟨r, k.act s &&& ~~~(k.act s &&& batchLanes live r), .batch k.w.open_⟩, List.mem_append_right _ (List.mem_flatMap.2
        ⟨r - d, List.mem_range.2 (by omega), ?_⟩), rfl, hbit, .inl rfl⟩
      rw [hr]
      exact List.mem_filter.2 ⟨by simp, hne _ hbit⟩
  obtain ⟨u, hmem, hreg, hlane, hwhy⟩ := hmem
  unfold undefAt
  rw [hu]
  exact List.any_eq_true.2 ⟨u, hmem, by simp [hreg, hlane, hholds _ hwhy]⟩

end

/-- A wave that has joined the batch with an entry more, and retires. -/
theorem joinsBatch_of {i : Instr} {s t : State} {k : Issue} {B : Wave} (hk : getIssue s = some k)
    (ht : SameBytes s t ∧ t.ctxs = s.ctxs ∧ t.grids = s.grids ∧ t.cycle = s.cycle)
    (hother : ∀ v, v ≠ k.uid → assocGet t.waves v = assocGet s.waves v)
    (hget : assocGet t.waves k.uid = some (retiredWave i s.cycle k B))
    (hB : B = { k.w with entries := B.entries, nextSeq := k.w.nextSeq + 1, undef := B.undef })
    (hold : ∀ e ∈ B.entries, e.seq ≠ k.w.nextSeq → e ∈ k.w.entries)
    (hnew : k.act s ≠ 0 → ∃ e ∈ B.entries, e.seq = k.w.nextSeq ∧ e.batch = k.w.open_ ∧ e.instr = i ∧ e.pc = k.f.pc ∧
      e.quads = k.f.quads ∧ ∀ l, l < 64 → ((∃ st, assocGet e.lanes l = some st ∧ st ≠ .done) ↔ (k.act s).getLsbD l = true)) :
    JoinsBatch i s t k (k.act s) := by
  have hfrags : B.frags = k.w.frags := by rw [hB]
  obtain ⟨hb, hc, hg, hcy⟩ := ht
  refine ⟨hb, hc, hg, hcy, hother, _, hget, advanced_retiredWave _ hk hfrags (by rw [hB]), gapHolds_retiredWave hk hfrags, ?_,
    hold, hnew⟩
  rw [retiredWave_only, hB]

theorem issuedEntry_pending {i : Instr} {f : LaneIssue} {s : State} {k : Issue} {e0 : Entry} (hf : Resolves f) {l : Nat} (hl : l < 64) :
    (∃ st, assocGet (issuedEntry i f s k e0).lanes l = some st ∧ st ≠ .done) ↔ (k.act s).getLsbD l = true := by
  have hmem : l ∈ k.actList s ↔ (k.act s).getLsbD l = true := mem_laneList.trans (and_iff_right hl)
  rw [issuedEntry_lane]
  by_cases ha : l ∈ k.actList s
  · rw [if_pos ha]
    exact iff_of_true ⟨_, rfl, laneState_pending hf l⟩ (hmem.1 ha)
  · rw [if_neg ha]
    exact iff_of_false (fun h => by simp at h) fun hb => ha (hmem.2 hb)

/-- The state once the instruction has joined the batch. -/
def joinedState (i : Instr) (f : LaneIssue) (s : State) (k : Issue) (d n : Nat) (hs : List (Nat × Nat)) : State :=
  (Eff.done (modWave (withHints s s.waves hs) k.uid (batchJoined i f s k d n (entryFound i s k)))).finish i k

/-- Its wave then. -/
def joinedWave (i : Instr) (f : LaneIssue) (s : State) (k : Issue) (d n : Nat) : Wave :=
  retiredWave i s.cycle k (batchJoined i f s k d n (entryFound i s k) k.w)

theorem joinedWave_entries (i : Instr) (f : LaneIssue) (s : State) (k : Issue) (d n : Nat) :
    (joinedWave i f s k d n).entries = (batchJoined i f s k d n (entryFound i s k) k.w).entries := by
  rw [joinedWave, retiredWave_only]

section
variable {i : Instr} {f : LaneIssue} {s : State} {k : Issue} {d n : Nat} (hk : getIssue s = some k) (hs : List (Nat × Nat))
include hk

theorem joinedState_waves : assocGet (joinedState i f s k d n hs).waves k.uid = some (joinedWave i f s k d n) ∧
    ∀ v, v ≠ k.uid → assocGet (joinedState i f s k d n hs).waves v = assocGet s.waves v := by
  have honly := batchJoined_only i f s k d n (entryFound i s k) k.w
  refine done_waves (i := i) (t := withHints s s.waves hs) hk rfl ?_
  have hfrags : (batchJoined i f s k d n (entryFound i s k) k.w).frags = k.w.frags := by rw [honly]
  unfold Wave.frag?
  rw [hfrags]
  exact (getIssue_spec hk).2.2.1

omit hk in
theorem joinedState_only : SameBytes s (joinedState i f s k d n hs) ∧ (joinedState i f s k d n hs).ctxs = s.ctxs ∧
    (joinedState i f s k d n hs).grids = s.grids ∧ (joinedState i f s k d n hs).cycle = s.cycle := by
  obtain ⟨⟨honly, -⟩, hbytes⟩ := done_onlyWave i (withHints s s.waves hs) k (batchJoined i f s k d n (entryFound i s k))
  unfold joinedState
  refine ⟨hbytes, ?_, ?_, ?_⟩ <;> rw [honly] <;> rfl

theorem joinedState_joins (hf : Resolves f) : JoinsBatch i s (joinedState i f s k d n hs) k (k.act s) := by
  have honly := batchJoined_only i f s k d n (entryFound i s k) k.w
  obtain ⟨hget, hother⟩ := joinedState_waves (i := i) (f := f) (d := d) (n := n) hk hs
  refine joinsBatch_of hk (joinedState_only hs) hother hget ?_ (fun e he => batchJoined_earlier he)
    fun hne => ⟨_, issuedEntry_mem hf hne, rfl, rfl, rfl, rfl, rfl, fun l hl => issuedEntry_pending hf hl⟩
  rw [honly]

end

/-- The entry of the new number, where the list holds no other of it. -/
theorem mem_batchJoined_new {i : Instr} {f : LaneIssue} {s : State} {k : Issue} {d n : Nat} {e0 : Entry}
    (hseq : ∀ e ∈ k.w.entries, e.seq < k.w.nextSeq) {x : Entry} (hx : x ∈ (batchJoined i f s k d n e0 k.w).entries)
    (hxs : x.seq = k.w.nextSeq) : x = issuedEntry i f s k e0 := by
  obtain ⟨y, hy, hxy⟩ := mem_batchJoined hx
  rcases List.mem_append.1 hy with hy | hy
  · have hne := Nat.ne_of_lt (hseq y hy)
    rw [if_neg hne] at hxy
    rw [hxy] at hxs
    exact absurd hxs hne
  · rw [hxy, List.mem_singleton.1 hy]
    exact if_pos rfl

theorem issuedEntry_lanes {i : Instr} {f : LaneIssue} {s : State} {k : Issue} (hf : Resolves f)
    (hseq : ∀ e ∈ k.w.entries, e.seq < k.w.nextSeq) {l : Nat} (hl : l < 64) (ha : (k.act s).getLsbD l = true) :
    assocGet (issuedEntry i f s k (entryFound i s k)).lanes l = some (if laneStuck k.w k.w.nextSeq l then .held
      else (f (issuedEntry i f s k (entryFound i s k)) k l s).2) := by
  have hmem : l ∈ k.actList s := mem_laneList.2 ⟨hl, ha⟩
  rw [issuedEntry_lane, if_pos hmem, entryFound_new i s k hseq]
  unfold laneState
  rw [hf.entry (issuedEntry i f s k (k.entry s i)) (k.entry s i) k l s rfl rfl]
  rfl

/-- An instruction that issues as one entry of the open batch, its lanes as `f` says. -/
def Batched (i : Instr) (d n : Nat) (f : LaneIssue) : Prop :=
  Resolves f ∧ ∀ s k, MayRun i s k → exec i s = .next ((batchOp i d n f k s).finish i k)

theorem batched_noDest {i : Instr} {f : LaneIssue} (d : Nat) : Batched i d 0 f ↔ Batched i 0 0 f := Iff.rfl

section
variable {i : Instr} {d n : Nat} {f : LaneIssue} (hi : Batched i d n f) {s : State} {k : Issue} (h : MayRun i s k)
include hi h

theorem Batched.joins (hlen : k.w.entries.length < 64) (hwalk : ∀ va, walk s k.c va ≠ .outside) : Completes i s fun t =>
    JoinsBatch i s t k (k.act s) ∧ ∃ w', assocGet t.waves k.uid = some w' ∧
      (∀ r l, d ≤ r → r < d + n → l < 64 → (k.act s).getLsbD l = true → undefAt t w' r l = true) ∧
      ((∀ e ∈ k.w.entries, e.seq < k.w.nextSeq) → ∀ e ∈ w'.entries, e.seq = k.w.nextSeq →
        ∀ l, l < 64 → (k.act s).getLsbD l = true →
          assocGet e.lanes l = some (if laneStuck k.w k.w.nextSeq l then .held else (f e k l s).2)) := by
  obtain ⟨hf, hrun⟩ := hi
  obtain ⟨hs, e⟩ := batchOp_joins (i := i) (d := d) (n := n) h.1 hf hlen hwalk
  have honly := batchJoined_only i f s k d n (entryFound i s k) k.w
  refine ⟨joinedState i f s k d n hs, (hrun s k h).trans (by rw [e]; rfl), joinedState_joins h.1 hs hf, _,
    (joinedState_waves h.1 hs).1, fun r l h1 h2 hl ha => batchJoined_undef (s := s) (d := d) (n := n) _ ?_ ?_ h1 h2 hl ha,
    fun hseq x hx hxs l hl ha => ?_⟩
  · rw [joinedWave, retiredWave_only, honly]
  · rw [joinedWave, retiredWave_only, honly]
  · rw [joinedWave_entries] at hx
    rw [mem_batchJoined_new hseq hx hxs]
    exact issuedEntry_lanes hf hseq hl ha

theorem Batched.waits (hlen : 64 ≤ k.w.entries.length) (hex : ∃ e ∈ k.w.entries, e.stuck = false) : Completes i s fun t =>
    OnlyWave s t k.uid ∧ SameBytes s t ∧ ∃ w' f', assocGet t.waves k.uid = some w' ∧ w'.entries = k.w.entries ∧ w'.regs = k.w.regs ∧
      w'.frag? k.lead = some f' ∧ f'.pc = k.f.pc ∧ f'.park = .wait := by
  have hpark := park_result (i := i) .wait (fun w => w) h.1 (getIssue_spec h.1).2.2.1
  rw [modWave_same s k.uid (fun w => w) fun _ => rfl] at hpark
  obtain ⟨ho, hb, w', hw, ew, hf'⟩ := hpark
  exact ⟨_, (hi.2 s k h).trans (by rw [batchOp_waits hlen hex]), ho, hb, w', _, hw, by rw [ew], by rw [ew], hf', rfl, rfl⟩

theorem Batched.reports {e : Entry} {r : List Entry} {l : Nat} {c : Cause} {a p : VA} (hlen : 64 ≤ k.w.entries.length)
    (hent : k.w.entries = e :: r) (hlow : e.lowest = some (l, c, a, p))
    (hall : ∀ x ∈ k.w.entries, x.stuck = true ∧ x.lowest.isSome = true ∧ x.serviced k.c = false) (hcan : CanTrap s k) :
    Completes i s fun t => Trapped s t k c true (k.w.entries.foldl (fun m e => m ||| e.faultedLanes) 0) a := by
  have hstuck : k.w.entries.filter Entry.stuck = k.w.entries := List.filter_eq_self.2 fun x hx => (hall x hx).1
  have htrap := faultReport_trapped (e := e) h.1 (by rw [hstuck, hent]; rfl) hlow
    (fun x hx _ => (hall x hx).2) hcan
  rw [hstuck] at htrap
  exact ⟨_, (hi.2 s k h).trans (by rw [batchOp_reports hlen fun x hx => (hall x hx).1]; rfl), htrap⟩

end

/-- Settles O24: each instruction is `Batched`; its entry is `issuedEntry`. -/
theorem memoryInstructionsJoinTheBatch : Obligations.MemoryInstructionsJoinTheBatch := by
  intro i d n f hi s k h
  have hb : Batched i d n f := by
    rcases hi with ⟨g, t, r, a, rfl, rfl, rfl, rfl⟩ | ⟨t, x, rfl, rfl, rfl, rfl⟩ | ⟨g, t, r, a, rfl, rfl, rfl⟩ | ⟨t, x, rfl, rfl, rfl⟩ |
      ⟨t, x, rfl, rfl, rfl⟩ | ⟨t, x, rfl, rfl, rfl, rfl⟩ | ⟨g, p, r, a, rfl, rfl, rfl, rfl⟩ | ⟨g, p, r, a, b, rfl, rfl, rfl, rfl⟩ |
      ⟨g, p, r, a, b, rfl, rfl, rfl, rfl⟩ | ⟨g, p, r, a, rfl, rfl, rfl, rfl⟩ | ⟨g, p, r, a, b, c, rfl, rfl, rfl, rfl⟩ |
      ⟨g, p, hh, m, r, a, b, c, rfl, rfl, rfl, rfl⟩
    · exact ⟨ldLane_resolves _ _ _ _ _, fun _ _ h => issueWith_runs _ h⟩
    · exact ⟨ldLane_resolves _ _ _ _ _, fun _ _ h => issueWith_runs _ h⟩
    · exact (batched_noDest d).2 ⟨stLane_resolves _ _ _ _ _ _, fun _ _ h => issueWith_runs _ h⟩
    · exact (batched_noDest d).2 ⟨stLane_resolves _ _ _ _ _ _, fun _ _ h => issueWith_runs _ h⟩
    · exact (batched_noDest d).2 ⟨rstLane_resolves _ _, fun _ _ h => issueWith_runs _ h⟩
    · exact ⟨atomLane_resolves _ _, fun _ _ h => issueWith_runs _ h⟩
    · exact ⟨rayLane_resolves _ _ _ _, fun _ _ h => issueWith_runs _ h⟩
    · exact ⟨rayLane_resolves _ _ _ _, fun _ _ h => issueWith_runs _ h⟩
    · exact ⟨rayLane_resolves _ _ _ _, fun _ _ h => issueWith_runs _ h⟩
    · exact ⟨rayALane_resolves _, fun _ _ h => issueWith_runs _ h⟩
    · exact ⟨rayHLane_resolves _ _ _ _, fun _ _ h => issueWith_runs _ h⟩
    · exact ⟨spawnLane_resolves _ _ _ _ _ _, fun _ _ h => issueWith_runs _ h⟩
  exact ⟨hb.joins h, hb.waits h, fun e r l c a p hlen hent hlow hall hcan => hb.reports h hlen hent hlow hall hcan⟩

end Sys2Proof.Machine
end

section
/-!
SUPPORT. Words read by `JOIN` and `WAITW` (03 R84, 17 R419): reads that are granted and that nothing stands before, the state that
reading leaves, and what each test of the words comes to.
-/

namespace Sys2Proof.Machine

/-! Reads that are granted. -/

/-- Each active lane reads `n` bytes at `va`, which lie at `pa` on this package, with their leaf at `leaf`. -/
def ReadsGood (s : State) (k : Issue) (n : Nat) (bad : Nat → Bool) (va : Nat → VA) (pa leaf : Nat → Nat) : Prop :=
  ∀ l, l < 64 → (k.act s).getLsbD l = true → bad l = false ∧ xlate s k.c (va l).toNat .read = .ok (pa l, leaf l) ∧
    (va l).toNat % n = 0 ∧ paRegion (pa l) ≠ 2 ∧ ∀ j, j < n → rangesHave s.undefMem (pa l + j) = false

/-- The reads of the active lanes, all granted. -/
def goodReads (s : State) (k : Issue) (va : Nat → VA) (pa leaf : Nat → Nat) : List (Nat × VA × Except Cause (Nat × Nat)) :=
  (k.actList s).map fun l => (l, va l, .ok (pa l, leaf l))

/-- The words that memory holds for the active lanes. -/
def wordsHeld (s : State) (k : Issue) (n : Nat) (pa : Nat → Nat) : List (Nat × Nat × Dword) :=
  (k.actList s).map fun l => (l, pa l, BitVec.ofNat 64 (memNat s.mem (pa l) n))

theorem mem_actList {s : State} {k : Issue} {l : Nat} : l ∈ k.actList s ↔ l < 64 ∧ (k.act s).getLsbD l = true := mem_laneList

section
variable {s : State} {k : Issue} {n : Nat} {bad : Nat → Bool} {va : Nat → VA} {pa leaf : Nat → Nat}

theorem filterMap_goodReads {β : Type} (f : Nat × VA × Except Cause (Nat × Nat) → Option β)
    (h : ∀ l ∈ k.actList s, f (l, va l, .ok (pa l, leaf l)) = none) : (goodReads s k va pa leaf).filterMap f = [] := by
  rw [List.filterMap_eq_nil_iff]
  intro r hr
  obtain ⟨l, hl, rfl⟩ := List.mem_map.1 hr
  exact h l hl

theorem readFailure_goodReads (t : State) (home : Nat) : readFailure t k (goodReads s k va pa leaf) home = none := by
  unfold readFailure
  dsimp only
  rw [filterMap_goodReads]
  · rfl
  · exact fun _ _ => rfl

section
variable (h : ReadsGood s k n bad va pa leaf)
include h

theorem laneReads_good (first : Bool) : laneReads s k n first (fun l => (bad l, va l)) = goodReads s k va pa leaf := by
  refine List.map_congr_left fun l hl => ?_
  obtain ⟨h64, hact⟩ := mem_actList.1 hl
  obtain ⟨hb, hx, ha, -⟩ := h l h64 hact
  simp [hb, hx, ha, globalAddr]

theorem readWords_good : readWords s n (goodReads s k va pa leaf) = wordsHeld s k n pa := by
  unfold readWords goodReads wordsHeld
  rw [List.filterMap_map, ← List.filterMap_eq_map]
  refine List.filterMap_congr fun l hl => ?_
  obtain ⟨h64, hact⟩ := mem_actList.1 hl
  obtain ⟨-, -, -, -, hdef⟩ := h l h64 hact
  show some (l, pa l, BitVec.ofNat 64 (leNat (physGet s (pa l) n))) = _
  rw [physGet_defined hdef]
  rfl

theorem farWords_good : farWords (goodReads s k va pa leaf) = [] := by
  refine filterMap_goodReads _ fun l hl => ?_
  obtain ⟨h64, hact⟩ := mem_actList.1 hl
  obtain ⟨-, -, -, hp, -⟩ := h l h64 hact
  exact if_neg hp

theorem askReads_good (upto : Nat) (t : State) : askReads k n upto (goodReads s k va pa leaf) t = none := by
  unfold askReads
  rw [farWords_good h]

end

section
variable (h : ReadsFree s k (k.act s) n pa va)
include h

theorem readWaits_free : readWaits s k n (wordsHeld s k n pa) = false := by
  refine List.any_eq_false.2 fun e he hc => ?_
  obtain ⟨hi, hx⟩ := Bool.and_eq_true_iff.1 hc
  obtain ⟨x, hx, hm⟩ := List.any_eq_true.1 hx
  obtain ⟨hfol, hmeet⟩ := h e he (by simpa using hi) x hx
  cases hst : x.2 with
  | inflight o va' =>
    simp only [hst] at hfol hmeet hm
    rcases Bool.or_eq_true_iff.1 hm with hf | hw
    · exact absurd (hfol hf).1 (by simp [LaneSt.flying])
    · obtain ⟨r, hr, hm⟩ := List.any_eq_true.1 hw
      obtain ⟨l, hl, rfl⟩ := List.mem_map.1 hr
      obtain ⟨hl, hm⟩ := Bool.and_eq_true_iff.1 hm
      obtain rfl : l = x.1 := by simpa using hl
      rw [hmeet (mem_actList.1 ‹_›).2] at hm
      cases hm
  | faulted c t p => simp [hst] at hm
  | held => simp [hst] at hm
  | done => simp [hst] at hm

theorem readStuck_free : readStuck k n (goodReads s k va pa leaf) = false := by
  refine List.any_eq_false.2 fun e he hc => ?_
  obtain ⟨hi, hx⟩ := Bool.and_eq_true_iff.1 hc
  obtain ⟨x, hx, hm⟩ := List.any_eq_true.1 hx
  obtain ⟨hfol, hmeet⟩ := h e he (.inl hi) x hx
  have hlane : ∀ p : VA → Bool, (goodReads s k va pa leaf).any (fun r => r.1 == x.1 && p r.2.1) = true →
      (k.act s).getLsbD x.1 = true ∧ p (va x.1) = true := fun p hp => by
    obtain ⟨r, hr, hb⟩ := List.any_eq_true.1 hp
    obtain ⟨l, hl, rfl⟩ := List.mem_map.1 hr
    obtain ⟨hlx, hb⟩ := Bool.and_eq_true_iff.1 hb
    obtain rfl : l = x.1 := by simpa using hlx
    exact ⟨(mem_actList.1 hl).2, hb⟩
  rcases Bool.or_eq_true_iff.1 hm with hm | hm
  · obtain ⟨hs, hf⟩ := Bool.and_eq_true_iff.1 hm
    rw [(hfol hf).2] at hs
    cases hs
  · cases hst : x.2 with
    | inflight o va' => simp [hst] at hm
    | faulted c t p =>
      simp only [hst] at hmeet hm
      obtain ⟨hact, hp⟩ := hlane (fun v => decide (p.toNat < v.toNat + n) && decide (v.toNat < p.toNat + 16)) (by
        simpa only [Bool.and_assoc] using hm)
      have := hmeet hact hi
      simp only [Bool.and_eq_true, decide_eq_true_eq] at hp
      omega
    | held =>
      simp only [hst] at hmeet hm
      obtain ⟨hact, -⟩ := hlane (fun _ => true) (by simpa using hm)
      rw [hmeet hact] at hi
      cases hi
    | done => simp [hst] at hm

end
end

/-! The state that reading leaves. -/

/-- Only bytes of the leaves and copies of lines differ. -/
def LeavesOnly (s t : State) (leaves : Nat → Prop) : Prop :=
  (∃ m us h, t = { s with mem := m, undefMem := us, hub := { s.hub with lineCopies := h } }) ∧
    ∀ a, ¬leaves a → memRead t.mem a = memRead s.mem a

theorem LeavesOnly.refl (s : State) (leaves : Nat → Prop) : LeavesOnly s s leaves :=
  ⟨⟨s.mem, s.undefMem, s.hub.lineCopies, rfl⟩, fun _ _ => rfl⟩

theorem LeavesOnly.trans {s t r : State} {p : Nat → Prop} (h : LeavesOnly s t p) (h' : LeavesOnly t r p) : LeavesOnly s r p := by
  obtain ⟨⟨m, us, c, rfl⟩, hm⟩ := h
  obtain ⟨⟨m', us', c', rfl⟩, hm'⟩ := h'
  exact ⟨⟨m', us', c', rfl⟩, fun a ha => (hm' a ha).trans (hm a ha)⟩

theorem leavesOnly_withLines (s : State) (c : List (Nat × List Byte)) (p : Nat → Prop) : LeavesOnly s (withLines s c) p :=
  ⟨⟨s.mem, s.undefMem, c, rfl⟩, fun _ _ => rfl⟩

theorem leavesOnly_touched (s : State) (pa : Nat) {leaf : Nat} (wr : Bool) {p : Nat → Prop} (hp : p leaf) :
    LeavesOnly s ((Loc.phys pa leaf).touched wr s) p := by
  refine ⟨⟨_, _, s.hub.lineCopies, touched_only _ _ _⟩, fun a ha => ?_⟩
  have hne : a ≠ leaf := fun h => ha (h ▸ hp)
  unfold Loc.touched touch
  dsimp only
  split
  · exact memRead_write_other _ _ hne
  · rfl

theorem leavesOnly_touchReads {s : State} {k : Issue} {va : Nat → VA} {pa leaf : Nat → Nat} {p : Nat → Prop}
    (hp : ∀ l ∈ k.actList s, p (leaf l)) : LeavesOnly s (touchReads s (goodReads s k va pa leaf)) p := by
  unfold touchReads goodReads
  rw [List.foldl_map]
  have key : ∀ (ls : List Nat) (t : State), (∀ l ∈ ls, p (leaf l)) →
      LeavesOnly t (ls.foldl (fun t l => (Loc.phys (pa l) (leaf l)).touched false t) t) p := by
    intro ls
    induction ls with
    | nil => exact fun t _ => .refl t p
    | cons l r ih =>
      exact fun t h => (leavesOnly_touched t (pa l) false (h l List.mem_cons_self)).trans
        (ih _ fun j hj => h j (List.mem_cons_of_mem _ hj))
  exact key _ s hp

theorem touchReads_modWave (s : State) (u : Nat) (g : Wave → Wave) (rs : List (Nat × VA × Except Cause (Nat × Nat))) :
    touchReads (modWave s u g) rs = modWave (touchReads s rs) u g := by
  have touched : ∀ (l : Loc) (t : State), l.touched false (modWave t u g) = modWave (l.touched false t) u g := fun l t => by
    unfold Loc.touched touch
    split
    · rw [modWave_mem]
      split <;> rfl
    · rfl
  unfold touchReads
  induction rs generalizing s with
  | nil => rfl
  | cons r rs ih =>
    rw [List.foldl_cons, List.foldl_cons, ← ih]
    split
    · rw [touched]
    · rfl

theorem LeavesOnly.waves {s t : State} {p : Nat → Prop} (h : LeavesOnly s t p) : t.waves = s.waves := by
  obtain ⟨⟨m, us, c, rfl⟩, -⟩ := h
  rfl

theorem LeavesOnly.cycle {s t : State} {p : Nat → Prop} (h : LeavesOnly s t p) : t.cycle = s.cycle := by
  obtain ⟨⟨m, us, c, rfl⟩, -⟩ := h
  rfl

theorem LeavesOnly.free {s t : State} {p : Nat → Prop} (h : LeavesOnly s t p) : t.free = s.free := by
  obtain ⟨⟨m, us, c, rfl⟩, -⟩ := h
  rfl

/-- Of what issues or parks with its words read, only bytes of leaves, copies of lines and one wave differ. -/
theorem LeavesOnly.onlyWave {s t r : State} {u : Nat} {p : Nat → Prop} (h : LeavesOnly s t p) (hr : OnlyWave t r u) :
    (∃ c, r = { s with mem := r.mem, undefMem := r.undefMem, waves := r.waves, free := r.free,
                       hub := { s.hub with lineCopies := c } }) ∧
      (∀ v, v ≠ u → assocGet r.waves v = assocGet s.waves v) ∧ ∀ a, ¬p a → memRead r.mem a = memRead s.mem a := by
  have hw := h.waves
  obtain ⟨⟨m, us, c, e⟩, hm⟩ := h
  obtain ⟨hr, hv⟩ := hr
  have hmem : r.mem = t.mem := by rw [hr]
  refine ⟨⟨c, ?_⟩, fun v hne => (hv v hne).trans (by rw [hw]), fun a ha => (congrArg (memRead · a) hmem).trans (hm a ha)⟩
  rw [hr, e]

/-! Registers written in a wave with the registers of another. -/

theorem writeVal_regs_congr {w w' : Wave} (h : w'.regs = w.regs) (n r l : Nat) (v : Dword) :
    (writeVal w' n r l v).regs = (writeVal w n r l v).regs := by
  unfold writeVal writeLane
  split <;> simp only [h]

theorem lanesWritten_regs_congr (s : State) (k : Issue) (d : Reg) (n b : Nat) (f : Nat → Dword) {w w' : Wave} (h : w'.regs = w.regs) :
    (lanesWritten s k d n b f w').regs = (lanesWritten s k d n b f w).regs := by
  have key : ∀ (ls : List Nat) (w w' : Wave), w'.regs = w.regs →
      (ls.foldl (fun w l => writeVal w n d.toNat l (f l)) w').regs = (ls.foldl (fun w l => writeVal w n d.toNat l (f l)) w).regs := by
    intro ls
    induction ls with
    | nil => exact fun _ _ h => h
    | cons l r ih => exact fun w w' h => ih _ _ (writeVal_regs_congr h n d.toNat l (f l))
  exact key _ _ _ h

theorem RegsHold.congr {w w' w'' : Wave} {d : Nat} {ls : LaneMask} {f g : Nat → List Word} (h : RegsHold w w' d ls f)
    (hr : w''.regs = w'.regs) (hf : ∀ l, l < 64 → ls.getLsbD l = true → g l = f l) : RegsHold w w'' d ls g := by
  obtain ⟨hin, hout⟩ := h
  refine ⟨fun l j v hl ha hv => ?_, fun l r hl hor => ?_⟩
  · rw [held_of_regs hr]
    exact hin l j v hl ha (by rw [← hf l hl ha]; exact hv)
  · rw [held_of_regs hr]
    refine hout l r hl ?_
    by_cases ha : ls.getLsbD l = true
    · rw [← hf l hl ha]; exact hor
    · exact .inl (Bool.eq_false_iff.2 ha)

/-! A fragment that parks, or retires, in a state with the waves of another. -/

theorem park_waves {i : Instr} {s t : State} {k : Issue} (p : Park) (g : Wave → Wave) (hk : getIssue s = some k) (hw : t.waves = s.waves)
    {f : Frag} (hf : (g k.w).frag? k.lead = some f) :
    let r := (Eff.park p (modWave t k.uid g)).finish i k
    OnlyWave t r k.uid ∧ ∃ w', assocGet r.waves k.uid = some w' ∧ w' = { g k.w with frags := w'.frags } ∧
      w'.frag? k.lead = some { f with park := p, retry := true, waited := 0, promoted := none } := by
  have ht : (Eff.park p (modWave t k.uid g)).finish i k = bumpFree (modWave t k.uid
      ((fun w => w.modFrag k.lead fun f => { f with park := p, retry := true, waited := 0, promoted := none }) ∘ g)) := by
    unfold Eff.finish modFrag
    dsimp only
    rw [modWave_modWave]
  have hget : assocGet t.waves k.uid = some k.w := by rw [hw]; exact (getIssue_spec hk).2.1
  dsimp only
  rw [ht]
  refine ⟨(modWave_onlyWave t k.uid _).1, _, modWave_get _ hget, rfl, ?_⟩
  refine (modFrag_frag? _ _ _ (fun f => { f with park := p, retry := true, waited := 0, promoted := none }) fun _ => rfl).trans ?_
  rw [if_pos rfl, hf]
  rfl

section
variable (k : Issue) (w : Wave)

@[simp] theorem progressed_regs : (progressed k w).regs = w.regs := by rw [progressed_only]
@[simp] theorem progressed_frags : (progressed k w).frags = w.frags := by rw [progressed_only]
@[simp] theorem progressed_mask : (progressed k w).mask = w.mask := by rw [progressed_only]
@[simp] theorem progressed_cc : (progressed k w).cc = w.cc := by rw [progressed_only]

theorem progressed_frag? (q : Nat) : (progressed k w).frag? q = w.frag? q := by
  unfold Wave.frag?
  rw [progressed_frags]

end

end Sys2Proof.Machine
end

section
/-!
SUPPORT. `JOIN` and `WAITW` (03 R83, R84; 17 R418 to R420): the tests of their words.
-/

namespace Sys2Proof.Machine

/-! Condition codes and values of a `JOIN`. -/

theorem quadBits_zero (m : LaneMask) (q : Nat) : (quadBits m q == 0) = true ↔ ∀ l, l / 4 = q → m.getLsbD l = false := by
  have bit : ∀ i, (quadBits m q).testBit i = (decide (i < 4) && m.getLsbD (i + 4 * q)) := fun i => by
    unfold quadBits
    rw [show (16 : Nat) = 2 ^ 4 from rfl, Nat.testBit_mod_two_pow, Nat.testBit_div_two_pow]
    rfl
  rw [beq_iff_eq]
  refine ⟨fun h l hl => ?_, fun h => Nat.eq_of_testBit_eq fun i => ?_⟩
  · have hb := bit (l % 4)
    rw [h, Nat.zero_testBit, decide_eq_true (Nat.mod_lt l (by decide)), Bool.true_and, ← hl, Nat.mod_add_div] at hb
    exact hb.symm
  · rw [bit, Nat.zero_testBit]
    by_cases hi : i < 4
    · rw [h (i + 4 * q) (by omega), Bool.and_false]
    · rw [decide_eq_false hi, Bool.false_and]

theorem joinWord_toNat (m : List Host.Cell) (a : Nat) : (BitVec.ofNat 64 (memNat m a 4)).toNat = memNat m a 4 := by
  have := memNat_lt m a 4
  exact BitVec.toNat_ofNat _ _ |>.trans (Nat.mod_eq_of_lt (by omega))

theorem joinWord_poisoned (m : List Host.Cell) (a : Nat) :
    (BitVec.ofNat 64 (memNat m a 4)).getLsbD 31 = decide (2 ^ 31 ≤ memNat m a 4) := by
  have := memNat_lt m a 4
  rw [BitVec.getLsbD_ofNat, Nat.testBit_eq_decide_div_mod_eq]
  simp only [Nat.reduceLT, decide_true, Bool.true_and]
  exact decide_eq_decide.2 (by omega)

theorem assocGet_map_mem {α : Type} (f : Nat → α) {ls : List Nat} {l : Nat} (h : l ∈ ls) :
    assocGet (ls.map fun j => (j, f j)) l = some (f l) := by
  induction ls with
  | nil => cases h
  | cons j r ih =>
    by_cases hj : j = l
    · subst hj
      simp [assocGet]
    · have hr : l ∈ r := (List.mem_cons.1 h).resolve_left fun e => hj e.symm
      simpa [assocGet, hj] using ih hr

theorem wordOf_wordsHeld {s : State} {k : Issue} {n l : Nat} {pa : Nat → Nat} (hl : l < 64) (ha : (k.act s).getLsbD l = true) :
    wordOf (wordsHeld s k n pa) l = BitVec.ofNat 64 (memNat s.mem (pa l) n) := by
  unfold wordOf wordsHeld
  rw [assocGet_map_mem (fun l => (pa l, BitVec.ofNat 64 (memNat s.mem (pa l) n))) (mem_actList.2 ⟨hl, ha⟩)]
  rfl

theorem any_wordsHeld {s : State} {k : Issue} {n : Nat} {pa : Nat → Nat} (p : Nat × Nat × Dword → Bool) :
    (wordsHeld s k n pa).any p = true ↔
      ∃ l, l < 64 ∧ (k.act s).getLsbD l = true ∧ p (l, pa l, BitVec.ofNat 64 (memNat s.mem (pa l) n)) = true := by
  unfold wordsHeld
  rw [List.any_map, List.any_eq_true]
  exact ⟨fun ⟨l, hl, hp⟩ => ⟨l, (mem_actList.1 hl).1, (mem_actList.1 hl).2, hp⟩,
    fun ⟨l, hl, ha, hp⟩ => ⟨l, mem_actList.2 ⟨hl, ha⟩, hp⟩⟩

/-- The condition codes of a `JOIN` that returns with the words `ws` (03 R84). -/
def joinCodes (s : State) (k : Issue) (ws : List (Nat × Nat × Dword)) (cc : CC) : CC :=
  zcCC cc k.f.quads (fun q => quadBits (k.act s) q == 0) fun q => ws.any fun r => r.1 / 4 == q && r.2.2.getLsbD 31

/-- Z in quads without an active lane, C in quads that read a poisoned word. -/
theorem joinCodes_get (s : State) (k : Issue) (pa : Nat → Nat) (cc : CC) {q : Nat} (hq : q < 16) :
    let c := joinCodes s k (wordsHeld s k 4 pa) cc
    if k.f.quads.getLsbD q = true then
      (c.z.getLsbD q = true ↔ ∀ l, l / 4 = q → (k.act s).getLsbD l = false) ∧
      (c.c.getLsbD q = true ↔ ∃ l, l / 4 = q ∧ (k.act s).getLsbD l = true ∧ 2 ^ 31 ≤ memNat s.mem (pa l) 4)
    else c.z.getLsbD q = cc.z.getLsbD q ∧ c.c.getLsbD q = cc.c.getLsbD q := by
  unfold joinCodes zcCC
  dsimp only
  rw [ccBit_get _ _ _ hq, ccBit_get _ _ _ hq]
  split
  · refine ⟨quadBits_zero _ _, (any_wordsHeld _).trans ⟨?_, ?_⟩⟩
    · rintro ⟨l, -, ha, hp⟩
      obtain ⟨hl, hp⟩ := Bool.and_eq_true_iff.1 hp
      rw [joinWord_poisoned] at hp
      exact ⟨l, by simpa using hl, ha, of_decide_eq_true hp⟩
    · rintro ⟨l, hl, ha, hp⟩
      refine ⟨l, by omega, ha, Bool.and_eq_true_iff.2 ⟨by simpa using hl, ?_⟩⟩
      rw [joinWord_poisoned]
      exact decide_eq_true hp
  · exact ⟨rfl, rfl⟩

/-! The cases of a `JOIN`. -/

/-- The number below which a `JOIN`'s spawns lie. -/
def joinUpto (k : Issue) : Nat := match k.f.park with | .spawns n => n | .asked _ n => n | _ => k.w.nextSeq

/-- A `SPAWN` issued before a `JOIN` is not done. -/
def SpawnsLeft (k : Issue) : Prop :=
  k.f.closed = false ∧ ∃ e ∈ k.w.entries, isSpawn e.instr = true ∧ e.seq < joinUpto k ∧ ∃ l ∈ e.lanes, l.2 ≠ .done

theorem spawnsLeft_iff (k : Issue) : (!k.f.closed && spawnsPending k.w (joinUpto k) (· != .done)) = true ↔ SpawnsLeft k := by
  unfold SpawnsLeft spawnsPending
  simp [and_assoc]

section
variable {g : BitVec 2} {d a : Reg} {s : State} {k : Issue} (h : MayRun (.join g d a) s k)
include h

/-- Without an active lane it waits for nothing. -/
theorem join_idle (ha : k.act s = 0) : exec (.join g d a) s =
    .next ((Eff.done (writeQuadCC (progress s k) k fun cc => zcCC cc k.f.quads (fun _ => true) fun _ => false)).finish
      (.join g d a) k) := by
  show execJoin g d a s = _
  unfold execJoin
  rw [issueWith_runs _ h]
  dsimp only
  rw [if_pos ha]

theorem join_waits (ha : k.act s ≠ 0) (hl : SpawnsLeft k) : exec (.join g d a) s =
    .next ((Eff.park (.spawns (joinUpto k)) (progress s k)).finish (.join g d a) k) := by
  show execJoin g d a s = _
  unfold execJoin
  rw [issueWith_runs _ h]
  dsimp only
  rw [if_neg ha]
  exact congrArg (fun e : Eff => Host.Outcome.next (e.finish (.join g d a) k)) (if_pos ((spawnsLeft_iff k).2 hl))

variable {pa leaf : Nat → Nat}

theorem join_tests (ha : k.act s ≠ 0) (hl : ¬SpawnsLeft k)
    (hgood : ReadsGood s k 4 (tripleBad s k.w a.toNat) (readTriple s k.w a.toNat) pa leaf)
    (hfree : ReadsFree s k (k.act s) 4 pa (readTriple s k.w a.toNat)) : exec (.join g d a) s =
    .next ((joinTest d k (modWave (touchReads s (goodReads s k (readTriple s k.w a.toNat) pa leaf)) k.uid (progressed k))
      (wordsHeld s k 4 pa)).finish (.join g d a) k) := by
  show execJoin g d a s = _
  unfold execJoin
  rw [issueWith_runs _ h]
  dsimp only
  rw [if_neg ha]
  refine congrArg (fun e : Eff => Host.Outcome.next (e.finish (.join g d a) k)) ?_
  refine (if_neg fun hc => hl ((spawnsLeft_iff k).1 hc)).trans ?_
  rw [laneReads_good hgood, readFailure_goodReads, readWords_good hgood, readWaits_free hfree, readStuck_free hfree,
    askReads_good hgood, progress_eq, touchReads_modWave]
  rfl

end

section
variable {s : State} {k : Issue} {pa : Nat → Nat} (S : State) (d : Reg)
  (hgood : ∀ l, l < 64 → (k.act s).getLsbD l = true → memNat s.mem (pa l) 4 / 2 ^ 24 % 2 ^ 7 = 0)
include hgood

theorem joinWords_good : ((wordsHeld s k 4 pa).filter fun r => bitsOf r.2.2.toNat 30 24 != 0) = [] := by
  refine List.filter_eq_nil_iff.2 fun r hr => ?_
  obtain ⟨l, hl, rfl⟩ := List.mem_map.1 hr
  obtain ⟨h64, ha⟩ := mem_actList.1 hl
  have hz := hgood l h64 ha
  show ¬(bitsOf (BitVec.ofNat 64 (memNat s.mem (pa l) 4)).toNat 30 24 != 0) = true
  rw [joinWord_toNat]
  simpa [bitsOf] using hz

theorem joinTest_parks (hex : ∃ l, l < 64 ∧ (k.act s).getLsbD l = true ∧ memNat s.mem (pa l) 4 % 2 ^ 24 ≠ 0) :
    joinTest d k S (wordsHeld s k 4 pa) = .park (.join ((k.actList s).map pa))
      (modFrag (dropWords S k.w.core (wordsHeld s k 4 pa)) k.uid k.lead fun f => { f with closed := true }) := by
  have hany : ((wordsHeld s k 4 pa).any fun r => r.2.2.toNat % 2 ^ 24 != 0) = true := by
    obtain ⟨l, hl, ha, hn⟩ := hex
    refine (any_wordsHeld _).2 ⟨l, hl, ha, ?_⟩
    rw [joinWord_toNat]
    simpa using hn
  have hps : (wordsHeld s k 4 pa).map (·.2.1) = (k.actList s).map pa := List.map_map.trans rfl
  unfold joinTest
  dsimp only
  rw [joinWords_good hgood, if_neg (by simp), if_pos hany, hps]

theorem joinTest_returns (hS : S.cycle = s.cycle) (hf : S.free = s.free)
    (hall : ∀ l, l < 64 → (k.act s).getLsbD l = true → memNat s.mem (pa l) 4 % 2 ^ 24 = 0) :
    joinTest d k S (wordsHeld s k 4 pa) = .done (modWave (dropCopies S k.w.core) k.uid
      (returned s k d (wordOf (wordsHeld s k 4 pa)) (joinCodes s k (wordsHeld s k 4 pa)))) := by
  have hany : ¬((wordsHeld s k 4 pa).any fun r => r.2.2.toNat % 2 ^ 24 != 0) = true := fun hc => by
    obtain ⟨l, hl, ha, hn⟩ := (any_wordsHeld _).1 hc
    rw [joinWord_toNat, hall l hl ha] at hn
    simp at hn
  unfold joinTest
  dsimp only
  rw [joinWords_good hgood, if_neg (by simp), if_neg hany, act_congr hS hf]
  exact congrArg Eff.done (writeQuadCC_writeLanes (s := s) (t := dropCopies S k.w.core) hS hf k d _
    (joinCodes s k (wordsHeld s k 4 pa)))

end

/-! The cases of a `WAITW`. -/

/-- The words of a `WAITW` as it finds them. -/
def waitedWord (s : State) (k : Issue) (n : Nat) (va : Nat → VA) (vb : Nat → Dword) (pa : Nat → Nat) (l : Nat) : WaitWord :=
  ⟨l, pa l, va l, vb l, BitVec.ofNat 64 (memNat s.mem (pa l) n), ((seenWord k.f l).map (·.port)).getD 0,
    ((seenWord k.f l).map (·.sent)).getD 0⟩

/-- The time that a `WAITW` has left. -/
def waitLeft (s : State) (k : Issue) (x : Long) : Option Nat :=
  match k.f.park with
  | .waitw _ _ _ left _ => left
  | _ => if (srcC s k.w x 1 k.low).toNat = 0 then none else some (srcC s k.w x 1 k.low).toNat

theorem waitLeft_first {s : State} {k : Issue} {x : Long} (h : ∀ i v n p q, k.f.park ≠ .waitw i v n p q) :
    waitLeft s k x = if (srcC s k.w x 1 k.low).toNat = 0 then none else some (srcC s k.w x 1 k.low).toNat := by
  unfold waitLeft
  split
  · rename_i hp; exact absurd hp (h _ _ _ _ _)
  · rfl

section
variable {s : State} {k : Issue} {n : Nat} {bad : Nat → Bool} {va : Nat → VA} {vb : Nat → Dword} {pa leaf : Nat → Nat}
  (h : ReadsGood s k n bad va pa leaf)

theorem find_waitedWord {l : Nat} (hl : l ∈ k.actList s) :
    ((k.actList s).map (waitedWord s k n va vb pa)).find? (·.lane == l) = some (waitedWord s k n va vb pa l) := by
  have hfind : ∀ ls : List Nat, l ∈ ls →
      (ls.map (waitedWord s k n va vb pa)).find? (·.lane == l) = some (waitedWord s k n va vb pa l) := by
    intro ls hls
    induction ls with
    | nil => cases hls
    | cons j r ih =>
      rw [List.map_cons, List.find?_cons]
      by_cases hj : j = l
      · subst hj
        simp [waitedWord]
      · have hne : ((waitedWord s k n va vb pa j).lane == l) = false := beq_eq_false_iff_ne.2 hj
        rw [hne]
        exact ih ((List.mem_cons.1 hls).resolve_left fun e => hj e.symm)
  exact hfind _ hl

include h

theorem waitWords_good : waitWords k va vb (wordsHeld s k n pa) = (k.actList s).map (waitedWord s k n va vb pa) := by
  unfold waitWords wordsHeld
  rw [List.map_map]
  refine List.map_congr_left fun l hl => ?_
  obtain ⟨h64, ha⟩ := mem_actList.1 hl
  obtain ⟨-, -, -, hp, -⟩ := h l h64 ha
  dsimp only [Function.comp]
  rw [if_neg hp]
  rfl

theorem waitedWord_polled {y : WaitWord} (hy : y ∈ (k.actList s).map (waitedWord s k n va vb pa)) : y.polled = false := by
  obtain ⟨l, hl, rfl⟩ := List.mem_map.1 hy
  obtain ⟨h64, ha⟩ := mem_actList.1 hl
  obtain ⟨-, -, -, hp, -⟩ := h l h64 ha
  simpa [WaitWord.polled, waitedWord] using hp

theorem waitAsks_good (t : State) : waitAsks k n (goodReads s k va pa leaf) t = none := by
  unfold waitAsks
  split
  · split
    · rfl
    · exact askReads_good h 0 t
  · rfl

end

/-- Words that no poll asks for stay as they are. -/
theorem pollWords_unpolled (s : State) (n : Nat) {ws : List WaitWord} (h : ∀ y ∈ ws, y.polled = false) :
    pollWords s n ws = (s, ws) := by
  have key : ∀ ls acc : List WaitWord, (∀ y ∈ ls, y.polled = false) → ls.foldl (fun r x => if x.polled && x.sent == 0 then
      let p := pollWord r.1 n x
      (p.1, r.2 ++ [p.2]) else (r.1, r.2 ++ [x])) (s, acc) = (s, acc ++ ls) := by
    intro ls
    induction ls with
    | nil => simp
    | cons y r ih =>
      intro acc hy
      rw [List.foldl_cons, hy y List.mem_cons_self, Bool.false_and, if_neg Bool.false_ne_true,
        ih _ fun z hz => hy z (List.mem_cons_of_mem _ hz)]
      simp
  exact key ws [] h

/-- The words of a `WAITW`, lane by lane. -/
def waitedWords (s : State) (k : Issue) (t : WTy) (x : Long) (pa : Nat → Nat) : List WaitWord :=
  (k.actList s).map (waitedWord s k (wBytes t) (fun l => readTriple s k.w x.a.toNat (permA x.perm l)) (srcB s k.w x .int t.regs) pa)

theorem waitedWords_all {s : State} {k : Issue} {t : WTy} {x : Long} {pa : Nat → Nat} :
    ((waitedWords s k t x pa).all fun v => v.m != v.vb) = true ↔ ∀ l, l < 64 → (k.act s).getLsbD l = true →
      BitVec.ofNat 64 (memNat s.mem (pa l) (wBytes t)) ≠ srcB s k.w x .int t.regs l := by
  unfold waitedWords
  rw [List.all_map, List.all_eq_true]
  exact ⟨fun h l hl ha => bne_iff_ne.1 (h l (mem_actList.2 ⟨hl, ha⟩)),
    fun h l hl => bne_iff_ne.2 (h l (mem_actList.1 hl).1 (mem_actList.1 hl).2)⟩

section
variable {t : WTy} {x : Long} {s : State} {k : Issue} {pa leaf : Nat → Nat}

theorem waitw_tests (h : MayRun (.waitw t x) s k) (ha : k.act s ≠ 0) (ht : k.turn s = true)
    (hgood : ReadsGood s k (wBytes t) (fun l => tripleBad s k.w x.a.toNat (permA x.perm l))
      (fun l => readTriple s k.w x.a.toNat (permA x.perm l)) pa leaf)
    (hfree : ReadsFree s k (k.act s) (wBytes t) pa fun l => readTriple s k.w x.a.toNat (permA x.perm l)) :
    exec (.waitw t x) s = .next ((waitTest t x k (goodReads s k (fun l => readTriple s k.w x.a.toNat (permA x.perm l)) pa leaf)
      (waitedWords s k t x pa) (modWave s k.uid (progressed k))).finish (.waitw t x) k) := by
  show execWaitw t x s = _
  unfold execWaitw
  rw [issueWith_runs _ h]
  refine congrArg (fun e : Eff => Host.Outcome.next (e.finish (.waitw t x) k)) ?_
  dsimp only
  rw [laneReads_good hgood, readFailure_goodReads, readWords_good hgood, readWaits_free hfree, readStuck_free hfree, progress_eq]
  dsimp only
  rw [if_neg ha, if_neg Bool.false_ne_true, if_neg Bool.false_ne_true, ht, waitAsks_good hgood, waitWords_good hgood]
  have hnone : (waitedWords s k t x pa).filter (fun v => v.polled && (portOf s v.pa).isNone && !turnWave k.w) = [] := by
    refine List.filter_eq_nil_iff.2 fun y hy => ?_
    rw [waitedWord_polled hgood hy]
    simp
  unfold waitedWords at hnone
  rw [hnone]
  rfl

end

/-- The word that `words` holds for a lane. -/
def wordAt (words : List WaitWord) (l : Nat) : Dword := ((words.find? (·.lane == l)).map (·.m)).getD 0

/-- The wave of a `WAITW` that goes on, its words written. -/
def waitGone (s : State) (k : Issue) (d : Reg) (m : Nat) (f : Nat → Dword) (w : Wave) : Wave :=
  lanesWritten s k d m bInt f (setClocks (progressed k w) k.f.quads (max k.f.wakeClock))

theorem waitGone_only (s : State) (k : Issue) (d : Reg) (m : Nat) (f : Nat → Dword) (w : Wave) :
    let w' := waitGone s k d m f w
    w' = { w with regs := w'.regs, undef := w'.undef, boundMax := w'.boundMax, clocks := w'.clocks, watchdog := w'.watchdog } := by
  unfold waitGone
  dsimp only
  rw [lanesWritten_only, progressed_only]
  rfl

theorem waitGone_regs {s : State} {k : Issue} (i : Instr) (d : Reg) (m : Nat) (f : Nat → Dword) (hk : getIssue s = some k) :
    RegsHold k.w (waitGone s k d m f k.w) d.toNat (k.act s) fun l => valWords m (f l) :=
  (lanesWritten_regs i d m bInt f hk).congr (lanesWritten_regs_congr s k d m bInt f (progressed_regs k k.w)) fun _ _ _ => rfl

/-- The wave of a `WAITW` that parks. -/
def waitParked (k : Issue) (w : Wave) : Wave := (progressed k w).modFrag k.lead fun f => { f with wakeClock := 0, stall := 0 }

section
variable {s S : State} {t : WTy} {x : Long} {k : Issue} {rs : List (Nat × VA × Except Cause (Nat × Nat))} {words : List WaitWord}

theorem waitTest_goes {leaves : Nat → Prop} (hS : LeavesOnly s (touchReads s rs) leaves)
    (hall : (words.all fun v => v.m != v.vb) = true) :
    waitTest t x k rs words (modWave s k.uid (progressed k)) = .done (modWave (dropCopies (touchReads s rs) k.w.core) k.uid
      (waitGone s k x.d t.regs (wordAt words))) := by
  unfold waitTest
  dsimp only
  rw [if_pos hall, touchReads_modWave, writeLanes_modWave]
  unfold raiseClocks
  rw [modWave_modWave]
  refine congrArg Eff.done ?_
  show modWave (modWave (dropCopies (touchReads s rs) k.w.core) k.uid _) k.uid _ = _
  rw [modWave_modWave]
  refine congrArg (modWave _ k.uid) (funext fun w => ?_)
  exact lanesWritten_congr hS.cycle hS.free k x.d t.regs bInt _ _

theorem waitTest_parks (hpoll : ∀ y ∈ words, y.polled = false) (hnot : (words.all fun v => v.m != v.vb) = false) :
    ∃ c, waitTest t x k rs words (modWave s k.uid (progressed k)) =
      .park (.waitw (.waitw t x) words (wBytes t) (waitLeft s k x) false)
        (modWave (withLines (touchReads s rs) c) k.uid (waitParked k)) := by
  obtain ⟨c, e⟩ := dropWords_lines k.w.core (words.map fun v => (v.lane, v.pa, v.m)) (modWave (touchReads s rs) k.uid (progressed k))
  have hp : (if turnWave k.w then (withLines (modWave (touchReads s rs) k.uid (progressed k)) c, words)
      else pollWords (withLines (modWave (touchReads s rs) k.uid (progressed k)) c) (wBytes t) words) =
        (withLines (modWave (touchReads s rs) k.uid (progressed k)) c, words) := by
    rw [pollWords_unpolled _ _ hpoll, ite_self]
  refine ⟨c, ?_⟩
  unfold waitTest
  dsimp only
  rw [hnot, if_neg Bool.false_ne_true, touchReads_modWave, e, hp]
  refine congrArg (Eff.park _) ?_
  show modWave (modWave (withLines (touchReads s rs) c) k.uid (progressed k)) k.uid _ = _
  rw [modWave_modWave]
  rfl

end

/-! How `JOIN` and `WAITW` end. -/

/-- A byte of a leaf entry of an active lane's word. -/
def LeafRead (s : State) (k : Issue) (leaf : Nat → Nat) (a : Nat) : Prop := ∃ l, l < 64 ∧ (k.act s).getLsbD l = true ∧ a = leaf l

/-- Of what has read words, only bytes of their leaves, copies of lines and the wave differ. -/
def WordsRead (s r : State) (k : Issue) (leaf : Nat → Nat) : Prop :=
  (∃ h, r = { s with
    mem := r.mem, undefMem := r.undefMem, waves := r.waves, free := r.free, hub := { s.hub with lineCopies := h } }) ∧
  (∀ v, v ≠ k.uid → assocGet r.waves v = assocGet s.waves v) ∧
  ∀ a, (∀ l, l < 64 → (k.act s).getLsbD l = true → a ≠ leaf l) → memRead r.mem a = memRead s.mem a

theorem LeavesOnly.wordsRead {s t r : State} {k : Issue} {leaf : Nat → Nat} (h : LeavesOnly s t (LeafRead s k leaf))
    (hr : OnlyWave t r k.uid) : WordsRead s r k leaf := by
  obtain ⟨heq, hother, hmem⟩ := h.onlyWave hr
  exact ⟨heq, hother, fun a ha => hmem a fun ⟨l, hl, hact, e⟩ => ha l hl hact e⟩

theorem leavesOnly_goodReads (s : State) (k : Issue) (va : Nat → VA) (pa leaf : Nat → Nat) :
    LeavesOnly s (touchReads s (goodReads s k va pa leaf)) (LeafRead s k leaf) :=
  leavesOnly_touchReads fun l hl => ⟨l, (mem_actList.1 hl).1, (mem_actList.1 hl).2, rfl⟩

section
variable {i : Instr} {s T : State} {k : Issue} {leaf : Nat → Nat} {G : Wave → Wave} (hk : getIssue s = some k)
  (hT : LeavesOnly s T (LeafRead s k leaf))
include hk hT

/-- A change of the wave that retires in the state that reading leaves. -/
theorem words_done (hG : (G k.w).frag? k.lead = some k.f) :
    let r := (Eff.done (modWave T k.uid G)).finish i k
    WordsRead s r k leaf ∧ assocGet r.waves k.uid = some (retiredWave i T.cycle k (G k.w)) ∧
      (retiredWave i T.cycle k (G k.w)).frag? k.lead = some (k.f.retired i T.cycle) := by
  refine ⟨hT.wordsRead (done_onlyWave i T k G).1, (done_waves hk hT.waves hG).1, ?_⟩
  rw [retiredWave_frag?, if_pos rfl, hG]
  rfl

/-- A change of the wave that parks in it. -/
theorem words_park (p : Park) (g : Frag → Frag) (hg : ∀ f, (g f).quads = f.quads) :
    let r := (Eff.park p (modWave T k.uid fun w => (progressed k w).modFrag k.lead g)).finish i k
    WordsRead s r k leaf ∧ ∃ w', assocGet r.waves k.uid = some w' ∧ w'.regs = k.w.regs ∧ w'.mask = k.w.mask ∧ w'.cc = k.w.cc ∧
      w'.frag? k.lead = some { g k.f with park := p, retry := true, waited := 0, promoted := none } := by
  have hfrag : ((progressed k k.w).modFrag k.lead g).frag? k.lead = some (g k.f) := by
    rw [modFrag_frag? _ _ _ _ hg, if_pos rfl, progressed_frag?, (getIssue_spec hk).2.2.1]
    rfl
  obtain ⟨ho, w', hw', e, hf⟩ := park_waves (i := i) p (fun w => (progressed k w).modFrag k.lead g) hk hT.waves hfrag
  refine ⟨hT.wordsRead ho, w', hw', ?_, ?_, ?_, hf⟩ <;>
    (rw [e]; simp)

end

/-! `JOIN`. -/

/-- What a `JOIN` that returns leaves. -/
def JoinReturned (s : State) (g : BitVec 2) (d a : Reg) (k : Issue) (pa leaf : Nat → Nat) (r : State) : Prop :=
  WordsRead s r k leaf ∧ ∃ w' f', assocGet r.waves k.uid = some w' ∧ w'.frag? k.lead = some f' ∧ f'.park = .none ∧
    f'.pc = k.f.pc + BitVec.ofNat 80 (2 * (Instr.join g d a).parcels) ∧
    RegsHold k.w w' d.toNat (k.act s) (fun l => [BitVec.ofNat 32 (memNat s.mem (pa l) 4)]) ∧
    w'.mask = k.w.mask ∧ w'.cc.n = k.w.cc.n ∧ w'.cc.v = k.w.cc.v ∧
    ∀ q, q < 16 →
      if k.f.quads.getLsbD q = true then
        (w'.cc.z.getLsbD q = true ↔ ∀ l, l / 4 = q → (k.act s).getLsbD l = false) ∧
        (w'.cc.c.getLsbD q = true ↔ ∃ l, l / 4 = q ∧ (k.act s).getLsbD l = true ∧ 2 ^ 31 ≤ memNat s.mem (pa l) 4)
      else w'.cc.z.getLsbD q = k.w.cc.z.getLsbD q ∧ w'.cc.c.getLsbD q = k.w.cc.c.getLsbD q

section
variable {g : BitVec 2} {d a : Reg} {s : State} {k : Issue} {pa leaf : Nat → Nat}

theorem joinReturned_of {T : State} {G : Wave → Wave} (hk : getIssue s = some k) (hT : LeavesOnly s T (LeafRead s k leaf))
    (hrun : exec (.join g d a) s = .next ((Eff.done (modWave T k.uid G)).finish (.join g d a) k))
    (hfrags : (G k.w).frags = k.w.frags) (hmask : (G k.w).mask = k.w.mask)
    (hcc : (G k.w).cc = joinCodes s k (wordsHeld s k 4 pa) k.w.cc)
    (hregs : RegsHold k.w (G k.w) d.toNat (k.act s) fun l => [BitVec.ofNat 32 (memNat s.mem (pa l) 4)]) :
    Completes (.join g d a) s (JoinReturned s g d a k pa leaf) := by
  have hfr : (G k.w).frag? k.lead = some k.f := by
    unfold Wave.frag?
    rw [hfrags]
    exact (getIssue_spec hk).2.2.1
  obtain ⟨hread, hw, hf⟩ := words_done (i := .join g d a) hk hT hfr
  have hcc' : (retiredWave (.join g d a) T.cycle k (G k.w)).cc = joinCodes s k (wordsHeld s k 4 pa) k.w.cc := hcc
  refine ⟨_, hrun, hread, _, _, hw, hf, rfl, rfl, hregs.retired _ _ _, hmask, ?_, ?_, fun q hq => ?_⟩
  · rw [hcc']; rfl
  · rw [hcc']; rfl
  · rw [hcc']
    exact joinCodes_get s k pa k.w.cc hq

theorem joinCodes_idle (ha : k.act s = 0) (cc : CC) :
    joinCodes s k (wordsHeld s k 4 pa) cc = zcCC cc k.f.quads (fun _ => true) fun _ => false := by
  have hnone : ∀ l, (k.act s).getLsbD l = false := fun l => by rw [ha]; exact BitVec.getLsbD_zero
  have hz : (fun q => quadBits (k.act s) q == 0) = fun _ => true :=
    funext fun q => (quadBits_zero _ _).2 fun l _ => hnone l
  have hc : ∀ q, (wordsHeld s k 4 pa).any (fun r => r.1 / 4 == q && r.2.2.getLsbD 31) = false := fun q =>
    Bool.eq_false_iff.2 fun h => by
      obtain ⟨l, -, hl, -⟩ := (any_wordsHeld _).1 h
      rw [hnone] at hl
      cases hl
  unfold joinCodes
  rw [hz, funext hc]

section
variable (h : MayRun (.join g d a) s k)
include h

theorem join_idleReturns (ha : k.act s = 0) : Completes (.join g d a) s (JoinReturned s g d a k pa leaf) := by
  have hnone : ∀ l, (k.act s).getLsbD l = false := fun l => by rw [ha]; exact BitVec.getLsbD_zero
  have hrun := join_idle h ha
  rw [progress_eq, writeQuadCC, modWave_modWave] at hrun
  refine joinReturned_of h.1 (.refl s _) hrun ?_ ?_ ?_ ⟨fun l j v _ hl => ?_, fun l r _ _ => held_of_regs ?_⟩
  · exact progressed_frags k k.w
  · exact progressed_mask k k.w
  · rw [joinCodes_idle ha, ← progressed_cc k k.w]
    rfl
  · rw [hnone] at hl
    cases hl
  · exact progressed_regs k k.w

variable (hleft : k.act s ≠ 0 → ¬SpawnsLeft k)
  (hgood : ReadsGood s k 4 (tripleBad s k.w a.toNat) (readTriple s k.w a.toNat) pa leaf)
  (hword : ∀ l, l < 64 → (k.act s).getLsbD l = true → memNat s.mem (pa l) 4 / 2 ^ 24 % 2 ^ 7 = 0)
  (hfree : ReadsFree s k (k.act s) 4 pa (readTriple s k.w a.toNat))
include hleft hgood hword hfree

theorem join_parks (hex : ∃ l, l < 64 ∧ (k.act s).getLsbD l = true ∧ memNat s.mem (pa l) 4 % 2 ^ 24 ≠ 0) :
    Completes (.join g d a) s fun r => WordsRead s r k leaf ∧ ∃ w' f' ps, assocGet r.waves k.uid = some w' ∧
      w'.frag? k.lead = some f' ∧ f'.pc = k.f.pc ∧ f'.park = .join ps ∧ w'.regs = k.w.regs ∧
      ∀ x, x ∈ ps ↔ ∃ l, l < 64 ∧ (k.act s).getLsbD l = true ∧ x = pa l := by
  have ha : k.act s ≠ 0 := fun h0 => by
    obtain ⟨l, -, hl, -⟩ := hex
    rw [h0] at hl
    exact Bool.false_ne_true (BitVec.getLsbD_zero.symm.trans hl)
  have hrun := join_tests h ha (hleft ha) hgood hfree
  have hT := leavesOnly_goodReads s k (readTriple s k.w a.toNat) pa leaf
  generalize touchReads s (goodReads s k (readTriple s k.w a.toNat) pa leaf) = T at hrun hT
  obtain ⟨c, e⟩ := dropWords_lines k.w.core (wordsHeld s k 4 pa) (modWave T k.uid (progressed k))
  have hmod : modFrag (withLines (modWave T k.uid (progressed k)) c) k.uid k.lead (fun f => { f with closed := true }) =
      modWave (withLines T c) k.uid fun w => (progressed k w).modFrag k.lead fun f => { f with closed := true } :=
    modWave_modWave (withLines T c) k.uid (progressed k) _
  rw [joinTest_parks _ d hword hex, e, hmod] at hrun
  obtain ⟨hread, w', hw, hregs, -, -, hf⟩ := words_park (i := .join g d a) h.1 (hT.trans (leavesOnly_withLines T c _))
    (.join ((k.actList s).map pa)) (fun f => { f with closed := true }) fun _ => rfl
  refine ⟨_, hrun, hread, w', _, _, hw, hf, rfl, rfl, hregs, fun x => ?_⟩
  rw [List.mem_map]
  exact ⟨fun ⟨l, hl, e⟩ => ⟨l, (mem_actList.1 hl).1, (mem_actList.1 hl).2, e.symm⟩,
    fun ⟨l, h64, hl, e⟩ => ⟨l, mem_actList.2 ⟨h64, hl⟩, e.symm⟩⟩

theorem join_returns (hall : ∀ l, l < 64 → (k.act s).getLsbD l = true → memNat s.mem (pa l) 4 % 2 ^ 24 = 0) :
    Completes (.join g d a) s (JoinReturned s g d a k pa leaf) := by
  by_cases ha : k.act s = 0
  · exact join_idleReturns h ha
  have hrun := join_tests h ha (hleft ha) hgood hfree
  have hT := leavesOnly_goodReads s k (readTriple s k.w a.toNat) pa leaf
  generalize touchReads s (goodReads s k (readTriple s k.w a.toNat) pa leaf) = T at hrun hT
  have hmod : modWave (dropCopies (modWave T k.uid (progressed k)) k.w.core) k.uid
      (returned s k d (wordOf (wordsHeld s k 4 pa)) (joinCodes s k (wordsHeld s k 4 pa))) =
      modWave (dropCopies T k.w.core) k.uid
        (returned s k d (wordOf (wordsHeld s k 4 pa)) (joinCodes s k (wordsHeld s k 4 pa)) ∘ progressed k) :=
    modWave_modWave (dropCopies T k.w.core) k.uid (progressed k) _
  rw [joinTest_returns (modWave T k.uid (progressed k)) d hword hT.cycle hT.free hall, hmod] at hrun
  have honly := returned_only s k d (wordOf (wordsHeld s k 4 pa)) (joinCodes s k (wordsHeld s k 4 pa)) (progressed k k.w)
  refine joinReturned_of h.1 (hT.trans (leavesOnly_withLines T _ _)) hrun ?_ ?_ ?_ ?_
  · show (returned s k d _ _ (progressed k k.w)).frags = _
    rw [honly]; simp
  · show (returned s k d _ _ (progressed k k.w)).mask = _
    rw [honly]; simp
  · show (returned s k d _ _ (progressed k k.w)).cc = _
    rw [honly]; simp
  · refine (lanesWritten_regs (.join g d a) d 1 bInt (wordOf (wordsHeld s k 4 pa)) h.1).congr ?_ fun l hl hact => ?_
    · exact lanesWritten_regs_congr s k d 1 bInt _ (progressed_regs k k.w)
    · rw [wordOf_wordsHeld hl hact, valWords_ofNat]

end
end

/-! `WAITW`. -/

section
variable {t : WTy} {x : Long} {s : State} {k : Issue} {pa leaf : Nat → Nat} (h : MayRun (.waitw t x) s k)
  (ha : k.act s ≠ 0) (ht : k.turn s = true)
  (hgood : ReadsGood s k (wBytes t) (fun l => tripleBad s k.w x.a.toNat (permA x.perm l))
    (fun l => readTriple s k.w x.a.toNat (permA x.perm l)) pa leaf)
  (hfree : ReadsFree s k (k.act s) (wBytes t) pa fun l => readTriple s k.w x.a.toNat (permA x.perm l))
include h ha ht hgood hfree

theorem waitw_goes (hgo : ∀ l, l < 64 → (k.act s).getLsbD l = true →
      BitVec.ofNat 64 (memNat s.mem (pa l) (wBytes t)) ≠ srcB s k.w x .int t.regs l) :
    Completes (.waitw t x) s fun r => WordsRead s r k leaf ∧ ∃ w' f', assocGet r.waves k.uid = some w' ∧
      w'.frag? k.lead = some f' ∧ w'.mask = k.w.mask ∧ w'.cc = k.w.cc ∧ f'.park = .none ∧
      f'.pc = k.f.pc + BitVec.ofNat 80 (2 * (Instr.waitw t x).parcels) ∧
      RegsHold k.w w' x.d.toNat (k.act s) fun l => valWords t.regs (BitVec.ofNat 64 (memNat s.mem (pa l) (wBytes t))) := by
  have hrun := waitw_tests h ha ht hgood hfree
  have hT := leavesOnly_goodReads s k (fun l => readTriple s k.w x.a.toNat (permA x.perm l)) pa leaf
  have honly := waitGone_only s k x.d t.regs (wordAt (waitedWords s k t x pa)) k.w
  have hregs := waitGone_regs (.waitw t x) x.d t.regs (wordAt (waitedWords s k t x pa)) h.1
  rw [waitTest_goes hT (waitedWords_all.2 hgo)] at hrun
  generalize waitGone s k x.d t.regs (wordAt (waitedWords s k t x pa)) = G at hrun honly hregs
  have hfr : (G k.w).frag? k.lead = some k.f := by
    unfold Wave.frag?
    rw [honly]
    exact (getIssue_spec h.1).2.2.1
  obtain ⟨hread, hw, hf⟩ := words_done (i := .waitw t x) h.1 (hT.trans (leavesOnly_withLines _ _ _)) hfr
  refine ⟨_, hrun, hread, _, _, hw, hf, ?_, ?_, rfl, rfl, (hregs.congr rfl fun l hl hact => ?_).retired _ _ _⟩
  · rw [retiredWave_only, honly]
  · rw [retiredWave_only, honly]
  · unfold wordAt waitedWords
    rw [find_waitedWord (mem_actList.2 ⟨hl, hact⟩)]
    rfl

theorem waitw_parks (hnot : ¬∀ l, l < 64 → (k.act s).getLsbD l = true →
      BitVec.ofNat 64 (memNat s.mem (pa l) (wBytes t)) ≠ srcB s k.w x .int t.regs l) :
    Completes (.waitw t x) s fun r => WordsRead s r k leaf ∧ ∃ w' f', assocGet r.waves k.uid = some w' ∧
      w'.frag? k.lead = some f' ∧ w'.mask = k.w.mask ∧ w'.cc = k.w.cc ∧ f'.pc = k.f.pc ∧ w'.regs = k.w.regs ∧ ∃ ws left,
        f'.park = .waitw (.waitw t x) ws (wBytes t) left false ∧
        (∀ y ∈ ws, y.pa = pa y.lane ∧ y.m = BitVec.ofNat 64 (memNat s.mem (pa y.lane) (wBytes t)) ∧
          (k.act s).getLsbD y.lane = true) ∧
        ((∀ i v n p q, k.f.park ≠ .waitw i v n p q) →
          left = if (srcC s k.w x 1 k.low).toNat = 0 then none else some (srcC s k.w x 1 k.low).toNat) := by
  have hrun := waitw_tests h ha ht hgood hfree
  have hT := leavesOnly_goodReads s k (fun l => readTriple s k.w x.a.toNat (permA x.perm l)) pa leaf
  have hpoll : ∀ y ∈ waitedWords s k t x pa, y.polled = false := fun y hy => waitedWord_polled hgood hy
  obtain ⟨c, e⟩ := waitTest_parks (t := t) (x := x) (k := k) (s := s)
    (rs := goodReads s k (fun l => readTriple s k.w x.a.toNat (permA x.perm l)) pa leaf) hpoll
    (Bool.eq_false_iff.2 fun hc => hnot (waitedWords_all.1 hc))
  rw [e] at hrun
  obtain ⟨hread, w', hw, hregs, hmask, hcc, hf⟩ := words_park (i := .waitw t x) h.1 (hT.trans (leavesOnly_withLines _ c _))
    (.waitw (.waitw t x) _ (wBytes t) (waitLeft s k x) false) (fun f => { f with wakeClock := 0, stall := 0 }) fun _ => rfl
  refine ⟨_, hrun, hread, w', _, hw, hf, hmask, hcc, rfl, hregs, _, _, rfl, fun y hy => ?_, waitLeft_first⟩
  obtain ⟨l, hl, rfl⟩ := List.mem_map.1 hy
  exact ⟨rfl, rfl, (mem_actList.1 hl).2⟩

end

/-- Settles O21: `JOIN` by its spawns and its counts, `WAITW` by its words. -/
theorem joinsAndWordWaits : Obligations.JoinsAndWordWaits := by
  refine ⟨fun g d a s k pa leaf h => ⟨fun ha hleft => ?_, fun hleft hreads hfree => ?_⟩,
    fun t x s k pa leaf h ha ht hgood hfree => ?_⟩
  · have hpark := park_result (i := .join g d a) (.spawns (joinUpto k)) (progressed k) h.1
      ((progressed_frag? k k.w k.lead).trans (getIssue_spec h.1).2.2.1)
    rw [← progress_eq] at hpark
    obtain ⟨ho, hb, w', hw, -, hf⟩ := hpark
    exact ⟨_, join_waits h ha hleft, ho, hb, w', _, hw, hf, rfl, rfl⟩
  · have hgood : ReadsGood s k 4 (tripleBad s k.w a.toNat) (readTriple s k.w a.toNat) pa leaf := fun l hl ha => by
      obtain ⟨h1, h2, h3, h4, h5, -⟩ := hreads l hl ha
      exact ⟨h1, h2, h3, h4, h5⟩
    have hword : ∀ l, l < 64 → (k.act s).getLsbD l = true → memNat s.mem (pa l) 4 / 2 ^ 24 % 2 ^ 7 = 0 := fun l hl ha => by
      obtain ⟨-, -, -, -, -, h6⟩ := hreads l hl ha
      exact h6
    exact ⟨join_parks h hleft hgood hword hfree, join_returns h hleft hgood hword hfree⟩
  · by_cases hgo : ∀ l, l < 64 → (k.act s).getLsbD l = true →
        BitVec.ofNat 64 (memNat s.mem (pa l) (wBytes t)) ≠ srcB s k.w x .int t.regs l
    · obtain ⟨r, hr, ⟨h1, h2, h3⟩, w', f', hw, hf, hmask, hcc, hend⟩ := waitw_goes h ha ht hgood hfree hgo
      exact ⟨r, hr, h1, h2, h3, w', f', hw, hf, hmask, hcc, fun _ => hend, fun hn => absurd hgo hn⟩
    · obtain ⟨r, hr, ⟨h1, h2, h3⟩, w', f', hw, hf, hmask, hcc, hend⟩ := waitw_parks h ha ht hgood hfree hgo
      exact ⟨r, hr, h1, h2, h3, w', f', hw, hf, hmask, hcc, fun hg => absurd hg hgo, fun _ => hend⟩

end Sys2Proof.Machine
end

section
/-!
SUPPORT. What `CSRW` does to the registers of the wave (04 R102, R103; 15 R374): one word of an 80-bit register, the value
that a write leaves, and the bound that every write opens.
-/

namespace Sys2Proof.Machine

/-! One word of an 80-bit register. -/

/-- The mask of word `n` holds its bits and no other. -/
theorem vaMask_bit {n j : Nat} (hn : n < 3) (hj : j < 80) :
    (if n < 2 then (0xFFFFFFFF : VA) <<< (32 * n) else (0xFFFF : VA) <<< 64).getLsbD j = decide (32 * n ≤ j ∧ j < 32 * n + 32) :=
  have all : ∀ n : Fin 3, ∀ j : Fin 80, (if n.val < 2 then (0xFFFFFFFF : VA) <<< (32 * n.val) else (0xFFFF : VA) <<< 64).getLsbD j =
      decide (32 * n.val ≤ j.val ∧ j.val < 32 * n.val + 32) := by decide +kernel
  all ⟨n, hn⟩ ⟨j, hj⟩

/-- Bit `j` of word `n` is that of the new word, every other bit that of the old register. -/
theorem vaPut_bit (a : VA) {n : Nat} (v : Word) (hn : n < 3) {j : Nat} (hj : j < 80) :
    (vaPut a n v).getLsbD j = if 32 * n ≤ j ∧ j < 32 * n + 32 then v.getLsbD (j - 32 * n) else a.getLsbD j := by
  unfold vaPut
  dsimp only
  rw [BitVec.getLsbD_or, BitVec.getLsbD_and, BitVec.getLsbD_and, BitVec.getLsbD_not, vaMask_bit hn hj, BitVec.getLsbD_shiftLeft,
    BitVec.getLsbD_setWidth]
  by_cases h : 32 * n ≤ j ∧ j < 32 * n + 32
  · simp [h, hj, show j - 32 * n < 80 by omega]
  · simp [h, hj]

theorem vaPut_zero (a : VA) (v : Word) : vaPut a 0 v = a.extractLsb' 32 48 ++ v := by
  refine BitVec.eq_of_getLsbD_eq fun j hj => ?_
  rw [vaPut_bit a v (by norm_num) hj, BitVec.getLsbD_append]
  grind

theorem vaPut_one (a : VA) (v : Word) : vaPut a 1 v = a.extractLsb' 64 16 ++ v ++ a.extractLsb' 0 32 := by
  refine BitVec.eq_of_getLsbD_eq fun j hj => ?_
  rw [vaPut_bit a v (by norm_num) hj, BitVec.getLsbD_append, BitVec.getLsbD_append]
  grind

theorem vaPut_two (a : VA) (v : Word) : vaPut a 2 v = v.extractLsb' 0 16 ++ a.extractLsb' 0 64 := by
  refine BitVec.eq_of_getLsbD_eq fun j hj => ?_
  rw [vaPut_bit a v (by norm_num) hj, BitVec.getLsbD_append]
  grind

/-! The registers of the wave. -/

/-- The numbers of the registers that a `CSRW` writes in its wave (04 R102). -/
def waveCsrs : List Nat := [0x010, 0x011, 0x012, 0x013, 0x014, 0x020, 0x021]

/-- The wave with register `n` written. -/
def waveCsrSet (s : State) (w : Wave) (n : Nat) (v : Word) : Wave :=
  { w with
    tlm := if n = 0x010 then w.tlm.extractLsb' 32 32 ++ v
      else if n = 0x011 then v ++ w.tlm.extractLsb' 0 32 else w.tlm
    tpc := if n = 0x012 then w.tpc.extractLsb' 32 48 ++ (v &&& ~~~1)
      else if n = 0x013 then w.tpc.extractLsb' 64 16 ++ v ++ w.tpc.extractLsb' 0 32
      else if n = 0x014 then v.extractLsb' 0 16 ++ w.tpc.extractLsb' 0 64 else w.tpc
    fpmode := if n = 0x021 then v &&& fpmodeBits else w.fpmode
    fpstat := if n = 0x020 then v &&& fpstatBits else w.fpstat
    fpPend := if n = 0x020 then (writeFpstat s w v).fpPend else w.fpPend }

theorem csrPutWave_some (s : State) (w : Wave) {n : Nat} (v : Word) (h : n ∈ waveCsrs) :
    csrPutWave s w n v = some (waveCsrSet s w n v) := by
  simp only [waveCsrs, List.mem_cons, List.not_mem_nil, or_false] at h
  obtain rfl | rfl | rfl | rfl | rfl | rfl | rfl := h
  case inr.inr.inl => exact congrArg (fun a => some { w with tpc := a }) (vaPut_zero _ _)
  case inr.inr.inr.inl => exact congrArg (fun a => some { w with tpc := a }) (vaPut_one _ _)
  case inr.inr.inr.inr.inl => exact congrArg (fun a => some { w with tpc := a }) (vaPut_two _ _)
  all_goals rfl

theorem csrPutWave_none (s : State) (w : Wave) {n : Nat} (v : Word) (h : n ∉ waveCsrs) : csrPutWave s w n v = none := by
  simp only [waveCsrs, List.mem_cons, List.not_mem_nil, or_false, not_or] at h
  obtain ⟨h1, h2, h3, h4, h5, h6, h7⟩ := h
  unfold csrPutWave
  split
  case h_8 => rfl
  all_goals contradiction

/-- Another fragment's write of register `n` remains, and not this one (04 R103; assumption 52). -/
def csrLost (s : State) (k : Issue) (n : Nat) : Bool :=
  ((assocGet k.w.csrOwner n).any fun q => q &&& k.f.quads == 0) && Config.freeBit s.free (61000 + n)

/-- The wave with the bound of the write opened: until it passes, register `n` also reads as `old`. -/
def csrPended (s : State) (k : Issue) (n : Nat) (old : Word) (w : Wave) : Wave :=
  { w with csrPend := (n, old, s.cycle + bInt, k.f.quads) :: w.csrPend.filter fun p => decide (s.cycle < p.2.2.1),
           boundMax := max w.boundMax (s.cycle + bInt) }

theorem csrLost_rival {s : State} {k : Issue} {n : Nat} (h : csrLost s k n = true) :
    ∃ q, assocGet k.w.csrOwner n = some q ∧ q &&& k.f.quads = 0 := by
  simpa [csrLost, Option.any_eq_true] using (Bool.and_eq_true_iff.1 h).1

/-- The issuing wave with register `n` written: where the write is `lost`, its value stays only as what the register may still
read as; otherwise the value before does, and the fragment's write is the one that stands. -/
def csrWave (s : State) (k : Issue) (n : Nat) (v : Word) (lost : Bool) : Wave :=
  match lost with
  | true => csrPended s k n (waveCsr s (waveCsrSet s k.w n v) n) k.w
  | false => csrPended s k n (waveCsr s k.w n) { waveCsrSet s k.w n v with csrOwner := assocSet k.w.csrOwner n k.f.quads }

theorem csrWave_only (s : State) (k : Issue) (n : Nat) (v : Word) (lost : Bool) : let w := csrWave s k n v lost
    w = { k.w with tlm := w.tlm, tpc := w.tpc, fpstat := w.fpstat, fpmode := w.fpmode, fpPend := w.fpPend, csrPend := w.csrPend,
                   csrOwner := w.csrOwner, boundMax := w.boundMax } := by
  cases lost <;> rfl

/-- Bounds that still run stay open. -/
theorem mem_csrWave {s : State} {k : Issue} {p : Nat × Word × Nat × QuadMask} (n : Nat) (v : Word) (lost : Bool) (hp : p ∈ k.w.csrPend)
    (hb : s.cycle < p.2.2.1) : p ∈ (csrWave s k n v lost).csrPend := by
  cases lost <;> exact List.mem_cons_of_mem _ (List.mem_filter.2 ⟨hp, decide_eq_true hb⟩)

theorem csrWrite_wave (s : State) (k : Issue) {n : Nat} (sup : Bool) (v : Word) (hn : n ∈ waveCsrs) :
    csrWrite s k sup n v = setWave s k.uid (csrWave s k n v (csrLost s k n)) := by
  have hlost : csrLost s k n = (((assocGet k.w.csrOwner n).any fun q => q &&& k.f.quads == 0) && Config.freeBit s.free (61000 + n)) := rfl
  unfold csrWrite
  rw [csrPutWave_some s k.w v hn]
  dsimp only
  rw [← hlost]
  cases csrLost s k n <;> rfl

/-! Retirement leaves the control registers of the wave. -/

section
variable (i : Instr) (cycle : Nat) (k : Issue) (w : Wave)

@[simp] theorem retiredWave_tlm : (retiredWave i cycle k w).tlm = w.tlm := rfl
@[simp] theorem retiredWave_tpc : (retiredWave i cycle k w).tpc = w.tpc := rfl
@[simp] theorem retiredWave_fpstat : (retiredWave i cycle k w).fpstat = w.fpstat := rfl
@[simp] theorem retiredWave_fpmode : (retiredWave i cycle k w).fpmode = w.fpmode := rfl
@[simp] theorem retiredWave_fpPend : (retiredWave i cycle k w).fpPend = w.fpPend := rfl
@[simp] theorem retiredWave_csrPend : (retiredWave i cycle k w).csrPend = w.csrPend := rfl
@[simp] theorem retiredWave_csrOwner : (retiredWave i cycle k w).csrOwner = w.csrOwner := rfl

end

/-- An instruction that leaves `w` as its wave, with the fragments and clocks of issue, and retires. -/
theorem setWave_retired (i : Instr) {s : State} {k : Issue} {w : Wave} (hk : getIssue s = some k) (hf : w.frags = k.w.frags)
    (hc : w.clocks = k.w.clocks) :
    let t := (Eff.done (setWave s k.uid w)).finish i k
    OnlyWave s t k.uid ∧ SameBytes s t ∧ assocGet t.waves k.uid = some (retiredWave i s.cycle k w) ∧
      Advanced i k (retiredWave i s.cycle k w) := by
  obtain ⟨hget, hother⟩ := retire_waves (i := i) hk (s1 := setWave s k.uid w) (assocGet_set_same _ _ _) hf
  exact ⟨⟨rfl, fun u hu => (hother u hu).trans (assocGet_set_other _ _ _ _ hu)⟩, ⟨fun _ => rfl, rfl⟩, hget,
    advanced_retiredWave _ hk hf hc⟩

end Sys2Proof.Machine
end

section
/-!
SUPPORT. What `CSRW` does to the registers of the context (04 R101 to R103; 11 R278, R281): the fields that each view writes,
and what a write of `PREQ`.REQ withdraws or wakes.
-/

namespace Sys2Proof.Machine

/-! The fields of the context. -/

/-- The view writes the register of the context (04 R101, R102). -/
def csrActs (sup : Bool) (n : Nat) : Prop :=
  n ∈ [0x019, 0x01A, 0x01B] ∨ (sup = true ∧ n ∈ [0x036, 0x040, 0x041, 0x042, 0x043, 0x050])

/-- The context with the word of register `n` written through the view. -/
def ctxCsrSet (sup : Bool) (c : Context) (n : Nat) (v : Word) : Context :=
  { c with
    trapbase := if n = 0x019 then c.trapbase.extractLsb' 32 48 ++ (v &&& ~~~1)
      else if n = 0x01A then c.trapbase.extractLsb' 64 16 ++ v ++ c.trapbase.extractLsb' 0 32
      else if n = 0x01B then v.extractLsb' 0 16 ++ c.trapbase.extractLsb' 0 64 else c.trapbase
    bintmr := if sup = true ∧ n = 0x036 then v.extractLsb' 0 16 else c.bintmr
    preq := if sup = true ∧ n = 0x040 then v.getLsbD 0 else c.preq
    pdl := if sup = true ∧ n = 0x041 then v.extractLsb' 0 24 else c.pdl
    share := if sup = true ∧ n = 0x042 then v.extractLsb' 0 8 else c.share
    wdlim := if sup = true ∧ n = 0x043 then v.extractLsb' 0 24 else c.wdlim
    detmode := if sup = true ∧ n = 0x050 then v.getLsbD 0 else c.detmode }

theorem csrPutCtx_some {sup : Bool} (c : Context) {n : Nat} (v : Word) (h : csrActs sup n) (hn : n ≠ 0x040) :
    csrPutCtx sup c n v = some (ctxCsrSet sup c n v) := by
  simp only [csrActs, List.mem_cons, List.not_mem_nil, or_false] at h
  obtain (rfl | rfl | rfl) | ⟨rfl, h⟩ := h
  · simp [csrPutCtx, ctxCsrSet, vaPut_zero]
  · simp [csrPutCtx, ctxCsrSet, vaPut_one]
  · simp [csrPutCtx, ctxCsrSet, vaPut_two]
  · obtain rfl | rfl | rfl | rfl | rfl | rfl := h
    case inr.inr.inl => exact absurd rfl hn
    all_goals rfl

theorem csrPutCtx_none {sup : Bool} (c : Context) {n : Nat} (v : Word) (h : ¬csrActs sup n) : csrPutCtx sup c n v = none := by
  unfold csrPutCtx
  split
  case h_1 | h_2 | h_3 => exact absurd (Or.inl (by decide)) h
  case h_9 => rfl
  all_goals exact if_neg fun hs => h (Or.inr ⟨hs, by decide⟩)

theorem ctxCsrSet_idle {sup : Bool} (c : Context) {n : Nat} (v : Word) (h : ¬csrActs sup n) : ctxCsrSet sup c n v = c := by
  obtain ⟨hany, hsup⟩ := not_or.1 h
  have htrap : n ≠ 0x019 ∧ n ≠ 0x01A ∧ n ≠ 0x01B := by simpa using hany
  have hfield : ∀ m ∈ [0x036, 0x040, 0x041, 0x042, 0x043, 0x050], ¬(sup = true ∧ n = m) := fun m hm hn => hsup ⟨hn.1, hn.2 ▸ hm⟩
  unfold ctxCsrSet
  rw [if_neg htrap.1, if_neg htrap.2.1, if_neg htrap.2.2, if_neg (hfield 0x036 (by decide)), if_neg (hfield 0x040 (by decide)),
    if_neg (hfield 0x041 (by decide)), if_neg (hfield 0x042 (by decide)), if_neg (hfield 0x043 (by decide)),
    if_neg (hfield 0x050 (by decide))]

/-- The context with the bound of the write opened: until it passes, register `n` also reads as before. -/
def ctxCsrPended (s : State) (k : Issue) (n : Nat) (c : Context) : Context :=
  { c with csrPend := (n, contextCsr k.c n, k.uid, s.cycle + bInt, s.cycle + bInt + 64) ::
      c.csrPend.filter fun p => decide (s.cycle < p.2.2.2.2) }

/-- The wave with the bound of the write opened. -/
def csrBounded (s : State) (w : Wave) : Wave := { w with boundMax := max w.boundMax (s.cycle + bInt) }

theorem csrWrite_idle (s : State) (k : Issue) {sup : Bool} {n : Nat} (v : Word) (hn : n ∉ waveCsrs) (ha : ¬csrActs sup n) :
    csrWrite s k sup n v = s := by
  unfold csrWrite
  rw [csrPutWave_none s k.w v hn, csrPutCtx_none k.c v ha]
  dsimp only
  split
  · rename_i h
    subst h
    exact if_neg fun hs => ha (Or.inr ⟨hs, by decide⟩)
  · rfl

theorem csrWrite_field (s : State) (k : Issue) {sup : Bool} {n : Nat} (v : Word) (hn : n ∉ waveCsrs) (ha : csrActs sup n)
    (hp : n ≠ 0x040) : csrWrite s k sup n v =
      setCtx (modWave s k.uid (csrBounded s)) k.w.ctx (ctxCsrPended s k n (ctxCsrSet sup k.c n v)) := by
  unfold csrWrite
  rw [csrPutWave_none s k.w v hn, csrPutCtx_some k.c v ha hp]
  exact if_neg hp

theorem csrWrite_preq (s : State) (k : Issue) (v : Word) : csrWrite s k true 0x040 v =
    setReq (modCtx (modWave s k.uid (csrBounded s)) k.w.ctx (ctxCsrPended s k 0x040)) k.w.ctx (v.getLsbD 0) := rfl

/-! `PREQ`.REQ written (11 R278, R281). -/

/-- A fragment that waits at a pre-emption point goes on. -/
def preemptWoken (cycle : Nat) (f : Frag) : Frag :=
  if f.park = .preempt then { f with park := .none, stamp := cycle, readyAt := max f.readyAt (cycle + 1) } else f

theorem preemptWoken_keeps (cycle : Nat) (f : Frag) : (preemptWoken cycle f).quads = f.quads ∧ (preemptWoken cycle f).pc = f.pc := by
  unfold preemptWoken
  split <;> exact ⟨rfl, rfl⟩

/-- A wave of context `x`, with its fragments that wait at a pre-emption point woken where `wakes` says so. -/
def reqWoken (wakes : Bool) (x cycle : Nat) (w : Wave) : Wave :=
  if wakes = true ∧ w.ctx = x then { w with frags := w.frags.map (preemptWoken cycle) } else w

/-- A grid of context `x`, with its waiting clusters withdrawn where `draws` says so (04 R97). -/
def reqDrawn (draws : Bool) (x : Nat) (gr : Grid) : Grid := if draws = true ∧ gr.ctx = x then { gr with waits := [] } else gr

/-- The context with REQ written. -/
def reqSet (on : Bool) (c : Context) : Context := { c with preq := on, reqAge := if on && !c.preq then 0 else c.reqAge }

theorem wakePreempt_get (s : State) (x u : Nat) :
    assocGet (wakePreempt s x).waves u = (assocGet s.waves u).map (reqWoken true x s.cycle) := by
  refine Eq.trans ?_ (assocGet_mapVal s.waves (fun _ w => reqWoken true x s.cycle w) u)
  unfold wakePreempt
  dsimp only
  congr 2
  funext e
  unfold reqWoken
  by_cases h : e.2.ctx = x
  · rw [if_pos h, if_pos ⟨rfl, h⟩]
    rfl
  · rw [if_neg h, if_neg fun h' => h h'.2]

theorem withdraw_get (s : State) (x j : Nat) : assocGet (withdraw s x).grids j = (assocGet s.grids j).map (reqDrawn true x) := by
  refine Eq.trans ?_ (assocGet_mapVal s.grids (fun _ gr => reqDrawn true x gr) j)
  unfold withdraw
  dsimp only
  congr 2
  funext e
  unfold reqDrawn
  by_cases h : e.2.ctx = x
  · rw [if_pos h, if_pos ⟨rfl, h⟩]
  · rw [if_neg h, if_neg fun h' => h h'.2]

theorem reqWoken_false (x cycle : Nat) : reqWoken false x cycle = id := funext fun _ => if_neg fun h => Bool.false_ne_true h.1

theorem reqDrawn_false (x : Nat) : reqDrawn false x = id := funext fun _ => if_neg fun h => Bool.false_ne_true h.1

theorem reqWoken_only (wakes : Bool) (x cycle : Nat) (w : Wave) :
    reqWoken wakes x cycle w = { w with frags := (reqWoken wakes x cycle w).frags } := by
  unfold reqWoken
  split <;> rfl

theorem reqDrawn_only (draws : Bool) (x : Nat) (gr : Grid) :
    reqDrawn draws x gr = { gr with waits := (reqDrawn draws x gr).waits } := by
  unfold reqDrawn
  split <;> rfl

/-- The fragments of a woken wave stand where they stood. -/
theorem reqWoken_frag? (wakes : Bool) (x cycle : Nat) {w : Wave} {q : Nat} {f : Frag} (h : w.frag? q = some f) :
    ∃ f', (reqWoken wakes x cycle w).frag? q = some f' ∧ f'.quads = f.quads ∧ f'.pc = f.pc := by
  unfold reqWoken
  split
  · refine ⟨_, (frag?_map w.frags q (preemptWoken cycle) fun g => (preemptWoken_keeps cycle g).1).trans (congrArg _ h), ?_⟩
    exact preemptWoken_keeps cycle f
  · exact ⟨f, h, rfl, rfl⟩

/-- A write of REQ: the context's waiting clusters withdrawn where it is set, its parked fragments woken where that is due. -/
theorem setReq_cases {s : State} {x : Nat} {c : Context} (on : Bool) (hc : assocGet s.ctxs x = some c) :
    ∃ wakes : Bool, setReq s x on =
      (fun t => if wakes then wakePreempt t x else t) (modCtx (if on then withdraw s x else s) x (reqSet on)) := by
  unfold setReq
  rw [hc]
  exact ⟨_, rfl⟩

theorem setReq_effect {s : State} {x : Nat} {c : Context} (on : Bool) (hc : assocGet s.ctxs x = some c) :
    let t := setReq s x on
    t = { s with waves := t.waves, ctxs := t.ctxs, grids := t.grids, cores := t.cores } ∧ t.ctxs = assocMod s.ctxs x (reqSet on) ∧
    (∃ wakes, ∀ u, assocGet t.waves u = (assocGet s.waves u).map (reqWoken wakes x s.cycle)) ∧
    ∀ j, assocGet t.grids j = (assocGet s.grids j).map (reqDrawn on x) := by
  obtain ⟨wakes, h⟩ := setReq_cases on hc
  have hid : ∀ m : Option Wave, m = m.map (reqWoken false x s.cycle) := fun m => by rw [reqWoken_false, Option.map_id_apply]
  have hgid : ∀ m : Option Grid, m = m.map (reqDrawn false x) := fun m => by rw [reqDrawn_false, Option.map_id_apply]
  dsimp only
  rw [h]
  cases wakes <;> cases on
  · exact ⟨rfl, rfl, ⟨false, fun u => hid _⟩, fun j => hgid _⟩
  · exact ⟨rfl, rfl, ⟨false, fun u => hid _⟩, withdraw_get s x⟩
  · exact ⟨rfl, rfl, ⟨true, wakePreempt_get _ x⟩, fun j => hgid _⟩
  · exact ⟨rfl, rfl, ⟨true, wakePreempt_get _ x⟩, withdraw_get s x⟩

/-! The effect as a whole. -/

/-- What a `CSRW` that names no register of the wave does before it retires. -/
structure CtxCsrEffect (s t : State) (k : Issue) (sup : Bool) (n : Nat) (v : Word) : Prop where
  idle : ¬csrActs sup n → t = s
  only : t = { s with waves := t.waves, ctxs := t.ctxs, grids := t.grids, cores := t.cores }
  quiet : n ≠ 0x040 → t.grids = s.grids ∧ t.cores = s.cores
  waves : ∃ wakes : Bool, (n ≠ 0x040 → wakes = false) ∧
    (∀ u, u ≠ k.uid → assocGet t.waves u = (assocGet s.waves u).map (reqWoken wakes k.w.ctx s.cycle)) ∧
    ∃ b, assocGet t.waves k.uid = some (reqWoken wakes k.w.ctx s.cycle { k.w with boundMax := b })
  grids : ∃ draws : Bool, (draws = true → v.getLsbD 0 = true) ∧
    ∀ j, assocGet t.grids j = (assocGet s.grids j).map (reqDrawn draws k.w.ctx)
  ctxs : ∀ x, x ≠ k.w.ctx → assocGet t.ctxs x = assocGet s.ctxs x
  ctx : ∃ c', assocGet t.ctxs k.w.ctx = some c' ∧
    (csrActs sup n → (n, contextCsr k.c n, k.uid, s.cycle + bInt, s.cycle + bInt + 64) ∈ c'.csrPend) ∧
    c' = { ctxCsrSet sup k.c n v with csrPend := c'.csrPend, reqAge := c'.reqAge }

section
variable {s : State} {k : Issue} {sup : Bool} {n : Nat} (v : Word)

theorem ctxCsrEffect_idle (hk : getIssue s = some k) (ha : ¬csrActs sup n) : CtxCsrEffect s s k sup n v := by
  obtain ⟨-, hw, -, hc⟩ := getIssue_spec hk
  have hset := ctxCsrSet_idle k.c v ha
  exact ⟨fun _ => rfl, rfl, fun _ => ⟨rfl, rfl⟩,
    ⟨false, fun _ => rfl, fun u _ => by rw [reqWoken_false, Option.map_id_apply], k.w.boundMax, by rw [hw, reqWoken_false, id]⟩,
    ⟨false, nofun, fun j => by rw [reqDrawn_false, Option.map_id_apply]⟩, fun _ _ => rfl, k.c, hc, fun h => absurd h ha, by rw [hset]⟩

theorem ctxCsrEffect_field (hk : getIssue s = some k) (ha : csrActs sup n) :
    CtxCsrEffect s (setCtx (modWave s k.uid (csrBounded s)) k.w.ctx (ctxCsrPended s k n (ctxCsrSet sup k.c n v))) k sup n v := by
  have hw := (getIssue_spec hk).2.1
  exact ⟨fun h => absurd ha h, rfl, fun _ => ⟨rfl, rfl⟩,
    ⟨false, fun _ => rfl, fun u hu => (modWave_get_other s _ _ hu).trans (by rw [reqWoken_false, Option.map_id_apply]), _,
      (modWave_get (csrBounded s) hw).trans (by rw [reqWoken_false]; rfl)⟩,
    ⟨false, nofun, fun j => by rw [reqDrawn_false, Option.map_id_apply]; rfl⟩, fun x hx => assocGet_set_other _ _ _ _ hx,
    _, assocGet_set_same _ _ _, fun _ => List.mem_cons_self, rfl⟩

theorem ctxCsrEffect_preq (hk : getIssue s = some k) : CtxCsrEffect s
    (setReq (modCtx (modWave s k.uid (csrBounded s)) k.w.ctx (ctxCsrPended s k 0x040)) k.w.ctx (v.getLsbD 0)) k true 0x040 v := by
  obtain ⟨-, hw, -, hc⟩ := getIssue_spec hk
  have hc1 : assocGet (modCtx (modWave s k.uid (csrBounded s)) k.w.ctx (ctxCsrPended s k 0x040)).ctxs k.w.ctx =
      some (ctxCsrPended s k 0x040 k.c) := (assocGet_mod_same _ _ _).trans (congrArg _ hc)
  obtain ⟨honly, hctxs, ⟨wakes, hwaves⟩, hgrids⟩ := setReq_effect (v.getLsbD 0) hc1
  refine ⟨fun h => absurd (Or.inr ⟨rfl, by decide⟩) h, honly, fun h => absurd rfl h,
    ⟨wakes, fun h => absurd rfl h, fun u hu => ?_, (csrBounded s k.w).boundMax, ?_⟩, ⟨_, id, hgrids⟩,
    fun x hx => ?_, reqSet (v.getLsbD 0) (ctxCsrPended s k 0x040 k.c), ?_, fun _ => List.mem_cons_self, rfl⟩
  · exact (hwaves u).trans (congrArg _ (modWave_get_other s _ _ hu))
  · exact (hwaves k.uid).trans (congrArg _ (modWave_get (csrBounded s) hw))
  · rw [hctxs]
    exact (assocGet_mod_other _ _ _ _ hx).trans (assocGet_mod_other _ _ _ _ hx)
  · rw [hctxs, assocGet_mod_same, hc1]
    rfl

theorem csrWrite_effect (hk : getIssue s = some k) (hn : n ∉ waveCsrs) : CtxCsrEffect s (csrWrite s k sup n v) k sup n v := by
  by_cases ha : csrActs sup n
  · by_cases hp : n = 0x040
    · subst hp
      obtain rfl : sup = true := by simpa [csrActs] using ha
      rw [csrWrite_preq]
      exact ctxCsrEffect_preq v hk
    · rw [csrWrite_field s k v hn ha hp]
      exact ctxCsrEffect_field v hk ha
  · rw [csrWrite_idle s k v hn ha]
    exact ctxCsrEffect_idle v hk ha

end

end Sys2Proof.Machine
end

section
/-!
The settled statement on `CSRW` (04 R101 to R103; 11 R278; 15 R374).
-/

namespace Sys2Proof.Machine

theorem csrw_runs {g : BitVec 2} {sup : Bool} {num : BitVec 10} {r : Reg} {s : State} {k : Issue} (h : MayRun (.csrw g sup num r) s k) :
    exec (.csrw g sup num r) s =
      .next ((Eff.done (csrWrite s k sup num.toNat (readLane s k.w r.toNat k.low))).finish (.csrw g sup num r) k) :=
  issueWith_runs (fun k s => .done (csrWrite s k sup num.toNat (readLane s k.w r.toNat k.low))) h

/-! Retirement after the effect on the context. -/

/-- The issuing wave and its fragment. -/
theorem CtxCsrEffect.retired {s t : State} {k : Issue} {sup : Bool} {n : Nat} {v : Word} (e : CtxCsrEffect s t k sup n v) (i : Instr)
    (hk : getIssue s = some k) :
    let s' := (Eff.done t).finish i k
    ∃ w' f', assocGet s'.waves k.uid = some w' ∧
      w' = { k.w with clocks := w'.clocks, frags := w'.frags, boundMax := w'.boundMax } ∧
      (¬csrActs sup n → w'.boundMax = k.w.boundMax) ∧
      w'.frag? k.lead = some f' ∧ f'.quads = k.f.quads ∧ f'.park = .none ∧ f'.pc = k.f.pc + BitVec.ofNat 80 (2 * i.parcels) ∧
      (n ≠ 0x040 → Advanced i k w') := by
  obtain ⟨-, hw, hf, -⟩ := getIssue_spec hk
  obtain ⟨wakes, hquiet, -, b, hb⟩ := e.waves
  obtain ⟨f, hf1, hq, hpc⟩ := reqWoken_frag? wakes k.w.ctx s.cycle (w := { k.w with boundMax := b }) hf
  refine ⟨_, f.retired i t.cycle, retire_get hb hf1 hq, ?only, fun ha => ?bound, ?frag, hq, rfl, congrArg (· + _) hpc, fun hn => ?adv⟩
  case only =>
    rw [retiredWave_only, reqWoken_only]
  case bound =>
    rw [e.idle ha, hw] at hb
    have := congrArg Wave.boundMax (Option.some.inj hb)
    exact this.symm
  case frag => rw [retiredWave_frag?, if_pos rfl, hf1]; rfl
  case adv =>
    rw [hquiet hn, reqWoken_false]
    exact advanced_retiredWave _ hk rfl rfl

/-- The waves that did not issue the instruction. -/
theorem CtxCsrEffect.others {s t : State} {k : Issue} {sup : Bool} {n : Nat} {v : Word} (e : CtxCsrEffect s t k sup n v) (i : Instr) :
    ∃ wakes : Bool, (n ≠ 0x040 → wakes = false) ∧ ∀ u, u ≠ k.uid →
      assocGet ((Eff.done t).finish i k).waves u = (assocGet s.waves u).map (reqWoken wakes k.w.ctx s.cycle) := by
  obtain ⟨wakes, hquiet, hwaves, -⟩ := e.waves
  exact ⟨wakes, hquiet, fun u hu => (retire_get_other _ _ _ _ hu).trans (hwaves u hu)⟩

theorem CtxCsrEffect.sameBytes {s t : State} {k : Issue} {sup : Bool} {n : Nat} {v : Word} (e : CtxCsrEffect s t k sup n v) (i : Instr) :
    SameBytes s ((Eff.done t).finish i k) := by
  have hmem : t.mem = s.mem := (congrArg State.mem e.only).trans rfl
  have hundef : t.undefMem = s.undefMem := (congrArg State.undefMem e.only).trans rfl
  exact ⟨fun a => congrArg (memRead · a) hmem, hundef⟩

/-- Retirement changes the waves, and the counter of free values moves on. -/
theorem finish_done (i : Instr) (k : Issue) (t : State) :
    (Eff.done t).finish i k = { t with waves := ((Eff.done t).finish i k).waves, free := ((Eff.done t).finish i k).free } := rfl

/-- Settles O17: of a register of the wave, by whose write remains; of any other, by the effect before retirement. -/
theorem controlRegistersWritten : Obligations.ControlRegistersWritten := by
  refine ⟨fun g sup num r s k h hn => ⟨_, csrw_runs h, ?_⟩, fun g sup num r s k h hn => ⟨_, csrw_runs h, ?_⟩⟩
  · generalize readLane s k.w r.toNat k.low = v
    rw [csrWrite_wave s k sup v hn]
    obtain ⟨ho, hb, hget, hadv⟩ := setWave_retired (.csrw g sup num r) (w := csrWave s k num.toNat v (csrLost s k num.toNat)) h.1
      (by rw [csrWave_only]) (by rw [csrWave_only])
    refine ⟨ho, hb, _, hget, hadv, by rw [retiredWave_only, csrWave_only], ?_, csrLost s k num.toNat, ?_, ?_⟩ <;>
      simp only [retiredWave_tlm, retiredWave_tpc, retiredWave_fpstat, retiredWave_fpmode, retiredWave_fpPend, retiredWave_csrPend,
        retiredWave_csrOwner]
    · exact fun p hp hb => mem_csrWave _ _ _ hp hb
    · intro hlost
      rw [hlost]
      exact ⟨csrLost_rival hlost, rfl, rfl, rfl, rfl, rfl, rfl⟩
    · intro hlost
      rw [hlost]
      exact ⟨rfl, List.mem_cons_self, rfl, rfl, rfl, fun h => if_pos h, fun h => ⟨if_neg h, if_neg h⟩⟩
  · generalize readLane s k.w r.toNat k.low = v
    have e := csrWrite_effect (sup := sup) v h.1 hn
    generalize csrWrite s k sup num.toNat v = t at e
    obtain ⟨wakes, hquiet, hwaves⟩ := e.others (.csrw g sup num r)
    obtain ⟨draws, hdraws, hgrids⟩ := e.grids
    obtain ⟨c', hc', hpend, hset⟩ := e.ctx
    refine ⟨e.sameBytes _, fun ha => ?idle, fun hn => ⟨?field, fun u hu => ?wave⟩,
      ⟨?only, fun j gr hj => ?grid, fun u w hu hw => ?woken⟩, e.retired _ h.1, e.ctxs, c', hc', fun ha => ?same, hpend, hset⟩
    case idle =>
      rw [e.idle ha]
      exact ⟨rfl, fun u hu => retire_get_other _ s _ _ hu⟩
    case field =>
      obtain ⟨hg, hc⟩ := e.quiet hn
      rw [finish_done, e.only, hg, hc]
    case wave => rw [hwaves u hu, hquiet hn, reqWoken_false, Option.map_id_apply]
    case only => rw [finish_done, e.only]
    case grid =>
      exact ⟨_, (hgrids j).trans (congrArg _ hj), reqDrawn_only _ _ _, fun hx => if_neg fun hd =>
        hx.elim (· hd.2) fun hv => Bool.false_ne_true (hv.symm.trans (hdraws hd.1))⟩
    case woken => exact ⟨_, (hwaves u hu).trans (congrArg _ hw), reqWoken_only _ _ _ _, fun hx => if_neg fun h => hx h.2⟩
    case same =>
      rw [e.idle ha] at hc'
      exact Option.some.inj (hc'.symm.trans (getIssue_spec h.1).2.2.2)

end Sys2Proof.Machine
end

section
/-!
SUPPORT. Exact magnitudes as rationals, and the integer that each direction selects (05 R111, R117, R118).
-/

namespace Sys2Proof.Machine

/-- The magnitude m × 2^e. -/
def fpMag (m : Nat) (e : Int) : ℚ := m * (2 : ℚ) ^ e

theorem zpow_toNat {q : Int} (h : 0 ≤ q) : (2 : ℚ) ^ q.toNat = 2 ^ q := by
  rw [← zpow_natCast, Int.toNat_of_nonneg h]

/-- `scaled` is the quotient times a power of two. -/
theorem scaled_ratio (n d : Nat) (q : Int) : ((scaled n d q).1 : ℚ) / (scaled n d q).2 = n / d * 2 ^ (-q) := by
  unfold scaled
  split
  · rename_i h
    push_cast
    rw [zpow_toNat h, zpow_neg]
    ring
  · push_cast
    rw [zpow_toNat (by omega)]
    ring

theorem scaled_pos {n d : Nat} (q : Int) (hd : 0 < d) : 0 < (scaled n d q).2 := by
  unfold scaled
  split
  · exact Nat.mul_pos hd (Nat.two_pow_pos _)
  · exact hd

theorem log2_bounds {n : Nat} (h : 0 < n) : (2 : ℚ) ^ (Nat.log2 n : Int) ≤ n ∧ (n : ℚ) < 2 ^ ((Nat.log2 n : Int) + 1) := by
  constructor
  · rw [zpow_natCast]; exact_mod_cast Nat.log2_self_le h.ne'
  · rw [← Nat.cast_one, ← Nat.cast_add, zpow_natCast]; exact_mod_cast Nat.lt_log2_self

/-- `ratLog` is the floor of the binary logarithm. -/
theorem ratLog_bounds {n d : Nat} (hn : 0 < n) (hd : 0 < d) :
    (2 : ℚ) ^ ratLog n d ≤ n / d ∧ (n : ℚ) / d < 2 ^ (ratLog n d + 1) := by
  obtain ⟨hn1, hn2⟩ := log2_bounds hn
  obtain ⟨hd1, hd2⟩ := log2_bounds hd
  have hdq : (0 : ℚ) < d := by exact_mod_cast hd
  have hs := scaled_ratio n d ((Nat.log2 n : Int) - Nat.log2 d)
  have hb : (0 : ℚ) < (scaled n d ((Nat.log2 n : Int) - Nat.log2 d)).2 := by exact_mod_cast scaled_pos _ hd
  unfold ratLog
  dsimp only
  generalize hk : (Nat.log2 n : Int) - Nat.log2 d = k at hs hb
  have hp : (0 : ℚ) < 2 ^ k := zpow_pos two_pos k
  rw [zpow_neg, ← div_eq_mul_inv] at hs
  split
  · rename_i hlt
    have h1 : (n : ℚ) / d < 2 ^ k := by
      rw [← div_lt_one hp, ← hs, div_lt_one hb]; exact_mod_cast hlt
    refine ⟨?_, by rwa [sub_add_cancel]⟩
    rw [le_div_iff₀ hdq]
    calc (2 : ℚ) ^ (k - 1) * d ≤ 2 ^ (k - 1) * 2 ^ ((Nat.log2 d : Int) + 1) :=
          mul_le_mul_of_nonneg_left hd2.le (zpow_pos two_pos _).le
      _ = 2 ^ (Nat.log2 n : Int) := by rw [← zpow_add₀ two_ne_zero]; congr 1; omega
      _ ≤ n := hn1
  · rename_i hge
    have h1 : (2 : ℚ) ^ k ≤ n / d := by
      rw [← one_le_div hp, ← hs, one_le_div hb]; exact_mod_cast Nat.le_of_not_lt hge
    refine ⟨h1, ?_⟩
    rw [div_lt_iff₀ hdq]
    calc (n : ℚ) < 2 ^ ((Nat.log2 n : Int) + 1) := hn2
      _ = 2 ^ (k + 1) * 2 ^ (Nat.log2 d : Int) := by rw [← zpow_add₀ two_ne_zero]; congr 1; omega
      _ ≤ 2 ^ (k + 1) * d := mul_le_mul_of_nonneg_left hd1 (zpow_pos two_pos _).le

/-- The direction takes a value of sign `neg` toward zero. -/
def Dir.toZero (dir : Dir) (neg : Bool) : Prop := dir = .rtz ∨ (dir = .rup ∧ neg = true) ∨ (dir = .rdn ∧ neg = false)

/-- Beside the candidate `v`, the direction selects `r` for the magnitude `x`; `even` says of a tie that `r` is the even one. -/
def Selects (dir : Dir) (neg : Bool) (x r : ℚ) (even : Prop) (v : ℚ) : Prop :=
  (dir.toZero neg → r ≤ x ∧ (v ≤ x → v ≤ r)) ∧
  (dir ≠ .rne → ¬dir.toZero neg → x ≤ r ∧ (x ≤ v → r ≤ v)) ∧
  (dir = .rne → |r - x| ≤ |v - x| ∧ (|r - x| = |v - x| → r = v ∨ even))

theorem Selects.scale {dir : Dir} {neg : Bool} {x r v c : ℚ} {even : Prop} (h : Selects dir neg x r even v) (hc : 0 < c) :
    Selects dir neg (x * c) (r * c) even (v * c) := by
  have hm := fun a b : ℚ => mul_le_mul_iff_of_pos_right (b := a) (c := b) hc
  have ha : ∀ a : ℚ, |a * c - x * c| = |a - x| * c := fun a => by rw [← sub_mul, abs_mul, abs_of_pos hc]
  unfold Selects
  simp only [hm, ha, mul_left_inj' hc.ne']
  exact h

/-- Quotient and remainder as a rational. -/
theorem ratio_eq_div_add (a : Nat) {b : Nat} (hb : 0 < b) : (a : ℚ) / b = (a / b : Nat) + (a % b : Nat) / (b : ℚ) := by
  have hq : (b : ℚ) ≠ 0 := by exact_mod_cast hb.ne'
  rw [div_eq_iff hq, add_mul, div_mul_cancel₀ _ hq]
  exact_mod_cast (by rw [Nat.mul_comm]; exact (Nat.div_add_mod a b).symm)

/-- The integer selected, case by case: toward zero the quotient, away from it the next where there is a remainder, to nearest by the
remainder, a tie by the quotient's parity. -/
theorem roundInt_cases (dir : Dir) (neg : Bool) (a b : Nat) :
    (dir.toZero neg → roundInt dir neg a b = a / b) ∧
    (dir ≠ .rne → ¬dir.toZero neg → roundInt dir neg a b = if a % b = 0 then a / b else a / b + 1) ∧
    (dir = .rne → roundInt dir neg a b = if 2 * (a % b) < b ∨ (2 * (a % b) = b ∧ a / b % 2 = 0) then a / b else a / b + 1) := by
  unfold roundInt Dir.toZero
  cases dir
  case rne =>
    refine ⟨by simp, by simp, fun _ => ?_⟩
    rcases Nat.lt_trichotomy (2 * (a % b)) b with h | h | h
    · simp [h, h.not_gt, h.ne]
    · rcases Nat.mod_two_eq_zero_or_one (a / b) with h2 | h2 <;> simp [h, h2]
    · simp [h, h.not_gt, h.ne']
  case rtz => simp
  all_goals cases neg <;> by_cases h : a % b = 0 <;> simp [h]

section
variable {q t v : ℚ} (hv : v ≤ q ∨ q + 1 ≤ v)
include hv

/-- In the lower half of a unit interval the lower end is the nearest candidate, alone but in the middle. -/
theorem nearest_low (h0 : 0 ≤ t) (h1 : t ≤ 1 / 2) :
    |q - (q + t)| ≤ |v - (q + t)| ∧ (|q - (q + t)| = |v - (q + t)| → q = v ∨ t = 1 / 2) := by
  have hq : |q - (q + t)| = t := by rw [sub_add_cancel_left, abs_neg, abs_of_nonneg h0]
  rw [hq]
  rcases hv with hv | hv
  · rw [abs_of_nonpos (by linarith)]
    exact ⟨by linarith, fun h => .inl (by linarith)⟩
  · rw [abs_of_nonneg (by linarith)]
    exact ⟨by linarith, fun h => .inr (by linarith)⟩

/-- In the upper half the upper end is. -/
theorem nearest_high (h0 : 1 / 2 ≤ t) (h1 : t ≤ 1) :
    |q + 1 - (q + t)| ≤ |v - (q + t)| ∧ (|q + 1 - (q + t)| = |v - (q + t)| → q + 1 = v ∨ t = 1 / 2) := by
  rw [abs_of_nonneg (by linarith : (0 : ℚ) ≤ q + 1 - (q + t))]
  rcases hv with hv | hv
  · rw [abs_of_nonpos (by linarith)]
    exact ⟨by linarith, fun h => .inr (by linarith)⟩
  · rw [abs_of_nonneg (by linarith)]
    exact ⟨by linarith, fun h => .inl (by linarith)⟩

end

/-- Where no candidate lies strictly between the quotient and its successor, `roundInt` selects. -/
theorem roundInt_selects (dir : Dir) (neg : Bool) (a : Nat) {b : Nat} (hb : 0 < b) {v : ℚ}
    (hv : v ≤ (a / b : Nat) ∨ ((a / b : Nat) : ℚ) + 1 ≤ v) :
    Selects dir neg ((a : ℚ) / b) (roundInt dir neg a b) (roundInt dir neg a b % 2 = 0) v := by
  obtain ⟨hz, ha, hn⟩ := roundInt_cases dir neg a b
  have hbq : (0 : ℚ) < b := by exact_mod_cast hb
  have hy := ratio_eq_div_add a hb
  have ht0 : (0 : ℚ) ≤ (a % b : Nat) / (b : ℚ) := by positivity
  have ht1 : (a % b : Nat) / (b : ℚ) < 1 := by rw [div_lt_one hbq]; exact_mod_cast Nat.mod_lt a hb
  have hpos : a % b ≠ 0 → 0 < (a % b : Nat) / (b : ℚ) := fun h => div_pos (by exact_mod_cast Nat.pos_of_ne_zero h) hbq
  have hexact : a % b = 0 → (a % b : Nat) / (b : ℚ) = 0 := fun h => by rw [h]; simp
  have hlow : 2 * (a % b) < b → (a % b : Nat) / (b : ℚ) < 1 / 2 := fun h => by
    rw [div_lt_div_iff₀ hbq two_pos]; exact_mod_cast (by omega : a % b * 2 < 1 * b)
  have htie : 2 * (a % b) = b → (a % b : Nat) / (b : ℚ) = 1 / 2 := fun h => by
    rw [div_eq_div_iff hbq.ne' two_ne_zero]; exact_mod_cast (by omega : a % b * 2 = 1 * b)
  have hhigh : b < 2 * (a % b) → 1 / 2 < (a % b : Nat) / (b : ℚ) := fun h => by
    rw [div_lt_div_iff₀ two_pos hbq]; exact_mod_cast (by omega : 1 * b < a % b * 2)
  rw [hy]
  generalize (a % b : Nat) / (b : ℚ) = t at *
  refine ⟨fun h => ?zero, fun h1 h2 => ?away, fun h => ?near⟩
  case zero =>
    rw [hz h]
    exact ⟨by linarith, fun hle => hv.resolve_right (by linarith)⟩
  case away =>
    rw [ha h1 h2]
    split
    · rename_i h0
      rw [hexact h0, add_zero]
      exact ⟨le_refl _, id⟩
    · push_cast
      exact ⟨by linarith, fun hle => hv.resolve_left fun hle' => by linarith [hpos ‹_›]⟩
  case near =>
    rw [hn h]
    split
    · rename_i hc
      obtain ⟨hle, heq⟩ := nearest_low hv ht0 (hc.elim (fun h => (hlow h).le) fun h => (htie h.1).le)
      refine ⟨hle, fun he => (heq he).imp_right fun hmid => ?_⟩
      exact hc.elim (fun h => absurd hmid (hlow h).ne) And.right
    · rename_i hc
      push_cast
      have hge : b ≤ 2 * (a % b) := Nat.le_of_not_lt fun h => hc (.inl h)
      obtain ⟨hle, heq⟩ := nearest_high hv (hge.eq_or_lt.elim (fun h => (htie h.symm).ge) fun h => (hhigh h).le) ht1.le
      refine ⟨hle, fun he => (heq he).imp_right fun hmid => ?_⟩
      have hb2 : 2 * (a % b) = b := hge.eq_or_lt.elim Eq.symm fun h => absurd hmid (hhigh h).ne'
      have hodd : ¬a / b % 2 = 0 := fun h => hc (.inr ⟨hb2, h⟩)
      omega

end Sys2Proof.Machine
end

section
/-!
SUPPORT. Patterns of the formats with infinities (05 R111, R112): which magnitudes they stand for, and the pattern of a magnitude.
-/

namespace Sys2Proof.Machine

/-- The exponent of a format's smallest step. -/
def Fmt.qmin (f : Fmt) : Int := 1 - (f.bias : Int) - f.fb

/-- A finite value's fraction and exponent lie in the format, normal or of the smallest step. -/
theorem fpDecode_fin {f : Fmt} {p m : Nat} {neg : Bool} {q : Int} (h : fpDecode f p = .fin neg m q) :
    m < 2 ^ (f.fb + 1) ∧ f.qmin ≤ q ∧ (q = f.qmin ∨ 2 ^ f.fb ≤ m) := by
  have hfr : p % 2 ^ f.fb < 2 ^ f.fb := Nat.mod_lt _ (Nat.two_pow_pos _)
  unfold Fmt.qmin
  unfold fpDecode at h
  dsimp only at h
  rw [Nat.pow_succ]
  split at h
  · split at h <;> simp at h
  split at h
  · simp at h
  split at h
  · obtain ⟨-, rfl, rfl⟩ := FVal.fin.inj h
    exact ⟨by omega, le_refl _, .inl rfl⟩
  · obtain ⟨-, rfl, rfl⟩ := FVal.fin.inj h
    exact ⟨by omega, by omega, .inr (by omega)⟩

/-- A format with infinities, of at least two exponent bits and one of fraction. -/
structure Fmt.Ieee (f : Fmt) : Prop where
  kind : f.kind = .ieee
  eb : 2 ≤ f.eb
  fb : 1 ≤ f.fb

theorem ieee_formats : ∀ f ∈ [fmtF64, fmtF32, fmtF16, fmtBF16, fmtE5M2], f.Ieee := by
  simp only [List.forall_mem_cons, List.not_mem_nil, false_implies, implies_true, and_true]
  exact ⟨⟨rfl, by decide, by decide⟩, ⟨rfl, by decide, by decide⟩, ⟨rfl, by decide, by decide⟩, ⟨rfl, by decide, by decide⟩,
    ⟨rfl, by decide, by decide⟩⟩

/-- A pattern of an exponent field below the top one, decoded. -/
theorem fpDecode_pattern {f : Fmt} (hk : f.kind = .ieee) (neg : Bool) {ex fr : Nat} (hex : ex < 2 ^ f.eb - 1) (hfr : fr < 2 ^ f.fb) :
    fpDecode f (fpSign f neg + (ex * 2 ^ f.fb + fr)) =
      if ex = 0 then .fin neg fr f.qmin else .fin neg (fr + 2 ^ f.fb) ((ex : Int) - f.bias - f.fb) := by
  have hpos := Nat.two_pow_pos f.fb
  have hpe := Nat.two_pow_pos f.eb
  have hs : fpSign f neg = (if neg then 1 else 0) * 2 ^ f.eb * 2 ^ f.fb := by
    unfold fpSign; cases neg <;> simp [Nat.pow_add]
  have h1 : (fpSign f neg + (ex * 2 ^ f.fb + fr)) % 2 ^ f.fb = fr := by
    rw [hs, ← Nat.add_assoc, ← Nat.add_mul, Nat.mul_add_mod_self_right, Nat.mod_eq_of_lt hfr]
  have h2 : (fpSign f neg + (ex * 2 ^ f.fb + fr)) / 2 ^ f.fb = (if neg then 1 else 0) * 2 ^ f.eb + ex := by
    rw [hs, ← Nat.add_assoc, ← Nat.add_mul, Nat.add_comm, Nat.add_mul_div_right _ _ hpos, Nat.div_eq_of_lt hfr, Nat.zero_add]
  have h3 : bitOf (fpSign f neg + (ex * 2 ^ f.fb + fr)) (f.eb + f.fb) = neg := by
    unfold bitOf
    rw [Nat.add_comm f.eb, Nat.pow_add, ← Nat.div_div_eq_div_mul, h2, Nat.add_comm, Nat.add_mul_div_right _ _ hpe,
      Nat.div_eq_of_lt (by omega)]
    cases neg <;> rfl
  have h4 : ((if neg then 1 else 0) * 2 ^ f.eb + ex) % 2 ^ f.eb = ex := by
    rw [Nat.mul_add_mod_self_right, Nat.mod_eq_of_lt (by omega)]
  unfold fpDecode
  simp only [h1, h2, h3, h4, hk, true_and]
  rw [if_neg (by omega), if_neg (by simp)]
  rfl

/-- The magnitude m × 2^q fits the format at its step q. -/
structure Fits (f : Fmt) (m : Nat) (q : Int) : Prop where
  le : m ≤ 2 ^ (f.fb + 1)
  step : f.qmin ≤ q
  normal : q = f.qmin ∨ 2 ^ f.fb ≤ m

/-- `fpPack` is an exponent field and a fraction of the same magnitude; its parity is that of the fraction. -/
theorem fpPack_fields {f : Fmt} {m : Nat} {q : Int} (h : Fits f m q) (hfb : 1 ≤ f.fb) :
    ∃ ex fr, fr < 2 ^ f.fb ∧ fpPack f m q = ex * 2 ^ f.fb + fr ∧ (m % 2 = 0 → (ex * 2 ^ f.fb + fr) % 2 = 0) ∧
      (if ex = 0 then fpMag fr f.qmin else fpMag (fr + 2 ^ f.fb) ((ex : Int) - f.bias - f.fb)) = fpMag m q := by
  obtain ⟨hle, hstep, hnorm⟩ := h
  have hpos := Nat.two_pow_pos f.fb
  have heven : 2 ∣ 2 ^ f.fb := dvd_pow_self 2 (by omega)
  have hq : f.qmin = 1 - (f.bias : Int) - f.fb := rfl
  have hsucc : 2 ^ (f.fb + 1) = 2 ^ f.fb * 2 := Nat.pow_succ ..
  unfold fpPack
  by_cases htop : m = 2 ^ (f.fb + 1)
  · have hhalf : m / 2 = 2 ^ f.fb := by omega
    simp only [htop, if_true]
    rw [← htop, hhalf, if_neg (lt_irrefl _), Nat.sub_self]
    refine ⟨_, 0, hpos, rfl, fun _ => ?_, ?_⟩
    · obtain ⟨c, hc⟩ := heven
      rw [hc]; simp [Nat.mul_mod]
    · rw [if_neg (by omega), htop, hsucc, Nat.zero_add]
      unfold fpMag
      rw [show (((q + 1 + f.fb + f.bias).toNat : Nat) : Int) - f.bias - f.fb = q + 1 by omega, zpow_add_one₀ two_ne_zero]
      push_cast; ring
  · simp only [htop, if_false]
    by_cases hsub : m < 2 ^ f.fb
    · rw [if_pos hsub]
      refine ⟨0, m, hsub, by simp, by simp, ?_⟩
      rw [if_pos rfl, hnorm.resolve_right (by omega)]
    · rw [if_neg hsub]
      refine ⟨_, m - 2 ^ f.fb, by omega, rfl, fun hm => ?_, ?_⟩
      · have : 2 ∣ (q + f.fb + f.bias).toNat * 2 ^ f.fb := heven.mul_left _
        omega
      · rw [if_neg (by omega), Nat.sub_add_cancel (by omega)]
        congr 1
        omega

/-- The pattern of a magnitude that is not above the largest decodes to it. -/
theorem fpDecode_fpPack {f : Fmt} {m : Nat} {q : Int} (h : Fits f m q) (hf : f.Ieee) (neg : Bool)
    (hmax : fpPack f m q ≤ fpMax f) :
    (∃ m' q', fpDecode f (fpSign f neg + fpPack f m q) = .fin neg m' q' ∧ fpMag m' q' = fpMag m q) ∧
      (m % 2 = 0 → (fpSign f neg + fpPack f m q) % 2 = 0) := by
  obtain ⟨hk, heb, hfb⟩ := hf
  obtain ⟨ex, fr, hfr, hpack, heven, hmag⟩ := fpPack_fields h hfb
  have hpos := Nat.two_pow_pos f.fb
  have hmx : fpMax f = (2 ^ f.eb - 1) * 2 ^ f.fb - 1 := by unfold fpMax; rw [hk]
  have hex : ex < 2 ^ f.eb - 1 := by
    by_contra hge
    have h1 : (2 ^ f.eb - 1) * 2 ^ f.fb ≤ ex * 2 ^ f.fb := Nat.mul_le_mul_right _ (by omega)
    have h2 : 0 < (2 ^ f.eb - 1) * 2 ^ f.fb := Nat.mul_pos (by have := Nat.one_lt_two_pow (n := f.eb) (by omega); omega) hpos
    omega
  have hsign : fpSign f neg % 2 = 0 := by
    unfold fpSign
    split
    · exact Nat.mod_eq_zero_of_dvd (dvd_pow_self 2 (by omega))
    · rfl
  rw [hpack]
  refine ⟨?_, fun hm => by have := heven hm; omega⟩
  rw [fpDecode_pattern hk neg hex hfr]
  split at hmag
  · rename_i h0; exact ⟨fr, f.qmin, by rw [if_pos h0], hmag⟩
  · rename_i h0; exact ⟨_, _, by rw [if_neg h0], hmag⟩

end Sys2Proof.Machine
end

section
/-!
SUPPORT. How `fpRound` comes to its pattern where it does not overflow (05 R118, R120), and the settled statement on rounding.
-/

namespace Sys2Proof.Machine

/-- The exponent of the step to which `fpRound` rounds n / d × 2^e. -/
def roundStep (f : Fmt) (n d : Nat) (e : Int) : Int := max (ratLog n d + e - f.fb) f.qmin

/-- The magnitude in steps, as a fraction of naturals. -/
def inSteps (f : Fmt) (n d : Nat) (e : Int) : Nat × Nat := scaled n d (roundStep f n d e - e)

/-- The number of steps to which `fpRound` rounds. -/
def roundSteps (f : Fmt) (dir : Dir) (neg : Bool) (n d : Nat) (e : Int) : Nat :=
  roundInt dir neg (inSteps f n d e).1 (inSteps f n d e).2

theorem roundInt_bounds (dir : Dir) (neg : Bool) (a b : Nat) :
    a / b ≤ roundInt dir neg a b ∧ roundInt dir neg a b ≤ a / b + 1 := by
  unfold roundInt
  cases dir <;> dsimp only <;> split <;> simp

section
variable (f : Fmt) (dir : Dir) (neg : Bool) {n d : Nat} (e : Int) (hn : 0 < n) (hd : 0 < d)

include hd in
theorem inSteps_pos : 0 < (inSteps f n d e).2 := scaled_pos _ hd

/-- The magnitude is its number of steps times the step. -/
theorem inSteps_ratio : ((inSteps f n d e).1 : ℚ) / (inSteps f n d e).2 * 2 ^ roundStep f n d e = n / d * 2 ^ e := by
  unfold inSteps
  rw [scaled_ratio, mul_assoc, ← zpow_add₀ two_ne_zero]
  congr 2
  omega

include hn hd in
/-- The steps, between the powers of two that the logarithm gives. -/
theorem inSteps_log : (2 : ℚ) ^ (ratLog n d + (e - roundStep f n d e)) ≤ (inSteps f n d e).1 / (inSteps f n d e).2 ∧
    ((inSteps f n d e).1 : ℚ) / (inSteps f n d e).2 < 2 ^ (ratLog n d + 1 + (e - roundStep f n d e)) := by
  obtain ⟨hlo, hhi⟩ := ratLog_bounds hn hd
  unfold inSteps
  rw [scaled_ratio, neg_sub, zpow_add₀ two_ne_zero, zpow_add₀ two_ne_zero]
  exact ⟨mul_le_mul_of_nonneg_right hlo (zpow_pos two_pos _).le, mul_lt_mul_of_pos_right hhi (zpow_pos two_pos _)⟩

include hn hd in
theorem inSteps_lt {k : Nat} (h : ratLog n d + 1 + (e - roundStep f n d e) ≤ k) :
    (inSteps f n d e).1 / (inSteps f n d e).2 < 2 ^ k := by
  have hb := inSteps_pos f e hd (n := n)
  have h1 := (inSteps_log f e hn hd).2.trans_le (zpow_le_zpow_right₀ one_le_two h)
  rw [zpow_natCast, div_lt_iff₀ (by exact_mod_cast hb)] at h1
  rw [Nat.div_lt_iff_lt_mul hb]
  exact_mod_cast h1

include hn hd in
/-- There are no more steps than the fraction can count, and where the step is not the smallest, a full fraction of them. -/
theorem inSteps_bounds : (inSteps f n d e).1 / (inSteps f n d e).2 < 2 ^ (f.fb + 1) ∧
    (roundStep f n d e = f.qmin ∨ 2 ^ f.fb ≤ (inSteps f n d e).1 / (inSteps f n d e).2) := by
  refine ⟨inSteps_lt f e hn hd (by unfold roundStep; push_cast; omega), ?_⟩
  refine (le_or_gt (ratLog n d + e - f.fb) f.qmin).imp (fun h => max_eq_right h) fun h => ?_
  have hq : roundStep f n d e = ratLog n d + e - f.fb := max_eq_left h.le
  have hb := inSteps_pos f e hd (n := n)
  have h1 := (inSteps_log f e hn hd).1
  rw [show ratLog n d + (e - roundStep f n d e) = (f.fb : Int) by omega, zpow_natCast, le_div_iff₀ (by exact_mod_cast hb)] at h1
  rw [Nat.le_div_iff_mul_le hb]
  exact_mod_cast h1

include hn hd in
theorem roundSteps_fits : Fits f (roundSteps f dir neg n d e) (roundStep f n d e) := by
  obtain ⟨hlt, hnorm⟩ := inSteps_bounds f e hn hd
  obtain ⟨hge, hle⟩ := roundInt_bounds dir neg (inSteps f n d e).1 (inSteps f n d e).2
  exact ⟨hle.trans hlt, le_max_right _ _, hnorm.imp_right hge.trans'⟩

include hn hd in
/-- No value of the format lies strictly between the steps next to the magnitude. -/
theorem no_value_between {p m : Nat} {s : Bool} {q : Int} (h : fpDecode f p = .fin s m q) :
    fpMag m q * 2 ^ (-roundStep f n d e) ≤ ((inSteps f n d e).1 / (inSteps f n d e).2 : Nat) ∨
      (((inSteps f n d e).1 / (inSteps f n d e).2 : Nat) : ℚ) + 1 ≤ fpMag m q * 2 ^ (-roundStep f n d e) := by
  obtain ⟨hm, hq, -⟩ := fpDecode_fin h
  obtain ⟨-, hnorm⟩ := inSteps_bounds f e hn hd
  generalize (inSteps f n d e).1 / (inSteps f n d e).2 = N at hnorm ⊢
  generalize hQ : roundStep f n d e = Q at hnorm ⊢
  unfold fpMag
  rw [mul_assoc, ← zpow_add₀ two_ne_zero]
  rcases le_or_gt Q q with hle | hlt
  · have hint : (m : ℚ) * 2 ^ (q + -Q) = (m * 2 ^ (q + -Q).toNat : Nat) := by
      push_cast
      rw [zpow_toNat (by omega)]
    rw [hint]
    exact (Nat.lt_or_ge N (m * 2 ^ (q + -Q).toNat)).symm.imp (fun h => by exact_mod_cast h) fun h => by exact_mod_cast h
  · have hN : 2 ^ f.fb ≤ N := hnorm.resolve_left (by omega)
    left
    calc (m : ℚ) * 2 ^ (q + -Q) ≤ 2 ^ (f.fb + 1) * 2 ^ (-1 : Int) :=
          mul_le_mul (by exact_mod_cast hm.le) (zpow_le_zpow_right₀ one_le_two (by omega)) (zpow_pos two_pos _).le (by positivity)
      _ = 2 ^ f.fb := by rw [pow_succ, zpow_neg_one]; field_simp
      _ ≤ N := by exact_mod_cast hN

include hn hd in
/-- Beside every value of the format, the steps taken are those that the direction selects. -/
theorem roundSteps_selects {p m : Nat} {s : Bool} {q : Int} (h : fpDecode f p = .fin s m q) :
    Selects dir neg (n / d * 2 ^ e) (fpMag (roundSteps f dir neg n d e) (roundStep f n d e))
      (roundSteps f dir neg n d e % 2 = 0) (fpMag m q) := by
  have hs := (roundInt_selects dir neg (inSteps f n d e).1 (inSteps_pos f e hd) (no_value_between f e hn hd h)).scale
    (zpow_pos two_pos (roundStep f n d e))
  rw [inSteps_ratio, mul_assoc (fpMag m q), ← zpow_add₀ two_ne_zero, neg_add_cancel, zpow_zero, mul_one] at hs
  exact hs

end

/-- `roundInt` changes nothing just where nothing remains. -/
theorem roundInt_eq_ratio (dir : Dir) (neg : Bool) (a : Nat) {b : Nat} (hb : 0 < b) :
    (roundInt dir neg a b : ℚ) = a / b ↔ a % b = 0 := by
  have hbq : (b : ℚ) ≠ 0 := by exact_mod_cast hb.ne'
  rw [eq_div_iff hbq]
  refine ⟨fun h => ?_, fun h => ?_⟩
  · exact Nat.mod_eq_zero_of_dvd ⟨roundInt dir neg a b, by rw [Nat.mul_comm]; exact_mod_cast h.symm⟩
  · have hr : roundInt dir neg a b = a / b := by
      unfold roundInt
      cases dir <;> simp [h, hb.ne]
    rw [hr]
    exact_mod_cast Nat.div_mul_cancel (Nat.dvd_of_mod_eq_zero h)

theorem fpOverflow_flagged : bitOf (flagOF + flagNX) 2 = true := rfl

theorem roundFlags_nx (inexact tiny : Bool) :
    bitOf ((if inexact then flagNX else 0) + (if tiny && inexact then flagUF else 0)) 0 = inexact := by
  cases inexact <;> cases tiny <;> rfl

theorem roundFlags_exact {inexact tiny : Bool} (h : inexact = false) :
    (if inexact then flagNX else 0) + (if tiny && inexact then flagUF else 0) = 0 := by
  simp [h]

/-- A result below the smallest normal step is no pattern above the largest. -/
theorem fpPack_subnormal {f : Fmt} (hf : f.Ieee) {m : Nat} (h : m ≤ 2 ^ f.fb) : fpPack f m f.qmin ≤ fpMax f := by
  have hmax : fpMax f = (2 ^ f.eb - 1) * 2 ^ f.fb - 1 := by unfold fpMax; rw [hf.kind]
  have heb : 2 ^ 2 ≤ 2 ^ f.eb := Nat.pow_le_pow_right two_pos hf.eb
  have hpos := Nat.two_pow_pos f.fb
  have hle : 3 * 2 ^ f.fb ≤ (2 ^ f.eb - 1) * 2 ^ f.fb := Nat.mul_le_mul_right _ (by omega)
  have hq : f.qmin = 1 - (f.bias : Int) - f.fb := rfl
  unfold fpPack
  rw [if_neg (by rw [Nat.pow_succ]; omega)]
  dsimp only
  split
  · omega
  · rw [show (f.qmin + f.fb + f.bias).toNat = 1 by omega]
    omega

/-- Where no overflow is flagged, `fpRound` gives the pattern of the steps taken, which is not above the largest; NX is raised just
where something remained, and no flag where nothing did. -/
theorem fpRound_spec {f : Fmt} {dir : Dir} {neg : Bool} {n d : Nat} {e : Int} (hf : f.Ieee) (hn : 0 < n) (hd : 0 < d)
    (hov : bitOf (fpRound f dir false neg n d e).2 2 = false) :
    (fpRound f dir false neg n d e).1 = fpSign f neg + fpPack f (roundSteps f dir neg n d e) (roundStep f n d e) ∧
      fpPack f (roundSteps f dir neg n d e) (roundStep f n d e) ≤ fpMax f ∧
      (bitOf (fpRound f dir false neg n d e).2 0 = true ↔ (inSteps f n d e).1 % (inSteps f n d e).2 ≠ 0) ∧
      ((inSteps f n d e).1 % (inSteps f n d e).2 = 0 → (fpRound f dir false neg n d e).2 = 0) := by
  have hsub : ratLog n d + e - f.fb < f.qmin → fpPack f (roundSteps f dir neg n d e) (roundStep f n d e) ≤ fpMax f := fun h => by
    have hq : roundStep f n d e = f.qmin := max_eq_right h.le
    have hlt := inSteps_lt f e hn hd (k := f.fb) (by omega)
    rw [hq]
    exact fpPack_subnormal hf ((roundInt_bounds dir neg _ _).2.trans hlt)
  have hnorm : f.qmin ≤ ratLog n d + e - f.fb → roundStep f n d e = ratLog n d + e - f.fb := fun h => max_eq_left h
  unfold fpRound at hov ⊢
  rw [if_neg hn.ne'] at hov ⊢
  dsimp only at hov ⊢
  split at hov
  · exact absurd (hov.symm.trans fpOverflow_flagged) (by decide)
  · rename_i hno
    rw [if_neg hno]
    refine ⟨rfl, ?_, ?_, ?_⟩
    · rcases lt_or_ge (ratLog n d + e - f.fb) f.qmin with h | h
      · exact hsub h
      · by_contra hgt
        refine hno ?_
        unfold roundSteps inSteps at hgt
        rw [hnorm h] at hgt
        exact Bool.and_eq_true_iff.2 ⟨decide_eq_true h, decide_eq_true (Nat.lt_of_not_le hgt)⟩
    · exact (Bool.eq_iff_iff.1 (roundFlags_nx _ _)).trans bne_iff_ne
    · intro h
      exact roundFlags_exact (bne_eq_false_iff_eq.2 h)

/-- Settles O7: the steps taken are those that `roundInt_selects` says, and their pattern decodes to them. -/
theorem roundingSelectsTheRightValue : Obligations.RoundingSelectsTheRightValue := by
  intro f dir neg n d e hmem hn hd x r hov
  have hf := ieee_formats f hmem
  obtain ⟨hpat, hmax, hnx, hexact⟩ := fpRound_spec hf hn hd hov
  obtain ⟨⟨m, q, hdec, hmag⟩, heven⟩ := fpDecode_fpPack (roundSteps_fits f dir neg e hn hd) hf neg hmax
  have hx : fpMag m q = x ↔ (inSteps f n d e).1 % (inSteps f n d e).2 = 0 := by
    rw [← roundInt_eq_ratio dir neg _ (inSteps_pos f e hd)]
    rw [hmag, show x = _ from (inSteps_ratio f e).symm]
    exact mul_left_inj' (zpow_pos two_pos _).ne'
  refine ⟨m, q, hpat ▸ hdec, hnx.trans hx.symm.not, fun h => hexact (hx.1 h), fun p m' q' _ hp => ?_⟩
  obtain ⟨hzero, haway, hnear⟩ := roundSteps_selects f dir neg e hn hd hp
  rw [← hmag] at hzero haway hnear
  refine ⟨hzero, haway, fun h => ⟨(hnear h).1, fun ht => ((hnear h).2 ht).imp_right fun h2 => ?_⟩⟩
  show (fpRound f dir false neg n d e).1 % 2 = 0
  rw [hpat]
  exact heven h2

end Sys2Proof.Machine
end

section
/-!
SUPPORT. Values written to the lanes of a list, and sticky flags once every bound has passed (04 R94; 05 R125).
-/

namespace Sys2Proof.Machine

/-! Values in lanes. -/

/-- Value `f l` of `n` registers from `d` in each lane `l` of the list. -/
def valsWritten (d n : Nat) (f : Nat → Dword) (ls : List Nat) (w : Wave) : Wave := ls.foldl (fun w l => writeVal w n d l (f l)) w

theorem writeVal_words (w : Wave) (n d l : Nat) (v : Dword) :
    writeVal w n d l v = (valWords n v).zipIdx.foldl (fun w x => writeLane w (d + x.2) l x.1) w := by
  unfold writeVal valWords
  split <;> simp

theorem valsWritten_words (d n : Nat) (f : Nat → Dword) (ls : List Nat) (w : Wave) : valsWritten d n f ls w =
    ls.foldl (fun w l => ((valWords n (f l)).zipIdx).foldl (fun w x => writeLane w (d + x.2) l x.1) w) w := by
  unfold valsWritten
  simp only [writeVal_words]

theorem valsWritten_only (d n : Nat) (f : Nat → Dword) (ls : List Nat) (w : Wave) :
    valsWritten d n f ls w = { w with regs := (valsWritten d n f ls w).regs } := by
  rw [valsWritten_words]
  exact foldLanes_regsOnly _ _ _ _

/-- Values in the lanes of a mask, and nothing else of the registers. -/
theorem valsWritten_regsHold (d n : Nat) (f : Nat → Dword) {ls : List Nat} {m : LaneMask} (w : Wave)
    (h : ∀ l, l ∈ ls ↔ l < 64 ∧ m.getLsbD l = true) :
    RegsHold w (valsWritten d n f ls w) d m fun l => valWords n (f l) := by
  have hget : ∀ r l, l < 64 → held (valsWritten d n f ls w) r l =
      if l ∈ ls ∧ d ≤ r then ((valWords n (f l))[r - d]?).getD (held w r l) else held w r l := fun r l hl => by
    rw [valsWritten_words]
    exact held_foldLanes ls _ w d r l (fun x hx => ((h x).1 hx).1) hl
  refine ⟨fun l j v hl hm hv => ?_, fun l r hl hor => ?_⟩
  · rw [hget _ _ hl, if_pos ⟨(h l).2 ⟨hl, hm⟩, Nat.le_add_right _ _⟩, Nat.add_sub_cancel_left, hv, Option.getD_some]
  · rw [hget _ _ hl]
    split
    · rename_i hin
      obtain ⟨hmem, hd⟩ := hin
      have hout : (valWords n (f l))[r - d]? = none := by
        rw [List.getElem?_eq_none_iff]
        have hr : d + (valWords n (f l)).length ≤ r := (hor.resolve_left (by simp [((h l).1 hmem).2])).resolve_left (by omega)
        omega
      rw [hout, Option.getD_none]
    · rfl

/-! Sticky flags. -/

theorem orFold_get {α : Type} {n : Nat} (f : α → BitVec n) (ps : List α) (v : BitVec n) (j : Nat) :
    (ps.foldl (fun v p => v ||| f p) v).getLsbD j = (v.getLsbD j || ps.any fun p => (f p).getLsbD j) := by
  induction ps generalizing v with
  | nil => simp
  | cons p r ih => rw [List.foldl_cons, ih, BitVec.getLsbD_or, List.any_cons, Bool.or_assoc]

theorem bitOf_eq_testBit (v i : Nat) : bitOf v i = v.testBit i := by
  rw [Nat.testBit_eq_decide_div_mod_eq]
  rfl

theorem bitOf_or (a b i : Nat) : bitOf (a ||| b) i = (bitOf a i || bitOf b i) := by
  simp only [bitOf_eq_testBit, Nat.testBit_or]

theorem bitOf_orFold {α : Type} (f : α → Nat) (ps : List α) (i : Nat) :
    bitOf (ps.foldl (fun v p => v ||| f p) 0) i = ps.any fun p => bitOf (f p) i := by
  have key : ∀ v, bitOf (ps.foldl (fun v p => v ||| f p) v) i = (bitOf v i || ps.any fun p => bitOf (f p) i) := by
    induction ps with
    | nil => simp
    | cons p r ih => intro v; rw [List.foldl_cons, ih, bitOf_or, List.any_cons, Bool.or_assoc]
  rw [key, bitOf_eq_testBit, Nat.zero_testBit, Bool.false_or]

theorem getLsbD_ofNat_bitOf {n j : Nat} (v : Nat) (hj : j < n) : (BitVec.ofNat n v).getLsbD j = bitOf v j := by
  rw [BitVec.getLsbD_ofNat, bitOf_eq_testBit, decide_eq_true hj, Bool.true_and]

/-- The flags once every bound has passed: those that stand, and those pending. -/
theorem flagsAt_get {s : State} {w : Wave} {c : Nat} (h : ∀ p ∈ w.fpPend, p.2 ≤ c) (j : Nat) :
    (flagsAt s w c).getLsbD j = (w.fpstat.getLsbD j || w.fpPend.any fun p => p.1.getLsbD j) := by
  unfold flagsAt
  rw [readFpstat_settled (s := { s with cycle := c }) h]
  exact orFold_get (fun p : Word × Nat => p.1) w.fpPend w.fpstat j

theorem raiseFp_only (s : State) (w : Wave) (fl : Flags) (b : Nat) :
    raiseFp s w fl b = { w with fpstat := (raiseFp s w fl b).fpstat, fpPend := (raiseFp s w fl b).fpPend } := by
  unfold raiseFp
  split <;> rfl

theorem raiseFp_pending {s : State} {w : Wave} {fl : Flags} {b c : Nat} (h : ∀ p ∈ w.fpPend, p.2 ≤ c) (hc : s.cycle + b ≤ c) :
    ∀ p ∈ (raiseFp s w fl b).fpPend, p.2 ≤ c := by
  intro p hp
  unfold raiseFp settleFp at hp
  split at hp
  · exact h p hp
  · simp only [List.mem_append, List.mem_filter, List.mem_singleton] at hp
    rcases hp with ⟨hp, -⟩ | rfl
    · exact h p hp
    · exact hc

/-- Raising flags adds them to what stands and what pends. -/
theorem raiseFp_get (s : State) (w : Wave) (fl : Flags) (b : Nat) {j : Nat} (hj : j < 32) :
    ((raiseFp s w fl b).fpstat.getLsbD j || (raiseFp s w fl b).fpPend.any fun p => p.1.getLsbD j) =
      ((w.fpstat.getLsbD j || w.fpPend.any fun p => p.1.getLsbD j) || bitOf fl j) := by
  unfold raiseFp settleFp
  split
  · rename_i h
    rw [h, bitOf_eq_testBit, Nat.zero_testBit, Bool.or_false]
  · have hpart : (w.fpPend.any fun p => p.1.getLsbD j) =
        (((w.fpPend.filter fun p => !decide (s.cycle < p.2)).any fun p => p.1.getLsbD j) ||
          (w.fpPend.filter fun p => decide (s.cycle < p.2)).any fun p => p.1.getLsbD j) := by
      induction w.fpPend with
      | nil => rfl
      | cons p r ih => by_cases hp : s.cycle < p.2 <;> simp [hp, ih, Bool.or_assoc, Bool.or_left_comm]
    dsimp only
    rw [orFold_get (fun p : Word × Nat => p.1), List.any_append, List.any_cons, List.any_nil, getLsbD_ofNat_bitOf _ hj, hpart]
    simp only [Bool.or_false, Bool.or_assoc]

end Sys2Proof.Machine
end

section
/-!
SUPPORT. A floating-point instruction completes: its lanes written, its flags raised, and its trap where one is enabled (05 R125 to R127).
-/

namespace Sys2Proof.Machine

theorem UndefinedFor.congr {s : State} {w w' w'' : Wave} {d n b : Nat} {ls : LaneMask} (h : UndefinedFor s w w' d n ls b)
    (hu : w''.undef = w'.undef) (he : w''.entries = w'.entries) (ho : w''.open_ = w'.open_) : UndefinedFor s w w'' d n ls b := by
  have hat : ∀ c r l, undefAt { s with cycle := c } w'' r l = undefAt { s with cycle := c } w' r l := fun c r l => by
    unfold undefAt UndefWhy.holds batchDone
    rw [hu, he, ho]
  intro r l c h1 h2 h3 h4
  rw [hat]
  exact h r l c h1 h2 h3 h4

/-- The lanes whose flags trap, in order. -/
def fpTrapping (s : State) (k : Issue) (fl : Nat → Flags) : List Nat :=
  if k.w.window.isNone && fpEnables s k.w != 0 then (k.actList s).filter fun l => fl l &&& fpEnables s k.w != 0 else []

/-- The lanes that are written. -/
def fpWritten (s : State) (k : Issue) (fl : Nat → Flags) : List Nat :=
  (k.actList s).filter fun l => !(fpTrapping s k fl).contains l

theorem mem_fpTrapping {s : State} {k : Issue} {fl : Nat → Flags} {l : Nat} :
    l ∈ fpTrapping s k fl ↔ l < 64 ∧ TrapsOn s k fl l := by
  unfold fpTrapping TrapsOn
  split
  · rename_i h
    obtain ⟨hw, -⟩ := Bool.and_eq_true_iff.1 h
    simp only [List.mem_filter, bne_iff_ne, mem_actList]
    exact ⟨fun ⟨⟨a, b⟩, c⟩ => ⟨a, b, by simpa using hw, c⟩, fun ⟨a, b, _, c⟩ => ⟨⟨a, b⟩, c⟩⟩
  · rename_i h
    refine iff_of_false List.not_mem_nil fun ⟨_, _, hw, hne⟩ => h ?_
    rw [hw]
    refine Bool.and_eq_true_iff.2 ⟨rfl, bne_iff_ne.2 fun h0 => hne ?_⟩
    rw [h0, Nat.and_zero]

theorem mem_fpWritten {s : State} {k : Issue} {fl : Nat → Flags} {l : Nat} :
    l ∈ fpWritten s k fl ↔ (l < 64 ∧ (k.act s).getLsbD l = true) ∧ ¬TrapsOn s k fl l := by
  unfold fpWritten
  simp only [List.mem_filter, mem_actList, Bool.not_eq_true', List.contains_eq_mem, decide_eq_false_iff_not, mem_fpTrapping]
  exact and_congr_right fun ⟨hl, _⟩ => not_congr (and_iff_right hl)

/-- All flags that the instruction raises. -/
def fpRaised (s : State) (k : Issue) (fl : Nat → Flags) : Flags := (k.actList s).foldl (fun m l => m ||| fl l) 0

/-- The wave with the results of the lanes written and the flags raised. -/
def fpResult (s : State) (k : Issue) (d n b : Nat) (f : Nat → Dword) (fl : Nat → Flags) (w : Wave) : Wave :=
  raiseFp s (valsWritten d n f (fpWritten s k fl) (markFixed s w d n (lanesMask (fpWritten s k fl)) b)) (fpRaised s k fl) b

/-- An enable set holds the fragment until the bound has passed (05 R126). -/
def fpHold (s : State) (k : Issue) (b : Nat) (f : Frag) : Frag :=
  if fpEnables s k.w = 0 then f else { f with readyAt := max f.readyAt (s.cycle + b) }

/-- TRIG of the lanes that trap (05 R127). -/
def fpTrig (s : State) (k : Issue) (fl : Nat → Flags) (w : Wave) : Wave :=
  { w with fpstat := (w.fpstat &&& 0x1F) |||
      BitVec.ofNat 32 ((fpTrapping s k fl).foldl (fun m l => m ||| (fl l &&& fpEnables s k.w)) 0 * 2 ^ 16) }

/-- The effect of the instruction on its wave, but for a trap. -/
def fpEffect (s : State) (k : Issue) (d n b : Nat) (f : Nat → Dword) (fl : Nat → Flags) (w : Wave) : Wave :=
  (fpResult s k d n b f fl w).modFrag k.lead (fpHold s k b)

theorem Wave.modFrag_id (w : Wave) (q : Nat) : w.modFrag q (fun f => f) = w := by
  unfold Wave.modFrag
  simp only [ite_self, List.map_id']

theorem fpApply_eq (s : State) (k : Issue) (d n b : Nat) (f : Nat → Dword) (fl : Nat → Flags) :
    fpApply s k [(d, n, f)] fl b = if (fpTrapping s k fl).isEmpty then .done (modWave s k.uid (fpEffect s k d n b f fl))
      else .trap .floatingPoint (lanesMask (fpTrapping s k fl)) 0
        (modWave (modWave s k.uid (fpEffect s k d n b f fl)) k.uid (fpTrig s k fl)) := by
  have hold : ∀ w, fpEffect s k d n b f fl w = if fpEnables s k.w != 0 then (fpResult s k d n b f fl w).modFrag k.lead
      (fun f => { f with readyAt := max f.readyAt (s.cycle + b) }) else fpResult s k d n b f fl w := fun w => by
    unfold fpEffect fpHold
    by_cases h : fpEnables s k.w = 0
    · simp only [h, if_true, bne_self_eq_false, Bool.false_eq_true, if_false]; exact Wave.modFrag_id _ _
    · simp only [h, if_false, bne_iff_ne.2 h, if_true]
  simp only [funext hold]
  rfl

section
variable (s : State) (k : Issue) (d n b : Nat) (f : Nat → Dword) (fl : Nat → Flags)

theorem fpResult_only (w : Wave) : let w' := fpResult s k d n b f fl w
    w' = { w with regs := w'.regs, undef := w'.undef, boundMax := w'.boundMax, fpstat := w'.fpstat, fpPend := w'.fpPend } := by
  dsimp only [fpResult]
  rw [raiseFp_only, valsWritten_only]
  rfl

/-- What the wave is once the lanes `m` are written and the flags of every active lane raised. -/
structure ResultOf (m : LaneMask) (w' : Wave) : Prop where
  only : w' = { k.w with regs := w'.regs, undef := w'.undef, boundMax := w'.boundMax, fpstat := w'.fpstat, fpPend := w'.fpPend }
  regs : RegsHold k.w w' d m fun l => valWords n (f l)
  undefined : UndefinedFor s k.w w' d n m b
  pending : ∀ c, (∀ p ∈ k.w.fpPend, p.2 ≤ c) → s.cycle + b ≤ c → ∀ p ∈ w'.fpPend, p.2 ≤ c
  flags : ∀ j, j < 32 → (w'.fpstat.getLsbD j || w'.fpPend.any fun p => p.1.getLsbD j) =
    ((k.w.fpstat.getLsbD j || k.w.fpPend.any fun p => p.1.getLsbD j) || (k.actList s).any fun l => bitOf (fl l) j)

theorem fpResult_spec {m : LaneMask} (h : ∀ l, l ∈ fpWritten s k fl ↔ l < 64 ∧ m.getLsbD l = true) :
    ResultOf s k d n b f fl m (fpResult s k d n b f fl k.w) where
  only := fpResult_only s k d n b f fl k.w
  regs := by
    have hr : RegsHold k.w (valsWritten d n f (fpWritten s k fl) (markFixed s k.w d n (lanesMask (fpWritten s k fl)) b)) d m
        fun l => valWords n (f l) := valsWritten_regsHold d n f (markFixed s k.w d n (lanesMask (fpWritten s k fl)) b) h
    refine hr.congr ?_ fun _ _ _ => rfl
    unfold fpResult
    rw [raiseFp_only]
  undefined := by
    have hm := undefinedFor_markFixed s k.w d n (fpWritten s k fl) b fun l hl => ((h l).1 hl).1
    intro r l c h1 h2 h3 h4
    unfold fpResult
    rw [raiseFp_only, valsWritten_only]
    exact hm r l c h1 h2 h3 ((lanesMask_get h3).2 ((h l).2 ⟨h3, h4⟩))
  pending := by
    intro c hp hc
    unfold fpResult
    refine raiseFp_pending ?_ hc
    rw [valsWritten_only]
    exact hp
  flags := by
    intro j hj
    unfold fpResult
    rw [raiseFp_get _ _ _ _ hj, valsWritten_only, ← bitOf_orFold]
    rfl

theorem fpHold_quads (g : Frag) : (fpHold s k b g).quads = g.quads := by
  unfold fpHold
  split <;> rfl

theorem fpEffect_frag? (w : Wave) (q : Nat) : (fpEffect s k d n b f fl w).frag? q =
    if q = k.lead then (w.frag? k.lead).map (fpHold s k b) else w.frag? q := by
  have hw : ∀ q, (fpResult s k d n b f fl w).frag? q = w.frag? q := fun q => by
    unfold Wave.frag?
    rw [fpResult_only]
  unfold fpEffect
  rw [modFrag_frag? _ _ _ _ (fpHold_quads s k b), hw, hw]

end

theorem fpHold_keeps (s : State) (k : Issue) (b : Nat) (g : Frag) : (fpHold s k b g).quads = g.quads ∧
    (fpHold s k b g).trap = g.trap ∧ (fpHold s k b g).park = g.park ∧ (fpHold s k b g).stall = g.stall := by
  unfold fpHold
  split <;> exact ⟨rfl, rfl, rfl, rfl⟩

/-- The wave whose fragment starts the instruction anew. -/
def restarted (k : Issue) (w : Wave) : Wave := w.modFrag k.lead fun f => { f with retry := false, closed := false }

theorem restarted_frag? (k : Issue) (w : Wave) (q : Nat) : (restarted k w).frag? q =
    if q = k.lead then (w.frag? k.lead).map fun f => { f with retry := false, closed := false } else w.frag? q :=
  modFrag_frag? w k.lead q (fun f => { f with retry := false, closed := false }) fun _ => rfl

/-- TRIG leaves the flags that stand. -/
theorem fpTrig_flags (s : State) (k : Issue) (fl : Nat → Flags) (w : Wave) {j : Nat} (hj : j < 5) :
    (fpTrig s k fl w).fpstat.getLsbD j = w.fpstat.getLsbD j := by
  have hlow : (0x1F : Word).getLsbD j = true := by interval_cases j <;> rfl
  unfold fpTrig
  dsimp only
  rw [BitVec.getLsbD_or, BitVec.getLsbD_and, hlow, getLsbD_ofNat_bitOf _ (by omega), bitOf_eq_testBit, Nat.testBit_mul_two_pow,
    decide_eq_false (by omega : ¬16 ≤ j)]
  simp

theorem fpTrig_get (s : State) (k : Issue) (fl : Nat → Flags) (w : Wave) {j : Nat} (hj : j < 5) :
    (fpTrig s k fl w).fpstat.getLsbD (16 + j) = (fpTrapping s k fl).any fun l => bitOf (fl l &&& fpEnables s k.w) j := by
  have hhigh : (0x1F : Word).getLsbD (16 + j) = false := by interval_cases j <;> rfl
  unfold fpTrig
  dsimp only
  rw [BitVec.getLsbD_or, BitVec.getLsbD_and, hhigh, getLsbD_ofNat_bitOf _ (by omega), bitOf_eq_testBit, Nat.testBit_mul_two_pow,
    decide_eq_true (by omega : 16 ≤ 16 + j), Nat.add_sub_cancel_left, ← bitOf_eq_testBit, bitOf_orFold]
  simp

/-- A change of registers and flags alone keeps the condition of taking the window. -/
theorem keepsTrap_regs {g : Wave → Wave} (h : ∀ w, let w' := g w
    w' = { w with regs := w'.regs, undef := w'.undef, boundMax := w'.boundMax, fpstat := w'.fpstat, fpPend := w'.fpPend }) :
    KeepsTrap g := by
  dsimp only at h
  constructor
  all_goals intros; rw [h]
  rfl

theorem KeepsTrap.comp {g g' : Wave → Wave} (h : KeepsTrap g) (h' : KeepsTrap g') : KeepsTrap (g' ∘ g) where
  window w := (h'.window _).trans (h.window w)
  held w := (h'.held _).trans (h.held w)
  core w := (h'.core _).trans (h.core w)
  ctx w := (h'.ctx _).trans (h.ctx w)
  trapWait w := (h'.trapWait _).trans (h.trapWait w)
  report w := (h'.report _).trans (h.report w)
  gran w := (h'.gran _).trans (h.gran w)
  frame w := (h'.frame _).trans (h.frame w)
  low c w q := (h'.low c _ q).trans (h.low c w q)

section
variable {i : Instr} {s : State} {k : Issue} (d n b : Nat) (f : Nat → Dword) (fl : Nat → Flags) (hk : getIssue s = some k)
include hk

/-- No lane traps: every active lane is written, and the instruction retires. -/
theorem fpEffect_retires (hno : ∀ l, l < 64 → ¬TrapsOn s k fl l) :
    FloatResult i s ((Eff.done (modWave s k.uid (fpEffect s k d n b f fl))).finish i k) k d n b (fun l => valWords n (f l)) fl := by
  have hall : ∀ l, l ∈ fpWritten s k fl ↔ l < 64 ∧ (k.act s).getLsbD l = true := fun l => by
    rw [mem_fpWritten]
    exact and_iff_left_of_imp fun h => hno l h.1
  have hres : ResultOf s k d n b f fl (k.act s) (fpResult s k d n b f fl k.w) := fpResult_spec s k d n b f fl hall
  have hfrag : ∀ q, (fpEffect s k d n b f fl k.w).frag? q = _ := fpEffect_frag? s k d n b f fl k.w
  obtain ⟨honly, hbytes⟩ := done_onlyWave i s k (fpEffect s k d n b f fl)
  have hget := fun h => retire_get (i := i) (f := fpHold s k b k.f) (modWave_get (fpEffect s k d n b f fl) (getIssue_spec hk).2.1) h
    (fpHold_quads s k b k.f)
  unfold fpEffect at hfrag hget
  generalize fpResult s k d n b f fl k.w = r at hres hfrag hget
  obtain ⟨hr, hregs, hundef, hpend, hflags⟩ := hres
  have hlead : (r.modFrag k.lead (fpHold s k b)).frag? k.lead = some (fpHold s k b k.f) := by
    rw [hfrag, if_pos rfl, (getIssue_spec hk).2.2.1]
    rfl
  have hretired : (retiredWave i s.cycle k (r.modFrag k.lead (fpHold s k b))).frag? k.lead =
      some ((fpHold s k b k.f).retired i s.cycle) := by
    rw [retiredWave_frag?, if_pos rfl, hlead]
    rfl
  refine ⟨honly, hbytes, _, hget hlead, ⟨⟨_, hretired, ?quads, rfl, ?pc⟩, fun q hq => ?others, fun q hq => ?clock⟩, ?only,
    hregs.congr rfl fun _ _ _ => rfl, hundef.congr rfl rfl rfl, ?gap, ?hold, ?flags⟩
  case quads => exact fpHold_quads s k b k.f
  case pc =>
    show (fpHold s k b k.f).pc + _ = _
    unfold fpHold
    split <;> rfl
  case others => rw [retiredWave_frag?, if_neg hq, hfrag, if_neg hq]
  case clock =>
    have hc : clockOf r q = clockOf k.w q := by rw [hr]; rfl
    rw [clockOf_retiredWave _ _ _ _ hq]
    exact congrArg (· + _) hc
  case only =>
    rw [hr]
    rfl
  case gap =>
    intro f' hf'
    obtain rfl := Option.some.inj (hretired.symm.trans hf')
    exact ⟨Nat.le_max_right _ _, rfl⟩
  case hold =>
    intro hen f' hf'
    obtain rfl := Option.some.inj (hretired.symm.trans hf')
    refine le_trans ?_ (Nat.le_max_left _ _)
    unfold fpHold
    rw [if_neg hen]
    exact Nat.le_max_right _ _
  case flags =>
    intro c hc hp j hj
    rw [flagsAt_get (w := k.w) hp, ← hflags j hj]
    exact flagsAt_get (w := retiredWave i s.cycle k (r.modFrag k.lead (fpHold s k b))) (hpend c hp hc) j

omit hk in
/-- The wave of a trapping instruction as its fragment starts the handler: masks, codes and clocks as before. -/
theorem ResultOf.start_keeps {m : LaneMask} {r : Wave} (h : ResultOf s k d n b f fl m r) :
    let g := restarted k (fpTrig s k fl (r.modFrag k.lead (fpHold s k b)))
    g.mask = k.w.mask ∧ g.cc = k.w.cc ∧ g.live = k.w.live ∧ g.clocks = k.w.clocks := by
  rw [h.only]
  exact ⟨rfl, rfl, rfl, rfl⟩

omit hk in
/-- What the handler finds in registers and flags. -/
theorem ResultOf.entered {m m' : LaneMask} {r w' : Wave} (h : ResultOf s k d n b f fl m' r)
    (hm : ∀ l, l < 64 → (m.getLsbD l = true ↔ TrapsOn s k fl l))
    (he : EntryOf (restarted k (fpTrig s k fl (r.modFrag k.lead (fpHold s k b)))) w') :
    RegsHold k.w w' d m' (fun l => valWords n (f l)) ∧
    (∀ c, s.cycle + b ≤ c → (∀ p ∈ k.w.fpPend, p.2 ≤ c) → ∀ j, j < 5 →
      (flagsAt s w' c).getLsbD j = ((flagsAt s k.w c).getLsbD j || (k.actList s).any fun l => bitOf (fl l) j)) ∧
    ∀ j, j < 5 → w'.fpstat.getLsbD (16 + j) = (laneList m).any fun l => bitOf (fl l &&& fpEnables s k.w) j := by
  have hregs : w'.regs = r.regs := by rw [he.1]; rfl
  have hstat : w'.fpstat = (fpTrig s k fl r).fpstat := by rw [he.1]; rfl
  have hpend : w'.fpPend = r.fpPend := by rw [he.1]; rfl
  refine ⟨h.regs.congr hregs fun _ _ _ => rfl, fun c hc hp j hj => ?_, fun j hj => ?_⟩
  · rw [flagsAt_get (w := k.w) hp, flagsAt_get (w := w') (hpend ▸ h.pending c hp hc), hstat, hpend, fpTrig_flags s k fl r hj]
    exact h.flags j (by omega)
  · rw [hstat, fpTrig_get s k fl r hj, Bool.eq_iff_iff, List.any_eq_true, List.any_eq_true]
    refine exists_congr fun l => and_congr_left fun _ => ?_
    rw [mem_fpTrapping, mem_laneList]
    exact and_congr_right fun hl => (hm l hl).symm

/-- Some lane traps: the other lanes are written, every lane's flags are raised, and the fragment stands in its handler. -/
theorem fpEffect_traps {m : LaneMask} (hm : ∀ l, l < 64 → (m.getLsbD l = true ↔ TrapsOn s k fl l)) (hcan : CanTrap s k) :
    let t := (Eff.trap .floatingPoint (lanesMask (fpTrapping s k fl)) 0
      (modWave (modWave s k.uid (fpEffect s k d n b f fl)) k.uid (fpTrig s k fl))).finish i k
    Trapped s t k .floatingPoint false m 0 ∧ ∃ w', assocGet t.waves k.uid = some w' ∧
      RegsHold k.w w' d (k.act s &&& ~~~m) (fun l => valWords n (f l)) ∧
      (∀ c, s.cycle + b ≤ c → (∀ p ∈ k.w.fpPend, p.2 ≤ c) → ∀ j, j < 5 →
        (flagsAt s w' c).getLsbD j = ((flagsAt s k.w c).getLsbD j || (k.actList s).any fun l => bitOf (fl l) j)) ∧
      ∀ j, j < 5 → w'.fpstat.getLsbD (16 + j) = (laneList m).any fun l => bitOf (fl l &&& fpEnables s k.w) j := by
  have hmask : lanesMask (fpTrapping s k fl) = m := BitVec.eq_of_getLsbD_eq fun l hl => by
    rw [Bool.eq_iff_iff, lanesMask_get hl, mem_fpTrapping, hm l hl]
    exact and_iff_right hl
  have hgood : ∀ l, l ∈ fpWritten s k fl ↔ l < 64 ∧ (k.act s &&& ~~~m).getLsbD l = true := fun l => by
    rw [mem_fpWritten, and_assoc]
    refine and_congr_right fun hl => ?_
    rw [BitVec.getLsbD_and, BitVec.getLsbD_not, Bool.and_eq_true, ← hm l hl]
    simp [hl]
  have hres := fpResult_spec s k d n b f fl hgood
  have hfrag := fpEffect_frag? s k d n b f fl k.w
  have hkeeps : KeepsTrap (fpEffect s k d n b f fl) :=
    (keepsTrap_regs (fpResult_only s k d n b f fl)).comp (keepsTrap_modFrag k.lead (fpHold s k b) (fpHold_keeps s k b))
  have hstart : KeepsTrap (restarted k ∘ fpTrig s k fl ∘ fpEffect s k d n b f fl) :=
    (hkeeps.comp (keepsTrap_regs fun _ => rfl)).comp (keepsTrap_modFrag k.lead _ fun _ => ⟨rfl, rfl, rfl, rfl⟩)
  rw [hmask]
  have ht : (Eff.trap .floatingPoint m 0 (modWave (modWave s k.uid (fpEffect s k d n b f fl)) k.uid (fpTrig s k fl))).finish i k =
      bumpFree (takeTrap (modWave s k.uid (restarted k ∘ fpTrig s k fl ∘ fpEffect s k d n b f fl)) k.uid k.lead
        ⟨.floatingPoint, m, 0, false, k.f.pc, false⟩) := by
    rw [← modWave_modWave, ← modWave_modWave]
    rfl
  have hlead : (restarted k (fpTrig s k fl (fpEffect s k d n b f fl k.w))).frag? k.lead =
      some { fpHold s k b k.f with retry := false, closed := false } := by
    refine (restarted_frag? k _ _).trans ?_
    rw [if_pos rfl]
    show ((fpEffect s k d n b f fl k.w).frag? k.lead).map _ = _
    rw [hfrag, if_pos rfl, (getIssue_spec hk).2.2.1]
    rfl
  have hothers : ∀ q, q ≠ k.lead → (restarted k (fpTrig s k fl (fpEffect s k d n b f fl k.w))).frag? q = k.w.frag? q :=
    fun q hq => (restarted_frag? k _ _).trans ((if_neg hq).trans ((hfrag q).trans (if_neg hq)))
  obtain ⟨hmk, hcc, hlive, hclk⟩ := hres.start_keeps
  obtain ⟨hq, hblk⟩ : (fpHold s k b k.f).quads = k.f.quads ∧ (fpHold s k b k.f).blk = k.f.blk ∧ (fpHold s k b k.f).fin = k.f.fin ∧
      (fpHold s k b k.f).left = k.f.left := by
    unfold fpHold
    split <;> exact ⟨rfl, rfl, rfl, rfl⟩
  obtain ⟨t, w', htrap, h, -, hw', he⟩ := trapped_of (cause := .floatingPoint) (tlm := m) (tval := 0) (rep := false) (hdr := false)
    (restarted k ∘ fpTrig s k fl ∘ fpEffect s k d n b f fl) hk hcan hstart ⟨_, hlead, hq, hblk⟩ hothers hmk hcc hlive hclk
  rw [ht, htrap]
  exact ⟨h, w', hw', hres.entered d n b f fl hm he⟩

end

/-- A meaning over `fpOp` completes, or traps, as `FloatCompletes` says. -/
theorem fpOp_completes {i : Instr} {d : Reg} {n b : Nat} {f : State → Issue → Nat → Dword × Flags}
    (he : ∀ s, exec i s = fpOp i d n b f s) : FloatCompletes i d n b f := by
  intro s k h
  have hrun := (he s).trans (issueWith_runs _ h)
  rw [fpApply_eq] at hrun
  refine ⟨fun hno => ⟨_, hrun, ?_⟩, fun m hm0 hm hcan => ⟨_, hrun, ?_⟩⟩
  · have hnone : fpTrapping s k (fun l => (f s k l).2) = [] :=
      List.eq_nil_iff_forall_not_mem.2 fun l hl => hno l (mem_fpTrapping.1 hl).1 (mem_fpTrapping.1 hl).2
    rw [if_pos (by rw [hnone]; rfl)]
    exact fpEffect_retires d.toNat n b (fun l => (f s k l).1) (fun l => (f s k l).2) h.1 hno
  · have hsome : ¬(fpTrapping s k fun l => (f s k l).2).isEmpty = true := fun hnone => hm0 <| BitVec.eq_of_getLsbD_eq fun l hl => by
      rw [show (0 : LaneMask).getLsbD l = false from BitVec.getLsbD_zero, ← Bool.not_eq_true, hm l hl]
      exact fun ht => List.not_mem_nil (List.isEmpty_iff.1 hnone ▸ mem_fpTrapping.2 ⟨hl, ht⟩)
    rw [if_neg hsome]
    exact fpEffect_traps d.toNat n b (fun l => (f s k l).1) (fun l => (f s k l).2) h.1 hm hcan

end Sys2Proof.Machine
end

section
/-!
The settled statement on conversions (05 R122; 15 R381 to R383; 16 R389, R396).
-/

namespace Sys2Proof.Machine

theorem citLo_le_citHi (t : CITy) : citLo t ≤ citHi t := by
  cases t <;> decide

/-- The bounds of an integer type, applied. -/
theorem fpInteger_fin (dir : Dir) (t : CITy) (n : Bool) (m : Nat) (e : Int) :
    fpInteger dir (citLo t) (citHi t) (.fin n m e) =
      let z := fpToInt dir n m e
      if z.1 < citLo t ∨ citHi t < z.1 then (min (max z.1 (citLo t)) (citHi t), flagNV) else (z.1, if z.2 then flagNX else 0) := by
  have hle := citLo_le_citHi t
  unfold fpInteger
  dsimp only
  generalize fpToInt dir n m e = z
  rcases lt_or_ge z.1 (citLo t) with hlo | hlo
  · rw [if_pos hlo, if_pos (.inl hlo), max_eq_right hlo.le, min_eq_left hle]
  · rw [if_neg hlo.not_gt]
    by_cases hhi : citHi t < z.1
    · rw [if_pos hhi, if_pos (.inr hhi), max_eq_left hlo, min_eq_right hhi.le]
    · rw [if_neg hhi, if_neg (show ¬(z.1 < citLo t ∨ citHi t < z.1) from fun h => h.elim hlo.not_gt hhi)]

/-! `MXCVT`. -/

/-- The block of 32 lanes that lane `l` belongs to, converted. -/
def mxBlockOf (s : State) (k : Issue) (t : MxTy) (x : Long) (l : Nat) : Nat × List Nat :=
  mxBlock (mxFmt t) (mxEmax t) (mxInputs s k x (l / 32))

theorem mxLane_blocks (s : State) (k : Issue) (t : MxTy) (x : Long) {l : Nat} (hl : l < 64) :
    mxLane t [mxBlock (mxFmt t) (mxEmax t) (mxInputs s k x 0), mxBlock (mxFmt t) (mxEmax t) (mxInputs s k x 1)] l =
      ((mxBlockOf s k t x l).1, ((mxBlockOf s k t x l).2[l % 32]?).getD 0) := by
  unfold mxLane mxBlockOf
  obtain h | h : l / 32 = 0 ∨ l / 32 = 1 := by omega
  all_goals rw [h]; rfl

section
variable {s : State} {k : Issue} {t : MxTy} {x : Long} {b c : Reg} {m : FMod}

/-- The elements written to D, then the scales to B. -/
def mxWritten (s : State) (k : Issue) (t : MxTy) (x : Long) (b : Reg) : Wave → Wave :=
  let bs := [mxBlock (mxFmt t) (mxEmax t) (mxInputs s k x 0), mxBlock (mxFmt t) (mxEmax t) (mxInputs s k x 1)]
  lanesWritten s k b 1 bFloat (fun l => BitVec.ofNat 64 (mxLane t bs l).1) ∘
    lanesWritten s k x.d 1 bFloat (fun l => BitVec.ofNat 64 (mxLane t bs l).2)

theorem mxcvt_runs (h : MayRun (.mxcvt t x) s k) (hx : x.tail = .regs b c m) :
    exec (.mxcvt t x) s = .next ((Eff.done (modWave s k.uid (mxWritten s k t x b))).finish (.mxcvt t x) k) := by
  have he : exec (.mxcvt t x) s = execMxcvt t x s := rfl
  unfold execMxcvt at he
  rw [he, issueWith_runs _ h]
  unfold mxWritten
  rw [← modWave_modWave]
  simp only [hx]
  rfl

theorem mxWritten_only (w : Wave) : let w' := mxWritten s k t x b w
    w' = { w with regs := w'.regs, undef := w'.undef, boundMax := w'.boundMax } := by
  dsimp only [mxWritten, Function.comp]
  rw [lanesWritten_only, lanesWritten_only]

/-- A register of one word in each active lane. -/
theorem lanesWritten_word (d : Reg) (f : Nat → Nat) (w : Wave) (r : Nat) {l : Nat} (hl : l < 64) :
    held (lanesWritten s k d 1 bFloat (fun l => BitVec.ofNat 64 (f l)) w) r l =
      if (k.act s).getLsbD l = true ∧ r = d.toNat then BitVec.ofNat 32 (f l) else held w r l := by
  obtain ⟨hin, hout⟩ : RegsHold w (lanesWritten s k d 1 bFloat (fun l => BitVec.ofNat 64 (f l)) w) d.toNat (k.act s)
      fun l => valWords 1 (BitVec.ofNat 64 (f l)) :=
    valsWritten_regsHold d.toNat 1 _ (markFixed s w d.toNat 1 (lanesMask (k.actList s)) bFloat) fun _ => mem_actList
  simp only [valWords_ofNat] at hin hout
  split
  · rename_i h
    rw [h.2]
    exact hin l 0 _ hl h.1 rfl
  · rename_i h
    refine hout l r hl ?_
    rw [List.length_singleton]
    by_cases ha : (k.act s).getLsbD l = true
    · have hr : r ≠ d.toNat := fun hr => h ⟨ha, hr⟩
      omega
    · exact .inl (Bool.eq_false_iff.2 ha)

/-- B holds the scale of a lane's block, and D, where it is another register, the lane's element; other registers and lanes that do
not act are as before. -/
theorem mxWritten_held (w : Wave) (r : Nat) {l : Nat} (hl : l < 64) : held (mxWritten s k t x b w) r l =
    if (k.act s).getLsbD l = true ∧ r = b.toNat then BitVec.ofNat 32 (mxBlockOf s k t x l).1
    else if (k.act s).getLsbD l = true ∧ r = x.d.toNat then BitVec.ofNat 32 (((mxBlockOf s k t x l).2[l % 32]?).getD 0)
    else held w r l := by
  unfold mxWritten
  dsimp only [Function.comp]
  rw [lanesWritten_word _ _ _ _ hl, lanesWritten_word _ _ _ _ hl, mxLane_blocks s k t x hl]

end

/-- Settles O9: each conversion is a meaning over `fpOp`, which `fpOp_completes`; `MXCVT` writes elements, then scales. -/
theorem floatAndBlockConversions : Obligations.FloatAndBlockConversions := by
  refine ⟨⟨fun dt st x => fpOp_completes fun _ => rfl, fun it ft x => ?ftoi, fun ft it x => fpOp_completes fun _ => rfl,
    fun t x => ?rint, fun t g d r => ?rintA⟩, fun t x b c m s k hx h => ?mxcvt⟩
  case ftoi =>
    refine (congrArg (FloatCompletes _ _ _ _) (funext₃ fun s k l => ?_)).mp
      (fpOp_completes (i := .ftoi it ft x) (d := x.d) (n := it.regs) (b := bFloat) fun _ => rfl)
    dsimp only
    cases fpDecode (ftFmt ft) (fsrcA s k x (ftFmt ft) ft.regs l) with
    | nan _ => rfl
    | inf _ => rfl
    | fin n m e => rw [fpInteger_fin]
  case rint => cases t <;> exact fpOp_completes fun _ => rfl
  case rintA => cases t <;> exact fpOp_completes fun _ => rfl
  case mxcvt =>
    obtain ⟨honly, hbytes, hw, hadv⟩ := retired_of (.mxcvt t x) (mxWritten s k t x b) h.1 (by rw [mxWritten_only]) (by rw [mxWritten_only])
    refine ⟨_, mxcvt_runs h hx, honly, hbytes, _, hw, hadv, ?_, fun l hl => ⟨fun ha => ⟨?_, fun hne => ?_⟩, fun r hr => ?_⟩⟩
    · unfold RegsOnly
      rw [retiredWave_only, mxWritten_only]
    · exact (mxWritten_held k.w _ hl).trans (if_pos ⟨ha, rfl⟩)
    · refine (mxWritten_held k.w _ hl).trans ((if_neg fun hb => ?_).trans (if_pos ⟨ha, rfl⟩))
      exact hne (BitVec.eq_of_toNat_eq hb.2)
    · refine (mxWritten_held k.w r hl).trans ((if_neg fun hb => ?_).trans (if_neg fun hd => ?_))
      · exact hr.elim (fun h0 => Bool.false_ne_true (h0.symm.trans hb.1)) fun h0 => h0.2 hb.2
      · exact hr.elim (fun h0 => Bool.false_ne_true (h0.symm.trans hd.1)) fun h0 => h0.1 hd.2

end Sys2Proof.Machine
end

section
/-!
SUPPORT. Matrix arrays: accumulators, queues and rings after an event of the array (08 R192 to R195, R203 to R205).
-/

namespace Sys2Proof.Machine

/-! Tables of words. -/

/-- A listed value is found under its key, where no other member has that key. -/
theorem assocGet_filterMap {α β : Type} [DecidableEq β] (key : β → Nat) (v : β → Option α) (ps : List β) (p : β)
    (hinj : ∀ x ∈ ps, key x = key p → x = p) :
    assocGet (ps.filterMap fun x => (v x).map fun a => (key x, a)) (key p) = if p ∈ ps then v p else none := by
  induction ps with
  | nil => rfl
  | cons x r ih =>
    have ih := ih fun y hy => hinj y (List.mem_cons_of_mem _ hy)
    by_cases hx : x = p
    · subst hx
      rw [if_pos List.mem_cons_self]
      cases hv : v x with
      | none =>
        rw [List.filterMap_cons_none (by rw [hv]; rfl), ih, hv, ite_self]
      | some a =>
        rw [List.filterMap_cons_some (by rw [hv]; rfl)]
        exact if_pos rfl
    · have hk : key x ≠ key p := fun hk => hx (hinj x List.mem_cons_self hk)
      have hmem : p ∈ x :: r ↔ p ∈ r := by simp [Ne.symm hx]
      rw [if_congr hmem rfl rfl, ← ih]
      cases hv : v x with
      | none => rw [List.filterMap_cons_none (by rw [hv]; rfl)]
      | some a =>
        rw [List.filterMap_cons_some (by rw [hv]; rfl)]
        exact if_neg hk

/-- A cell of a table listed row by row. -/
theorem assocGet_table {α : Type} {N M : Nat} (v : Nat → Nat → Option α) {i j : Nat} (hi : i < N) (hj : j < M) :
    assocGet ((List.range N).flatMap fun i => (List.range M).filterMap fun j => (v i j).map fun a => (M * i + j, a)) (M * i + j) =
      v i j := by
  have hps : ((List.range N).flatMap fun i => (List.range M).filterMap fun j => (v i j).map fun a => (M * i + j, a)) =
      ((List.range N).flatMap fun i => (List.range M).map fun j => (i, j)).filterMap
        fun p => (v p.1 p.2).map fun a => (M * p.1 + p.2, a) := by
    rw [List.filterMap_flatMap]
    simp only [List.filterMap_map]
    rfl
  have hmem : ∀ p, p ∈ ((List.range N).flatMap fun i => (List.range M).map fun j => (i, j)) ↔ p.1 < N ∧ p.2 < M := by
    rintro ⟨a, c⟩
    simp
  rw [hps]
  refine (assocGet_filterMap (fun p : Nat × Nat => M * p.1 + p.2) (fun p => v p.1 p.2) _ (i, j) fun x hx hk => ?_).trans
    (if_pos ((hmem _).2 ⟨hi, hj⟩))
  have hx2 := ((hmem x).1 hx).2
  dsimp only at hk
  have hM : 0 < M := by omega
  have h1 : x.1 = i := by
    have := congrArg (· / M) hk
    simpa [Nat.mul_add_div hM, Nat.div_eq_of_lt hx2, Nat.div_eq_of_lt hj] using this
  exact Prod.ext h1 (by rw [h1] at hk; exact Nat.add_left_cancel hk)

theorem zipIdx_map_range {α : Type} (n : Nat) (g : Nat → α) :
    ((List.range n).map g).zipIdx = (List.range n).map fun j => (g j, j) := by
  refine List.ext_getElem (by simp) fun i h1 h2 => ?_
  simp

theorem imgAt_cell {s : State} {m : Image} {n : Nat} {v : Word} (h : assocGet m.cells n = some v) : imgAt s m n = v := by
  unfold imgAt
  rw [h]

/-- An element of the accumulator after an `MMA`: that of an active row updated, any other as before. -/
theorem imgAt_mmaImage (s : State) (f : MmaFmt) (z : Bool) (rows : LaneMask) (ra rb : SlotRef) (m : Image) {i j : Nat}
    (hi : i < 128) (hj : j < 128) : imgAt s (mmaImage s f z rows ra rb m) (128 * i + j) =
      if rows.getLsbD (i / 2) then
        mmaElement f (if z then 0 else imgAt s m (128 * i + j)) (slotLine s f ra i).1 (slotLine s f rb j).1
          (slotLine s f ra i).2 (slotLine s f rb j).2
      else imgAt s m (128 * i + j) := by
  have hcell : assocGet (mmaImage s f z rows ra rb m).cells (128 * i + j) = if rows.getLsbD (i / 2) then
      some (mmaElement f (if z then 0 else imgAt s m (128 * i + j)) (slotLine s f ra i).1 (slotLine s f rb j).1
        (slotLine s f ra i).2 (slotLine s f rb j).2) else assocGet m.cells (128 * i + j) := by
    rw [← assocGet_table (fun i j => if rows.getLsbD (i / 2) then
      some (mmaElement f (if z then 0 else imgAt s m (128 * i + j)) (slotLine s f ra i).1 (slotLine s f rb j).1
        (slotLine s f ra i).2 (slotLine s f rb j).2) else assocGet m.cells (128 * i + j)) hi hj]
    congr 1
    unfold mmaImage
    dsimp only
    congr 1
    funext i
    rw [zipIdx_map_range, List.filterMap_map]
    refine List.filterMap_congr fun j _ => ?_
    dsimp only [Function.comp]
    split <;> rfl
  by_cases h : rows.getLsbD (i / 2) = true
  · rw [if_pos h] at hcell ⊢
    exact imgAt_cell hcell
  · rw [if_neg h] at hcell ⊢
    unfold imgAt
    rw [hcell]
    rfl

/-! Arrays of a bank. -/

theorem getArray_set {s : State} {bk : Nat} {bank : Bank} (h : assocGet s.banks bk = some bank) (a : Nat) (m : MArray) :
    getArray (bumpFree (setArray s bk a m)) bk a = m := by
  have hb : assocGet (setArray s bk a m).banks bk = some { bank with arrays := assocSet bank.arrays a m } := modBank_get _ h
  unfold getArray
  rw [show (bumpFree (setArray s bk a m)).banks = (setArray s bk a m).banks from rfl, hb]
  dsimp only
  rw [assocGet_set_same]
  rfl

/-! Slots. -/

theorem SlotRef.ring_eq {s : State} {x : SlotRef} {r : Ring} (h : getRing s x.rk = some r) (hg : r.grid = x.grid) (hw : r.wg = x.wg) :
    x.ring s = some r := by
  unfold SlotRef.ring
  rw [h]
  simp [hg, hw]

/-- A line of a claimed slot, and its scales. -/
theorem slotLine_eq {s : State} {x : SlotRef} {r : Ring} (f : MmaFmt) (i : Nat) (h : x.ring s = some r) :
    (slotLine s f x i).1 = shareGet s x.grid x.wg (x.base + x.slot * x.bytes + 64 * i) 64 ∧
    (slotLine s f x i).2 = if f ∈ [.mxe4m3, .mxe5m2, .mxe2m1] then
      (shareGet s x.grid x.wg (x.base + x.slot * x.bytes + (8192 + i * (mmaK f / 32))) (mmaK f / 32)).map (·.toNat) else [] := by
  have hb : ∀ o n, x.bytesAt s o n = shareGet s x.grid x.wg (x.base + x.slot * x.bytes + o) n := fun o n => by
    unfold SlotRef.bytesAt
    rw [h]
  unfold slotLine
  rw [hb, hb]
  refine ⟨rfl, ?_⟩
  cases f <;> rfl

theorem advanceHead_keeps (fuel : Nat) (r : Ring) : (r.advanceHead fuel).slots = r.slots ∧
    (r.advanceHead fuel).read = r.read ∧ (r.advanceHead fuel).tail = r.tail := by
  induction fuel generalizing r with
  | zero => exact ⟨rfl, rfl, rfl⟩
  | succ n ih =>
    unfold Ring.advanceHead
    split
    · exact ih { r with head := r.next r.head }
    · exact ⟨rfl, rfl, rfl⟩

/-- A freed slot is the only one that changes, and READ and TAIL stay. -/
theorem freeSlot_keeps (r : Ring) (i : Nat) : (r.freeSlot i).slots = r.slots.set i .free ∧ (r.freeSlot i).read = r.read ∧
    (r.freeSlot i).tail = r.tail := by
  obtain ⟨h1, h2, h3⟩ := advanceHead_keeps r.n (r.setSlot i .free)
  exact ⟨h1.trans (listMod_const _ _ _), h2, h3⟩

theorem getRing_set {s : State} {rk : Nat} {r : Ring} (r' : Ring) (h : getRing s rk = some r) :
    getRing (setRing s rk r') rk = some r' := by
  unfold getRing at h
  split at h
  · rename_i b hb
    unfold getRing setRing
    rw [modBank_get _ hb]
    exact assocGet_set_same _ _ _
  · simp at h

theorem getRing_set_other (s : State) {rk rk' : Nat} (r : Ring) (h : rk' ≠ rk) : getRing (setRing s rk r) rk' = getRing s rk' := by
  unfold getRing setRing
  rw [modBank_banks]
  by_cases hb : rk' / 8 = rk / 8
  · rw [hb, assocGet_mod_same]
    cases assocGet s.banks (rk / 8) with
    | none => rfl
    | some b => exact assocGet_set_other _ _ _ _ (by omega)
  · rw [assocGet_mod_other _ _ _ _ hb]

theorem getArray_setRing (s : State) (rk : Nat) (r : Ring) (bk a : Nat) : getArray (setRing s rk r) bk a = getArray s bk a := by
  unfold getArray setRing
  rw [modBank_banks]
  by_cases hb : bk = rk / 8
  · rw [hb, assocGet_mod_same]
    cases assocGet s.banks (rk / 8) <;> rfl
  · rw [assocGet_mod_other _ _ _ _ hb]

theorem getRing_setArray (s : State) (bk a : Nat) (m : MArray) (rk : Nat) : getRing (setArray s bk a m) rk = getRing s rk := by
  unfold getRing setArray
  rw [modBank_banks]
  by_cases hb : rk / 8 = bk
  · rw [hb, assocGet_mod_same]
    cases assocGet s.banks bk <;> rfl
  · rw [assocGet_mod_other _ _ _ _ hb]

/-- The slot of a reference is freed, where its ring stands. -/
def slotFreed (s : State) (x : SlotRef) : State := match x.ring s with | some r => setRing s x.rk (r.freeSlot x.slot) | none => s

/-- Only banks differ. -/
def BanksOnly (s t : State) : Prop := t = { s with banks := t.banks }

theorem BanksOnly.trans {s t r : State} (h : BanksOnly s t) (h' : BanksOnly t r) : BanksOnly s r := by
  unfold BanksOnly at *
  rw [h', h]

theorem slotFreed_only (s : State) (x : SlotRef) (bk a : Nat) :
    BanksOnly s (slotFreed s x) ∧ getArray (slotFreed s x) bk a = getArray s bk a := by
  unfold slotFreed
  split
  · exact ⟨rfl, getArray_setRing _ _ _ _ _⟩
  · exact ⟨rfl, rfl⟩

/-- What freeing slot `i` leaves of a ring. -/
def SlotGone (y y' : Ring) (i : Nat) : Prop := y'.slots = y.slots.set i .free ∧ y'.read = y.read ∧ y'.tail = y.tail

theorem slotFreed_ring {s : State} {x : SlotRef} {y : Ring} (h : getRing s x.rk = some y) (hg : y.grid = x.grid) (hw : y.wg = x.wg) :
    ∃ y', getRing (slotFreed s x) x.rk = some y' ∧ SlotGone y y' x.slot := by
  unfold slotFreed
  rw [SlotRef.ring_eq h hg hw]
  exact ⟨_, getRing_set _ h, freeSlot_keeps y x.slot⟩

theorem slotFreed_other (s : State) (x : SlotRef) {rk : Nat} (h : rk ≠ x.rk) : getRing (slotFreed s x) rk = getRing s rk := by
  unfold slotFreed
  split
  · exact getRing_set_other _ _ h
  · rfl

/-- Both slots of an `MMA` freed: one and the same slot once. -/
def slotsFreed (s : State) (x y : SlotRef) : State := if x = y then slotFreed s x else slotFreed (slotFreed s x) y

theorem slotsFreed_only (s : State) (x y : SlotRef) (bk a : Nat) :
    BanksOnly s (slotsFreed s x y) ∧ getArray (slotsFreed s x y) bk a = getArray s bk a := by
  obtain ⟨h1, h2⟩ := slotFreed_only s x bk a
  unfold slotsFreed
  split
  · exact ⟨h1, h2⟩
  · obtain ⟨h3, h4⟩ := slotFreed_only (slotFreed s x) y bk a
    exact ⟨h1.trans h3, h4.trans h2⟩

/-- Each of the two slots is freed in its ring, where two slots of one ring are the same. -/
theorem slotsFreed_ring {s : State} {ra rb x : SlotRef} {y : Ring} (hx : x = ra ∨ x = rb) (hone : ra.rk = rb.rk → ra = rb)
    (h : getRing s x.rk = some y) (hg : y.grid = x.grid) (hw : y.wg = x.wg) :
    ∃ y', getRing (slotsFreed s ra rb) x.rk = some y' ∧ SlotGone y y' x.slot := by
  unfold slotsFreed
  by_cases he : ra = rb
  · obtain rfl : x = ra := hx.elim id fun h => h.trans he.symm
    rw [if_pos he]
    exact slotFreed_ring h hg hw
  · rw [if_neg he]
    have hne : ra.rk ≠ rb.rk := fun hk => he (hone hk)
    rcases hx with rfl | rfl
    · rw [slotFreed_other _ _ hne]
      exact slotFreed_ring h hg hw
    · exact slotFreed_ring ((slotFreed_other _ _ hne.symm).trans h) hg hw

theorem mmaEnd_eq {s : State} {bk a : Nat} {acc z : Bool} {f : MmaFmt} {rows : LaneMask} {ra rb : SlotRef} {r : List ArrOp}
    (h : (getArray s bk a).pend = .mma acc z f rows ra rb true :: r) :
    mmaEnd s bk a = some (slotsFreed (setArray s bk a { getArray s bk a with pend := r }) ra rb) := by
  unfold mmaEnd
  dsimp only
  rw [h]
  rfl

theorem mmaRun_eq {s : State} {bk a : Nat} {acc z : Bool} {f : MmaFmt} {rows : LaneMask} {ra rb : SlotRef} {r : List ArrOp}
    (h : (getArray s bk a).pend = .mma acc z f rows ra rb false :: r) :
    mmaRun s bk a = some (setArray s bk a
      { (getArray s bk a).setAcc acc (mmaImage s f z rows ra rb ((getArray s bk a).acc acc)) with
        pend := .mma acc z f rows ra rb true :: r }) := by
  unfold mmaRun
  dsimp only
  rw [h]

/-! `MDRAIN`. -/

/-- The first `n` words of an accumulator in an entry's format. -/
def drainedImage (s : State) (f : DrainFmt) (sat : Bool) (m : Image) (n : Nat) : Image :=
  ⟨none, (List.range n).map fun i => (i, drainWord f sat (imgAt s m i))⟩

theorem imgAt_drainedImage (s : State) (f : DrainFmt) (sat : Bool) (m : Image) (t : State) {n i : Nat} (hi : i < n) :
    imgAt t (drainedImage s f sat m n) i = drainWord f sat (imgAt s m i) :=
  imgAt_cell (assocGet_map_mem (fun i => drainWord f sat (imgAt s m i)) (List.mem_range.2 hi))

/-- The entry of a drain, ready with the accumulator in its format. -/
def drainedEntry (s : State) (f : DrainFmt) (sat : Bool) (m : Image) (e : ResEntry) : ResEntry :=
  { e with st := .ready, img := drainedImage s f sat m 16384 }

/-- The array once its oldest instruction, a drain to entry `id` of queue `q`, has executed. -/
def drainedArray (s : State) (m : MArray) (acc z sat : Bool) (f : DrainFmt) (q id : Nat) (r : List ArrOp) : MArray :=
  let m1 := m.modQueue q fun es => es.map fun e => if e.id = id then drainedEntry s f sat (m.acc acc) e else e
  { (if z then m1.setAcc acc ⟨some 0, []⟩ else m1) with pend := r }

theorem drainRun_eq {s : State} {bk a : Nat} {acc z sat : Bool} {f : DrainFmt} {q id : Nat} {r : List ArrOp}
    (h : (getArray s bk a).pend = .drain acc z sat f q id :: r) :
    drainRun s bk a = some (setArray s bk a (drainedArray s (getArray s bk a) acc z sat f q id r)) := by
  unfold drainRun
  dsimp only
  rw [h]
  rfl

section
variable (s : State) (m : MArray) (acc z sat : Bool) (f : DrainFmt) (q id : Nat) (r : List ArrOp)

theorem drainedArray_acc : let m' := drainedArray s m acc z sat f q id r
    m'.acc (!acc) = m.acc (!acc) ∧ (z = false → m'.acc acc = m.acc acc) ∧ (z = true → m'.acc acc = ⟨some 0, []⟩) := by
  cases z
  case false => cases acc <;> exact ⟨rfl, fun _ => rfl, fun h => absurd h Bool.false_ne_true⟩
  case true => cases acc <;> exact ⟨rfl, fun h => absurd h.symm Bool.false_ne_true, fun _ => rfl⟩

theorem drainedArray_queue : (drainedArray s m acc z sat f q id r).queue q =
    (m.queue q).map fun e => if e.id = id then drainedEntry s f sat (m.acc acc) e else e := by
  have hq : (drainedArray s m acc z sat f q id r).queues = (m.modQueue q fun es =>
      es.map fun e => if e.id = id then drainedEntry s f sat (m.acc acc) e else e).queues := by
    cases z <;> cases acc <;> rfl
  unfold MArray.queue
  rw [hq]
  unfold MArray.modQueue
  rw [assocGet_set_same]
  rfl

end

end Sys2Proof.Machine
end

section
/-!
SUPPORT. Group sums (05 R129, R130): the exact sum of exact products, by cases of NaN, infinities and finite values.
-/

namespace Sys2Proof.Machine

/-! Values as rationals. -/

/-- The rational that a finite value is; 0 for the others. -/
def FVal.rat (v : FVal) : ℚ := match v with | .fin n m e => (if n then -1 else 1) * (m : ℚ) * (2 : ℚ) ^ e | _ => 0

theorem rat_signed (n : Bool) (m : Nat) (e : Int) : (FVal.fin n m e).rat = (signed n m : ℚ) * 2 ^ e := by
  cases n <;> simp [FVal.rat, signed]

theorem rat_eq_zero {n : Bool} {m : Nat} {e : Int} : (FVal.fin n m e).rat = 0 ↔ m = 0 := by
  cases n <;> simp [FVal.rat, zpow_ne_zero e (two_ne_zero (α := ℚ))]

theorem exactMul_rat (a b : FVal) : (exactMul a b).rat = a.rat * b.rat := by
  cases a with
  | nan _ => simp [exactMul, FVal.rat]
  | inf _ =>
    cases b with
    | nan _ => simp [exactMul, FVal.rat]
    | inf _ => simp [exactMul, FVal.rat]
    | fin _ m _ => by_cases hm : m = 0 <;> simp [exactMul, FVal.rat, hm]
  | fin n m e =>
    cases b with
    | nan _ => simp [exactMul, FVal.rat]
    | inf _ => by_cases hm : m = 0 <;> simp [exactMul, FVal.rat, hm]
    | fin n' m' e' =>
      have h2 : (2 : ℚ) ^ (e + e') = 2 ^ e * 2 ^ e' := zpow_add₀ two_ne_zero _ _
      simp only [exactMul, FVal.rat, h2]
      cases n <;> cases n' <;> push_cast <;> simp <;> ring

theorem addExact_rat (n : Bool) (m : Nat) (e : Int) (n' : Bool) (m' : Nat) (e' : Int) :
    ((addExact n m e n' m' e').1 : ℚ) * 2 ^ (addExact n m e n' m' e').2 = (FVal.fin n m e).rat + (FVal.fin n' m' e').rat := by
  have hterm : ∀ (n : Bool) (m : Nat) (e d : Int), d ≤ e →
      (signed n (m * 2 ^ (e - d).toNat) : ℚ) * 2 ^ d = (FVal.fin n m e).rat := fun n m e d hd => by
    have h2 : (2 : ℚ) ^ (e - d).toNat * 2 ^ d = 2 ^ e := by
      rw [← zpow_natCast, Int.toNat_of_nonneg (by omega), ← zpow_add₀ two_ne_zero, sub_add_cancel]
    rw [rat_signed, ← h2]
    cases n <;> simp only [signed] <;> push_cast <;> ring
  unfold addExact
  dsimp only
  push_cast
  rw [add_mul, hterm n m e _ (min_le_left _ _), hterm n' m' e' _ (min_le_right _ _)]

theorem rat_natAbs (r e : Int) : (FVal.fin (decide (r < 0)) r.natAbs e).rat = r * 2 ^ e := by
  rw [rat_signed]
  congr 2
  unfold signed
  split <;> rename_i h <;> simp only [decide_eq_true_eq] at h <;> omega

/-! Totals. -/

/-- What a running total `t` is: a NaN where the sum is `bad`, else the infinity of the sign met, else a finite value that is `x`. -/
structure Totals (bad : Prop) (infinite : Bool → Prop) (x : ℚ) (t : FVal) : Prop where
  nan : bad → t.isNaN = true
  inf : ¬bad → ∀ b, infinite b → t = .inf b
  fin : ¬bad → (∀ b, ¬infinite b) → (∃ n m e, t = .fin n m e) ∧ t.rat = x

theorem Totals.congr {bad bad' : Prop} {infinite infinite' : Bool → Prop} {x : ℚ} {t : FVal} (h : Totals bad infinite x t)
    (hb : bad ↔ bad') (hi : ¬bad → ∀ b, infinite b ↔ infinite' b) : Totals bad' infinite' x t where
  nan hbad := h.nan (hb.2 hbad)
  inf hbad b hinf := h.inf (hb.not.2 hbad) b ((hi (hb.not.2 hbad) b).2 hinf)
  fin hbad hinf := h.fin (hb.not.2 hbad) fun b hb' => hinf b ((hi (hb.not.2 hbad) b).1 hb')

/-- A sum is bad that meets a NaN, or infinities of both signs. -/
def BadSum (nan : Prop) (infinite : Bool → Prop) : Prop := nan ∨ (infinite true ∧ infinite false)

theorem isNaN_exactAdd {t p : FVal} (h : t.isNaN = true ∨ p.isNaN = true) : (exactAdd t p).isNaN = true := by
  cases t <;> cases p <;> simp [FVal.isNaN, exactAdd] at h ⊢

section
variable {nan : Prop} {infinite : Bool → Prop} {x : ℚ} {t : FVal} (h : Totals (BadSum nan infinite) infinite x t)
include h

/-- A finite term adds to a finite total. -/
theorem Totals.add_fin (n : Bool) (m : Nat) (e : Int) :
    Totals (BadSum nan infinite) infinite (x + (FVal.fin n m e).rat) (exactAdd t (.fin n m e)) where
  nan hb := isNaN_exactAdd (.inl (h.nan hb))
  inf hb b hi := by rw [h.inf hb b hi]; rfl
  fin hb hi := by
    obtain ⟨⟨n', m', e', rfl⟩, rfl⟩ := h.fin hb hi
    exact ⟨⟨_, _, _, rfl⟩, (rat_natAbs _ _).trans (addExact_rat _ _ _ _ _ _)⟩

/-- An infinite term meets the opposite infinity, or makes the total infinite. -/
theorem Totals.add_inf (c : Bool) : Totals (BadSum nan fun b => infinite b ∨ c = b) (fun b => infinite b ∨ c = b) x
    (exactAdd t (.inf c)) := by
  by_cases hb : BadSum nan infinite
  · have hbad : BadSum nan fun b => infinite b ∨ c = b := hb.imp_right fun ⟨ht, hf⟩ => ⟨.inl ht, .inl hf⟩
    exact ⟨fun _ => isNaN_exactAdd (.inl (h.nan hb)), fun hn => absurd hbad hn, fun hn => absurd hbad hn⟩
  have hnan : ¬nan := fun hn => hb (.inl hn)
  by_cases hopp : infinite (!c)
  · have hbad : BadSum nan fun b => infinite b ∨ c = b := by
      right
      cases c
      · exact ⟨.inl hopp, .inr rfl⟩
      · exact ⟨.inr rfl, .inl hopp⟩
    refine ⟨fun _ => ?_, fun hn => absurd hbad hn, fun hn => absurd hbad hn⟩
    rw [h.inf hb _ hopp]
    cases c <;> rfl
  have hinf : exactAdd t (.inf c) = .inf c := by
    by_cases hi : infinite c
    · rw [h.inf hb c hi]; exact if_pos rfl
    · obtain ⟨⟨n, m, e, rfl⟩, -⟩ := h.fin hb fun b => by cases b <;> cases c <;> assumption
      rfl
  have honly : ∀ b, (infinite b ∨ c = b) → c = b := fun b hor => by
    by_contra hne
    exact hopp (Bool.eq_not.2 (Ne.symm hne) ▸ hor.resolve_right hne)
  refine ⟨fun hbad => ?_, fun _ b hor => ?_, fun _ hno => absurd (.inr rfl) (hno c)⟩
  · obtain ⟨ht, hf⟩ := hbad.resolve_left hnan
    exact absurd ((honly _ ht).symm.trans (honly _ hf)) (by decide)
  · rw [hinf, honly b hor]

/-- One more term in the total. -/
theorem Totals.add (p : FVal) : Totals (BadSum (nan ∨ p.isNaN = true) fun b => infinite b ∨ p = .inf b)
    (fun b => infinite b ∨ p = .inf b) (x + p.rat) (exactAdd t p) := by
  cases p with
  | nan y =>
    have hbad : BadSum (nan ∨ (FVal.nan y).isNaN = true) fun b => infinite b ∨ FVal.nan y = .inf b := .inl (.inr rfl)
    exact ⟨fun _ => isNaN_exactAdd (.inr rfl), fun hn => absurd hbad hn, fun hn => absurd hbad hn⟩
  | inf c =>
    have hx : x + (FVal.inf c).rat = x := add_zero x
    rw [hx]
    refine (h.add_inf c).congr ?_ fun _ b => ?_ <;> simp [BadSum, FVal.isNaN]
  | fin n m e =>
    refine (h.add_fin n m e).congr ?_ fun _ b => ?_ <;> simp [BadSum, FVal.isNaN]

end

/-- The total of the first `n` terms. -/
theorem exactSum_totals (p : Nat → FVal) (n : Nat) :
    Totals (BadSum (∃ j, j < n ∧ (p j).isNaN = true) fun b => ∃ j, j < n ∧ p j = .inf b) (fun b => ∃ j, j < n ∧ p j = .inf b)
      (∑ j ∈ Finset.range n, (p j).rat) ((List.range n).foldl (fun t j => exactAdd t (p j)) (.fin false 0 0)) := by
  induction n with
  | zero =>
    refine ⟨?_, ?_, fun _ _ => ⟨⟨_, _, _, rfl⟩, by simp [FVal.rat]⟩⟩ <;> simp [BadSum]
  | succ n ih =>
    rw [List.range_succ, List.foldl_append, Finset.sum_range_succ]
    have hs : ∀ q : FVal → Prop, (∃ j, j < n + 1 ∧ q (p j)) ↔ (∃ j, j < n ∧ q (p j)) ∨ q (p n) := fun q => Nat.exists_lt_succ_right
    refine (ih.add (p n)).congr ?_ fun _ b => (hs (· = .inf b)).symm
    exact or_congr (hs (·.isNaN = true)).symm (and_congr (hs (· = .inf true)).symm (hs (· = .inf false)).symm)

theorem isNaN_exactMul {t p : FVal} (h : t.isNaN = true ∨ p.isNaN = true) : (exactMul t p).isNaN = true := by
  cases t <;> cases p <;> simp [FVal.isNaN, exactMul] at h ⊢

/-- Scaled by 2^(xa − 127), which may be NaN. -/
theorem Totals.scale {bad : Prop} {infinite : Bool → Prop} {x : ℚ} {t : FVal} (h : Totals bad infinite x t) (xa : Nat) :
    Totals (bad ∨ xa = 255) infinite (x * 2 ^ ((xa : Int) - 127)) (exactMul t (e8m0 xa)) := by
  by_cases hx : xa = 255
  · have hbad : bad ∨ xa = 255 := .inr hx
    exact ⟨fun _ => isNaN_exactMul (.inr (by rw [hx]; rfl)), fun hn => absurd hbad hn, fun hn => absurd hbad hn⟩
  have hs : e8m0 xa = .fin false 1 ((xa : Int) - 127) := if_neg hx
  refine Totals.congr (bad := bad) ⟨fun hb => isNaN_exactMul (.inl (h.nan hb)), fun hb b hi => ?_, fun hb hi => ?_⟩ (by simp [hx])
    fun _ _ => Iff.rfl
  · rw [h.inf hb b hi, hs]
    cases b <;> rfl
  · obtain ⟨⟨n, m, e, rfl⟩, rfl⟩ := h.fin hb hi
    refine ⟨⟨_, _, _, by rw [hs]; rfl⟩, ?_⟩
    rw [exactMul_rat, hs]
    simp [FVal.rat]

/-- The rounding of a total. -/
theorem Totals.round {bad : Prop} {infinite : Bool → Prop} {x : ℚ} {t : FVal} (h : Totals bad infinite x t) :
    (bad → roundGroup t = fpNaN fmtF32) ∧ (∀ n, ¬bad → infinite n → roundGroup t = fpInf fmtF32 n) ∧
    (¬bad → ¬infinite true → ¬infinite false → (x = 0 → roundGroup t = 0) ∧
      (x ≠ 0 → ∃ n m e, 0 < m ∧ x = (FVal.fin n m e).rat ∧ roundGroup t = (fpRound fmtF32 .rne false n m 1 e).1)) := by
  refine ⟨fun hb => ?_, fun n hb hi => ?_, fun hb ht hf => ?_⟩
  · have hnan := h.nan hb
    cases t with
    | nan _ => rfl
    | inf _ => exact absurd hnan Bool.false_ne_true
    | fin _ _ _ => exact absurd hnan Bool.false_ne_true
  · rw [h.inf hb n hi]
    rfl
  · obtain ⟨⟨n, m, e, rfl⟩, rfl⟩ := h.fin hb fun b => by cases b <;> assumption
    refine ⟨fun h0 => if_pos (rat_eq_zero.1 h0), fun h0 => ?_⟩
    have hm : m ≠ 0 := fun hm => h0 (rat_eq_zero.2 hm)
    exact ⟨n, m, e, Nat.pos_of_ne_zero hm, rfl, if_neg hm⟩

/-! A group of two lines. -/

/-- The product of two values has no value. -/
def NoProduct (a b : FVal) : Prop :=
  a.isNaN = true ∨ b.isNaN = true ∨ (a.isInf = true ∧ b.isZero = true) ∨ (a.isZero = true ∧ b.isInf = true)

theorem exactMul_isNaN (a b : FVal) : (exactMul a b).isNaN = true ↔ NoProduct a b := by
  unfold NoProduct
  cases a with
  | nan _ => simp [exactMul, FVal.isNaN]
  | inf _ =>
    cases b with
    | nan _ => simp [exactMul, FVal.isNaN]
    | inf _ => simp [exactMul, FVal.isNaN, FVal.isInf, FVal.isZero]
    | fin _ m _ => by_cases hm : m = 0 <;> simp [exactMul, FVal.isNaN, FVal.isInf, FVal.isZero, hm]
  | fin _ m _ =>
    cases b with
    | nan _ => simp [exactMul, FVal.isNaN]
    | inf _ => by_cases hm : m = 0 <;> simp [exactMul, FVal.isNaN, FVal.isInf, FVal.isZero, hm]
    | fin _ _ _ => simp [exactMul, FVal.isNaN, FVal.isInf]

theorem exactMul_inf {a b : FVal} (h : ¬NoProduct a b) (n : Bool) :
    exactMul a b = .inf n ↔ (a.isInf = true ∨ b.isInf = true) ∧ (a.neg != b.neg) = n := by
  unfold NoProduct at h
  cases a with
  | nan _ => simp [FVal.isNaN] at h
  | inf _ =>
    cases b with
    | nan _ => simp [FVal.isNaN] at h
    | inf _ => simp [exactMul, FVal.isInf, FVal.neg]
    | fin _ m _ =>
      have hm : m ≠ 0 := fun hm => h (by simp [FVal.isInf, FVal.isZero, hm])
      simp [exactMul, FVal.isInf, FVal.neg, hm]
  | fin _ m _ =>
    cases b with
    | nan _ => simp [FVal.isNaN] at h
    | inf _ =>
      have hm : m ≠ 0 := fun hm => h (by simp [FVal.isInf, FVal.isZero, hm])
      simp [exactMul, FVal.isInf, FVal.neg, hm]
    | fin _ _ _ => simp [exactMul, FVal.isInf]

/-- Some product of the first 32 pairs is infinite with sign `n`, where it has a value. -/
def InfiniteTerm (a b : Nat → FVal) (n : Bool) : Prop :=
  ∃ j, j < 32 ∧ ((a j).isInf = true ∨ (b j).isInf = true) ∧ ((a j).neg != (b j).neg) = n

/-- The dot product of 32 pairs. -/
theorem dot_totals (a b : Nat → FVal) :
    Totals (BadSum (∃ j, j < 32 ∧ NoProduct (a j) (b j)) (InfiniteTerm a b)) (InfiniteTerm a b)
      (∑ j ∈ Finset.range 32, (a j).rat * (b j).rat)
      ((List.range 32).foldl (fun t j => exactAdd t (exactMul (a j) (b j))) (.fin false 0 0)) := by
  have h := exactSum_totals (fun j => exactMul (a j) (b j)) 32
  simp only [exactMul_isNaN, exactMul_rat] at h
  have hinf : ¬(∃ j, j < 32 ∧ NoProduct (a j) (b j)) → ∀ n,
      (∃ j, j < 32 ∧ exactMul (a j) (b j) = .inf n) ↔ InfiniteTerm a b n := fun hno n =>
    exists_congr fun j => and_congr_right fun hj => exactMul_inf (fun hp => hno ⟨j, hj, hp⟩) n
  refine h.congr ?_ fun hbad => hinf fun hno => hbad (.inl hno)
  by_cases hno : ∃ j, j < 32 ∧ NoProduct (a j) (b j)
  · exact iff_of_true (.inl hno) (.inl hno)
  · exact or_congr_right (and_congr (hinf hno true) (hinf hno false))

theorem groupSum_eq (f : MmaFmt) (a b : List Byte) (xa xb g : Nat) :
    groupSum f a b xa xb g = roundGroup
      (let t := (List.range 32).foldl (fun t j => exactAdd t (exactMul (fpDecode (mmaElt f) (lineBits f a (32 * g + j)))
        (fpDecode (mmaElt f) (lineBits f b (32 * g + j))))) (.fin false 0 0)
      if mmaMx f then exactMul (exactMul t (e8m0 xa)) (e8m0 xb) else t) := rfl

theorem mmaMx_eq (f : MmaFmt) : mmaMx f = decide (f ∈ [MmaFmt.mxe4m3, .mxe5m2, .mxe2m1]) := by
  cases f <;> rfl

/-- The total of a group, scaled in the MX formats. -/
theorem group_totals (mx : Bool) (a b : Nat → FVal) (xa xb : Nat) :
    let bad := (∃ j, j < 32 ∧ NoProduct (a j) (b j)) ∨ (InfiniteTerm a b true ∧ InfiniteTerm a b false) ∨
      (mx = true ∧ (xa = 255 ∨ xb = 255))
    let t := (List.range 32).foldl (fun t j => exactAdd t (exactMul (a j) (b j))) (.fin false 0 0)
    Totals bad (InfiniteTerm a b)
      ((∑ j ∈ Finset.range 32, (a j).rat * (b j).rat) *
        if mx then (2 : ℚ) ^ ((xa : Int) - 127) * (2 : ℚ) ^ ((xb : Int) - 127) else 1)
      (if mx then exactMul (exactMul t (e8m0 xa)) (e8m0 xb) else t) := by
  have h := dot_totals a b
  cases mx with
  | false =>
    simp only [Bool.false_eq_true, if_false, mul_one, false_and, or_false]
    exact h
  | true =>
    simp only [if_true, true_and, ← mul_assoc]
    refine ((h.scale xa).scale xb).congr ?_ fun _ _ => Iff.rfl
    unfold BadSum
    simp only [or_assoc]

/-! INT8. -/

theorem foldl_add_eq_sum (f : Nat → Int) (n : Nat) : (List.range n).foldl (fun t j => t + f j) 0 = ∑ j ∈ Finset.range n, f j := by
  induction n with
  | zero => rfl
  | succ n ih => rw [List.range_succ, List.foldl_append, ih, Finset.sum_range_succ]; rfl

/-- An `.I8` element gains the sum of 64 products modulo 2^32. -/
theorem mmaElement_i8 (c : Word) (a b : List Byte) (xa xb : List Nat) : mmaElement .i8 c a b xa xb =
    BitVec.ofInt 32 (c.toInt + ∑ j ∈ Finset.range 64, (a.getD j 0).toInt * (b.getD j 0).toInt) := by
  have hg : ∀ g, groupInt a b g = ∑ j ∈ Finset.range 32, (a.getD (32 * g + j) 0).toInt * (b.getD (32 * g + j) 0).toInt :=
    fun g => foldl_add_eq_sum _ 32
  have hsum : (∑ j ∈ Finset.range 64, (a.getD j 0).toInt * (b.getD j 0).toInt) = groupInt a b 0 + groupInt a b 1 := by
    rw [hg, hg, show 64 = 32 + 32 from rfl, Finset.sum_range_add]
    simp only [Nat.mul_zero, Nat.zero_add, Nat.mul_one]
  have hrun : mmaElement .i8 c a b xa xb =
      BitVec.ofInt 32 ((BitVec.ofInt 32 (c.toInt + groupInt a b 0)).toInt + groupInt a b 1) := rfl
  rw [hrun, hsum, BitVec.ofInt_add, BitVec.ofInt_toInt, ← BitVec.ofInt_add, add_assoc]

end Sys2Proof.Machine
end

section
/-!
The settled statement on the execution of array instructions (05 R129, R130; 08 R194, R203 to R205).
-/

namespace Sys2Proof.Machine

/-- A group sum is the exact sum of exact products times the block scales, rounded once, or what its special operands give. -/
theorem groupSum_spec (f : MmaFmt) (a b : List Byte) (xa xb g : Nat) :
    let mx : Bool := decide (f ∈ [MmaFmt.mxe4m3, .mxe5m2, .mxe2m1])
    let el (line : List Byte) (j : Nat) : FVal := fpDecode (mmaElt f) (lineBits f line (32 * g + j))
    let bad := (∃ j, j < 32 ∧ NoProduct (el a j) (el b j)) ∨ (InfiniteTerm (el a) (el b) true ∧ InfiniteTerm (el a) (el b) false) ∨
      (mx = true ∧ (xa = 255 ∨ xb = 255))
    let sum : ℚ := (∑ j ∈ Finset.range 32, (el a j).rat * (el b j).rat) *
      if mx then (2 : ℚ) ^ ((xa : Int) - 127) * (2 : ℚ) ^ ((xb : Int) - 127) else 1
    let r := groupSum f a b xa xb g
    (bad → r = fpNaN fmtF32) ∧ (∀ n, ¬bad → InfiniteTerm (el a) (el b) n → r = fpInf fmtF32 n) ∧
    (¬bad → ¬InfiniteTerm (el a) (el b) true → ¬InfiniteTerm (el a) (el b) false → (sum = 0 → r = 0) ∧
      (sum ≠ 0 → ∃ n m e, 0 < m ∧ sum = (FVal.fin n m e).rat ∧ r = (fpRound fmtF32 .rne false n m 1 e).1)) := by
  dsimp only
  rw [groupSum_eq, mmaMx_eq]
  exact (group_totals _ _ _ xa xb).round

/-- Settles O38: the events by the lemma on each function; the sums by `Totals`, which says what a running total is. -/
theorem arraysExecute : Obligations.ArraysExecute := by
  refine ⟨fun s bk a bank hb => ⟨fun acc z f rows ra rb r hp => ?mma, fun f x i _ r hr hg hw => ?line,
    fun acc z f rows ra rb r hp => ?complete, fun acc z sat f q id r hp he => ?drain⟩,
    fun c a b xa xb => mmaElement_i8 c a b xa xb, fun f a b xa xb hf => ⟨fun c => ?element, ?depth, fun g pa pb => ?group⟩⟩
  case mma =>
    refine completes_evStep rfl (mmaRun_eq hp) ⟨⟨fun _ => rfl, rfl⟩, rfl, ?_⟩
    rw [getArray_set hb]
    generalize getArray s bk a = m at hp ⊢
    refine ⟨rfl, ?_, ?_, fun i j hi hj n hn => ?_⟩
    · cases acc <;> rfl
    · cases acc <;> rfl
    · have hacc : MArray.acc { m.setAcc acc (mmaImage s f z rows ra rb (m.acc acc)) with pend := .mma acc z f rows ra rb true :: r } acc =
          mmaImage s f z rows ra rb (m.acc acc) := by cases acc <;> rfl
      rw [hacc, hn]
      exact imgAt_mmaImage s f z rows ra rb (m.acc acc) hi hj
  case line => exact slotLine_eq f i (SlotRef.ring_eq hr hg hw)
  case complete =>
    obtain ⟨honly, harr⟩ := slotsFreed_only (setArray s bk a { getArray s bk a with pend := r }) ra rb bk a
    refine completes_evStep rfl (mmaEnd_eq hp) ⟨?_, ?_, harr.trans (getArray_set hb a _), fun x y hx hone hy hg hw => ?_⟩
    · unfold BanksOnly at honly
      rw [honly]
      exact ⟨fun _ => rfl, rfl⟩
    · unfold BanksOnly at honly
      rw [honly]
      rfl
    · exact slotsFreed_ring hx hone ((getRing_setArray s bk a _ x.rk).trans hy) hg hw
  case drain =>
    obtain ⟨e, hmem, hid⟩ := he
    obtain ⟨hother, hkeep, hclear⟩ := drainedArray_acc s (getArray s bk a) acc z sat f q id r
    refine completes_evStep rfl (drainRun_eq hp) ⟨⟨fun _ => rfl, rfl⟩, rfl, ?_⟩
    rw [getArray_set hb]
    refine ⟨rfl, hother, hkeep, fun hz i => ?_, drainedEntry s f sat ((getArray s bk a).acc acc) e, ?_, hid, rfl, fun i hi => ?_⟩
    · rw [hclear hz]
      rfl
    · rw [drainedArray_queue]
      exact List.mem_map.2 ⟨e, hmem, if_pos hid⟩
    · exact imgAt_drainedImage s f sat _ s hi
  case element =>
    cases f
    case i8 => exact absurd rfl hf
    all_goals rfl
  case depth => cases f <;> rfl
  case group =>
    exact groupSum_spec f a b pa pb g

end Sys2Proof.Machine
end

section
/-!
SUPPORT. `BATCH`, `WAITB` and `FENCE` issue (06 R148, R150 to R152; 07 R173, R177), with O19 and O20.
-/

namespace Sys2Proof.Machine

/-! What the issuing fragment does next. -/

section
variable {i : Instr} {s : State} {k : Issue} (hk : getIssue s = some k)
include hk

theorem issue_frag? {w : Wave} (h : w.frags = k.w.frags) : w.frag? k.lead = some k.f := by
  unfold Wave.frag?
  rw [h]
  obtain ⟨-, -, hf, -⟩ := getIssue_spec hk
  exact hf

/-- The instruction retires after an effect on its wave that leaves fragments and clocks. -/
theorem done_modWave (g : Wave → Wave) (hfr : (g k.w).frags = k.w.frags) (hcl : (g k.w).clocks = k.w.clocks) :
    let t := (Eff.done (modWave s k.uid g)).finish i k
    OnlyWave s t k.uid ∧ SameBytes s t ∧ ∃ w', assocGet t.waves k.uid = some w' ∧ Advanced i k w' ∧
      w' = { g k.w with clocks := w'.clocks, frags := w'.frags } :=
  let ⟨ho, hb, hg, ha⟩ := retired_of i g hk hfr hcl
  ⟨ho, hb, _, hg, ha, retiredWave_only _ _ _ _⟩

/-- The fragment parks at its instruction after an effect on its wave that leaves fragments. -/
theorem park_modWave (p : Park) (g : Wave → Wave) (hfr : (g k.w).frags = k.w.frags) :
    let t := (Eff.park p (modWave s k.uid g)).finish i k
    OnlyWave s t k.uid ∧ ∃ w' f', assocGet t.waves k.uid = some w' ∧ w'.frag? k.lead = some f' ∧ f'.pc = k.f.pc ∧
      f'.park = p ∧ w' = { g k.w with frags := w'.frags } :=
  let ⟨ho, _, _, hw, he, hf⟩ := park_result (i := i) p g hk (issue_frag? hk hfr)
  ⟨ho, _, _, hw, hf, rfl, rfl, he⟩

end

/-! `BATCH`. -/

def batchClosed (w : Wave) : Wave := { w with open_ := w.open_ + 1 }

theorem batchHold_none {k : Issue} (s : State) (h : (pendingBatches k.w).length < 16) : batchHold k s = none := if_pos h

theorem batchHold_waits {k : Issue} (s : State) (h : 16 ≤ (pendingBatches k.w).length)
    (hs : batchSettled k.w ((pendingBatches k.w).foldl min k.w.open_) = false) : batchHold k s = some (.park .wait s) := by
  unfold batchHold
  rw [if_neg (by omega)]
  simp only [hs, Bool.false_eq_true, if_false]

/-- The issuing wave of a `BATCH` that closes the open batch. -/
def batchNumbered (s : State) (k : Issue) (d : Reg) (w : Wave) : Wave :=
  lanesWritten s k d 1 bInt (fun _ => BitVec.ofNat 64 (k.w.open_ % 2 ^ 16)) (batchClosed w)

theorem batch_closes {g : BitVec 2} {d : Reg} {s : State} {k : Issue} (h : MayRun (.batch g d) s k)
    (hp : (pendingBatches k.w).length < 16) :
    exec (.batch g d) s = .next ((Eff.done (modWave s k.uid (batchNumbered s k d))).finish (.batch g d) k) := by
  show execBatch g d s = _
  unfold execBatch
  rw [issueWith_runs _ h, batchHold_none s hp]
  dsimp only
  rw [writeLanes_modWave, closeBatch, modWave_modWave]
  rfl

theorem batch_waits {g : BitVec 2} {d : Reg} {s : State} {k : Issue} (h : MayRun (.batch g d) s k)
    (hp : 16 ≤ (pendingBatches k.w).length)
    (hs : batchSettled k.w ((pendingBatches k.w).foldl min k.w.open_) = false) :
    exec (.batch g d) s = .next ((Eff.park .wait (modWave s k.uid id)).finish (.batch g d) k) := by
  show execBatch g d s = _
  unfold execBatch
  rw [issueWith_runs _ h, batchHold_waits s hp hs, modWave_same s k.uid id fun _ => rfl]

theorem batchNumbered_only (s : State) (k : Issue) (d : Reg) (w : Wave) :
    let w' := batchNumbered s k d w
    w' = { w with open_ := w.open_ + 1, regs := w'.regs, undef := w'.undef, boundMax := w'.boundMax } := by
  dsimp only
  unfold batchNumbered
  rw [lanesWritten_only]
  rfl

theorem batchNumbered_regs {s : State} {k : Issue} (d : Reg) (hk : getIssue s = some k) :
    RegsHold k.w (batchNumbered s k d k.w) d.toNat (k.act s) fun _ => [BitVec.ofNat 32 (k.w.open_ % 2 ^ 16)] := by
  refine RegsHold.congr (lanesWritten_regs .exit d 1 bInt (fun _ => BitVec.ofNat 64 (k.w.open_ % 2 ^ 16)) hk)
    (lanesWritten_regs_congr s k d 1 bInt _ rfl) fun l _ _ => ?_
  have : k.w.open_ % 2 ^ 16 < 2 ^ 16 := Nat.mod_lt _ (by decide)
  rw [valWords, if_neg (by decide)]
  refine congrArg (· :: []) (BitVec.eq_of_toNat_eq ?_)
  simp only [BitVec.toNat_ofNat, BitVec.extractLsb'_toNat]
  omega

/-! `WAITB`. -/

section
variable {s : State} {k : Issue} {w : Wave} {n : Nat} (hw : assocGet s.waves k.uid = some w)
include hw

theorem waitUpto_done (hn : ∀ e ∈ w.entries, n < e.batch ∨ e.flying = false) (hf : faultListEmpty w = true) :
    waitUpto n k s = .done s := by
  have hany : (w.entries.any fun e => decide (e.batch ≤ n) && e.flying) = false :=
    List.any_eq_false.2 fun e he => by
      rcases hn e he with h | h
      · simp [Nat.not_le.2 h]
      · simp [h]
  unfold waitUpto
  simp [hw, hany, hf]

theorem waitUpto_parks (hn : ∃ e ∈ w.entries, e.batch ≤ n ∧ e.flying = true) : waitUpto n k s = .park (.batches n) s := by
  obtain ⟨e, he, hb, hfl⟩ := hn
  have hany : (w.entries.any fun e => decide (e.batch ≤ n) && e.flying) = true :=
    List.any_eq_true.2 ⟨e, he, by simp [hb, hfl]⟩
  unfold waitUpto
  simp [hw, hany]

theorem waitUpto_reports (hn : ∀ e ∈ w.entries, e.flying = false) (hf : faultListEmpty w = false) :
    waitUpto n k s = .report (modFrag s k.uid k.lead fun f => { f with closed := true, park := .none }) := by
  have hany : (w.entries.any fun e => decide (e.batch ≤ n) && e.flying) = false :=
    List.any_eq_false.2 fun e he => by simp [hn e he]
  unfold waitUpto
  simp [hw, hany, hf]

end

/-- How far back the batch that a `WAITB` names lies from the open one; `.ALL` names the open one. -/
def waitBack (r : Option Reg) (s : State) (k : Issue) : Nat :=
  match r with
  | none => 0
  | some r => (BitVec.ofNat 16 k.w.open_ - (readLane s k.w r.toNat k.low).extractLsb' 0 16).toNat

section
variable {r : Option Reg} {s : State} {k : Issue} (hpk : ∀ n, k.f.park ≠ .batches n)
include hpk

/-- A `WAITB` that was not waiting tells its batch by how far back it lies. -/
theorem waitBatches_first : waitBatches r k s =
    if waitBack r s k = 0 ∨ waitBack r s k ≥ 0x8000 then
      if k.f.closed then waitUpto (k.w.open_ - 1) k (progress s k)
      else match batchHold k (progress s k) with
        | some e => e
        | none => waitUpto k.w.open_ k (closeBatch (progress s k) k.uid)
    else if waitBack r s k ≤ 16 ∧ waitBack r s k ≤ k.w.open_ then waitUpto (k.w.open_ - waitBack r s k) k (progress s k)
    else if !faultListEmpty k.w then .report (modFrag (progress s k) k.uid k.lead fun f => { f with closed := true })
    else .done (progress s k) := by
  unfold waitBatches
  split
  · rename_i n hn; exact absurd hn (hpk n)
  · rfl

/-- A first issue that names the open batch closes it. -/
theorem waitBatches_open (hd : waitBack r s k = 0) (hc : k.f.closed = false) (hp : (pendingBatches k.w).length < 16) :
    waitBatches r k s = waitUpto k.w.open_ k (modWave s k.uid (batchClosed ∘ progressed k)) := by
  have hs : closeBatch (progress s k) k.uid = modWave s k.uid (batchClosed ∘ progressed k) := by
    rw [progress_eq, closeBatch, modWave_modWave]; rfl
  rw [← hs, waitBatches_first hpk, if_pos (Or.inl hd), hc, batchHold_none _ hp]
  rfl

/-- A first issue that names one of the sixteen batches before the open one waits up to it. -/
theorem waitBatches_back (h1 : 1 ≤ waitBack r s k) (h2 : waitBack r s k ≤ 16) (h3 : waitBack r s k ≤ k.w.open_) :
    waitBatches r k s = waitUpto (k.w.open_ - waitBack r s k) k (modWave s k.uid (progressed k)) := by
  rw [← progress_eq, waitBatches_first hpk, if_neg (by omega), if_pos ⟨h2, h3⟩]

end

/-- The instruction is a `WAITB` that names the batch in `r`, or `.ALL`. -/
def WaitsBatches (i : Instr) (r : Option Reg) : Prop := (∃ g, r = none ∧ i = .waitbAll g) ∨ ∃ g q, r = some q ∧ i = .waitb g q

theorem WaitsBatches.runs {i : Instr} {r : Option Reg} {s : State} {k : Issue} (hi : WaitsBatches i r) (h : MayRun i s k) :
    exec i s = .next ((waitBatches r k s).finish i k) := by
  obtain ⟨g, rfl, rfl⟩ | ⟨g, q, rfl, rfl⟩ := hi
  · exact issueWith_runs _ h
  · exact issueWith_runs _ h

/-- What a `WAITB` up to batch `n` does once it has had the effect `g` on its wave. -/
theorem waitb_cases {i : Instr} {r : Option Reg} {s : State} {k : Issue} {n o : Nat} (g : Wave → Wave) (hi : WaitsBatches i r)
    (h : MayRun i s k) (hg : g k.w = { k.w with open_ := o, watchdog := (g k.w).watchdog })
    (hu : waitBatches r k s = waitUpto n k (modWave s k.uid g)) :
    ((∀ e ∈ k.w.entries, n < e.batch ∨ e.flying = false) → faultListEmpty k.w = true → Completes i s fun t =>
      OnlyWave s t k.uid ∧ SameBytes s t ∧ ∃ w', assocGet t.waves k.uid = some w' ∧ Advanced i k w' ∧
        w' = { k.w with open_ := o, watchdog := w'.watchdog, clocks := w'.clocks, frags := w'.frags }) ∧
    ((∃ e ∈ k.w.entries, e.batch ≤ n ∧ e.flying = true) → Completes i s fun t => OnlyWave s t k.uid ∧
      ∃ w' f', assocGet t.waves k.uid = some w' ∧ w'.frag? k.lead = some f' ∧ f'.pc = k.f.pc ∧ f'.park = .batches n ∧
        w'.open_ = o) := by
  have hw := modWave_get g (getIssue_spec h.1).2.1
  have hent : (g k.w).entries = k.w.entries := by rw [hg]
  have hfr : (g k.w).frags = k.w.frags := by rw [hg]
  have hcl : (g k.w).clocks = k.w.clocks := by rw [hg]
  have hrun := hi.runs h
  refine ⟨fun hn hf => ?_, fun hn => ?_⟩
  · rw [hu, waitUpto_done hw (by rwa [hent]) (by unfold faultListEmpty; rwa [hent])] at hrun
    obtain ⟨ho, hb, w', hw', ha, he⟩ := done_modWave (i := i) h.1 g hfr hcl
    refine ⟨_, hrun, ho, hb, w', hw', ha, ?_⟩
    rw [he, hg]
  · rw [hu, waitUpto_parks hw (by rwa [hent])] at hrun
    obtain ⟨ho, w', f', hw', hf', hpc, hpk, he⟩ := park_modWave (i := i) h.1 (.batches n) g hfr
    exact ⟨_, hrun, ho, w', f', hw', hf', hpc, hpk, by rw [he, hg]⟩

/-- Settles O19: a `BATCH` is `batchNumbered`, and a `WAITB` is `waitUpto` of the batch that it names, by `waitb_cases`. -/
theorem batchesCloseAndComplete : Obligations.BatchesCloseAndComplete := by
  unfold Obligations.BatchesCloseAndComplete
  refine ⟨fun g d s k h => ⟨fun hp => ?_, fun hp hs => ?_⟩, fun i s k hi h hpk hc hp => ?_, fun g r s k h hpk => ?_⟩
  · obtain ⟨ho, hb, w', hw, ha, he⟩ := done_modWave (i := .batch g d) h.1 (batchNumbered s k d)
      (by rw [batchNumbered_only]) (by rw [batchNumbered_only])
    have hreg : w'.regs = (batchNumbered s k d k.w).regs := by rw [he]
    rw [batchNumbered_only] at he
    refine ⟨_, batch_closes h hp, ho, hb, w', hw, ha, by rw [he], by rw [he], by rw [he], by rw [he], by rw [he], ?_⟩
    exact (batchNumbered_regs d h.1).congr hreg fun _ _ _ => rfl
  · obtain ⟨ho, w', f', hw, hf, hpc, hpk, he⟩ := park_modWave (i := .batch g d) h.1 .wait id rfl
    exact ⟨_, batch_waits h hp hs, ho, w', f', hw, hf, hpc, hpk, by rw [he]; rfl⟩
  · have hback : ∃ r, WaitsBatches i r ∧ waitBack r s k = 0 := by
      obtain ⟨g, rfl⟩ | ⟨g, r, rfl, hr⟩ := hi
      · exact ⟨none, Or.inl ⟨g, rfl, rfl⟩, rfl⟩
      · refine ⟨some r, Or.inr ⟨g, r, rfl, rfl⟩, ?_⟩
        simp only [waitBack, hr, BitVec.sub_self]
        rfl
    obtain ⟨r, hi, hd⟩ := hback
    have hg : (batchClosed ∘ progressed k) k.w =
        { k.w with open_ := k.w.open_ + 1, watchdog := ((batchClosed ∘ progressed k) k.w).watchdog } := by
      simp only [Function.comp, batchClosed]
      rw [progressed_only]
    exact waitb_cases _ hi h hg
      (waitBatches_open hpk hd hc hp)
  · intro d h1 h2 h3
    have hc := waitb_cases (o := k.w.open_) (progressed k) (Or.inr ⟨g, r, rfl, rfl⟩) h (by rw [progressed_only])
      (waitBatches_back (r := some r) hpk h1 h2 h3)
    refine ⟨fun hn hf => ?_, fun hn => ?_⟩
    · obtain ⟨t, ht, ho, hb, w', hw, ha, he⟩ := hc.1 hn hf
      exact ⟨t, ht, ho, hb, w', hw, ha, by rw [he], by rw [he]⟩
    · obtain ⟨t, ht, ho, w', f', hw, hf, hpc, hpk, -⟩ := hc.2 hn
      exact ⟨t, ht, ho, w', f', hw, hf, hpc, hpk⟩

/-! `FENCE`. -/

/-- The state once an acquire's copies are dropped, where the fence has one of die scope or wider. -/
def fenced (scope : BitVec 3) (kind : FenceKind) (s : State) (k : Issue) : State :=
  if kind ≠ .rel ∧ 4 ≤ scope.toNat then dropCopies s k.w.core else s

theorem fenced_eq (scope : BitVec 3) (kind : FenceKind) (s : State) (k : Issue) :
    fenced scope kind s k = { s with hub := (fenced scope kind s k).hub } ∧
      (fenced scope kind s k).hub = (if kind ≠ .rel ∧ 4 ≤ scope.toNat then
        { s.hub with lineCopies := s.hub.lineCopies.filter fun c => c.1 / 2 ^ 52 != sliceGroup k.w.core } else s.hub) := by
  unfold fenced
  split <;> exact ⟨rfl, rfl⟩

section
variable {g : BitVec 2} {scope : BitVec 3} {kind : FenceKind} {s : State} {k : Issue} (h : MayRun (.fence g scope kind) s k)
include h

theorem fence_goes (hf : kind = .acq ∨ releaseWaits k = false ∧ releaseStuck k = false) :
    exec (.fence g scope kind) s = .next ((Eff.done (fenced scope kind s k)).finish (.fence g scope kind) k) := by
  show execFence g scope kind s = _
  unfold execFence
  rw [issueWith_runs _ h]
  rcases hf with rfl | ⟨hw, hs⟩
  · rfl
  · by_cases hk : kind = .acq
    · subst hk; rfl
    · simp only [hw, hs, if_neg hk]
      rfl

theorem fence_waits (hk : kind ≠ .acq) (hw : releaseWaits k = true) :
    exec (.fence g scope kind) s = .next ((Eff.park .wait (modWave s k.uid id)).finish (.fence g scope kind) k) := by
  show execFence g scope kind s = _
  unfold execFence
  rw [issueWith_runs _ h, modWave_same s k.uid id fun _ => rfl]
  simp only [if_neg hk, hw, if_true]

end

/-- What a release covers, lane by lane. -/
theorem coveredAny_iff (w : Wave) (qs : QuadMask) (seq : Nat) (p : LaneSt → Bool) :
    coveredAny w qs seq p = true ↔ ∃ e ∈ w.entries, e.seq < seq ∧ isMem e.instr = true ∧
      ∃ l ∈ e.lanes, (lanesOf qs).getLsbD l.1 = true ∧ p l.2 = true := by
  simp only [coveredAny, List.any_eq_true, Bool.and_eq_true, decide_eq_true_eq, and_assoc]

/-- Settles O20: a fence goes on from `fenced`, or parks; `coveredAny_iff` says which accesses it waits for. -/
theorem fencesWaitForEarlierAccesses : Obligations.FencesWaitForEarlierAccesses := by
  unfold Obligations.FencesWaitForEarlierAccesses
  intro g scope kind s k h
  dsimp only
  simp only [← coveredAny_iff]
  refine ⟨fun hf => ?_, fun hk hw => ?_⟩
  · have hrun := fence_goes h (hf.imp_right fun hc => ⟨Bool.eq_false_iff.2 hc.1, Bool.eq_false_iff.2 hc.2⟩)
    obtain ⟨he, hh⟩ := fenced_eq scope kind s k
    have hwv : (fenced scope kind s k).waves = s.waves := by rw [he]
    obtain ⟨hret, hother⟩ := retire_waves (i := .fence g scope kind) (s1 := fenced scope kind s k) h.1
      (by rw [hwv]; exact (getIssue_spec h.1).2.1) rfl
    refine ⟨_, hrun, ?_, fun v hv => ?_, hh, _, hret, advanced_retiredWave _ h.1 rfl rfl, retiredWave_only _ _ _ _⟩
    · unfold Eff.finish retire bumpFree modWave
      rw [he]
    · exact (hother v hv).trans (by rw [hwv])
  · obtain ⟨ho, w', f', hw', hf', hpc, hpk, -⟩ := park_modWave (i := .fence g scope kind) h.1 .wait id rfl
    exact ⟨_, fence_waits h hk hw, ho, w', f', hw', hf', hpc, hpk⟩

end Sys2Proof.Machine
end

section
/-!
SUPPORT. The checks of an address and the walk of the page table (06 R138 to R146; 16 R392; 17 R407), with O25.
-/

namespace Sys2Proof.Machine

/-! Areas of a wave and of its cluster. -/

theorem shareLoc_eq (s : State) (w : Wave) (wg : Nat) (o : Word) (n : Nat) : shareLoc s w wg o n =
    if w.spawned = true ∨ shareSize s w.grid ≤ o.toNat then .error (.scratchpadBound, off80 o, 0)
    else if o.toNat % n = 0 then .ok (.share w.grid wg o.toNat) else .error (.misaligned, off80 o, 0) := by
  unfold shareLoc
  simp only [ne_eq, ite_not]

theorem globalLoc_eq (s : State) (k : Issue) (n : Nat) (a : Acc) (bad : Bool) (va : VA) (o : Word) :
    memLoc s k .glob n a bad va o =
      if bad then .error (.nonCanonical, va, va)
      else (match xlate s k.c va.toNat a with
        | .error e => .error (e, va, va)
        | .ok (pa, leaf) => if va.toNat % n = 0 then .ok (.phys pa leaf) else .error (.misaligned, va, va)) := by
  simp only [memLoc, globalAddr]
  cases bad with
  | true => rfl
  | false =>
    cases xlate s k.c va.toNat a with
    | error e => rfl
    | ok r => by_cases hn : va.toNat % n = 0 <;> simp [hn]

theorem spillLoc_eq (s : State) (k : Issue) (o : Word) (n : Nat) (a : Acc) : spillLoc s k o n a =
    if k.c.spf * 4096 < o.toNat + n then .error (.spillBound, off80 o, 0)
    else (match xlate s k.c (frameAddr k.c k.w + off80 o).toNat a with
      | .error e => .error (e, off80 o, frameAddr k.c k.w + off80 o)
      | .ok (pa, leaf) => if o.toNat % n = 0 then .ok (.phys pa leaf) else .error (.misaligned, off80 o, 0)) := by
  unfold spillLoc
  dsimp only
  cases xlate s k.c (frameAddr k.c k.w + off80 o).toNat a with
  | error e => rfl
  | ok r => simp only [ne_eq, ite_not, gt_iff_lt]

/-- A remote store: first the rank and the bound of the whole access, then its alignment (06 R145). -/
theorem rstLane_snd (s : State) (k : Issue) {n : Nat} (x : LongM) (e : Entry) (l : Nat) (hn : 0 < n) :
    let o := readLane s k.w x.a.toNat (permA x.perm l)
    let r := (readLane s k.w x.b.toNat (permB x.perm l)).toNat
    let size := gridS s k.w.grid
    (rstLane n x e k l s).2 =
      if size ≤ r ∨ shareSize s k.w.grid < o.toNat + n ∨ k.w.spawned = true then .faulted .scratchpadBound (off80 o) 0
      else if o.toNat % n ≠ 0 then .faulted .misaligned (off80 o) 0
      else .inflight (.store (.share k.w.grid (k.w.wg / size * size + r) o.toNat) (storeData s k.w x.d.toNat n l)) (off80 o) := by
  intro o r size
  unfold rstLane
  rw [laneAccess_snd]
  change accessSt (match (if r < size then some (k.w.wg / size * size + r) else none) with
    | none => .error (.scratchpadBound, off80 o, 0)
    | some g => if o.toNat + n > shareSize s k.w.grid then .error (.scratchpadBound, off80 o, 0) else shareLoc s k.w g o n) _ _ = _
  by_cases hr : r < size
  · by_cases hb : shareSize s k.w.grid < o.toNat + n
    · rw [if_pos hr, if_pos (Or.inr (Or.inl hb))]
      simp only [gt_iff_lt, if_pos hb]
      rfl
    · have hle : ¬shareSize s k.w.grid ≤ o.toNat := by omega
      have hr' : ¬size ≤ r := by omega
      rw [if_pos hr]
      simp only [gt_iff_lt, if_neg hb, shareLoc_eq, hle, hr', or_false, false_or]
      by_cases hsp : k.w.spawned = true
      · simp only [hsp, or_true, if_true]; rfl
      · by_cases ha : o.toNat % n = 0
        · simp only [hsp, hb, ha, if_false, if_true, ne_eq, not_true_eq_false]; rfl
        · simp only [hsp, hb, ha, if_false, if_true, ne_eq, not_false_eq_true]; rfl
  · rw [if_neg hr, if_pos (Or.inl (by omega))]; rfl

/-! Physical addresses that exist. -/

theorem paExists_iff (s : State) (p : Nat) : paExists s p = true ↔
    (p / 2 ^ 50 = 0 ∧ p < 18 * 2 ^ 36 ∧ s.hub.online.getLsbD (p / 2 ^ 36) = true) ∨
      p / 2 ^ 50 = 1 ∨ (p / 2 ^ 50 = 2 ∧ (assocGet s.hub.peers (p / 2 ^ 42 % 256)).isSome = true) := by
  unfold paExists paRegion dieOnline paPeer
  by_cases h0 : p / 2 ^ 50 = 0
  · have hd : p < 18 * 2 ^ 36 → p / 2 ^ 36 < 19 := by omega
    simp only [h0, if_true, Bool.and_eq_true, decide_eq_true_eq, true_and]
    constructor
    · exact fun ⟨h1, _, h2⟩ => Or.inl ⟨h1, h2⟩
    · rintro (⟨h1, h2⟩ | h | ⟨h, -⟩)
      · exact ⟨h1, hd h1, h2⟩
      · omega
      · omega
  · simp only [h0, if_false, false_and, false_or]
    split
    · next h1 => simp only [h1, true_or]
    · next h1 =>
      split
      · next h2 => simp only [h2, true_and, show ¬(2 : Nat) = 1 by decide, false_or]
      · next h2 => simp only [h1, h2, false_and, or_self, Bool.false_eq_true]

/-! The walk. -/

/-- Address of the entry of `va` in the table `tab` of level `j`. -/
def entryIn (tab va j : Nat) : Nat := tab + 8 * (va / 2 ^ (16 + 13 * j) % (if j = 4 then 4096 else 8192))

/-- The frame that an entry names. -/
def entryFrame (e : Nat) : Nat := e / 2 ^ 16 % 2 ^ 36 * 2 ^ 16

/-- A reserved bit of the entry is set. -/
def EntrySpare (e : Nat) : Prop := e / 2 ^ 60 ≠ 0 ∨ e / 2 ^ 8 % 2 ^ 8 ≠ 0 ∨ e / 2 ^ 2 % 2 = 1

/-- The entry of level `lvl` is malformed. -/
def EntryBad (lvl e : Nat) : Prop :=
  EntrySpare e ∨ (e / 2 % 2 = 1 ∧ (3 ≤ lvl ∨ entryFrame e % 2 ^ (16 + 13 * lvl) ≠ 0)) ∨
    (¬e / 2 % 2 = 1 ∧ (lvl = 0 ∨ e / 2 ^ 2 % 2 ^ 6 ≠ 0))

theorem memNat_eight_lt (m : List Host.Cell) (a : Nat) : memNat m a 8 < 2 ^ 64 := by
  have h := leNat_lt (memReadN m a 8)
  rwa [show (memReadN m a 8).length = 8 by simp [memReadN], show (256 : Nat) ^ 8 = 2 ^ 64 by norm_num] at h

section
variable {va lvl at_ e : Nat} (he : e < 2 ^ 64)
include he

theorem entrySpare_iff : EntrySpare e ↔ (bitsOf e 63 60 ≠ 0 || bitsOf e 15 8 ≠ 0 || bitOf e 2) = true := by
  have h60 : e / 2 ^ 60 % 2 ^ 4 = e / 2 ^ 60 := Nat.mod_eq_of_lt (by omega)
  show _ ↔ (decide (e / 2 ^ 60 % 2 ^ 4 ≠ 0) || decide (e / 2 ^ 8 % 2 ^ 8 ≠ 0) || (e / 2 ^ 2 % 2 == 1)) = true
  simp only [EntrySpare, h60, Bool.or_eq_true, decide_eq_true_eq, beq_iff_eq, or_assoc]

omit he in
theorem walkEntry_absent (h : e % 2 = 0) : walkEntry va lvl at_ e = .inl .absent := by
  unfold walkEntry; simp only [h, if_true]

theorem walkEntry_table (h : e % 2 = 1) (hs : ¬EntrySpare e) (hz : e / 2 % 2 ^ 7 = 0) :
    walkEntry va lvl at_ e = .inr (entryFrame e) := by
  rw [entrySpare_iff he] at hs
  have hb : bitOf e 1 = false := by unfold bitOf; simp; omega
  have h7 : bitsOf e 7 2 = 0 := by unfold bitsOf; omega
  unfold walkEntry
  simp only [if_neg (show ¬e % 2 = 0 by omega), if_neg hs, hb, h7]
  rfl

theorem walkEntry_bad (h : e % 2 = 1) (hb : EntryBad lvl e) :
    walkEntry va lvl at_ e = .inl .malformed ∨ (lvl = 0 ∧ ∃ t, walkEntry va lvl at_ e = .inr t) := by
  unfold EntryBad at hb
  rw [entrySpare_iff he] at hb
  have hfr : bitsOf e 51 16 * 2 ^ 16 = entryFrame e := rfl
  have hleaf : bitOf e 1 = true ↔ e / 2 % 2 = 1 := by simp [bitOf]
  have hlow : bitsOf e 7 2 = e / 2 ^ 2 % 2 ^ 6 := rfl
  unfold walkEntry
  simp only [if_neg (show ¬e % 2 = 0 by omega), hfr, hlow, pageBytes]
  split
  · exact Or.inl rfl
  · next hs =>
    rcases hb with hb | ⟨hl, hb⟩ | ⟨hl, hb⟩
    · exact absurd hb hs
    · rw [if_pos (hleaf.2 hl), if_pos (by simpa using hb)]; exact Or.inl rfl
    · rw [if_neg (mt hleaf.1 hl)]
      split
      · exact Or.inl rfl
      · next h7 => exact Or.inr ⟨hb.resolve_right h7, _, rfl⟩

theorem walkEntry_leaf (h : e % 2 = 1) (hb : ¬EntryBad lvl e) (hl : e / 2 % 2 = 1) :
    walkEntry va lvl at_ e = .inl (.found (entryFrame e + va % 2 ^ (16 + 13 * lvl)) at_ e) := by
  unfold EntryBad at hb
  rw [entrySpare_iff he] at hb
  push Not at hb
  obtain ⟨hs, hb, -⟩ := hb
  obtain ⟨h3, hf⟩ := hb hl
  have hleaf : bitOf e 1 = true := by simp [bitOf, hl]
  have hfr : bitsOf e 51 16 * 2 ^ 16 = entryFrame e := rfl
  unfold walkEntry
  simp only [if_neg (show ¬e % 2 = 0 by omega), if_neg hs, hleaf, if_true, hfr, pageBytes]
  rw [if_neg (by simp [hf]; omega)]

end

section
variable {ok : Nat → Bool} {m : List Host.Cell} {tab : Nat → Nat} {va : Nat}

/-- The levels above `lvl` name the tables `tab`. -/
def TablesTo (ok : Nat → Bool) (m : List Host.Cell) (tab : Nat → Nat) (va lvl : Nat) : Prop :=
  ∀ j, lvl < j → j ≤ 4 → ok (entryIn (tab j) va j) = true ∧ memNat m (entryIn (tab j) va j) 8 % 2 = 1 ∧
    ¬EntrySpare (memNat m (entryIn (tab j) va j) 8) ∧ memNat m (entryIn (tab j) va j) 8 / 2 % 2 ^ 7 = 0 ∧
    tab (j - 1) = entryFrame (memNat m (entryIn (tab j) va j) 8)

/-- The walk from the top goes on from the table of level `lvl`. -/
theorem walkFrom_tables : ∀ d lvl, lvl + d = 4 → TablesTo ok m tab va lvl →
    walkFrom ok m (tab 4) va 4 = walkFrom ok m (tab lvl) va lvl
  | 0, lvl, h, _ => by obtain rfl : lvl = 4 := h; rfl
  | d + 1, lvl, h, ht => by
    obtain ⟨hok, h1, hs, hz, hnext⟩ := ht (lvl + 1) (by omega) (by omega)
    rw [walkFrom_tables d (lvl + 1) (by omega) fun j hj => ht j (by omega), walkFrom]
    simp only [show tab (lvl + 1) + 8 * vaIndex va (lvl + 1) = entryIn (tab (lvl + 1)) va (lvl + 1) from rfl, hok, if_true,
      walkEntry_table (memNat_eight_lt m _) h1 hs hz, walkOn]
    rw [← hnext]
    rfl

/-- How the walk ends at level `lvl`. -/
theorem walkFrom_ends (lvl : Nat) :
    let e := memNat m (entryIn (tab lvl) va lvl) 8
    (ok (entryIn (tab lvl) va lvl) = false → walkFrom ok m (tab lvl) va lvl = .outside) ∧
    (ok (entryIn (tab lvl) va lvl) = true →
      (e % 2 = 0 → walkFrom ok m (tab lvl) va lvl = .absent) ∧
      (e % 2 = 1 → EntryBad lvl e → walkFrom ok m (tab lvl) va lvl = .malformed) ∧
      (e % 2 = 1 → ¬EntryBad lvl e → e / 2 % 2 = 1 →
        walkFrom ok m (tab lvl) va lvl = .found (entryFrame e + va % 2 ^ (16 + 13 * lvl)) (entryIn (tab lvl) va lvl) e)) := by
  intro e
  have hlt : e < 2 ^ 64 := memNat_eight_lt m _
  have heq : walkFrom ok m (tab lvl) va lvl = if ok (entryIn (tab lvl) va lvl) then
      walkOn (walkEntry va lvl (entryIn (tab lvl) va lvl) e) (fun t => match lvl with
        | 0 => .malformed
        | l + 1 => walkFrom ok m t va l) else .outside := by
    rw [walkFrom]; rfl
  refine ⟨fun h => by rw [heq, h]; rfl, fun h => ?_⟩
  rw [heq, if_pos h]
  refine ⟨fun h0 => by rw [walkEntry_absent h0]; rfl, fun h1 hb => ?_, fun h1 hb hl => by rw [walkEntry_leaf hlt h1 hb hl]; rfl⟩
  rcases walkEntry_bad hlt (va := va) (at_ := entryIn (tab lvl) va lvl) h1 hb with hw | ⟨rfl, t, hw⟩
  · rw [hw]; rfl
  · rw [hw]; rfl

end

/-! Translation. -/

section
variable {s : State} {c : Context} {va : Nat} (a : Acc)

theorem xlate_outside (h : walk s c va = .outside) : xlate s c va a = .error .physicalRange := by
  unfold xlate; rw [h]

theorem xlate_absent (h : walk s c va = .absent) : xlate s c va a = .error .pageFault := by
  unfold xlate; rw [h]

theorem xlate_malformed (h : walk s c va = .malformed) : xlate s c va a = .error .tableFormat := by
  unfold xlate; rw [h]

/-- A leaf gives the address unless it denies the access or names no memory. -/
theorem xlate_found {pa leaf e : Nat} (h : walk s c va = .found pa leaf e) :
    let denied := (c.sup = false ∧ e / 2 ^ 5 % 2 = 0) ∨ (a = .write ∧ e / 2 ^ 3 % 2 = 0) ∨ (a = .fetch ∧ e / 2 ^ 4 % 2 = 0)
    (denied → xlate s c va a = .error .protection) ∧
    (¬denied → paExists s pa = true → xlate s c va a = .ok (pa, leaf)) ∧
    (¬denied → ¬paExists s pa = true → xlate s c va a = .error .physicalRange) := by
  intro denied
  have bit : ∀ j, bitOf e j = false ↔ e / 2 ^ j % 2 = 0 := fun j => by simp [bitOf]
  have hd : ((!c.sup && !bitOf e 5) || (a == .write && !bitOf e 3) || (a == .fetch && !bitOf e 4)) = true ↔ denied := by
    simp only [Bool.or_eq_true, Bool.and_eq_true, Bool.not_eq_true', bit, beq_iff_eq, or_assoc, denied]
  unfold xlate
  rw [h]
  dsimp only
  refine ⟨fun h => if_pos (hd.2 h), fun h hp => ?_, fun h hp => ?_⟩
  · rw [if_neg (mt hd.1 h), if_pos hp]
  · rw [if_neg (mt hd.1 h), if_neg hp]

end

/-- Settles O25: the areas by their equations; the walk goes down `walkFrom_tables` and ends as `walkFrom_ends` says. -/
theorem addressesCheckedAndTranslated : Obligations.AddressesCheckedAndTranslated := by
  unfold Obligations.AddressesCheckedAndTranslated
  refine ⟨⟨fun s k n x e l hn => rstLane_snd s k x e l hn, fun s k spc n a bad va o => ?_⟩, ?_⟩
  · cases spc with
    | glob => exact globalLoc_eq s k n a bad va o
    | spl => exact spillLoc_eq s k o n a
    | scr => exact shareLoc_eq s k.w k.w.wg o n
  · intro s c va a tab lvl htab hlvl
    dsimp only
    simp only [← paExists_iff]
    intro ht
    have hwalk : walk s c va = walkFrom (paExists s) s.mem (tab lvl) va lvl := by
      unfold walk
      rw [← htab]
      exact walkFrom_tables (4 - lvl) lvl (by omega) ht
    obtain ⟨hout, hin⟩ := walkFrom_ends (ok := paExists s) (m := s.mem) (tab := tab) (va := va) lvl
    refine ⟨fun h => ?_, fun h h0 => ?_, fun h h1 hb => ?_, fun h h1 hb hl => ?_⟩
    · exact xlate_outside _ (hwalk.trans (hout (Bool.eq_false_iff.2 h)))
    · exact xlate_absent _ (hwalk.trans ((hin h).1 h0))
    · exact xlate_malformed _ (hwalk.trans ((hin h).2.1 h1 hb))
    · exact xlate_found _ (hwalk.trans ((hin h).2.2 h1 hb hl))

end Sys2Proof.Machine
end

section
/-!
SUPPORT. Reads and writes of locations: undefined ranges, the leaf that translated an access, and the copies of lines in a slice
group (06 R141, R147, R148; 07 R174).
-/

namespace Sys2Proof.Machine

/-! Undefined ranges. -/

theorem rangesHave_append (rs ts : List (Nat × Nat)) (x : Nat) :
    rangesHave (rs ++ ts) x = (rangesHave rs x || rangesHave ts x) := List.any_append

theorem rangesHave_drop (rs : List (Nat × Nat)) (a n x : Nat) :
    rangesHave (rangesDrop rs a n) x = (rangesHave rs x && !(decide (a ≤ x) && decide (x < a + n))) := by
  have one : ∀ r : Nat × Nat, rangesHave (if r.1 + r.2 ≤ a ∨ a + n ≤ r.1 then [r]
      else (if r.1 < a then [(r.1, a - r.1)] else []) ++ if a + n < r.1 + r.2 then [(a + n, r.1 + r.2 - (a + n))] else []) x =
      (rangesHave [r] x && !(decide (a ≤ x) && decide (x < a + n))) := by
    intro r
    rw [Bool.eq_iff_iff]
    split
    · simp [rangesHave]; omega
    · split <;> split <;> simp [rangesHave] <;> omega
  unfold rangesDrop
  induction rs with
  | nil => rfl
  | cons r rs ih =>
    have hc : rangesHave (r :: rs) x = (rangesHave [r] x || rangesHave rs x) := rangesHave_append [r] rs x
    rw [List.flatMap_cons, rangesHave_append, one, ih, hc, Bool.and_or_distrib_right]

theorem rangesHave_drop_in (rs : List (Nat × Nat)) {a n x : Nat} (h1 : a ≤ x) (h2 : x < a + n) :
    rangesHave (rangesDrop rs a n) x = false := by simp [rangesHave_drop, h1, h2]

theorem rangesHave_drop_out (rs : List (Nat × Nat)) {a n x : Nat} (h : x < a ∨ a + n ≤ x) :
    rangesHave (rangesDrop rs a n) x = rangesHave rs x := by
  rw [rangesHave_drop]
  have : (decide (a ≤ x) && decide (x < a + n)) = false := by simp; omega
  simp [this]

/-! The leaf that translated an access. -/

/-- A byte of memory is the same in two states, and as defined. -/
def SameByte (s t : State) (a : Nat) : Prop :=
  memRead t.mem a = memRead s.mem a ∧ rangesHave t.undefMem a = rangesHave s.undefMem a

theorem SameByte.refl (s : State) (a : Nat) : SameByte s s a := ⟨rfl, rfl⟩

theorem SameByte.trans {s t r : State} {a : Nat} (h : SameByte s t a) (h' : SameByte t r a) : SameByte s r a :=
  ⟨h'.1.trans h.1, h'.2.trans h.2⟩

theorem memNat_one (m : List Host.Cell) (a : Nat) : memNat m a 1 = (memRead m a).toNat := by
  simp [memNat, memReadN, leNat]

/-- Marking a leaf touches no other byte. -/
theorem touched_sameByte (l : Loc) (wr : Bool) (s : State) {a : Nat} (h : ¬l.leafIs a) : SameByte s (l.touched wr s) a := by
  cases l with
  | share g k off => exact SameByte.refl s a
  | phys pa leaf =>
    have hne : a ≠ leaf := h
    show SameByte s (touch s leaf wr) a
    unfold touch
    split
    · exact ⟨memRead_write_other _ _ hne, rangesHave_drop_out _ (by omega)⟩
    · exact SameByte.refl s a

/-- A performed access marks its leaf, whatever it did to other bytes before. -/
theorem touched_marked {s t : State} {l : Loc} (wr : Bool) (hwf : Memory.wf t.mem = true)
    (h : ∀ a, l.leafIs a → memRead t.mem a = memRead s.mem a) : LeafMarked s (l.touched wr t) l wr := by
  cases l with
  | share g k off => exact trivial
  | phys pa leaf =>
    show memRead (touch t leaf wr).mem leaf = _
    unfold touch
    rw [memNat_one, ← h leaf rfl]
    split
    · exact memRead_write_same _ _ hwf
    · rfl

theorem touched_wf (l : Loc) (wr : Bool) {s : State} (h : Memory.wf s.mem = true) : Memory.wf (l.touched wr s).mem = true :=
  (touched_keeps l wr s).wf h

theorem touched_modWave (l : Loc) (wr : Bool) (s : State) (u : Nat) (g : Wave → Wave) :
    l.touched wr (modWave s u g) = modWave (l.touched wr s) u g := by
  cases l with
  | share g k off => rfl
  | phys pa leaf =>
    show touch (modWave s u g) leaf wr = modWave (touch s leaf wr) u g
    unfold touch
    rw [modWave_mem]
    by_cases h : memNat s.mem leaf 1 % 4 = 3
    · simp only [h, if_true]; rfl
    · simp only [h, if_false]

/-! Copies of lines. -/

theorem withLines_self (s : State) : withLines s s.hub.lineCopies = s := rfl

theorem dropCopies_lines (s : State) (p : Nat) :
    dropCopies s p = withLines s (s.hub.lineCopies.filter fun c => c.1 / 2 ^ 52 != sliceGroup p) := rfl

theorem lineWrite_lines (s : State) (p pa : Nat) (bs : List Byte) : ∃ c, lineWrite s p pa bs = withLines s c := by
  unfold lineWrite
  split
  · exact ⟨_, rfl⟩
  · exact ⟨_, (withLines_self s).symm⟩

/-- A core's write is the write, but for the copies of lines. -/
theorem coreWrite_lines (s : State) (p : Nat) (l : Loc) (bs : List Byte) : ∃ c, coreWrite s p l bs = withLines (writeLoc s l bs) c := by
  have fold : ∀ (vs : List (Nat × Nat)) (f : Nat × Nat → List Byte) (t : State),
      ∃ c, vs.foldl (fun t v => lineWrite t p v.1 (f v)) t = withLines t c := by
    intro vs f
    induction vs with
    | nil => exact fun t => ⟨_, (withLines_self t).symm⟩
    | cons v r ih =>
      intro t
      obtain ⟨c1, e1⟩ := lineWrite_lines t p v.1 (f v)
      obtain ⟨c2, e2⟩ := ih (withLines t c1)
      exact ⟨c2, by rw [List.foldl_cons, e1, e2]; rfl⟩
  unfold coreWrite
  dsimp only
  split
  · split
    · exact fold _ _ _
    · exact ⟨_, (withLines_self _).symm⟩
  · exact ⟨_, (withLines_self _).symm⟩

/-- What the slice group gives for bytes within one line: those of memory, or of its copy of the line. -/
def LineBytes (s : State) (p : Nat) (v : Nat × Nat) (b : List Byte) : Prop :=
  b = physGet s v.1 v.2 ∨ ∃ c, assocGet s.hub.lineCopies (copyKey p v.1) = some c ∧ b = sliceBytes c (v.1 % 128) v.2

/-- A read of bytes within one line changes that line's copy alone. -/
theorem lineRead_bytes (s : State) (p pa n : Nat) : LineBytes s p (pa, n) (lineRead s p pa n).2 ∧
    ∃ c, (lineRead s p pa n).1 = withLines s c ∧ ∀ k, k ≠ copyKey p pa → assocGet c k = assocGet s.hub.lineCopies k := by
  have fresh : ∃ c, (modHub s fun h => copyPut h (copyKey p pa) (some (physGet s (pa / 128 * 128) 128))) = withLines s c ∧
      ∀ k, k ≠ copyKey p pa → assocGet c k = assocGet s.hub.lineCopies k :=
    ⟨_, rfl, fun k hk => assocGet_set_other _ _ _ _ hk⟩
  unfold lineRead
  dsimp only
  split
  · next b hb =>
    split
    · exact ⟨.inr ⟨b, hb, rfl⟩, _, (withLines_self s).symm, fun _ _ => rfl⟩
    · exact ⟨.inl rfl, fresh⟩
  · exact ⟨.inl rfl, fresh⟩

/-- The pieces of a read in two lines lie in lines of their own. -/
theorem lineParts_two {p pa n : Nat} (h : min n (128 - pa % 128) ≠ n) :
    copyKey p (pa + min n (128 - pa % 128)) ≠ copyKey p pa := by
  unfold copyKey
  omega

theorem coreRead_cached (s : State) (p pa leaf n : Nat) (h : paRegion pa < 2) :
    ∃ c parts, (coreRead s p (.phys pa leaf) n).1 = withLines s c ∧ (coreRead s p (.phys pa leaf) n).2 = parts.flatten ∧
      List.Forall₂ (LineBytes s p) (lineParts pa n) parts := by
  unfold coreRead lineParts
  simp only [cacheable, h, decide_true, if_true]
  split
  · next he =>
    obtain ⟨hb, c, hc, -⟩ := lineRead_bytes s p pa n
    exact ⟨c, [_], hc, by simp, .cons hb .nil⟩
  · next he =>
    obtain ⟨hb, c, hc, hk⟩ := lineRead_bytes s p pa (min n (128 - pa % 128))
    obtain ⟨hb2, c2, hc2, -⟩ := lineRead_bytes (withLines s c) p (pa + min n (128 - pa % 128)) (n - min n (128 - pa % 128))
    refine ⟨c2, [_, (lineRead (withLines s c) p (pa + min n (128 - pa % 128)) (n - min n (128 - pa % 128))).2], ?_, ?_,
      .cons hb (.cons ?_ .nil)⟩
    · simp only [List.foldl_cons, List.foldl_nil, hc, hc2]
      rfl
    · simp only [List.foldl_cons, List.foldl_nil, hc, List.nil_append, List.flatten_cons, List.flatten_nil, List.append_nil]
    · rcases hb2 with hb2 | ⟨d, hd, hb2⟩
      · exact .inl hb2
      · exact .inr ⟨d, (hk _ (lineParts_two he)).symm.trans hd, hb2⟩

theorem coreRead_plain (s : State) (p : Nat) (l : Loc) (n : Nat) (h : ∀ pa leaf, l = .phys pa leaf → ¬paRegion pa < 2) :
    coreRead s p l n = (s, readLoc s l n) := by
  cases l with
  | share g k off => rfl
  | phys pa leaf =>
    unfold coreRead
    simp only [cacheable, h pa leaf rfl, decide_false, Bool.false_eq_true, if_false]

end Sys2Proof.Machine
end

section
/-!
SUPPORT. Loads and stores performed (06 R141, R147, R148; 07 R174, R175; 16 R391; 17 R411, R413), with O26.
-/

namespace Sys2Proof.Machine

/-! The event of an access. -/

/-- What a part left of an access stays in flight as: itself, or the request that was sent for it. -/
def StaysAs (keep : Op → Op) : Prop := keep = id ∨ ∃ p c num, keep = .sent p c num

/-- A plain load or store. -/
def Op.moves (o : Op) : Prop := (∃ loc n r, o = .load loc n r) ∨ ∃ loc bs, o = .store loc bs

/-- A load or store that is due is performed by its event. -/
theorem due_performs {s : State} {u seq l : Nat} {w : Wave} {e : Entry} {op : Op} {addr : VA}
    (h : AccessDue s u seq l w e op addr) (hop : op.moves) (resp : BitVec 128) :
    assocGet s.waves u = some w ∧ e.seq = seq ∧ l < 64 ∧
      ∃ keep, StaysAs keep ∧ performOp s u seq l resp = performNow s u w e l op keep addr resp := by
  rcases h with ⟨⟨hw, he, hl, hfly, hstuck, hlane, hturn, hc, hlt⟩, hpeer⟩ | ⟨p, c, num, ⟨hw, he, hl, hc⟩, hans, hlt⟩
  · refine ⟨hw, by simpa using List.find?_some he, hlt, id, .inl rfl, ?_⟩
    have hacc : performAccess s u seq l resp = performNow s u w e l op id addr resp := by
      have hspan : op.span.isNone = false := by obtain ⟨loc, n, r, rfl⟩ | ⟨loc, bs, rfl⟩ := hop <;> rfl
      unfold performAccess
      simp only [hw, he, hl]
      obtain ⟨loc, n, r, rfl⟩ | ⟨loc, bs, rfl⟩ := hop <;>
        simp only [hspan, hfly, hturn, hstuck, hlane, hpeer, Bool.or_self, Bool.not_true, Bool.false_eq_true, if_false]
    unfold performOp
    rw [laneOp_eq hw he hl hc]
    obtain ⟨loc, n, r, rfl⟩ | ⟨loc, bs, rfl⟩ := hop <;> exact hacc
  · refine ⟨hw, by simpa using List.find?_some he, hlt, .sent p c num, .inr ⟨p, c, num, rfl⟩, ?_⟩
    have hacc : performAccess s u seq l resp = performNow s u w e l op (.sent p c num) addr resp := by
      unfold performAccess
      simp only [hw, he, hl, hans, if_true]
    unfold performOp
    rw [laneOp_eq hw he hl hc]
    obtain ⟨loc, n, r, rfl⟩ | ⟨loc, bs, rfl⟩ := hop <;> exact hacc

/-- The access of a lane that comes to `st`, after the effect `g` on its wave in the state `S`. -/
structure AccessEnds (S t : State) (loc : Loc) (wr : Bool) (u : Nat) (w' : Wave) : Prop where
  here : assocGet t.waves u = some w'
  other : ∀ v, v ≠ u → assocGet t.waves v = assocGet S.waves v
  mem : t.mem = (loc.touched wr S).mem
  undef : t.undefMem = (loc.touched wr S).undefMem
  hub : t.hub = S.hub
  ctxs : t.ctxs = S.ctxs
  grids : t.grids = S.grids

theorem access_ends {S : State} {u seq l : Nat} {w : Wave} {st : LaneSt} (loc : Loc) (wr : Bool) (g : Wave → Wave)
    (hw : assocGet S.waves u = some w) (hst : ∀ t x, st.walked t x = t) :
    AccessEnds S (bumpFree (setLane (loc.touched wr (modWave S u g)) u seq l st)) loc wr u ((g w).laneSet seq l st) := by
  have ht : setLane (loc.touched wr (modWave S u g)) u seq l st = modWave (loc.touched wr S) u (Wave.laneSet seq l st ∘ g) := by
    rw [touched_modWave, setLane_eq _ _ _ _ fun x => hst _ x, modWave_modWave]
  rw [ht, touched_only]
  exact ⟨modWave_get (Wave.laneSet seq l st ∘ g) hw, fun v hv => modWave_get_other _ _ _ hv, rfl, rfl, rfl, rfl, rfl⟩

theorem AccessEnds.sameByte {S t : State} {loc : Loc} {wr : Bool} {u : Nat} {w' : Wave} (h : AccessEnds S t loc wr u w') {a : Nat}
    (ha : ¬loc.leafIs a) : SameByte S t a := by
  unfold SameByte
  rw [h.mem, h.undef]
  exact touched_sameByte loc wr S ha

theorem AccessEnds.marked {s S t : State} {loc : Loc} {wr : Bool} {u : Nat} {w' : Wave} (h : AccessEnds S t loc wr u w')
    (hwf : Memory.wf S.mem = true) (hs : ∀ a, loc.leafIs a → memRead S.mem a = memRead s.mem a) : LeafMarked s t loc wr := by
  have hm := touched_marked wr hwf hs
  unfold LeafMarked at hm ⊢
  rw [h.mem]
  exact hm

theorem laneSet_only (seq l : Nat) (st : LaneSt) (w : Wave) :
    w.laneSet seq l st = { w with entries := (w.laneSet seq l st).entries } := rfl

theorem laneSet_done (seq l : Nat) (w : Wave) : LaneDone (w.laneSet seq l .done) seq l := fun _ he hs => laneSet_lane he hs

/-! Words written. -/

theorem writeWords_only (w : Wave) (r l : Nat) (vs : List Word) :
    writeWords w r l vs = { w with regs := (writeWords w r l vs).regs } := foldLanes_regsOnly [l] (fun _ => vs) w r

theorem held_writeWords_in {w : Wave} {r l j : Nat} {vs : List Word} {v : Word} (hl : l < 64) (hv : vs[j]? = some v) :
    held (writeWords w r l vs) (r + j) l = v := by
  refine (held_writeWords vs w r l (r + j) l hl hl).trans ?_
  rw [if_pos ⟨rfl, Nat.le_add_right r j⟩, Nat.add_sub_cancel_left, hv]
  rfl

theorem held_writeWords_out {w : Wave} {r l a x : Nat} {vs : List Word} (hl : l < 64) (hx : x < 64)
    (h : x ≠ l ∨ a < r ∨ r + vs.length ≤ a) : held (writeWords w r l vs) a x = held w a x := by
  refine (held_writeWords vs w r l a x hl hx).trans ?_
  split
  · next hin =>
    rw [List.getElem?_eq_none (by omega)]
    rfl
  · rfl

/-! Loads. -/

/-- The bytes that `m` bytes of a load at offset `o` of `loc` get, with what reading them does to the copies of lines. -/
def loadGet (s : State) (core : Nat) (i : Instr) (loc : Loc) (o m reg : Nat) (resp : BitVec 128) : State × List Byte :=
  if loc.peer then (s, natLe m (resp.toNat / 2 ^ (8 * (o + 4 * reg))))
  else if farAcquire i then (dropCopies s core, readLoc s (loc.plus o) m)
  else coreRead s core (loc.plus o) m

/-- Memory stays but for the copies of lines, and the bytes are those that a load may get (06 R147, R148). -/
theorem loadGet_bytes (s : State) (w : Wave) (e : Entry) (loc : Loc) (o m reg : Nat) (resp : BitVec 128) :
    ∃ c, (loadGet s w.core e.instr loc o m reg resp).1 = withLines s c ∧
      (farAcquire e.instr = true → loc.peer = false → c = s.hub.lineCopies.filter fun c => c.1 / 2 ^ 52 != sliceGroup w.core) ∧
      LoadBytes s w e loc.peer (loc.plus o) m (o + 4 * reg) resp (loadGet s w.core e.instr loc o m reg resp).2 := by
  unfold loadGet LoadBytes
  by_cases hp : loc.peer = true
  · simp only [if_pos hp]
    exact ⟨_, (withLines_self s).symm, fun _ h => absurd h (by simp [hp]), trivial⟩
  · simp only [if_neg hp]
    by_cases hf : farAcquire e.instr = true
    · simp only [if_pos hf]
      exact ⟨_, dropCopies_lines s w.core, fun _ _ => rfl, .inl trivial⟩
    · simp only [if_neg hf]
      by_cases hc : ∃ pa leaf, loc.plus o = .phys pa leaf ∧ paRegion pa < 2
      · obtain ⟨pa, leaf, hloc, hr⟩ := hc
        rw [hloc]
        obtain ⟨c, parts, h1, h2, h3⟩ := coreRead_cached s w.core pa leaf m hr
        exact ⟨c, h1, fun h => absurd h hf, .inr ⟨Bool.eq_false_iff.2 hf, pa, leaf, parts, rfl, hr, h2, h3⟩⟩
      · rw [coreRead_plain s w.core (loc.plus o) m fun pa leaf hl hr => hc ⟨pa, leaf, hl, hr⟩]
        exact ⟨_, (withLines_self s).symm, fun h => absurd h hf, .inl rfl⟩

theorem Loc.plus_zero (loc : Loc) : loc.plus 0 = loc := by cases loc <;> rfl

section
variable {s : State} {u l n reg d : Nat} {w : Wave} {e : Entry} {t : LdTy} (loc : Loc) (keep : Op → Op) (addr : VA) (resp : BitVec 128)
  (hi : ldParts e.instr = some (t, d))
include hi

theorem performLoad_whole (hn : n ≠ 16) : performLoad s u w e l loc n reg keep addr resp =
    setLane (loc.touched false (modWave (loadGet s w.core e.instr loc 0 n reg resp).1 u fun x =>
      writeWords x (d + reg) l (loadWords t (loadGet s w.core e.instr loc 0 n reg resp).2))) u e.seq l .done := by
  unfold performLoad
  rw [hi]
  dsimp only
  rw [if_neg hn]
  rfl

theorem performLoad_half : performLoad s u w e l loc 16 reg keep addr resp =
    setLane (loc.touched false (modWave (loadGet s w.core e.instr loc (firstHalf s l) 8 reg resp).1 u fun x =>
      writeWords x (d + firstHalf s l / 4) l (loadWords t (loadGet s w.core e.instr loc (firstHalf s l) 8 reg resp).2))) u e.seq l
      (.inflight (keep (.load (loc.plus (8 - firstHalf s l)) 8 ((8 - firstHalf s l) / 4))) addr) := by
  unfold performLoad
  rw [hi]
  dsimp only
  rw [if_pos rfl]
  rfl

end

theorem firstHalf_eq (s : State) (l : Nat) : firstHalf s l = 0 ∨ firstHalf s l = 8 := by
  unfold firstHalf
  split
  · exact .inr rfl
  · exact .inl rfl

/-- A load of up to eight bytes that is due. -/
theorem load_performed {s : State} {u seq l n reg d : Nat} {w : Wave} {e : Entry} {t : LdTy} {loc : Loc} {addr : VA}
    (resp : BitVec 128) (h : AccessDue s u seq l w e (.load loc n reg) addr) (hi : ldParts e.instr = some (t, d)) (hn : n ≠ 16) :
    ∃ c bs, LoadBytes s w e loc.peer loc n (4 * reg) resp bs ∧
      (farAcquire e.instr = true → loc.peer = false → c = s.hub.lineCopies.filter fun c => c.1 / 2 ^ 52 != sliceGroup w.core) ∧
      Completes (.memoryAccessComplete u seq l resp) s fun r =>
        AccessEnds (withLines s c) r loc false u ((writeWords w (d + reg) l (loadWords t bs)).laneSet seq l .done) := by
  obtain ⟨hw, rfl, hl, keep, -, hp⟩ := due_performs h (.inl ⟨loc, n, reg, rfl⟩) resp
  obtain ⟨c, hs, hc, hb⟩ := loadGet_bytes s w e loc 0 n reg resp
  rw [Loc.plus_zero, Nat.zero_add] at hb
  refine ⟨c, _, hb, hc, _, congrArg (evStep s) (hp.trans (congrArg some (performLoad_whole loc keep addr resp hi hn))), ?_⟩
  rw [hs]
  exact access_ends loc false (fun x => writeWords x (d + reg) l _) hw fun _ _ => rfl

/-- One half of a load of sixteen bytes that is due: the other is left. -/
theorem load_half_performed {s : State} {u seq l reg d : Nat} {w : Wave} {e : Entry} {t : LdTy} {loc : Loc} {addr : VA}
    (resp : BitVec 128) (h : AccessDue s u seq l w e (.load loc 16 reg) addr) (hi : ldParts e.instr = some (t, d)) :
    ∃ h c bs keep, (h = 0 ∨ h = 8) ∧ StaysAs keep ∧ LoadBytes s w e loc.peer (loc.plus h) 8 (h + 4 * reg) resp bs ∧
      Completes (.memoryAccessComplete u seq l resp) s fun r =>
        AccessEnds (withLines s c) r loc false u ((writeWords w (d + h / 4) l (loadWords t bs)).laneSet seq l
          (.inflight (keep (.load (loc.plus (8 - h)) 8 ((8 - h) / 4))) addr)) := by
  obtain ⟨hw, rfl, hl, keep, hkeep, hp⟩ := due_performs h (.inl ⟨loc, 16, reg, rfl⟩) resp
  obtain ⟨c, hs, -, hb⟩ := loadGet_bytes s w e loc (firstHalf s l) 8 reg resp
  refine ⟨firstHalf s l, c, _, keep, firstHalf_eq s l, hkeep, hb, _,
    congrArg (evStep s) (hp.trans (congrArg some (performLoad_half loc keep addr resp hi))), ?_⟩
  rw [hs]
  exact access_ends loc false (fun x => writeWords x (d + firstHalf s l / 4) l _) hw fun _ _ => rfl

/-! Stores. -/

/-- Stores leave the updates of this cycle, the waves and the contexts. -/
theorem writeLoc_only (s : State) (loc : Loc) (bs : List Byte) : (writeLoc s loc bs).updates = s.updates ∧
    (writeLoc s loc bs).waves = s.waves ∧ (writeLoc s loc bs).ctxs = s.ctxs := by
  cases loc <;> exact ⟨rfl, rfl, rfl⟩

theorem writeLoc_phys (s : State) (pa leaf : Nat) (bs : List Byte) : writeLoc s (.phys pa leaf) bs = physPut s pa bs := rfl

/-- A store that no update of this cycle overtakes is its bytes at its place. -/
theorem laneWrite_lines {s : State} {loc : Loc} {bs : List Byte} (p l : Nat) (h : NoUpdateAt s loc bs.length) :
    ∃ c, laneWrite s p l loc bs = withLines (writeLoc s loc bs) c := by
  obtain ⟨c, hc⟩ := coreWrite_lines s p loc bs
  refine ⟨c, ?_⟩
  unfold laneWrite overtaken
  rw [hc]
  refine foldl_unchanged _ _ fun x hx t => ?_
  rw [show (withLines (writeLoc s loc bs) c).updates = s.updates from (writeLoc_only s loc bs).1] at hx
  rw [h x hx]
  rfl

/-- The one update of this cycle may stand over a store. -/
theorem laneWrite_updated {s : State} {loc h : Loc} {v : Nat} (p l : Nat) (bs : List Byte) (hu : s.updates = [(h, v)]) :
    ∃ c, laneWrite s p l loc bs = withLines (writeLoc s loc bs) c ∨
      (laneWrite s p l loc bs = wordStore (withLines (writeLoc s loc bs) c) h v ∧
        (Op.load h 4 0).overlaps (.load loc bs.length 0) = true) := by
  obtain ⟨c, hc⟩ := coreWrite_lines s p loc bs
  refine ⟨c, ?_⟩
  unfold laneWrite overtaken
  rw [hc, show (withLines (writeLoc s loc bs) c).updates = [(h, v)] from (writeLoc_only s loc bs).1.trans hu]
  simp only [List.foldl_cons, List.foldl_nil]
  split
  · next ho => exact .inr ⟨rfl, (Bool.and_eq_true_iff.1 ho).1⟩
  · exact .inl rfl

theorem noUpdateAt_half {s : State} {loc : Loc} {h : Nat} (hn : NoUpdateAt s loc 16) (hh : h = 0 ∨ h = 8) :
    NoUpdateAt s (loc.plus h) 8 := by
  intro x hx
  have := hn x hx
  obtain ⟨l, v⟩ := x
  cases l <;> cases loc <;> simp only [Op.overlaps, Op.span, Loc.plus, Bool.and_eq_false_iff, decide_eq_false_iff_not] at this ⊢
  · omega
  · rcases this with (this | this) | this
    · exact .inl (.inl this)
    all_goals omega

/-- A store of up to eight bytes that is due. -/
theorem store_performed {s : State} {u seq l : Nat} {w : Wave} {e : Entry} {loc : Loc} {bs : List Byte} {addr : VA}
    (resp : BitVec 128) (h : AccessDue s u seq l w e (.store loc bs) addr) (hn : bs.length ≠ 16) :
    assocGet s.waves u = some w ∧ exec (.memoryAccessComplete u seq l resp) s =
      .next (bumpFree (setLane (loc.touched true (laneWrite s w.core l loc bs)) u seq l .done)) := by
  obtain ⟨hw, rfl, -, keep, -, hp⟩ := due_performs h (.inr ⟨loc, bs, rfl⟩) resp
  refine ⟨hw, ?_⟩
  show evStep s (performOp s u e.seq l resp) = _
  rw [hp]
  unfold performNow performStore
  dsimp only
  rw [if_neg hn]
  rfl

/-- One half of a store of sixteen bytes that is due: the other is left. -/
theorem store_half_performed {s : State} {u seq l : Nat} {w : Wave} {e : Entry} {loc : Loc} {bs : List Byte} {addr : VA}
    (resp : BitVec 128) (h : AccessDue s u seq l w e (.store loc bs) addr) (hn : bs.length = 16) :
    assocGet s.waves u = some w ∧ ∃ h keep, (h = 0 ∨ h = 8) ∧ StaysAs keep ∧ exec (.memoryAccessComplete u seq l resp) s =
      .next (bumpFree (setLane (loc.touched true (laneWrite s w.core l (loc.plus h) (sliceBytes bs h 8))) u seq l
        (.inflight (keep (.store (loc.plus (8 - h)) (sliceBytes bs (8 - h) 8))) addr))) := by
  obtain ⟨hw, rfl, -, keep, hkeep, hp⟩ := due_performs h (.inr ⟨loc, bs, rfl⟩) resp
  refine ⟨hw, firstHalf s l, keep, firstHalf_eq s l, hkeep, ?_⟩
  show evStep s (performOp s u e.seq l resp) = _
  rw [hp]
  unfold performNow performStore
  dsimp only
  rw [if_pos hn]
  rfl

/-! What a store leaves. -/

section
variable {s t : State} {u pa leaf here c : Nat} {bs : List Byte} {cs : List (Nat × List Byte)} {w' : Wave}

/-- Bytes stored in memory stand at their place, defined. -/
theorem stored_in (h : AccessEnds (withLines (physPut s pa bs) cs) t (.phys here leaf) true u w') (hwf : Memory.wf s.mem = true) {j : Nat}
    {b : Byte} (hb : bs[j]? = some b) (hl : pa + j ≠ leaf) :
    memRead t.mem (pa + j) = b ∧ rangesHave t.undefMem (pa + j) = false := by
  obtain ⟨hj, -⟩ := List.getElem?_eq_some_iff.1 hb
  obtain ⟨h1, h2⟩ := h.sameByte hl
  exact ⟨h1.trans (memRead_writeN_get hwf hb), h2.trans (rangesHave_drop_in _ (Nat.le_add_right pa j) (Nat.add_lt_add_left hj pa))⟩

/-- Beside them and the leaf no byte changes. -/
theorem stored_out (h : AccessEnds (withLines (physPut s pa bs) cs) t (.phys here leaf) true u w') {a : Nat} (hl : a ≠ leaf)
    (ha : a < pa ∨ pa + bs.length ≤ a) : SameByte s t a :=
  SameByte.trans ⟨memRead_writeN_other _ _ ha, rangesHave_drop_out _ ha⟩ (h.sameByte hl)

theorem stored_marked (h : AccessEnds (withLines (physPut s pa bs) cs) t (.phys here leaf) true u w') (hwf : Memory.wf s.mem = true)
    (hl : leaf < pa ∨ pa + bs.length ≤ leaf) : LeafMarked s t (.phys here leaf) true :=
  h.marked (memWriteN_wf _ _ hwf) fun a ha => by
    rw [show a = leaf from ha]
    exact memRead_writeN_other _ _ hl

variable {g k off : Nat}

theorem shared_sameBytes (h : AccessEnds (withLines (sharePut s g k off bs) cs) t (.share g k here) true u w') : SameBytes s t :=
  ⟨fun a => congrArg (memRead · a) h.mem, h.undef⟩

/-- Bytes stored in a share stand in it, defined, and the rest of it and of its workgroup stays. -/
theorem shared_stored (h : AccessEnds (withLines (sharePut s g k off bs) cs) t (.share g k here) true u w') {x : Wg}
    (hx : wgOf s g k = some x) (hwf : Memory.wf x.share = true) :
    ∃ x', wgOf t g k = some x' ∧ x' = { x with share := x'.share, undef := x'.undef } ∧
      (∀ j b, bs[j]? = some b → memRead x'.share (off + j) = b ∧ rangesHave x'.undef (off + j) = false) ∧
      ∀ a, (a < off ∨ off + bs.length ≤ a) →
        memRead x'.share a = memRead x.share a ∧ rangesHave x'.undef a = rangesHave x.undef a := by
  have ht : wgOf t g k = some { x with share := memWriteN x.share off bs, undef := rangesDrop x.undef off bs.length } := by
    unfold wgOf
    rw [h.grids]
    exact wgOf_modWg _ hx
  refine ⟨_, ht, rfl, fun j b hb => ?_, fun a ha => ⟨memRead_writeN_other _ _ ha, rangesHave_drop_out _ ha⟩⟩
  · obtain ⟨hj, -⟩ := List.getElem?_eq_some_iff.1 hb
    exact ⟨memRead_writeN_get hwf hb, rangesHave_drop_in _ (Nat.le_add_right off j) (Nat.add_lt_add_left hj off)⟩

end

/-- The part left of an access stands in its lane. -/
theorem left_stands {S t : State} {loc : Loc} {wr : Bool} {u seq l : Nat} {w : Wave} {o : Op} {addr : VA} {keep : Op → Op}
    (h : AccessEnds S t loc wr u (w.laneSet seq l (.inflight (keep o) addr))) (hk : StaysAs keep) :
    ∃ w', assocGet t.waves u = some w' ∧ ∀ e' ∈ w'.entries, e'.seq = seq →
      ∃ o', assocGet e'.lanes l = some (.inflight o' addr) ∧ (o' = o ∨ ∃ p c num, o' = .sent p c num o) := by
  refine ⟨_, h.here, fun e' he hs => ⟨keep o, laneSet_lane he hs, ?_⟩⟩
  rcases hk with rfl | ⟨p, c, num, rfl⟩
  · exact .inl rfl
  · exact .inr ⟨p, c, num, rfl⟩

/-- A slice of a half. -/
theorem sliceBytes_get {bs : List Byte} {h j : Nat} {b : Byte} (hj : j < 8) (hb : bs[h + j]? = some b) :
    (sliceBytes bs h 8)[j]? = some b := by
  unfold sliceBytes
  rw [List.getElem?_take_of_lt hj, List.getElem?_drop, hb]

theorem sliceBytes_length {bs : List Byte} {h : Nat} (hb : bs.length = 16) (hh : h = 0 ∨ h = 8) : (sliceBytes bs h 8).length = 8 := by
  unfold sliceBytes
  rw [List.length_take, List.length_drop]
  omega

/-! The obligation. -/

theorem loads_whole {s : State} {u seq l n reg d : Nat} {w : Wave} {e : Entry} {t : LdTy} {loc : Loc} {addr : VA}
    (resp : BitVec 128) (h : AccessDue s u seq l w e (.load loc n reg) addr) (hi : ldParts e.instr = some (t, d)) (hn : n ≤ 8)
    (hwf : Memory.wf s.mem = true) : Completes (.memoryAccessComplete u seq l resp) s fun s' =>
      (∀ v, v ≠ u → assocGet s'.waves v = assocGet s.waves v) ∧ s'.grids = s.grids ∧ s'.ctxs = s.ctxs ∧
      s'.hub = { s.hub with lineCopies := s'.hub.lineCopies } ∧ (∀ a, ¬loc.leafIs a → SameByte s s' a) ∧ LeafMarked s s' loc false ∧
      (farAcquire e.instr = true → loc.peer = false → s'.hub.lineCopies =
        s.hub.lineCopies.filter fun c => c.1 / 2 ^ 52 != sliceGroup w.core) ∧
      ∃ w' bs, LoadBytes s w e loc.peer loc n (4 * reg) resp bs ∧ assocGet s'.waves u = some w' ∧ LaneDone w' seq l ∧
        w' = { w with regs := w'.regs, entries := w'.entries } ∧
        (∀ j v, (loadWords t bs)[j]? = some v → held w' (d + reg + j) l = v) ∧
        ∀ r x, x < 64 → (x ≠ l ∨ r < d + reg ∨ d + reg + (loadWords t bs).length ≤ r) → held w' r x = held w r x := by
  obtain ⟨-, -, hl, -⟩ := due_performs h (.inl ⟨loc, n, reg, rfl⟩) resp
  obtain ⟨c, bs, hb, hc, r, hr, he⟩ := load_performed resp h hi (by omega)
  refine ⟨r, hr, he.other, he.grids, he.ctxs, ?_, fun a ha => he.sameByte ha, he.marked hwf fun _ _ => rfl, fun hf hp => ?_,
    _, bs, hb, he.here, laneSet_done _ _ _, ?_, fun j v hv => ?_, fun r x hx hout => ?_⟩
  · rw [he.hub]; rfl
  · rw [he.hub]; exact hc hf hp
  · rw [laneSet_only, writeWords_only]
  · exact held_writeWords_in hl hv
  · exact held_writeWords_out hl hx hout

/-- A store that is due and no update overtakes. -/
theorem store_ends {s : State} {u seq l : Nat} {w : Wave} (p : Nat) {loc at_ : Loc} {bs : List Byte} {st : LaneSt}
    (hw : assocGet s.waves u = some w) (hno : NoUpdateAt s at_ bs.length) (hst : ∀ t x, st.walked t x = t) :
    ∃ c, AccessEnds (withLines (writeLoc s at_ bs) c) (bumpFree (setLane (loc.touched true (laneWrite s p l at_ bs)) u seq l st)) loc true
      u (w.laneSet seq l st) := by
  obtain ⟨c, hc⟩ := laneWrite_lines p l hno
  refine ⟨c, ?_⟩
  rw [hc]
  have hS : assocGet (withLines (writeLoc s at_ bs) c).waves u = some w :=
    (congrArg (assocGet · u) (writeLoc_only s at_ bs).2.1).trans hw
  have h := access_ends (seq := seq) (l := l) loc true id hS hst
  rwa [modWave_same _ _ id fun _ => rfl] at h

/-- A store of one half: the part left, and where the half stands. -/
theorem stores_half {s : State} {u seq l : Nat} {w : Wave} {e : Entry} {loc : Loc} {bs : List Byte} {addr : VA} (resp : BitVec 128)
    (hdue : AccessDue s u seq l w e (.store loc bs) addr) (hn : bs.length = 16) (hno : NoUpdateAt s loc 16) :
    Completes (.memoryAccessComplete u seq l resp) s fun s' => ∃ h keep c, (h = 0 ∨ h = 8) ∧ StaysAs keep ∧
      AccessEnds (withLines (writeLoc s (loc.plus h) (sliceBytes bs h 8)) c) s' loc true u
        (w.laneSet seq l (.inflight (keep (.store (loc.plus (8 - h)) (sliceBytes bs (8 - h) 8))) addr)) := by
  obtain ⟨hw, h, keep, hh, hk, hex⟩ := store_half_performed resp hdue hn
  obtain ⟨c, he⟩ := store_ends (seq := seq) (l := l) (loc := loc)
    (st := .inflight (keep (.store (loc.plus (8 - h)) (sliceBytes bs (8 - h) 8))) addr) w.core hw
    ((sliceBytes_length hn hh).symm ▸ noUpdateAt_half hno hh) fun _ _ => rfl
  exact ⟨_, hex, h, keep, c, hh, hk, he⟩

/-- Settles O26: an access that is due ends in its effect on memory, its leaf and its lane (`AccessEnds`). -/
theorem loadsAndStoresPerformed : Obligations.LoadsAndStoresPerformed := by
  unfold Obligations.LoadsAndStoresPerformed
  refine ⟨fun s u seq l resp w e loc n reg addr t d h hi hn hwf => loads_whole resp h hi hn hwf, ⟨?_, ?_⟩, ?_⟩
  · intro s u seq l resp w e pa leaf bs addr h v hdue hn hu
    obtain ⟨hw, hex⟩ := store_performed resp hdue (by omega)
    obtain ⟨c, hc⟩ := laneWrite_updated (loc := .phys pa leaf) w.core l bs hu
    refine ⟨_, hex, ?_⟩
    have hm (S : State) (a : Nat) (ha : a ≠ leaf) :
        memRead (bumpFree (setLane (touch S leaf true) u seq l .done)).mem a = memRead S.mem a := by
      rw [setLane_eq _ _ _ _ fun _ => rfl]
      exact (touched_sameByte (.phys pa leaf) true S ha).1
    rcases hc with hc | ⟨hc, ho⟩
    · rw [hc]
      exact ⟨_, .inl rfl, fun a ha => hm _ a ha⟩
    · rw [hc]
      refine ⟨_, .inr ⟨rfl, ho⟩, fun a ha => (hm _ a ha).trans ?_⟩
      cases h <;> rfl
  · intro s u seq l resp w e loc bs addr hdue hn hwf hno
    obtain ⟨hw, hex⟩ := store_performed resp hdue (by omega)
    obtain ⟨c, he⟩ := store_ends (seq := seq) (l := l) (loc := loc) (st := .done) w.core hw hno fun _ _ => rfl
    refine ⟨_, hex, fun v hv => (he.other v hv).trans (congrArg (assocGet · v) (writeLoc_only s loc bs).2.1),
      he.ctxs.trans (writeLoc_only s loc bs).2.2, ⟨_, he.here, laneSet_done _ _ _, laneSet_only _ _ _ _⟩, ?_⟩
    cases loc with
    | phys pa leaf =>
      exact ⟨he.grids, fun j b hb hl => stored_in he hwf hb hl, fun a hl ha => (stored_out he hl ha).1,
        fun a hl ha => (stored_out he hl ha).2, stored_marked he hwf⟩
    | share g k off => exact ⟨shared_sameBytes he, fun x hx hxwf => shared_stored he hx hxwf⟩
  · intro s u seq l resp w e loc addr hwf
    refine ⟨fun bs hdue hn hno => ?_, fun reg t d hdue hi => ?_⟩
    · obtain ⟨s', hex, h, keep, c, hh, hk, he⟩ := stores_half resp hdue hn hno
      have hlen := sliceBytes_length hn hh
      refine ⟨s', hex, h, hh, left_stands he hk, ?_⟩
      cases loc with
      | phys pa leaf =>
        refine fun hout => ⟨fun j b hj hb => (stored_in he hwf (sliceBytes_get hj hb) (by omega)).1,
          fun a hl ha => (stored_out he hl (by omega)).1, stored_marked he hwf (by omega)⟩
      | share g k off =>
        refine ⟨shared_sameBytes he, fun x hx hxwf => ?_⟩
        obtain ⟨x', hx', -, hin, hx''⟩ := shared_stored he hx hxwf
        exact ⟨x', hx', fun j b hj hb => (hin j b (sliceBytes_get hj hb)).1, fun a ha => (hx'' a (by omega)).1⟩
    · obtain ⟨-, -, hl, -⟩ := due_performs hdue (.inl ⟨loc, 16, reg, rfl⟩) resp
      obtain ⟨h, c, bs, keep, hh, hk, hb, s', hex, he⟩ := load_half_performed resp hdue hi
      exact ⟨s', hex, h, hh, left_stands he hk, fun a ha => he.sameByte ha, he.marked hwf fun _ _ => rfl, _, bs, hb, he.here,
        fun j v hv => held_writeWords_in hl hv, fun r x hx hout => held_writeWords_out hl hx hout⟩

end Sys2Proof.Machine
end

section
/-!
SUPPORT. What comes before an access, and requests to peers (06 R154; 07 R172, R177, R191; 10 R238; 12 R300, R301, R304), with O28.
-/

namespace Sys2Proof.Machine

/-- A load, store or atomic that has sent no request and awaits no write of its own. -/
def Op.fresh (o : Op) : Prop := (∃ loc n r, o = .load loc n r) ∨ (∃ loc bs, o = .store loc bs) ∨ ∃ loc b c, o = .atom loc b c

theorem fresh_of_span {op : Op} (h : op.span.isSome = true) (hs : ∀ p c num o, op ≠ .sent p c num o)
    (ha : ∀ loc old b c, op ≠ .atomWrite loc old b c) : op.fresh := by
  unfold Op.fresh
  cases op with
  | load loc n r => exact .inl ⟨loc, n, r, rfl⟩
  | store loc bs => exact .inr (.inl ⟨loc, bs, rfl⟩)
  | atom loc b c => exact .inr (.inr ⟨loc, b, c, rfl⟩)
  | atomWrite loc old b c => exact absurd rfl (ha loc old b c)
  | sent p c num o => exact absurd rfl (hs p c num o)
  | _ => exact absurd h Bool.false_ne_true

/-- The event of such an access: it waits for its turn and for what comes before it, is held behind a fault, leaves for a peer, or is
performed. -/
theorem fresh_access {s : State} {u seq l : Nat} {w : Wave} {e : Entry} {op : Op} {addr : VA}
    (h : AccessPending s u seq l w e op addr) (hop : op.fresh) (resp : BitVec 128) : performOp s u seq l resp =
      if before s w e l op LaneSt.flying || !laneTurn s u w e l then none
      else if before s w e l op LaneSt.stuck || laneStuck w seq l then some (setLane s u seq l .held)
      else match op.peerPa with
        | some pa => sendAccess s u seq l op addr pa
        | none => performNow s u w e l op id addr resp := by
  obtain ⟨hw, he, hl, hc⟩ := h
  unfold performOp
  rw [laneOp_eq hw he hl hc]
  unfold performAccess
  obtain ⟨loc, n, r, rfl⟩ | ⟨loc, bs, rfl⟩ | ⟨loc, b, c, rfl⟩ := hop <;> simp only [hw, he, hl] <;> rfl

/-- Lane `l` of entry `seq` of wave `u` comes to `st`; memory and the wave's registers stay. -/
def LaneComes (s : State) (u seq l : Nat) (w : Wave) (st : LaneSt) (t : State) : Prop :=
  SameBytes s t ∧ ∃ w', assocGet t.waves u = some w' ∧ w'.regs = w.regs ∧
    ∀ e' ∈ w'.entries, e'.seq = seq → assocGet e'.lanes l = some st

theorem laneComes_setLane {s : State} {u seq l : Nat} {w : Wave} {st : LaneSt} (hub : Hub) (hw : assocGet s.waves u = some w)
    (hst : st.walked { s with hub := hub } w.ctx = { s with hub := hub }) :
    LaneComes s u seq l w st (bumpFree (setLane { s with hub := hub } u seq l st)) := by
  have hw' : assocGet ({ s with hub := hub } : State).waves u = some w := hw
  rw [setLane_wave hw' hst]
  exact ⟨⟨fun _ => rfl, rfl⟩, _, modWave_get (Wave.laneSet seq l st) hw', rfl, fun _ he hs => laneSet_lane he hs⟩

theorem setLane_hub {s : State} {u seq l : Nat} {w : Wave} {st : LaneSt} (hw : assocGet s.waves u = some w)
    (hst : st.walked s w.ctx = s) : (bumpFree (setLane s u seq l st)).hub = s.hub := by
  rw [setLane_wave hw hst]; rfl

theorem linkSend_sent (s : State) (pa kind n : Nat) :
    ∃ hub, linkSend s pa kind n = { s with hub := hub } ∧ hub.sent = (paPeer pa, kind, n) :: s.hub.sent := by
  unfold linkSend
  dsimp only
  split <;> exact ⟨_, rfl, rfl⟩

theorem le_foldl_max (l : List Ask) (m : Nat) :
    m ≤ l.foldl (fun m x => max m x.num) m ∧ ∀ x ∈ l, x.num ≤ l.foldl (fun m x => max m x.num) m := by
  induction l generalizing m with
  | nil => exact ⟨le_rfl, by simp⟩
  | cons a l ih =>
    obtain ⟨h1, h2⟩ := ih (max m a.num)
    simp only [List.foldl_cons, List.mem_cons, forall_eq_or_imp]
    exact ⟨le_trans (le_max_left _ _) h1, le_trans (le_max_right _ _) h1, h2⟩

/-- A new request's number is above those of all that are out. -/
theorem outAsks_lt_next {s : State} {x : Ask} (h : x ∈ outAsks s) : x.num < nextAsk s := Nat.lt_succ_of_le ((le_foldl_max _ 0).2 x h)

theorem sendAccess_noPort {s : State} {pa : Nat} (u seq l : Nat) (op : Op) (addr : VA) (h : portOf s pa = none) :
    sendAccess s u seq l op addr pa = some (setLane s u seq l (.faulted .remoteTimeout addr addr)) := by
  unfold sendAccess; rw [h]

theorem sendAccess_waits {s : State} {pa p : Nat} (u seq l : Nat) (op : Op) (addr : VA) (h : portOf s pa = some p)
    (hp : portSends s p = false) : sendAccess s u seq l op addr pa = none := by
  unfold sendAccess
  simp only [h, hp, Bool.false_eq_true, if_false]

theorem sendAccess_leaves {s : State} {pa p : Nat} (u seq l : Nat) (op : Op) (addr : VA) (h : portOf s pa = some p)
    (hp : portSends s p = true) : sendAccess s u seq l op addr pa =
      some (setLane (linkSend s pa (if op.writes then 4 else 5) ((op.span.map (·.2)).getD 0)) u seq l
        (.inflight (.sent p s.cycle (nextAsk s) op) addr)) := by
  unfold sendAccess
  simp only [h, hp, if_true]
  cases op.span <;> rfl

/-- No answer comes over a port that is down or retraining, or after T cycles. -/
theorem portAnswers_false {s : State} {p c : Nat}
    (h : ∀ r, assocGet s.hub.ports p = some r → r.up = false ∨ r.training = true ∨ c + 2 ^ r.logT ≤ s.cycle) :
    portAnswers s p c = false := by
  unfold portAnswers
  cases hr : assocGet s.hub.ports p with
  | none => rfl
  | some r =>
    rcases h r hr with h | h | h
    · simp [h]
    · simp [h]
    · simp [Nat.not_lt.2 h]

theorem answerable_false {s : State} {p c num pa : Nat} {op : Op}
    (h : (∀ r, assocGet s.hub.ports p = some r → r.up = false ∨ r.training = true ∨ c + 2 ^ r.logT ≤ s.cycle) ∨
      (op.writes = true ∧ op.peerPa = some pa ∧
        ∃ a ∈ outAsks s, a.wr = true ∧ a.port = p ∧ a.peer = paPeer pa ∧ a.num < num)) : answerable s p c num op = false := by
  unfold answerable
  rcases h with h | ⟨hwr, hpa, a, ha, h1, h2, h3, h4⟩
  · have hp := portAnswers_false h
    unfold Ask.answers
    split <;> simp [hp]
  · rw [hpa]
    unfold Ask.answers
    simp only [hwr, Bool.not_true, Bool.false_or, Bool.and_eq_false_iff, List.all_eq_false]
    exact .inr ⟨a, ha, by simp [h1, h2, h3, h4]⟩

/-- A request that no answer may reach stays. -/
theorem sent_waits {s : State} {u seq l p c num : Nat} {w : Wave} {e : Entry} {op : Op} {addr : VA}
    (h : AccessPending s u seq l w e (.sent p c num op) addr) (ht : ∀ q n d, op ≠ .truncate q n d)
    (ha : answerable s p c num op = false) (resp : BitVec 128) : performOp s u seq l resp = none := by
  obtain ⟨hw, he, hl, hc⟩ := h
  have hacc : performAccess s u seq l resp = none := by
    unfold performAccess
    simp only [hw, he, hl, ha, Bool.false_eq_true, if_false]
  unfold performOp
  rw [laneOp_eq hw he hl hc]
  cases op with
  | truncate q n d => exact absurd rfl (ht q n d)
  | _ => exact hacc

/-- An access of a peer that may be performed leaves for it. -/
theorem performable_leaves {s : State} {u seq l pa : Nat} {w : Wave} {e : Entry} {op : Op} {addr : VA}
    (h : Performable s u seq l w e op addr) (hop : op.fresh) (hp : op.peerPa = some pa) (resp : BitVec 128) :
    performOp s u seq l resp = sendAccess s u seq l op addr pa := by
  obtain ⟨hw, he, hl, hfly, hstuck, hlane, hturn, hc, -⟩ := h
  rw [fresh_access ⟨hw, he, hl, hc⟩ hop resp, if_neg (by simp [hfly, hturn]), if_neg (by simp [hstuck, hlane]), hp]

/-- Settles O28: each event is that of `fresh_access` or of a request sent. -/
theorem accessesKeepTheirOrder : Obligations.AccessesKeepTheirOrder := by
  unfold Obligations.AccessesKeepTheirOrder
  refine ⟨fun s u seq l resp w e op addr h hsp hs ha => ⟨fun hwait => ?_, fun hfly hturn hstuck => ?_⟩,
    fun s u seq l resp w e op addr pa => ⟨fun h hpeer hsp hs ha => ?_, fun p c num h ht hans => ?_⟩⟩
  · have hev := fresh_access h (fresh_of_span hsp hs ha) resp
    rw [if_pos (by rcases hwait with h | h <;> simp [h])] at hev
    exact congrArg (evStep s) hev
  · have hev := fresh_access h (fresh_of_span hsp hs ha) resp
    rw [if_neg (by simp [hfly, hturn]), if_pos (by rcases hstuck with h | h <;> simp [h])] at hev
    exact ⟨_, congrArg (evStep s) hev, laneComes_setLane s.hub h.1 rfl⟩
  · have hev := performable_leaves h (fresh_of_span hsp hs ha) hpeer resp
    obtain ⟨hw, -, -, -, -, -, -, hc, -⟩ := h
    refine ⟨fun hport => ?_, fun p hport => ⟨fun hp => ?_, fun hp => ?_⟩⟩
    · obtain ⟨c, hc⟩ := Option.isSome_iff_exists.1 hc
      rw [sendAccess_noPort _ _ _ _ _ hport] at hev
      exact ⟨_, congrArg (evStep s) hev, laneComes_setLane s.hub hw (walked_faulted hc fun h => absurd h (by decide))⟩
    · rw [sendAccess_waits _ _ _ _ _ hport hp] at hev
      exact congrArg (evStep s) hev
    · rw [sendAccess_leaves _ _ _ _ _ hport hp] at hev
      obtain ⟨hub, hlink, hsent⟩ := linkSend_sent s pa (if op.writes then 4 else 5) ((op.span.map (·.2)).getD 0)
      rw [hlink] at hev
      exact ⟨_, congrArg (evStep s) hev, nextAsk s, laneComes_setLane hub hw rfl, fun x hx => outAsks_lt_next hx,
        (congrArg Hub.sent (setLane_hub (s := { s with hub := hub }) hw rfl)).trans hsent⟩
  · exact congrArg (evStep s) (sent_waits h ht (answerable_false hans) resp)

end Sys2Proof.Machine
end

section
/-!
SUPPORT. Fault reports and firmware's service of them (06 R154 to R159, R168; 11 R287, R288), with O29.
-/

namespace Sys2Proof.Machine

/-! What a window keeps for the instruction to go on. -/

/-- An open window keeps whether the instruction issues again, and whether it has closed its batch. -/
theorem openWindow_again {s : State} {u q : Nat} {w : Wave} {f : Frag} {c : Context} {r : TrapRec}
    (hw : assocGet s.waves u = some w) (hf : w.frag? q = some f) (hc : assocGet s.ctxs w.ctx = some c)
    (hx : 30 < w.gran → FrameMapped s c w .write) :
    ∃ w' v, assocGet (openWindow s u q false r).waves u = some w' ∧ w'.window = some v ∧ v.retry = f.retry ∧
      v.closed = f.closed ∧ w'.open_ = w.open_ ∧ w'.entries = w.entries := by
  have he : ∃ w1 v, openWindow s u q false r = storeDue (setWave s u w1) u ∧ w1.window = some v ∧ v.retry = f.retry ∧
      v.closed = f.closed ∧ v.stored = !(holds30 w || holds31 w) ∧ w1.ctx = w.ctx ∧ w1.gran = w.gran ∧ w1.core = w.core ∧
      w1.frame = w.frame ∧ w1.open_ = w.open_ ∧ w1.entries = w.entries := by
    unfold openWindow
    simp only [hw, hf, hc]
    exact ⟨_, _, rfl, rfl, rfl, rfl, rfl, rfl, rfl, rfl, rfl, rfl, rfl⟩
  obtain ⟨w1, v, he, hv, hretry, hclosed, hst, hctx, hgran, hcore, hframe, hopen, hent⟩ := he
  have hfa : frameAddr c w1 = frameAddr c w := by unfold frameAddr; rw [hcore, hframe]
  have hx' : 30 < w1.gran → FrameMapped (setWave s u w1) c w1 .write := by
    intro hg
    obtain ⟨hm, pa, leaf, h⟩ := hx (by rwa [hgran] at hg)
    unfold FrameMapped
    rw [hfa]
    exact ⟨hm, pa, leaf, (xlate_congr rfl rfl c _ _).trans h⟩
  obtain ⟨w', hi, hor, -⟩ := storeDue_opens (s := setWave s u w1) (assocGet_set_same _ _ _) (hctx ▸ hc) hx'
    (fun hg v' hv' => by
      obtain rfl : v = v' := Option.some.inj (hv.symm.trans hv')
      rw [hst]
      simp only [holds30, holds31]
      rw [hgran] at hg
      simp; omega)
  rw [he]
  rcases hor with rfl | rfl
  · exact ⟨_, v, hi.here, hv, hretry, hclosed, hopen, hent⟩
  · exact ⟨_, { v with stored := true }, hi.here, by simp [hv], hretry, hclosed, hopen, hent⟩

theorem takeTrap_again {s : State} {k : Issue} {r : TrapRec} (hw : assocGet s.waves k.uid = some k.w)
    (hf : k.w.frag? k.lead = some k.f) (hc : assocGet s.ctxs k.w.ctx = some k.c) (hcan : CanTrap s k) :
    ∃ w' v, assocGet (takeTrap s k.uid k.lead r).waves k.uid = some w' ∧ w'.window = some v ∧ v.retry = k.f.retry ∧
      v.closed = k.f.closed ∧ w'.open_ = k.w.open_ ∧ w'.entries = k.w.entries := by
  obtain ⟨hwin, hwait, hrep, hlow, hbase, hres, hmap⟩ := hcan
  rw [takeTrap_open hw hc hwin hwait hrep hbase hlow hres]
  have hx : 30 < k.w.gran → FrameMapped (modWave s k.uid fun w => trapMeets s.cycle w r) k.c (trapMeets s.cycle k.w r) .write :=
    fun hg => ⟨(hmap hg).1, by
      obtain ⟨pa, leaf, h⟩ := (hmap hg).2
      exact ⟨pa, leaf, (xlate_congr rfl rfl k.c _ _).trans h⟩⟩
  obtain ⟨w', v, h1, h2, h3, h4, h5, h6⟩ := openWindow_again (r := r) (modWave_get (fun w => trapMeets s.cycle w r) hw)
    (show (trapMeets s.cycle k.w r).frag? k.lead = some k.f from hf) hc hx
  exact ⟨w', v, h1, h2, h3, h4, h5, h6⟩

/-! A report after an effect on the reporting wave. -/

/-- What an effect on the reporting wave keeps for its report. -/
structure KeepsReport (k : Issue) (g : Wave → Wave) (f : Frag) : Prop where
  entry : KeepsEntry k g
  here : (g k.w).frag? k.lead = some f
  frag : f.quads = k.f.quads ∧ f.pc = k.f.pc ∧ f.blk = k.f.blk ∧ f.fin = k.f.fin ∧ f.left = k.f.left
  other : ∀ q, q ≠ k.lead → (g k.w).frag? q = k.w.frag? q
  wave : (g k.w).mask = k.w.mask ∧ (g k.w).cc = k.w.cc ∧ (g k.w).live = k.w.live ∧ (g k.w).clocks = k.w.clocks

theorem trapped_modWave {s t : State} {k : Issue} {g : Wave → Wave} {f : Frag} {c : Cause} {rep : Bool} {tlm : LaneMask} {tval : VA}
    (hg : KeepsReport k g f) (h : Trapped (modWave s k.uid g) t ⟨k.uid, g k.w, f, k.c⟩ c rep tlm tval) :
    Trapped s t k c rep tlm tval := by
  obtain ⟨hentry, -, ⟨hq, hpc, hblk, hfin, hleft⟩, hother, hmask, hcc, hlive, hclk⟩ := hg
  have hlead : (Issue.mk k.uid (g k.w) f k.c).lead = k.lead := congrArg leadQuad hq
  obtain ⟨honly, hoth, hsame, w', f', v, hw', hf', hv, htlm, htpc, htval, htc, hfq, hfpc, hhdr, hpark, hvq, hvm, hvcc, hvt, hvb, hvf,
    hvl, hm, hc, hl, hk, hwd, hfo⟩ := h
  rw [hlead] at hf' hfo
  refine ⟨honly, fun x hx => (hoth x hx).trans (modWave_get_other _ _ _ hx), fun hgr => hsame (hentry.gran ▸ hgr),
    w', f', v, hw', hf', hv, htlm, htpc.trans hpc, htval, htc, hfq.trans hq, hfpc, hhdr, hpark, hvq.trans hq, hvm.trans hmask,
    hvcc.trans hcc, hvt.trans hpc, hvb.trans hblk, hvf.trans hfin, hvl.trans hleft, hm.trans hmask, hc.trans hcc, hl.trans hlive,
    hk.trans hclk, hwd, fun q hq => (hfo q hq).trans (hother q hq)⟩

/-- A report after an effect on the wave: the fragment is in its handler, and its window has it issue again. -/
theorem report_enters {s : State} {k : Issue} {g : Wave → Wave} {f : Frag} {e : Entry} {l : Nat} {c : Cause} {a p : VA}
    (hk : getIssue s = some k) (hg : KeepsReport k g f) (hent : (g k.w).entries = k.w.entries)
    (he : (k.w.entries.filter Entry.stuck).head? = some e) (hl : e.lowest = some (l, c, a, p))
    (hs : ∀ e ∈ k.w.entries, e.stuck = true → e.lowest.isSome = true ∧ e.serviced k.c = false) (hcan : CanTrap s k) :
    Trapped s (bumpFree (faultReport (modWave s k.uid g) k.uid k.lead)) k c true
      ((k.w.entries.filter Entry.stuck).foldl (fun m e => m ||| e.faultedLanes) 0) a ∧
    ∃ w' v, assocGet (bumpFree (faultReport (modWave s k.uid g) k.uid k.lead)).waves k.uid = some w' ∧ w'.window = some v ∧
      v.retry = true ∧ v.closed = f.closed ∧ w'.open_ = (g k.w).open_ ∧ w'.entries = k.w.entries := by
  obtain ⟨hcur, hw, hf, hc⟩ := getIssue_spec hk
  let k' : Issue := ⟨k.uid, g k.w, f, k.c⟩
  have hlead : k'.lead = k.lead := congrArg leadQuad hg.frag.1
  have hw' : assocGet (modWave s k.uid g).waves k.uid = some (g k.w) := modWave_get g hw
  have hc' : assocGet (modWave s k.uid g).ctxs (g k.w).ctx = some k.c := by rw [(hg.entry.reserve k.w).2.2]; exact hc
  have hk' : getIssue (modWave s k.uid g) = some k' := by
    unfold getIssue
    rw [modWave_cur, hcur]
    dsimp only
    rw [hw']
    dsimp only
    rw [hg.here, hc']
  have hcan' : CanTrap (modWave s k.uid g) k' := hcan.modWave hg.entry hg.frag.1
  have hlead' : faultReport (modWave s k.uid g) k.uid k.lead = faultReport (modWave s k.uid g) k'.uid k'.lead := by rw [hlead]
  have he' : (k'.w.entries.filter Entry.stuck).head? = some e := by rw [show k'.w.entries = k.w.entries from hent]; exact he
  have hs' : ∀ e ∈ k'.w.entries, e.stuck = true → e.lowest.isSome = true ∧ e.serviced k'.c = false := by
    rw [show k'.w.entries = k.w.entries from hent]; exact hs
  have hfr : (k'.w.modFrag k'.lead reporting).frag? k'.lead = some (reporting f) := by
    rw [modFrag_frag? _ _ _ reporting fun _ => rfl, if_pos rfl, hlead, show k'.w.frag? k.lead = some f from hg.here]; rfl
  rw [hlead']
  constructor
  · have h := faultReport_trapped hk' he' hl hs' hcan'
    rw [show k'.w.entries = k.w.entries from hent] at h
    exact trapped_modWave hg h
  · rw [faultReport_traps hk' he' hl hs']
    have hkeep : KeepsEntry k' fun w => w.modFrag k'.lead reporting := keepsEntry_modFrag k' reporting fun _ => rfl
    obtain ⟨x, v, hx, hv, hr, hcl, ho, hen⟩ := takeTrap_again (s := modWave (modWave s k.uid g) k'.uid fun w => w.modFrag k'.lead reporting)
      (k := ⟨k'.uid, k'.w.modFrag k'.lead reporting, reporting f, k.c⟩)
      (r := ⟨c, (k'.w.entries.filter Entry.stuck).foldl (fun m e => m ||| e.faultedLanes) 0, a, true, k'.f.pc, k'.f.header⟩)
      (modWave_get (fun w => w.modFrag k'.lead reporting) hw') hfr hc' (hcan'.modWave hkeep rfl)
    exact ⟨x, v, hx, hv, hr, hcl, ho, hen.trans hent⟩

/-! The service of a report. -/

theorem lanes_of_notStuck {e : Entry} (h : e.stuck = false) {l : Nat × LaneSt} (hl : l ∈ e.lanes) : l.2.stuck = false := by
  have := List.any_eq_false.1 h l hl
  cases hst : l.2 <;> simp [hst, LaneSt.stuck] at this ⊢

theorem lowest_of_notStuck {e : Entry} (h : e.stuck = false) : e.lowest = none := by
  by_contra hn
  exact absurd (stuck_of_lowest (Option.isSome_iff_ne_none.2 hn)) (by simp [h])

/-- Clearing a list that is empty leaves entries and registers. -/
theorem clearList_empty {w : Wave} (gone : Nat → Nat → Bool) (h : ∀ e ∈ w.entries, e.stuck = false) :
    clearList gone w = { w with lostRecs := (clearList gone w).lostRecs } := by
  have hent : (w.entries.map fun e => { e with lanes := e.lanes.map fun l =>
      if l.2.stuck then (l.1, if gone e.seq l.1 then LaneSt.done else reissueMark) else l }) = w.entries := by
    conv_rhs => rw [← List.map_id w.entries]
    refine List.map_congr_left fun e he => ?_
    have hl : (e.lanes.map fun l => if l.2.stuck then (l.1, if gone e.seq l.1 then LaneSt.done else reissueMark) else l) = e.lanes := by
      conv_rhs => rw [← List.map_id e.lanes]
      refine List.map_congr_left fun l hl => ?_
      rw [lanes_of_notStuck (h e he) hl]; rfl
    rw [hl]; rfl
  unfold clearList
  dsimp only
  rw [hent, foldl_unchanged]
  intro e he w1
  have hnil : (e.lanes.filterMap fun l => if l.2.stuck && gone e.seq l.1 then some l.1 else none) = [] :=
    List.filterMap_eq_nil_iff.2 fun l hl => by rw [lanes_of_notStuck (h e he) hl]; rfl
  split
  · rfl
  · rw [hnil]
    exact if_pos rfl

/-- Resolving a list that is empty reissues nothing. -/
theorem resolveList_empty {s : State} {u : Nat} {w : Wave} (gone : Nat → Nat → Bool) (hw : assocGet s.waves u = some w)
    (h : ∀ e ∈ w.entries, e.stuck = false) : resolveList s u gone = modWave (setWave s u (clearList gone w)) u openEntries := by
  have hnil : w.entries.filter Entry.stuck = [] := List.filter_eq_nil_iff.2 fun e he => by simp [h e he]
  unfold resolveList
  rw [hw]
  dsimp only
  rw [hnil]
  rfl

/-- No trap record of the wave waits. -/
theorem enterPending_none {s : State} {u : Nat} {w : Wave} (hw : assocGet s.waves u = some w) (h : ∀ f ∈ w.frags, f.trap = none) :
    enterPending s u = s := by
  have hfind : ((List.range 16).find? fun q => (w.frag? q).any fun f => f.trap.isSome) = none := by
    refine List.find?_eq_none.2 fun q _ => ?_
    cases hq : w.frag? q with
    | none => simp
    | some f => simp [h f (mem_of_frag? hq).1]
  unfold enterPending
  rw [hw]
  dsimp only
  rw [hfind]
  split <;> rfl

/-- Firmware finds nothing to service in a list that is empty. -/
theorem serviceEntry_empty {u core : Nat} {s : State} {e : Entry} (h : e.stuck = false) : serviceEntry u core s e = s := by
  unfold serviceEntry
  rw [lowest_of_notStuck h]
  split <;> rfl

theorem awaitsMove_empty {w : Wave} {c : Context} (h : ∀ e ∈ w.entries, e.stuck = false) : awaitsMove w c = false := by
  refine List.any_eq_false.2 fun e he => ?_
  rw [Bool.and_eq_true_iff, not_and, Bool.not_eq_true]
  refine fun _ => List.any_eq_false.2 fun l hl => ?_
  have := lanes_of_notStuck (h e he) hl
  cases hst : l.2 <;> simp [hst, LaneSt.stuck] at this ⊢

/-- The wave once a report has ended with nothing in its list. -/
def reportEnded (w : Wave) : Wave := openEntries (clearList (fun _ _ => false) { w with report := none })

theorem reportEnded_only {w : Wave} (h : ∀ e ∈ w.entries, e.stuck = false) :
    reportEnded w = { w with report := none, entries := (reportEnded w).entries, lostRecs := (reportEnded w).lostRecs } := by
  unfold reportEnded
  rw [clearList_empty (w := { w with report := none }) _ h]
  rfl

/-- A report with nothing left in the list ends. -/
theorem serviceDone_ends {s : State} {u q : Nat} {w : Wave} {c : Context} (hw : assocGet s.waves u = some w)
    (hc : assocGet s.ctxs w.ctx = some c) (hq : w.report = some q) (h : ∀ e ∈ w.entries, e.stuck = false)
    (ht : ∀ f ∈ w.frags, f.trap = none) :
    ∃ t, serviceDone s u = some t ∧ SameBytes s t ∧ assocGet t.waves u = some (reportEnded w) := by
  let s2 := modWave s u fun w => { w with report := none }
  have hw2 : assocGet s2.waves u = some { w with report := none } := modWave_get (fun w => { w with report := none }) hw
  let s3 := modWave (setWave s2 u (clearList (fun _ _ => false) { w with report := none })) u openEntries
  have hw3 : assocGet s3.waves u = some (reportEnded w) := modWave_get openEntries (assocGet_set_same _ _ _)
  have hfold : w.entries.foldl (serviceEntry u w.core) s = s := foldl_unchanged _ _ fun e he _ => serviceEntry_empty (h e he)
  have hlow : (w.entries.any fun e => e.lowest.isSome) = false :=
    List.any_eq_false.2 fun e he => by simp [lowest_of_notStuck (h e he)]
  have hfr : (reportEnded w).frags = w.frags := by rw [reportEnded_only h]
  refine ⟨s3, ?_, ⟨fun _ => rfl, rfl⟩, hw3⟩
  unfold serviceDone
  rw [hw]
  dsimp only
  rw [hq, hc]
  dsimp only
  rw [awaitsMove_empty h, if_neg (by simp), hfold, show assocGet (modWave s u fun w => { w with report := none }).waves u = _ from hw2]
  dsimp only
  rw [hlow, if_neg (by simp), resolveList_empty _ hw2 h, enterPending_none hw3 (by rw [hfr]; exact ht)]

/-! The service of a page for a fragment. -/

/-- The fragment that waited for a page is up again. -/
def pageServed (s : State) (f : Frag) : Frag := { f with park := .none, stamp := s.cycle, readyAt := max f.readyAt (s.cycle + 1) }

section
variable {s : State} {u home : Nat} {w : Wave} {c : Context} {f : Frag} {va : VA} {ls : LaneMask} {low : Option (Cause × VA)}
  (hw : assocGet s.waves u = some w) (hc : assocGet s.ctxs w.ctx = some c) (hr : w.report = none) (hfs : w.frags = [f])
  (hp : f.park = .service va ls home low)
include hw hc hr hfs hp

/-- While the page migrates the service waits. -/
theorem serviceDone_migrating (hm : migrating c va.toNat = true) (hl : w.live ≠ 0) : serviceDone s u = none := by
  have hfrag : w.serviceFrag c = none := by
    unfold Wave.serviceFrag
    simp [hfs, hp, hm]
  have hun : w.unreported c = false := by
    unfold Wave.unreported
    simp [hfs, Frag.awaitsList, hp]
    exact fun _ _ h0 => absurd h0 hl
  unfold serviceDone
  rw [hw]
  dsimp only
  rw [hr, hc]
  dsimp only
  rw [hfrag]
  dsimp only
  rw [hun]
  rfl

theorem serviceDone_page (hm : migrating c va.toNat = false) :
    serviceDone s u = match servicePage (modFrag s u (leadQuad f.quads) (pageServed s)) w.ctx va.toNat home (some (coreDom w.core)) with
      | .ok t => some t
      | .error x => some (freshTrap (modFrag s u (leadQuad f.quads) (pageServed s)) u (leadQuad f.quads)
          ⟨(low.getD (x, va)).1, ls, (low.getD (x, va)).2, false, f.pc, f.header⟩) := by
  have hfrag : w.serviceFrag c = some f := by
    unfold Wave.serviceFrag
    simp [hfs, hp, hm]
  unfold serviceDone
  rw [hw]
  dsimp only
  rw [hr, hc]
  dsimp only
  rw [hfrag]
  dsimp only
  rw [hp]
  rfl

end

/-- A fresh trap of a fragment changed in what the handler's start overrides stands in its handler. -/
theorem freshTrap_trapped {s : State} {k : Issue} {cause : Cause} {tlm : LaneMask} {tval : VA} {hdr : Bool} (F : Frag → Frag)
    (hw : assocGet s.waves k.uid = some k.w) (hf : k.w.frag? k.lead = some k.f) (hc : assocGet s.ctxs k.w.ctx = some k.c)
    (hcan : CanTrap s k) (hq : ∀ x, (F x).quads = x.quads)
    (hb : (F k.f).blk = k.f.blk ∧ (F k.f).fin = k.f.fin ∧ (F k.f).left = k.f.left) :
    Trapped s (bumpFree (freshTrap (modFrag s k.uid k.lead F) k.uid k.lead ⟨cause, tlm, tval, false, k.f.pc, hdr⟩)) k cause false tlm
      tval := by
  have hmm : ∀ w : Wave, (w.modFrag k.lead F).modFrag k.lead (fun f => { f with retry := false, closed := false }) =
      w.modFrag k.lead fun f => { F f with retry := false, closed := false } := by
    intro w
    simp only [Wave.modFrag, List.map_map, Wave.mk.injEq, true_and, and_true]
    refine List.map_congr_left fun x _ => ?_
    by_cases h : leadQuad x.quads = k.lead <;> simp [h, hq]
  have he : freshTrap (modFrag s k.uid k.lead F) k.uid k.lead ⟨cause, tlm, tval, false, k.f.pc, hdr⟩ =
      takeTrap (modWave s k.uid fun w => w.modFrag k.lead fun f => { F f with retry := false, closed := false }) k.uid k.lead
        ⟨cause, tlm, tval, false, k.f.pc, hdr⟩ := by
    unfold freshTrap modFrag
    rw [modWave_modWave]
    simp only [Function.comp_def, hmm]
  have hfr := fun q => modFrag_frag? k.w k.lead q (fun f => { F f with retry := false, closed := false }) hq
  rw [he]
  refine trapped_takeTrap hw hc hcan (keepsEntry_modFrag k _ hq) (f := { F k.f with retry := false, closed := false }) ?_
    (hq k.f) hb (fun q hne => (hfr q).trans (if_neg hne)) rfl
  rw [hfr, if_pos rfl, hf]; rfl

/-! The obligation. -/

/-- The issuing wave of a `WAITB.ALL` that has closed its batch and reports. -/
def waitReports (k : Issue) (w : Wave) : Wave :=
  (batchClosed (progressed k w)).modFrag k.lead fun f => { f with closed := true, park := .none }

theorem waitReports_only (k : Issue) (w : Wave) : waitReports k w =
    { w with
      open_ := w.open_ + 1
      watchdog := (progressed k w).watchdog
      frags := (waitReports k w).frags } := by
  unfold waitReports
  rw [progressed_only]
  rfl

theorem waitReports_keeps {s : State} {k : Issue} (hk : getIssue s = some k) :
    KeepsReport k (waitReports k) { k.f with closed := true, park := .none } := by
  have hp := progressed_only k k.w
  have hfr : ∀ q, (waitReports k k.w).frag? q =
      if q = k.lead then (k.w.frag? k.lead).map fun f => { f with closed := true, park := .none } else k.w.frag? q := fun q => by
    refine (modFrag_frag? _ _ _ (fun f => { f with closed := true, park := .none }) fun _ => rfl).trans ?_
    show (if q = k.lead then ((progressed k k.w).frag? k.lead).map _ else (progressed k k.w).frag? q) = _
    rw [progressed_frag?, progressed_frag?]
  have hlow : lowerDue k.c (waitReports k k.w) k.lead = lowerDue k.c k.w k.lead := by
    refine (lowerDue_modFrag _ _ _ (fun f => { f with closed := true, park := .none }) fun _ => rfl).trans ?_
    unfold lowerDue
    show List.any (progressed k k.w).frags _ = _
    rw [progressed_frags]
  refine ⟨⟨fun w => ?_, ?_, ?_, ?_, ?_, ?_, hlow⟩, (hfr _).trans ?_, ⟨rfl, rfl, rfl, rfl, rfl⟩,
    fun q hq => (hfr q).trans (if_neg hq), ?_⟩
  · rw [waitReports_only]; exact ⟨rfl, rfl, rfl⟩
  · rw [waitReports_only]
  · rw [waitReports_only]
  · rw [waitReports_only]
  · rw [waitReports_only]
  · rw [waitReports_only]
  · rw [if_pos rfl, (getIssue_spec hk).2.2.1]; rfl
  · rw [waitReports_only]; exact ⟨rfl, rfl, rfl, rfl⟩

/-- A `WAITB.ALL` that finds faulted lanes, and no lane in flight, reports. -/
theorem waitbAll_reports {g : BitVec 2} {s : State} {k : Issue} (h : MayRun (.waitbAll g) s k) (hpk : ∀ n, k.f.park ≠ .batches n)
    (hc : k.f.closed = false) (hp : (pendingBatches k.w).length < 16) (hfly : ∀ e ∈ k.w.entries, e.flying = false)
    (hs : ∃ e ∈ k.w.entries, e.stuck = true) :
    exec (.waitbAll g) s = .next (bumpFree (faultReport (modWave s k.uid (waitReports k)) k.uid k.lead)) := by
  have hent : ((batchClosed ∘ progressed k) k.w).entries = k.w.entries := by
    show (progressed k k.w).entries = _
    rw [progressed_only]
  have hlist : faultListEmpty ((batchClosed ∘ progressed k) k.w) = false := by
    obtain ⟨e, he, hst⟩ := hs
    unfold faultListEmpty
    rw [hent]
    exact List.all_eq_false.2 ⟨e, he, by simp [hst]⟩
  rw [WaitsBatches.runs (.inl ⟨g, rfl, rfl⟩) h, waitBatches_open (r := none) hpk rfl hc hp,
    waitUpto_reports (modWave_get _ (getIssue_spec h.1).2.1) (hent.symm ▸ hfly) hlist, modFrag, modWave_modWave]
  rfl

/-- Settles O29: the report of `WAITB.ALL` is that of `report_enters`; a service ends as `serviceDone_ends` and `serviceDone_page` say. -/
theorem faultReportsTrapAndEnd : Obligations.FaultReportsTrapAndEnd := by
  unfold Obligations.FaultReportsTrapAndEnd
  refine ⟨fun g s k e c a p l h hpk hcl hpend hfly hs he hl hcan => ?_, fun s u w c hw hc hwin hwait htr =>
    ⟨fun q hq hst => ?_, fun f va ls home low hr hfs hp => ⟨fun hm hlive => ?_, fun hm => ⟨fun s2 hs2 => ?_, fun x hx hcan => ?_⟩⟩⟩⟩
  · obtain ⟨hmem, hst⟩ := List.mem_filter.1 (List.mem_of_mem_head? (Option.mem_def.2 he))
    have hent : (waitReports k k.w).entries = k.w.entries := by rw [waitReports_only]
    obtain ⟨htrap, w', v, hw', hv, hretry, hclosed, hopen, hentries⟩ := report_enters h.1 (waitReports_keeps h.1) hent he hl hs hcan
    exact ⟨_, waitbAll_reports h hpk hcl hpend hfly ⟨e, hmem, hst⟩, htrap, w', v, hw', hv, hretry, hclosed,
      hopen.trans (by rw [waitReports_only]), hentries⟩
  · obtain ⟨t, ht, hb, hget⟩ := serviceDone_ends hw hc hq hst htr
    refine ⟨_, congrArg (evStep s) ht, hb, _, hget, ?_⟩
    rw [reportEnded_only hst]
    exact ⟨rfl, hwin, rfl, rfl⟩
  · exact congrArg (evStep s) (serviceDone_migrating hw hc hr hfs hp hm hlive)
  · have hd := serviceDone_page hw hc hr hfs hp hm
    have hs2' : servicePage (modFrag s u (leadQuad f.quads) (pageServed s)) w.ctx va.toNat home (some (coreDom w.core)) = .ok s2 := hs2
    rw [hs2'] at hd
    refine ⟨_, congrArg (evStep s) hd, rfl, w.modFrag (leadQuad f.quads) (pageServed s), pageServed s f, ?_, ?_, rfl, rfl, rfl, rfl⟩
    · rw [bumpFree, (servicePage_work hs2').only]
      exact modWave_get (fun w => w.modFrag (leadQuad f.quads) (pageServed s)) hw
    · simp [hfs]
  · have hd := serviceDone_page hw hc hr hfs hp hm
    have hx' : servicePage (modFrag s u (leadQuad f.quads) (pageServed s)) w.ctx va.toNat home (some (coreDom w.core)) = .error x := hx
    rw [hx'] at hd
    refine ⟨_, congrArg (evStep s) hd, ?_⟩
    have hf : w.frag? (leadQuad f.quads) = some f := by simp [Wave.frag?, hfs]
    have h := freshTrap_trapped (k := ⟨u, w, f, c⟩) (cause := (low.getD (x, va)).1) (tlm := ls) (tval := (low.getD (x, va)).2)
      (hdr := f.header) (pageServed s) hw hf hc hcan (fun _ => rfl) ⟨rfl, rfl, rfl⟩
    cases low <;> exact h

end Sys2Proof.Machine
end

section
/-!
SUPPORT. `CRED` reads its communicator twice where it issues: once for its number, and once in its lane. Where the first reading's
mark in a leaf alters a table entry that overlaps the leaf, the second goes by other tables and marks another leaf, with O40.
-/

namespace Sys2Proof.Machine

/-- Table entries. The level 4 table begins at 0x15FFFC, so its first entry overlaps the leaf at 0x160000, which maps the second half
of the communicator at 2^68 - 128: with A set there, the first half is reached by the tables from 0x4B00000000, not by those from
0xB00000000. -/
def overlapTables : List (Nat × Nat) :=
  [(0xB0000FFF8, 0x100001), (0x10FFF8, 0x110001), (0x11FFF8, 0x2000003B),
   (0x4B0000FFF8, 0x120001), (0x12FFF8, 0x130001), (0x13FFF8, 0x2000003B),
   (0x15FFFC, 0xB00000001), (0x160004, 0x200000001), (0x200000000, 0x170001), (0x170000, 0x160001)]

/-- A communicator of one member: its bytes other than the zeros at its end. -/
def overlapComm : List Byte :=
  let head : List Byte := [7, 0, 0, 0, 1, 0, 1, 0, 0, 0, 0, 0]
  head ++ natLe 4 (shapeOf (head ++ List.replicate 244 0)) ++ List.replicate 48 0 ++ [255]

/-- A wave about to issue a `CRED` of that communicator under those tables. -/
def overlapState : State :=
  let s := placeCode State.reset []
  let m := overlapTables.foldl (fun m e => memPut m e.1 8 e.2) s.mem
  { s with
    cur := some (State.reset.nextUid, 0)
    mem := memWriteN (memWriteN m 0x160000 [0x0B]) 0x3FFFFF80 overlapComm
    hub := { s.hub with online := BitVec.allOnes _ }
    ctxs := s.ctxs.map fun e => (e.1, { e.2 with ptb := 0x15FFFC })
    waves := s.waves.map fun e => (e.1, { e.2 with regs := [(64 * 8, 0xFFFFFF80), (64 * 9, 0xFFFFFFFF), (64 * 10, 0xF)] }) }

/-- A reading of the communicator succeeds and leaves byte `v` at `a`. -/
def commReads (s : State) (k : Issue) (a : Nat) (v : Byte) : Bool :=
  match readComm s k.c (tripleBad s k.w 8 k.low) (readTriple s k.w 8 k.low) with
  | .ok r => memRead r.1.mem a == v
  | .error _ => false

/-- The `CRED` issues, and leaves byte `v` at `a`. -/
def credLeaves (s : State) (a : Nat) (v : Byte) : Bool :=
  match exec (.cred 0 20 8 12) s with
  | .next t => memRead t.mem a == v
  | _ => false

/-- Were the obligation to hold, the `CRED` would leave each byte as its first reading does. -/
theorem credLeaves_of_commReads (h : Obligations.EngineOperationsJoinTheBatch) {s : State} {k : Issue} {a : Nat} {v : Byte}
    (hrun : MayRun (.cred 0 20 8 12) s k) (hlen : k.w.entries.length < 64) (hread : commReads s k a v = true) :
    credLeaves s a v = true := by
  unfold commReads at hread
  split at hread
  next r hr =>
    obtain ⟨-, hcred, -⟩ := h.1 s k (.cred 0 20 8 12) hrun hlen
    obtain ⟨t, ht, ⟨⟨hsame, -⟩, -⟩, -⟩ := (hcred 0 20 8 12 rfl).2 r.1 r.2 hr
    unfold credLeaves
    rw [ht]
    dsimp only
    rw [hsame a]
    exact hread
  · exact absurd hread (by simp)

set_option maxRecDepth 10000 in
/-- In `overlapState` the first reading leaves the leaf at 0x13FFF8 unmarked. -/
theorem overlap_read : ((getIssue overlapState).any fun k => decide (preCause (.cred 0 20 8 12) overlapState k = none) &&
    decide (k.w.entries.length < 64) && commReads overlapState k 0x13FFF8 0x3B) = true := by decide +kernel

set_option maxRecDepth 10000 in
/-- The issue marks it. -/
theorem overlap_issued : credLeaves overlapState 0x13FFF8 0x3B = false := by decide +kernel

/-- Refutes O40: in `overlapState` a `CRED` joins the batch with memory other than its first reading of the communicator leaves. -/
theorem not_engineOperationsJoinTheBatch : ¬ Obligations.EngineOperationsJoinTheBatch := by
  intro h
  obtain ⟨k, hk, hall⟩ := (Option.any_eq_true _ _).1 overlap_read
  obtain ⟨hpl, hread⟩ := Bool.and_eq_true_iff.1 hall
  obtain ⟨hpre, hlen⟩ := Bool.and_eq_true_iff.1 hpl
  have hleft := credLeaves_of_commReads h ⟨hk, of_decide_eq_true hpre⟩ (of_decide_eq_true hlen) hread
  exact Bool.false_ne_true (overlap_issued.symm.trans hleft)

end Sys2Proof.Machine
end

section
/-!
SUPPORT. Where the pieces of a tensor record and of a dense image lie (06 R162, R163; 08 R198).
-/

namespace Sys2Proof.Machine

/-- A number of two digits. -/
theorem digits_lt {x n j m : Nat} (hx : x < n) (hj : j < m) : x + n * j < n * m :=
  calc x + n * j < n + n * j := Nat.add_lt_add_right hx _
    _ = n * (j + 1) := by rw [Nat.mul_succ, Nat.add_comm]
    _ ≤ n * m := Nat.mul_le_mul_left n hj

theorem digits_mod {x n : Nat} (hx : x < n) (j : Nat) : (x + n * j) % n = x := by
  rw [Nat.add_mul_mod_self_left, Nat.mod_eq_of_lt hx]

theorem digits_div {x n : Nat} (hx : x < n) (j : Nat) : (x + n * j) / n = j := by
  rw [Nat.add_mul_div_left _ _ (Nat.zero_lt_of_lt hx), Nat.div_eq_of_lt hx, Nat.zero_add]

section
variable {r : TRec} {y z v : Nat} (hy : y < r.dim 1) (hz : z < r.dim 2) (hv : v < r.dim 3)
include hy hz

/-- A row's offset is its indices times their strides. -/
theorem rowOff_indices (sds : List Nat) : rowOff r sds (y + r.dim 1 * (z + r.dim 2 * v)) =
    y * (sds[1]?).getD 0 + z * (sds[2]?).getD 0 + v * (sds[3]?).getD 0 := by
  unfold rowOff
  rw [← Nat.div_div_eq_div_mul, digits_mod hy, digits_div hy, digits_mod hz, digits_div hz]

include hv in
theorem row_lt_outer : y + r.dim 1 * (z + r.dim 2 * v) < r.outer := by
  unfold TRec.outer
  rw [Nat.mul_assoc]
  exact digits_lt hy (digits_lt hz hv)

include hv in
/-- An element's place in its record, and in a dense image. -/
theorem element_place {x : Nat} (hx : x < r.rowN) :
    let i := x + r.rowN * (y + r.dim 1 * (z + r.dim 2 * v))
    let sd (j : Nat) : Nat := (r.sds[j]?).getD 0
    r.piece i = ((r.base + x * r.size + y * sd 1 + z * sd 2 + v * sd 3) % 2 ^ 80, r.size) ∧ r.dense i = i * r.size := by
  have hi : x + r.rowN * (y + r.dim 1 * (z + r.dim 2 * v)) < r.dataN := digits_lt hx (row_lt_outer hy hz hv)
  refine ⟨?_, if_pos hi⟩
  unfold TRec.piece
  rw [if_pos hi, digits_mod hx, digits_div hx, rowOff_indices hy hz]
  simp only [Nat.add_assoc]

/-- A block's scale, likewise. -/
theorem scale_place {b : Nat} (hb : b < r.dim 0 / 32) :
    let j := b + r.dim 0 / 32 * (y + r.dim 1 * (z + r.dim 2 * v))
    let sd (n : Nat) : Nat := (r.xsds[n]?).getD 0
    let n := r.rowN * (r.dim 1 * r.dim 2 * r.dim 3)
    r.piece (n + j) = ((r.sbase + b + y * sd 1 + z * sd 2 + v * sd 3) % 2 ^ 80, 1) ∧ r.dense (n + j) = n * r.size + j := by
  intro j sd n
  have hn : n = r.dataN := rfl
  have hge : ¬ n + j < r.dataN := by omega
  have hj : n + j - r.dataN = j := by omega
  constructor
  · unfold TRec.piece
    rw [if_neg hge, hj]
    dsimp only
    rw [digits_mod hb, digits_div hb, rowOff_indices hy hz]
    simp only [Nat.add_assoc]
    rfl
  · unfold TRec.dense
    rw [if_neg hge, hj, hn]

end

end Sys2Proof.Machine
end

section
/-!
SUPPORT. Pieces moved, read and written one after another (06 R147, R163, R164; 08 R200, R206).
-/

namespace Sys2Proof.Machine

/-! One piece. -/

/-- What the pieces so far came to: the state, the pieces left, the first failure. -/
abbrev Moved := State × List Nat × Option AccErr

/-- Piece `i` moved. -/
def movePiece (p : Nat) (c : Context) (src dst : Side) (all : List Nat) (s : State) (i : Nat) : Moved :=
  match src.loc s c .read i, dst.loc s c .write i with
  | .ok (a, n), .ok (b, _) =>
    let x := coreRead (a.touched false s) p a n
    (if dst.shadowed all i then x.1 else b.touched true (coreWrite x.1 p b x.2), [], none)
  | .error e, _ => (s, [i], some e)
  | .ok _, .error e => (s, [i], some e)

/-- Piece `i` of an image stored. -/
def storePiece (p : Nat) (c : Context) (r : TRec) (img : Image) (all : List Nat) (s : State) (i : Nat) : Moved :=
  match (Side.record r).loc s c .write i with
  | .ok (b, n) =>
    (if (Side.record r).shadowed all i then s else b.touched true (coreWrite s p b (natLe n (imgAt s img i).toNat)), [], none)
  | .error e => (s, [i], some e)

/-- What one more piece adds. -/
def Moved.add (f : State → Nat → Moved) (m : Moved) (i : Nat) : Moved :=
  ((f m.1 i).1, m.2.1 ++ (f m.1 i).2.1, m.2.2.or (f m.1 i).2.2)

theorem movePieces_fold (p : Nat) (c : Context) (src dst : Side) (all todo : List Nat) (s : State) :
    movePieces p c src dst all todo s = todo.foldl (Moved.add (movePiece p c src dst all)) (s, [], none) := by
  unfold movePieces
  refine congrArg (fun f => List.foldl f (s, [], none) todo) (funext fun m => funext fun i => ?_)
  obtain ⟨t, left, err⟩ := m
  unfold Moved.add movePiece
  dsimp only
  cases src.loc t c .read i with
  | error e => rfl
  | ok a =>
    cases dst.loc t c .write i with
    | error e => rfl
    | ok b =>
      dsimp only
      split <;> simp

theorem storePieces_fold (p : Nat) (c : Context) (r : TRec) (img : Image) (all todo : List Nat) (s : State) :
    storePieces p c r img all todo s = todo.foldl (Moved.add (storePiece p c r img all)) (s, [], none) := by
  unfold storePieces
  refine congrArg (fun f => List.foldl f (s, [], none) todo) (funext fun m => funext fun i => ?_)
  obtain ⟨t, left, err⟩ := m
  unfold Moved.add storePiece
  dsimp only
  cases (Side.record r).loc t c .write i with
  | error e => rfl
  | ok b =>
    dsimp only
    split <;> simp

/-- What was left and failed before stands before what the pieces add. -/
theorem foldl_add (f : State → Nat → Moved) (todo : List Nat) (s : State) (left : List Nat) (err : Option AccErr) :
    todo.foldl (Moved.add f) (s, left, err) =
      let m := todo.foldl (Moved.add f) (s, [], none)
      (m.1, left ++ m.2.1, err.or m.2.2) := by
  induction todo generalizing s left err with
  | nil => simp
  | cons i r ih =>
    have h := ih (f s i).1 (left ++ (f s i).2.1) (err.or (f s i).2.2)
    have h' := ih (f s i).1 (f s i).2.1 (f s i).2.2
    have hl : Moved.add f (s, left, err) i = ((f s i).1, left ++ (f s i).2.1, err.or (f s i).2.2) := rfl
    have hn : Moved.add f (s, [], none) i = ((f s i).1, (f s i).2.1, (f s i).2.2) := by simp [Moved.add]
    rw [List.foldl_cons, List.foldl_cons, hl, hn, h, h']
    simp [Option.or_assoc]

theorem foldl_add_append (f : State → Nat → Moved) (l1 l2 : List Nat) (s : State) :
    let a := l1.foldl (Moved.add f) (s, [], none)
    let b := l2.foldl (Moved.add f) (a.1, [], none)
    (l1 ++ l2).foldl (Moved.add f) (s, [], none) = (b.1, a.2.1 ++ b.2.1, a.2.2.or b.2.2) := by
  dsimp only
  rw [List.foldl_append, ← foldl_add]

theorem foldl_add_one (f : State → Nat → Moved) (i : Nat) (s : State) : [i].foldl (Moved.add f) (s, [], none) = f s i := by
  simp [Moved.add]

/-! Bytes read. -/

theorem physGet_length (s : State) (pa n : Nat) : (physGet s pa n).length = n := by
  unfold physGet bytesAt
  rw [List.length_map, List.length_range]

theorem readLoc_length (s : State) (l : Loc) (n : Nat) : (readLoc s l n).length = n := by
  cases l with
  | phys pa leaf => exact physGet_length s pa n
  | share g k off =>
    show (shareGet s g k off n).length = n
    unfold shareGet
    split
    · unfold bytesAt
      rw [List.length_map, List.length_range]
    · simp

theorem physGet_append (s : State) (pa a b : Nat) : physGet s pa a ++ physGet s (pa + a) b = physGet s pa (a + b) := by
  unfold physGet bytesAt
  rw [List.range_add, List.map_append, List.map_map]
  refine congrArg _ (List.map_congr_left fun i _ => ?_)
  simp only [Function.comp, Nat.add_assoc]

theorem lineRead_uncached {s : State} {p pa : Nat} (n : Nat) (h : assocGet s.hub.lineCopies (copyKey p pa) = none) :
    (lineRead s p pa n).2 = physGet s pa n := by
  unfold lineRead
  rw [h]

/-- Lines that the slice group holds no copy of give memory's bytes. -/
theorem lineReads_uncached {s : State} {p pa n : Nat} (h : ∀ v ∈ lineParts pa n, assocGet s.hub.lineCopies (copyKey p v.1) = none) :
    ((lineParts pa n).foldl (fun r v => let x := lineRead r.1 p v.1 v.2; (x.1, r.2 ++ x.2)) (s, [])).2 = physGet s pa n := by
  by_cases he : min n (128 - pa % 128) = n
  · have hp : lineParts pa n = [(pa, n)] := if_pos he
    rw [hp] at h ⊢
    exact (List.nil_append _).trans (lineRead_uncached n (h (pa, n) (List.mem_singleton_self _)))
  · have hp : lineParts pa n = [(pa, min n (128 - pa % 128)), (pa + min n (128 - pa % 128), n - min n (128 - pa % 128))] := if_neg he
    have hne := lineParts_two (p := p) he
    have hadd : min n (128 - pa % 128) + (n - min n (128 - pa % 128)) = n := Nat.add_sub_cancel' (Nat.min_le_left _ _)
    rw [hp] at h ⊢
    generalize min n (128 - pa % 128) = m at *
    have h1 := lineRead_uncached m (h (pa, m) (List.mem_cons_self ..))
    obtain ⟨-, c, hs, hk⟩ := lineRead_bytes s p pa m
    have h2 : (lineRead (withLines s c) p (pa + m) (n - m)).2 = physGet (withLines s c) (pa + m) (n - m) :=
      lineRead_uncached (n - m) ((hk _ hne).trans (h (pa + m, n - m) (List.mem_cons_of_mem _ (List.mem_singleton_self _))))
    show ([] ++ (lineRead s p pa m).2) ++ (lineRead (lineRead s p pa m).1 p (pa + m) (n - m)).2 = _
    rw [hs, h1, h2, List.nil_append]
    exact (physGet_append s pa m (n - m)).trans (by rw [hadd])

/-- A read of lines that the slice group holds no copy of gives memory's bytes, and changes nothing but its copies. -/
theorem coreRead_uncached {s : State} {p n : Nat} {l : Loc}
    (h : ∀ pa leaf, l = .phys pa leaf → paRegion pa < 2 → ∀ v ∈ lineParts pa n, assocGet s.hub.lineCopies (copyKey p v.1) = none) :
    (coreRead s p l n).2 = readLoc s l n ∧ ∃ c, (coreRead s p l n).1 = withLines s c := by
  by_cases hc : ∃ pa leaf, l = .phys pa leaf ∧ paRegion pa < 2
  · obtain ⟨pa, leaf, rfl, hr⟩ := hc
    refine ⟨?_, (coreRead_cached s p pa leaf n hr).imp fun c ⟨_, hc, _⟩ => hc⟩
    have hcache : cacheable pa = true := decide_eq_true hr
    unfold coreRead
    dsimp only
    rw [if_pos hcache]
    exact lineReads_uncached (h pa leaf rfl hr)
  · rw [coreRead_plain s p l n fun pa leaf hl hr => hc ⟨pa, leaf, hl, hr⟩]
    exact ⟨rfl, _, (withLines_self s).symm⟩

/-! A piece moved, from its source to its destination. -/

section
variable {p : Nat} {c : Context} {src dst : Side} {all : List Nat} {i : Nat} {s : State}

theorem movePieces_one : movePieces p c src dst all [i] s = movePiece p c src dst all s i := by
  rw [movePieces_fold, foldl_add_one]

theorem movePiece_noSource {e : AccErr} (h : src.loc s c .read i = .error e) :
    movePiece p c src dst all s i = (s, [i], some e) := by
  unfold movePiece
  rw [h]

theorem movePiece_noTarget {x : Loc × Nat} {e : AccErr} (h : src.loc s c .read i = .ok x) (h' : dst.loc s c .write i = .error e) :
    movePiece p c src dst all s i = (s, [i], some e) := by
  unfold movePiece
  rw [h, h']

/-- The piece's bytes come to its destination; beside them the leaves and copies of lines change at most. -/
theorem movePiece_moves {l l' : Loc} {n n' : Nat} (h : src.loc s c .read i = .ok (l, n)) (h' : dst.loc s c .write i = .ok (l', n'))
    (hsh : dst.shadowed all i = false)
    (hno : ∀ pa f, l = .phys pa f → paRegion pa < 2 → ∀ v ∈ lineParts pa n, assocGet s.hub.lineCopies (copyKey p v.1) = none) :
    ∃ c1 c2, movePiece p c src dst all s i =
      (l'.touched true (withLines (writeLoc (withLines (l.touched false s) c1) l' (readLoc (l.touched false s) l n)) c2), [], none) := by
  have hlines : (l.touched false s).hub = s.hub := by rw [touched_only]
  obtain ⟨hb, c1, hs⟩ := coreRead_uncached (s := l.touched false s) (p := p) (n := n) (l := l)
    fun pa f hl hr v hv => hlines ▸ hno pa f hl hr v hv
  obtain ⟨c2, hw⟩ := coreWrite_lines (withLines (l.touched false s) c1) p l' (readLoc (l.touched false s) l n)
  refine ⟨c1, c2, ?_⟩
  unfold movePiece
  rw [h, h']
  dsimp only
  rw [hsh, if_neg (by simp), hs, hb, hw]

end

/-! Bytes that land at a location whose leaf is then marked. -/

/-- Bytes put at a location of `s`, and its leaf marked written. -/
def landed (s : State) (l : Loc) (bs : List Byte) (c : List (Nat × List Byte)) : State := l.touched true (withLines (writeLoc s l bs) c)

theorem landed_frame (s : State) (l : Loc) (bs : List Byte) (c : List (Nat × List Byte)) :
    (landed s l bs c).ctxs = s.ctxs ∧ (landed s l bs c).waves = s.waves := by
  unfold landed
  rw [touched_only]
  exact ⟨(writeLoc_only s l bs).2.2, (writeLoc_only s l bs).2.1⟩

section
variable {s : State} {pa leaf : Nat} {bs : List Byte} {c : List (Nat × List Byte)}

theorem landed_grids : (landed s (.phys pa leaf) bs c).grids = s.grids := by
  unfold landed
  rw [touched_only]
  rfl

theorem landed_in (hwf : Memory.wf s.mem = true) {j : Nat} {b : Byte} (hb : bs[j]? = some b) (hl : pa + j ≠ leaf) :
    memRead (landed s (.phys pa leaf) bs c).mem (pa + j) = b :=
  (touched_sameByte (.phys pa leaf) true (withLines (physPut s pa bs) c) hl).1.trans (memRead_writeN_get hwf hb)

theorem landed_out {a : Nat} (hl : a ≠ leaf) (ha : a < pa ∨ pa + bs.length ≤ a) :
    memRead (landed s (.phys pa leaf) bs c).mem a = memRead s.mem a :=
  (touched_sameByte (.phys pa leaf) true (withLines (physPut s pa bs) c) hl).1.trans (memRead_writeN_other _ _ ha)

variable {g k off : Nat}

theorem landed_share {x : Wg} (hx : wgOf s g k = some x) (hwf : Memory.wf x.share = true) :
    ∃ x', wgOf (landed s (.share g k off) bs c) g k = some x' ∧
      (∀ j b, bs[j]? = some b → memRead x'.share (off + j) = b) ∧
      ∀ a, (a < off ∨ off + bs.length ≤ a) → memRead x'.share a = memRead x.share a := by
  have ht : wgOf (landed s (.share g k off) bs c) g k =
      some { x with share := memWriteN x.share off bs, undef := rangesDrop x.undef off bs.length } := wgOf_modWg _ hx
  exact ⟨_, ht, fun j b hb => memRead_writeN_get hwf hb, fun a ha => memRead_writeN_other _ _ ha⟩

end

section
variable {p : Nat} {c : Context} {all : List Nat} {i : Nat} {s : State}

/-- A piece moved lands at its destination, in the state that marks its source's leaf. -/
theorem movePieces_lands {src dst : Side} {l l' : Loc} {n n' : Nat} (h : src.loc s c .read i = .ok (l, n))
    (h' : dst.loc s c .write i = .ok (l', n')) (hsh : dst.shadowed all i = false)
    (hno : ∀ pa f, l = .phys pa f → paRegion pa < 2 → ∀ v ∈ lineParts pa n, assocGet s.hub.lineCopies (copyKey p v.1) = none) :
    ∃ c1 c2, movePieces p c src dst all [i] s =
      (landed (withLines (l.touched false s) c1) l' (readLoc (l.touched false s) l n) c2, [], none) := by
  obtain ⟨c1, c2, hm⟩ := movePiece_moves (p := p) h h' hsh hno
  exact ⟨c1, c2, movePieces_one.trans hm⟩

/-- The bytes at `l` stand at `l'`, and beside them and the leaves nothing of that memory or share changes. -/
def PieceLands (s t : State) (l l' : Loc) (n : Nat) : Prop :=
  let bs := readLoc (l.touched false s) l n
  match l' with
  | .phys pa leaf => t.grids = s.grids ∧ (Memory.wf s.mem = true →
      (∀ j b, bs[j]? = some b → pa + j ≠ leaf → memRead t.mem (pa + j) = b) ∧
      ∀ a, ¬l.leafIs a → a ≠ leaf → (a < pa ∨ pa + n ≤ a) → memRead t.mem a = memRead s.mem a)
  | .share g k off => ∀ x, wgOf s g k = some x → Memory.wf x.share = true → ∃ x', wgOf t g k = some x' ∧
      (∀ j b, bs[j]? = some b → memRead x'.share (off + j) = b) ∧
      ∀ a, (a < off ∨ off + n ≤ a) → memRead x'.share a = memRead x.share a

/-- One piece, by where it comes from and goes to (06 R163, R164). -/
theorem piece_moves {src dst : Side} {l l' : Loc} {n n' : Nat} (h : src.loc s c .read i = .ok (l, n))
    (h' : dst.loc s c .write i = .ok (l', n')) (hsh : dst.shadowed all i = false)
    (hno : ∀ pa f, l = .phys pa f → paRegion pa < 2 → ∀ v ∈ lineParts pa n, assocGet s.hub.lineCopies (copyKey p v.1) = none) :
    ∃ t, movePieces p c src dst all [i] s = (t, [], none) ∧ t.ctxs = s.ctxs ∧ t.waves = s.waves ∧ PieceLands s t l l' n := by
  obtain ⟨c1, c2, hm⟩ := movePieces_lands (p := p) h h' hsh hno
  have hS : (withLines (l.touched false s) c1).ctxs = s.ctxs ∧ (withLines (l.touched false s) c1).waves = s.waves ∧
      (withLines (l.touched false s) c1).grids = s.grids := by
    rw [touched_only]
    exact ⟨rfl, rfl, rfl⟩
  obtain ⟨hctxs, hwaves, hgrids⟩ := hS
  obtain ⟨hc, hw⟩ := landed_frame (withLines (l.touched false s) c1) l' (readLoc (l.touched false s) l n) c2
  have hlen := readLoc_length (l.touched false s) l n
  refine ⟨_, hm, hc.trans hctxs, hw.trans hwaves, ?_⟩
  cases l' with
  | phys pa leaf =>
    refine ⟨landed_grids.trans hgrids, fun hwf => ⟨fun j b hb hl => landed_in (touched_wf l false hwf) hb hl,
      fun a hla hl ha => (landed_out hl (by rw [hlen]; exact ha)).trans (touched_sameByte l false s hla).1⟩⟩
  | share g k off =>
    intro x hx hwf
    have hx' : wgOf (withLines (l.touched false s) c1) g k = some x := by
      unfold wgOf
      rw [hgrids]
      exact hx
    have hl := landed_share (off := off) (bs := readLoc (l.touched false s) l n) (c := c2) hx' hwf
    rwa [hlen] at hl

/-- One element stored. -/
theorem piece_stored {r : TRec} (img : Image) {pa leaf n : Nat} (h : (Side.record r).loc s c .write i = .ok (.phys pa leaf, n))
    (hsh : (Side.record r).shadowed all i = false) (hwf : Memory.wf s.mem = true) :
    ∃ t, storePieces p c r img all [i] s = (t, [], none) ∧
      ((leaf < pa ∨ pa + n ≤ leaf) → memNat t.mem pa n = (imgAt s img i).toNat % 2 ^ (8 * n)) ∧
      ∀ a, a ≠ leaf → (a < pa ∨ pa + n ≤ a) → memRead t.mem a = memRead s.mem a := by
  obtain ⟨c2, hw⟩ := coreWrite_lines s p (.phys pa leaf) (natLe n (imgAt s img i).toNat)
  have hlen := natLe_length n (imgAt s img i).toNat
  have hm : storePieces p c r img all [i] s = (landed s (.phys pa leaf) (natLe n (imgAt s img i).toNat) c2, [], none) := by
    rw [storePieces_fold, foldl_add_one, storePiece, h]
    dsimp only
    rw [hsh, if_neg (by simp), hw]
    rfl
  refine ⟨_, hm, fun hl => ?_, fun a hla ha => landed_out hla (by rw [hlen]; exact ha)⟩
  have hread : memReadN (landed s (.phys pa leaf) (natLe n (imgAt s img i).toNat) c2).mem pa n = natLe n (imgAt s img i).toNat := by
    refine List.ext_getElem (by simp [memReadN, hlen]) fun j h1 h2 => ?_
    have hj : j < n := by simpa [memReadN] using h1
    simp only [memReadN, List.getElem_map, List.getElem_range]
    exact landed_in hwf (List.getElem?_eq_getElem h2) (by omega)
  unfold memNat
  rw [hread, leNat_natLe, show 2 ^ (8 * n) = 256 ^ n from Nat.pow_mul 2 8 n]

/-! Elements read and written in order. -/

theorem readPieces_succ (s : State) (c : Context) (r : TRec) (n : Nat) (t : State) (vs : List Nat) :
    readPieces s c r (n + 1) = .ok (t, vs) ↔ ∃ s1 us l m, readPieces s c r n = .ok (s1, us) ∧
      (Side.record r).loc s1 c .read n = .ok (l, m) ∧ t = l.touched false s1 ∧ vs = us ++ [leNat (readLoc s1 l m)] := by
  unfold readPieces
  rw [List.range_succ, List.foldl_append]
  simp only [List.foldl_cons, List.foldl_nil]
  generalize (List.range n).foldl _ _ = x
  cases x with
  | error e => simp [Except.map]
  | ok x =>
    obtain ⟨s1, us⟩ := x
    dsimp only [Except.map]
    cases hl : (Side.record r).loc s1 c .read n with
    | error e => simp [hl]
    | ok y =>
      obtain ⟨l, m⟩ := y
      simp [hl, eq_comm]

theorem writePieces_append (s : State) (c : Context) (r : TRec) (vs : List Nat) (v : Nat) (t : State) :
    writePieces s c r (vs ++ [v]) = .ok t ↔ ∃ s1 l m, writePieces s c r vs = .ok s1 ∧
      (Side.record r).loc s1 c .write vs.length = .ok (l, m) ∧ t = l.touched true (writeLoc s1 l (natLe m v)) := by
  unfold writePieces
  rw [List.zipIdx_append, List.foldl_append]
  simp only [List.zipIdx_singleton, List.foldl_cons, List.foldl_nil, Nat.zero_add]
  generalize vs.zipIdx.foldl _ _ = x
  cases x with
  | error e => simp
  | ok s1 =>
    dsimp only
    cases hl : (Side.record r).loc s1 c .write vs.length with
    | error e => simp [hl]
    | ok y =>
      obtain ⟨l, m⟩ := y
      simp [hl, eq_comm]

end

end Sys2Proof.Machine
end

section
/-!
SUPPORT. Copies and `STQ` (06 R164, R168; 08 R200, R206; 12 R301): their requests to peers, what they leave unchanged, and how they
end, with O41.
-/

namespace Sys2Proof.Machine

/-! Requests. -/

section
variable {s : State} {u : Nat} {e : Entry} {c : Context} {l : Nat} {rs : List ((Nat × Nat) × Bool)} (go : Option State)

/-- While a request is unanswered, or cannot leave, the operation waits. -/
theorem asking_waits (h : (∃ a ∈ e.asks.filter (·.lane == l), a.answers s = false) ∨
      (e.asks.filter (·.lane == l) = [] ∧ ∃ a ∈ asksOf s c l rs, portSends s a.port = false)) : asking s u e c l rs go = none := by
  unfold asking
  rcases h with ⟨a, ha, hno⟩ | ⟨hnone, a, ha, hno⟩
  · have hall : ((e.asks.filter (·.lane == l)).all fun a => a.answers s) = false := List.all_eq_false.2 ⟨a, ha, by simp [hno]⟩
    split
    · next h => rw [h] at ha; simp at ha
    · exact if_neg (by rw [hall]; simp)
  · have hall : ((asksOf s c l rs).all fun a => portSends s a.port) = false := List.all_eq_false.2 ⟨a, ha, by simp [hno]⟩
    rw [hnone]
    dsimp only
    split
    · next h => rw [h] at ha; simp at ha
    · exact if_neg (by rw [hall]; simp)

theorem asking_sends (hnone : e.asks.filter (·.lane == l) = []) (hasks : asksOf s c l rs ≠ [])
    (h : ∀ a ∈ asksOf s c l rs, portSends s a.port = true) :
    asking s u e c l rs go = some (sendAsks s u e.seq (asksOf s c l rs)) := by
  unfold asking
  rw [hnone]
  dsimp only
  split
  · next h' => exact absurd h' hasks
  · exact if_pos (List.all_eq_true.2 h)

end

/-- The entries with requests more in those numbered `seq`. -/
def askedEntry (seq : Nat) (as : List Ask) (e : Entry) : Entry := if e.seq = seq then { e with asks := e.asks ++ as } else e

/-- Requests that leave change the ports, and the entry lists them. -/
theorem sendAsks_eq (s : State) (u seq : Nat) (as : List Ask) : ∃ hub, sendAsks s u seq as =
    modWave { s with hub := hub } u fun w => { w with entries := w.entries.map (askedEntry seq as) } := by
  have hfold : ∀ (l : List Ask) (t : State), ∃ hub, l.foldl (fun t a =>
      modPort (modHub t fun h => { h with sent := (a.peer, if a.wr then 4 else 5, 0) :: h.sent }) a.port fun r => r.push t.free 0) t =
        { t with hub := hub } := by
    intro l
    induction l with
    | nil => exact fun t => ⟨t.hub, rfl⟩
    | cons a r ih =>
      intro t
      obtain ⟨hub, h⟩ := ih (modPort (modHub t fun h => { h with sent := (a.peer, if a.wr then 4 else 5, 0) :: h.sent }) a.port
        fun r => r.push t.free 0)
      exact ⟨hub, h⟩
  obtain ⟨hub, h⟩ := hfold as s
  refine ⟨hub, ?_⟩
  unfold sendAsks
  rw [h]
  rfl

theorem find_askedEntry {seq : Nat} {as : List Ask} {es : List Entry} {e : Entry} (h : es.find? (·.seq == seq) = some e) :
    (es.map (askedEntry seq as)).find? (·.seq == seq) = some { e with asks := e.asks ++ as } := by
  have hp : ((·.seq == seq) ∘ askedEntry seq as : Entry → Bool) = (·.seq == seq) := funext fun x => by
    unfold askedEntry
    dsimp only [Function.comp]
    split <;> rfl
  rw [List.find?_map, hp, h]
  have hs : e.seq = seq := by simpa using List.find?_some h
  exact congrArg some (if_pos hs)

theorem findEntry_spec {s : State} {u seq : Nat} {w : Wave} {e : Entry} {c : Context} (h : findEntry s u seq = some (w, e, c)) :
    assocGet s.waves u = some w ∧ w.entries.find? (·.seq == seq) = some e ∧ assocGet s.ctxs w.ctx = some c ∧ e.seq = seq := by
  unfold findEntry at h
  split at h
  · simp at h
  · next w' hw =>
    split at h
    · next e' c' he hc =>
      obtain ⟨rfl, rfl, rfl⟩ : w' = w ∧ e' = e ∧ c' = c := by simpa using h
      exact ⟨hw, he, hc, by simpa using List.find?_some he⟩
    · simp at h

/-! What moving pieces leaves unchanged. -/

/-- Nothing but memory, the shares and the hub differs. -/
def EngineOnly (s t : State) : Prop :=
  t = { s with mem := t.mem, undefMem := t.undefMem, past := t.past, hub := t.hub, grids := t.grids }

namespace EngineOnly

theorem refl (s : State) : EngineOnly s s := rfl

theorem trans {s t r : State} (h : EngineOnly s t) (h' : EngineOnly t r) : EngineOnly s r := by
  unfold EngineOnly at *
  rw [h', h]

theorem frame {s t : State} (h : EngineOnly s t) : t.waves = s.waves ∧ t.ctxs = s.ctxs ∧ t.banks = s.banks := by
  unfold EngineOnly at h
  rw [h]
  exact ⟨rfl, rfl, rfl⟩

theorem lines (s : State) (c : List (Nat × List Byte)) : EngineOnly s (withLines s c) := rfl

theorem touched (l : Loc) (wr : Bool) (s : State) : EngineOnly s (l.touched wr s) := by
  unfold EngineOnly
  rw [touched_only]

theorem write (s : State) (l : Loc) (bs : List Byte) : EngineOnly s (writeLoc s l bs) := by cases l <;> rfl

theorem coreWrite (s : State) (p : Nat) (l : Loc) (bs : List Byte) : EngineOnly s (Machine.coreWrite s p l bs) := by
  obtain ⟨c, h⟩ := coreWrite_lines s p l bs
  rw [h]
  exact (write s l bs).trans (lines _ c)

theorem coreRead (s : State) (p : Nat) (l : Loc) (n : Nat) : EngineOnly s (Machine.coreRead s p l n).1 := by
  by_cases hc : ∃ pa leaf, l = .phys pa leaf ∧ paRegion pa < 2
  · obtain ⟨pa, leaf, rfl, hr⟩ := hc
    obtain ⟨c, -, h, -⟩ := coreRead_cached s p pa leaf n hr
    rw [h]
    exact lines s c
  · rw [coreRead_plain s p l n fun pa leaf hl hr => hc ⟨pa, leaf, hl, hr⟩]
    exact refl s

theorem readRec {s t : State} {p : Nat} {c : Context} {bad : Bool} {va : VA} {r : TRec}
    (h : Machine.readRec s (some p) c bad va = .ok (t, r)) : EngineOnly s t := by
  unfold Machine.readRec at h
  split at h
  · simp at h
  · split at h
    · simp at h
    · split at h
      · simp at h
      · next l _ =>
        dsimp only at h
        split at h
        · obtain rfl : (engGet (l.touched false s) (some p) l 64).1 = t := (Prod.mk.inj (Except.ok.inj h)).1
          exact (touched l false s).trans (coreRead _ p l 64)
        · simp at h

theorem foldl_add {f : State → Nat → Moved} (hf : ∀ s i, EngineOnly s (f s i).1) (todo : List Nat) (m : Moved) :
    EngineOnly m.1 (todo.foldl (Moved.add f) m).1 := by
  induction todo generalizing m with
  | nil => exact refl _
  | cons i r ih => exact (hf m.1 i).trans (ih (Moved.add f m i))

theorem movePieces (p : Nat) (c : Context) (src dst : Side) (all todo : List Nat) (s : State) :
    EngineOnly s (Machine.movePieces p c src dst all todo s).1 := by
  rw [movePieces_fold]
  refine foldl_add (fun t i => ?_) todo _
  unfold movePiece
  split
  · dsimp only
    split
    · exact (touched _ _ _).trans (coreRead _ _ _ _)
    · exact (((touched _ _ _).trans (coreRead _ _ _ _)).trans (coreWrite _ _ _ _)).trans (touched _ _ _)
  · exact refl t
  · exact refl t

theorem storePieces (p : Nat) (c : Context) (r : TRec) (img : Image) (all todo : List Nat) (s : State) :
    EngineOnly s (Machine.storePieces p c r img all todo s).1 := by
  rw [storePieces_fold]
  refine foldl_add (fun t i => ?_) todo _
  unfold storePiece
  split
  · dsimp only
    split
    · exact refl t
    · exact (coreWrite _ _ _ _).trans (touched _ _ _)
  · exact refl t

/-- A side read from its record, and bounded. -/
theorem bounded {s t : State} {p : Nat} {c : Context} {bad : Bool} {va : VA} {P : TRec → Prop} [DecidablePred P] {e : TRec → AccErr}
    {f : TRec → Side × Side} {x : Side × Side}
    (h : (match Machine.readRec s (some p) c bad va with
      | .error e => .error e
      | .ok (s1, r) => if P r then .error (e r) else .ok (s1, f r)) = Except.ok (t, x)) : EngineOnly s t := by
  split at h
  · simp at h
  · next h1 =>
    split at h
    · simp at h
    · obtain rfl := (Prod.mk.inj (Except.ok.inj h)).1
      exact readRec h1

theorem copySides {s t : State} {w : Wave} {c : Context} {args : List Nat} {a b : Side}
    (h : Machine.copySides s w c args = .ok (t, a, b)) : EngineOnly s t := by
  unfold Machine.copySides at h
  dsimp only at h
  split at h
  · split at h
    · simp at h
    · next h1 =>
      split at h
      · simp at h
      · next h2 =>
        split at h
        · obtain rfl := (Prod.mk.inj (Except.ok.inj h)).1
          exact (readRec h1).trans (readRec h2)
        · simp at h
  · exact bounded h
  · exact bounded h
  · exact bounded h
  · simp at h

end EngineOnly

/-! How an engine's operation ends. -/

/-- The operation ends with memory and shares as `S` has them: its lane complete, or faulted with the first failure and the pieces
left kept. -/
def EngineEnds (s s' S : State) (u seq l : Nat) (w : Wave) (left : List Nat) (err : Option AccErr) : Prop :=
  s'.mem = S.mem ∧ s'.grids = S.grids ∧ (∀ v, v ≠ u → assocGet s'.waves v = assocGet s.waves v) ∧
  ∃ w', assocGet s'.waves u = some w' ∧ w'.regs = w.regs ∧ w'.frags = w.frags ∧
    (err = none → LaneDone w' seq l) ∧
    ∀ ca t p, err = some (ca, t, p) → ∃ e', w'.entries.find? (·.seq == seq) = some e' ∧ e'.rest = some left ∧
      assocGet e'.lanes l = some (.faulted ca t p)

/-- The entries numbered `seq` with the pieces left, and the ranges written. -/
def leftEntry (seq : Nat) (left : List Nat) (wr : List (Nat × Nat)) (e : Entry) : Entry :=
  if e.seq = seq then { e with rest := some left, wrote := e.wrote ++ wr } else e

theorem find_leftEntry {seq : Nat} {left : List Nat} {wr : List (Nat × Nat)} {es : List Entry} {e : Entry}
    (h : es.find? (·.seq == seq) = some e) :
    (es.map (leftEntry seq left wr)).find? (·.seq == seq) = some { e with rest := some left, wrote := e.wrote ++ wr } := by
  have hp : ((·.seq == seq) ∘ leftEntry seq left wr : Entry → Bool) = (·.seq == seq) := funext fun x => by
    unfold leftEntry
    dsimp only [Function.comp]
    split <;> rfl
  rw [List.find?_map, hp, h]
  have hs : e.seq = seq := by simpa using List.find?_some h
  exact congrArg some (if_pos hs)

theorem fillSlot_frame (s : State) (rk i : Nat) : (fillSlot s rk i).waves = s.waves ∧ (fillSlot s rk i).mem = s.mem ∧
    (fillSlot s rk i).grids = s.grids := by
  unfold fillSlot
  split <;> exact ⟨rfl, rfl, rfl⟩

theorem fillSlot_slots {s : State} {rk i : Nat} {r : Ring} (h : getRing s rk = some r) :
    ∃ r', getRing (fillSlot s rk i) rk = some r' ∧ r'.slots = r.slots.set i .filled := by
  unfold fillSlot
  rw [h]
  exact ⟨_, getRing_set _ h, listMod_const _ _ _⟩

/-- The slot of an operation that completes. -/
def slotFilled (s : State) (slot : Option (Nat × Nat)) : State := match slot with | some (rk, i) => fillSlot s rk i | none => s

theorem slotFilled_frame (s : State) (slot : Option (Nat × Nat)) : (slotFilled s slot).waves = s.waves ∧
    (slotFilled s slot).mem = s.mem ∧ (slotFilled s slot).grids = s.grids := by
  unfold slotFilled
  split
  · exact fillSlot_frame _ _ _
  · exact ⟨rfl, rfl, rfl⟩

theorem endCopy_complete (s : State) (u seq l : Nat) (slot : Option (Nat × Nat)) (left : List Nat) (wr : List (Nat × Nat)) :
    endCopy s u seq l slot left wr none = modWave (slotFilled s slot) u (Wave.laneSet seq l .done) :=
  setLane_eq _ _ _ _ fun _ => rfl

section
variable {s S : State} {u seq l : Nat} {w : Wave} {e : Entry} {c : Context} (slot : Option (Nat × Nat)) (left : List Nat)
  (wr : List (Nat × Nat)) (hS : S.waves = s.waves ∧ S.ctxs = s.ctxs) (hw : assocGet s.waves u = some w)
  (he : w.entries.find? (·.seq == seq) = some e) (hc : assocGet s.ctxs w.ctx = some c)
include hS hw he hc

theorem endCopy_ends {err : Option AccErr} (hwalk : ∀ va, walk S c va ≠ .outside) :
    EngineEnds s (bumpFree (endCopy S u seq l slot left wr err)) S u seq l w left err := by
  obtain ⟨hwaves, hctxs⟩ := hS
  have hwS : assocGet S.waves u = some w := hwaves ▸ hw
  cases err with
  | none =>
    obtain ⟨hfw, hfm, hfg⟩ := slotFilled_frame S slot
    rw [endCopy_complete]
    refine ⟨hfm, hfg, fun v hv => ?_, _, modWave_get (Wave.laneSet seq l .done) (hfw ▸ hwS), rfl, rfl, fun _ => laneSet_done _ _ _,
      fun ca t p h => by simp at h⟩
    exact (modWave_get_other _ _ _ hv).trans (by rw [hfw, hwaves])
  | some x =>
    obtain ⟨ca, t, p⟩ := x
    have hm : assocGet (modEntry S u seq fun e => { e with rest := some left, wrote := e.wrote ++ wr }).waves u =
        some { w with entries := w.entries.map (leftEntry seq left wr) } :=
      modWave_get (fun w => { w with entries := w.entries.map (leftEntry seq left wr) }) hwS
    have hstand : (LaneSt.faulted ca t p).walked (modEntry S u seq fun e => { e with rest := some left, wrote := e.wrote ++ wr }) w.ctx =
        modEntry S u seq fun e => { e with rest := some left, wrote := e.wrote ++ wr } :=
      walked_stands (s := modEntry S u seq fun e => { e with rest := some left, wrote := e.wrote ++ wr })
        (show assocGet S.ctxs w.ctx = some c from hctxs ▸ hc) hwalk _
    have hset : endCopy S u seq l slot left wr (some (ca, t, p)) = modWave (modEntry S u seq fun e =>
        { e with rest := some left, wrote := e.wrote ++ wr }) u (Wave.laneSet seq l (.faulted ca t p)) := setLane_wave hm hstand
    rw [hset]
    refine ⟨rfl, rfl, fun v hv => ?_, _, modWave_get (Wave.laneSet seq l (.faulted ca t p)) hm, rfl, rfl, fun h => by simp at h,
      fun ca' t' p' h => ?_⟩
    · refine (modWave_get_other _ _ _ hv).trans ((modWave_get_other _ _ _ hv).trans ?_)
      rw [hwaves]
    · obtain ⟨rfl, rfl, rfl⟩ : ca = ca' ∧ t = t' ∧ p = p' := by simpa using h
      exact ⟨_, laneSet_entry (find_leftEntry he) (by simp), rfl, assocGet_set_same _ _ _⟩

end

/-! The events. -/

section
variable {s : State} {u seq l : Nat} {w : Wave} {e : Entry} {c : Context} {args : List Nat}
  (hf : findEntry s u seq = some (w, e, c)) (hl : engineLane e = some (l, args))
include hf hl

theorem copyEnd_held (h : copyHeld s c e args = true) : copyEnd s u seq = none := by
  unfold copyEnd
  rw [hf]
  dsimp only
  rw [hl]
  exact if_pos h

variable (h : copyHeld s c e args = false)
include h

/-- What the operation comes to once its peers' answers are there. -/
def engineRun (s : State) (u : Nat) (w : Wave) (e : Entry) (c : Context) (l : Nat) (args : List Nat) : Option State :=
  match e.instr with
  | .copy _ _ _ => some (runCopy s u w e c l args)
  | .copyS _ _ _ => some (runCopy s u w e c l args)
  | .copyG _ _ _ => some (runCopy s u w e c l args)
  | .copyR _ _ _ => some (runCopy s u w e c l args)
  | .stq _ _ _ _ => some (runStq s u w e c l args)
  | _ => none

theorem copyEnd_asks : copyEnd s u seq = asking s u e c l (engRanges s c e.instr e.rest args) (engineRun s u w e c l args) := by
  unfold copyEnd
  rw [hf]
  dsimp only
  rw [hl]
  exact if_neg (by rw [h]; simp)

end

/-! A copy. -/

section
variable {s s1 s2 : State} {u l : Nat} {w : Wave} {e : Entry} {c : Context} {args left : List Nat} {a b : Side} {err : Option AccErr}
  (hsides : copySides s w c args = .ok (s1, a, b))
  (hmove : movePieces w.core c a b (e.rest.getD (List.range a.count)) (e.rest.getD (List.range a.count)) s1 = (s2, left, err))
include hsides hmove

theorem runCopy_eq : runCopy s u w e c l args = endCopy s2 u e.seq l (e.slot.map fun x => (x.1, x.2.1)) left
    (b.wrote (e.rest.getD (List.range a.count)) left) err := by
  unfold runCopy
  rw [hsides]
  dsimp only
  rw [hmove]

theorem copy_engineOnly : EngineOnly s s2 := by
  have h := EngineOnly.movePieces w.core c a b (e.rest.getD (List.range a.count)) (e.rest.getD (List.range a.count)) s1
  rw [hmove] at h
  exact (EngineOnly.copySides hsides).trans h

/-- A copy ends with its pieces moved, and its slot filled where none is left. -/
theorem runCopy_ends (hw : assocGet s.waves u = some w) (he : w.entries.find? (·.seq == e.seq) = some e)
    (hc : assocGet s.ctxs w.ctx = some c) (hwalk : ∀ va, walk s2 c va ≠ .outside) :
    EngineEnds s (bumpFree (runCopy s u w e c l args)) s2 u e.seq l w left err ∧
      ∀ rk i z r, err = none → e.slot = some (rk, i, z) → getRing s2 rk = some r → i < r.slots.length →
        ∃ r', getRing (bumpFree (runCopy s u w e c l args)) rk = some r' ∧ r'.slots = r.slots.set i .filled := by
  obtain ⟨hwaves, hctxs, -⟩ := (copy_engineOnly hsides hmove).frame
  rw [runCopy_eq hsides hmove]
  refine ⟨endCopy_ends _ _ _ ⟨hwaves, hctxs⟩ hw he hc hwalk, fun rk i z r herr hslot hr _ => ?_⟩
  rw [herr, hslot, endCopy_complete]
  exact fillSlot_slots hr

end

/-! `STQ`. -/

/-- A bank with a queue that holds an entry is there. -/
theorem bank_of_queue {s : State} {bk y q id : Nat} {x : ResEntry}
    (h : ((getArray s bk y).queue q).find? (·.id == id) = some x) : ∃ b, assocGet s.banks bk = some b := by
  cases hb : assocGet s.banks bk with
  | some b => exact ⟨b, rfl⟩
  | none =>
    unfold getArray at h
    rw [hb] at h
    simp [MArray.queue, MArray.empty] at h

/-- A freed entry is gone. -/
theorem dropEntry_gone {s : State} {bk y q id : Nat} {b : Bank} (hb : assocGet s.banks bk = some b) :
    ∀ z ∈ (getArray (dropEntry s bk y q id) bk y).queue q, z.id ≠ id := by
  intro z hz
  have hg : getArray (dropEntry s bk y q id) bk y = (getArray s bk y).modQueue q fun es => es.filter (·.id != id) :=
    getArray_set hb y _
  rw [hg] at hz
  unfold MArray.modQueue MArray.queue at hz
  dsimp only at hz
  rw [assocGet_set_same] at hz
  simpa using (List.mem_filter.1 hz).2

section
variable {s s1 s2 : State} {u l y q id bad va : Nat} {w : Wave} {e : Entry} {c : Context} {left : List Nat} {r : TRec} {x : ResEntry}
  {err : Option AccErr}
  (hrec : readRec s (some w.core) c (bad == 1) (BitVec.ofNat 80 va) = .ok (s1, r))
  (hx : ((getArray s (bankKey w) y).queue q).find? (·.id == id) = some x)
  (hmove : storePieces w.core c r x.img (e.rest.getD (List.range 16384)) (e.rest.getD (List.range 16384)) s1 = (s2, left, err))
include hrec hx hmove

/-- The state with the entry freed, where every element has been stored. -/
def entryFreed (s : State) (bk y q id : Nat) (err : Option AccErr) : State := if err.isNone then dropEntry s bk y q id else s

theorem runStq_eq (hfmt : r.fmt = x.fmt.code) (hrank : 2 ≤ r.rank) (hdims : r.dims = [128, 128, 1, 1]) :
    runStq s u w e c l [y, q, id, bad, va] = endCopy (entryFreed s2 (bankKey w) y q id err) u e.seq l none left [] err := by
  unfold runStq
  dsimp only
  rw [hrec, hx]
  dsimp only
  rw [if_neg (by simp [hfmt, hdims]; omega), hmove]
  rfl

omit hx in
theorem stq_engineOnly : EngineOnly s s2 := by
  have h := EngineOnly.storePieces w.core c r x.img (e.rest.getD (List.range 16384)) (e.rest.getD (List.range 16384)) s1
  rw [hmove] at h
  exact (EngineOnly.readRec hrec).trans h

/-- `STQ` ends with its elements stored, and its entry freed where none is left. -/
theorem runStq_ends (hw : assocGet s.waves u = some w) (he : w.entries.find? (·.seq == e.seq) = some e)
    (hc : assocGet s.ctxs w.ctx = some c) (hwalk : ∀ va, walk s2 c va ≠ .outside) (hfmt : r.fmt = x.fmt.code) (hrank : 2 ≤ r.rank)
    (hdims : r.dims = [128, 128, 1, 1]) :
    EngineEnds s (bumpFree (runStq s u w e c l [y, q, id, bad, va])) s2 u e.seq l w left err ∧
      (err = none → ∀ z ∈ (getArray (bumpFree (runStq s u w e c l [y, q, id, bad, va])) (bankKey w) y).queue q, z.id ≠ id) := by
  obtain ⟨hwaves, hctxs, hbanks⟩ := (stq_engineOnly hrec hmove).frame
  rw [runStq_eq hrec hx hmove hfmt hrank hdims]
  cases err with
  | some f => exact ⟨endCopy_ends (S := s2) none left [] ⟨hwaves, hctxs⟩ hw he hc hwalk, fun h => by simp at h⟩
  | none =>
    obtain ⟨b, hb⟩ := bank_of_queue hx
    refine ⟨endCopy_ends (S := dropEntry s2 (bankKey w) y q id) none left [] ⟨hwaves, hctxs⟩ hw he hc hwalk, fun _ => ?_⟩
    rw [endCopy_complete]
    exact dropEntry_gone (s := s2) (hbanks ▸ hb)

end

/-- Settles O41: events by `copyEnd_asks`, their ends by `runCopy_ends` and `runStq_ends`, one piece by `piece_moves` and `piece_stored`. -/
theorem copiesMoveTheirPieces : Obligations.CopiesMoveTheirPieces := by
  unfold Obligations.CopiesMoveTheirPieces
  refine ⟨fun s u seq w e c l args hf hl => ⟨fun h => congrArg (evStep s) (copyEnd_held hf hl h), fun h => ⟨fun hwait => ?_,
    fun hmine hasks hsend => ?_⟩, fun h hans => ⟨fun s1 a b s2 left err hi hsides hmove hwalk => ?_,
      fun y q id bad va s1 r x s2 left err hi hargs hrec hx hfmt hrank hdims hmove hwalk => ?_⟩⟩,
    fun r x y z v hx hy hz hv => element_place hy hz hv hx, fun r b y z v _ hb hy hz hv => scale_place hy hz hb,
    fun p c src dst all l1 l2 s => ?_, fun _ _ _ _ _ => rfl, fun _ _ _ _ _ _ _ _ => rfl,
    fun p c src dst all i s => ⟨fun e h => ?_, fun l n h => ⟨fun e h' => ?_, fun l' n' h' hsh hno => piece_moves h h' hsh hno⟩⟩,
    fun p c r img all l1 l2 s => ?_, fun p c r img all i s pa leaf n h hsh hwf => piece_stored img h hsh hwf,
    readPieces_succ, writePieces_append⟩
  · exact congrArg (evStep s) ((copyEnd_asks hf hl h).trans (asking_waits _ hwait))
  · obtain ⟨hw, he, -, rfl⟩ := findEntry_spec hf
    obtain ⟨hub, hs⟩ := sendAsks_eq s u e.seq (asksOf s c l (engRanges s c e.instr e.rest args))
    refine ⟨_, congrArg (evStep s) ((copyEnd_asks hf hl h).trans (asking_sends _ hmine hasks hsend)), ?_⟩
    rw [hs]
    exact ⟨⟨fun _ => rfl, rfl⟩, _, modWave_get (s := { s with hub := hub })
      (fun w => { w with entries := w.entries.map (askedEntry e.seq (asksOf s c l (engRanges s c e.instr e.rest args))) }) hw, rfl,
      find_askedEntry he⟩
  · obtain ⟨hw, he, hc, rfl⟩ := findEntry_spec hf
    have hrun : copyEnd s u e.seq = some (runCopy s u w e c l args) := by
      rw [copyEnd_asks hf hl h, asking_answered hans]
      unfold engineRun
      obtain ⟨g, x, y, hi | hi | hi⟩ | ⟨g, j, x, hi⟩ := hi <;> rw [hi]
    exact ⟨_, congrArg (evStep s) hrun, runCopy_ends hsides hmove hw he hc hwalk⟩
  · obtain ⟨hw, he, hc, rfl⟩ := findEntry_spec hf
    obtain ⟨g, arr, p, a, hi⟩ := hi
    have hrun : copyEnd s u e.seq = some (runStq s u w e c l args) := by
      rw [copyEnd_asks hf hl h, asking_answered hans]
      unfold engineRun
      rw [hi]
    rw [hargs] at hrun
    exact ⟨_, congrArg (evStep s) hrun, runStq_ends hrec hx hmove hw he hc hwalk hfmt hrank hdims⟩
  · simp only [movePieces_fold]
    exact foldl_add_append _ l1 l2 s
  · rw [movePieces_one]
    exact movePiece_noSource h
  · rw [movePieces_one]
    exact movePiece_noTarget h h'
  · simp only [storePieces_fold]
    exact foldl_add_append _ l1 l2 s

end Sys2Proof.Machine
end

section
/-!
SUPPORT. Records handed over at a reassignment (10 R254). Each replaces the requests of its lane; where an entry lists one lane twice
the second record's request replaces the first's, with O49.
-/

namespace Sys2Proof.Machine

/-- A stream between partners: records of 64 bytes from offset 128 of an area of 8. -/
def twiceStream : Stream :=
  ⟨0, .reassigning, 1, 0, 0, 8, 0, 1, [], 0, 0, 0, 3, 0, 0, 0, 0, 0, 0, 0, 0⟩

/-- An entry that lists lane 0 twice, with records 0 and 2. -/
def twiceEntry : Entry :=
  ⟨0, 0, 0, .jrnl 0 0 0 0, 1, 0, [(0, .inflight (.journal 0 0 none) 0), (0, .inflight (.journal 0 2 none) 0)], [], 0, none, none, none,
    [], [], []⟩

/-- The standby peer 2 is reached by two ports, which take turns every 128 bytes, so the two records leave on different ones. -/
def twiceState : State :=
  { State.reset with
    hub := { State.reset.hub with streams := [(0, twiceStream)], standby := [2], peers := [(2, ⟨[0, 1], []⟩)] }
    waves := [(0, { Wave.start 0 512 0 ⟨none, 0⟩ 32 0 0 0 0 false false 0 1 0 0 with entries := [twiceEntry] })] }

/-- The first entry numbered 0 of wave 0 lists the request of record 0. -/
def twiceAsks (s : State) : Bool :=
  match exec (.streamReassignment 0 []) s with
  | .next t => (assocGet t.waves 0).any fun w => (w.entries.find? (·.seq == 0)).any fun e => e.asks.contains ⟨0, 1, 0, 0, 2, false⟩
  | _ => false

/-- Only that of record 2 stands. -/
theorem twice_asks : twiceAsks twiceState = false := by decide +kernel

/-- Were the obligation to hold, the first record's request would stand. -/
theorem twiceAsks_of_journalMovesOn (h : Obligations.JournalMovesOn) : twiceAsks twiceState = true := by
  obtain ⟨-, -, -, hre, -⟩ := h
  obtain ⟨t, ht, -, -, hall⟩ := (hre twiceState 0 twiceStream [] rfl rfl).1 2 (by decide +kernel)
  obtain ⟨w', e', hw, he, -, hask⟩ := hall 0 _ twiceEntry 0 0 none 0 1 rfl rfl rfl (by decide +kernel)
  unfold twiceAsks
  rw [ht]
  dsimp only
  have he' : w'.entries.find? (·.seq == 0) = some e' := he
  rw [hw, Option.any_some, he', Option.any_some]
  exact List.contains_iff_mem.2 hask

/-- Refutes O49: in `twiceState` the reassignment hands over two records of one lane, and the request of the first is replaced. -/
theorem not_journalMovesOn : ¬ Obligations.JournalMovesOn := fun h =>
  Bool.false_ne_true (twice_asks.symm.trans (twiceAsks_of_journalMovesOn h))

end Sys2Proof.Machine
end

section
/-!
SUPPORT. The settled statement on packets: what a queue that stops, a control block's fields written and a grid begun
leave of a context's queues (06 R158; 11 R266 to R270).
-/

namespace Sys2Proof.Machine

/-! A context's queues through the device's work. -/

/-- Queue `q` of context `x` stands as `k`. -/
def HasQueue (s : State) (x q : Nat) (k : Queue) : Prop :=
  ∃ c, assocGet s.ctxs x = some c ∧ assocGet c.queues q = some k

/-- No packet of context `x` that waits to start names queue `q`. -/
def NoneWaits (s : State) (x q : Nat) : Prop :=
  ∃ c, assocGet s.ctxs x = some c ∧ ∀ o ∈ c.queues, ∀ p, o.2.run = some (p, none) → ∀ d ∈ p.deps, d.1 ≠ q

theorem HasQueue.context {s : State} {x q : Nat} {k : Queue} (h : HasQueue s x q k) : (assocGet s.ctxs x).isSome = true := by
  obtain ⟨c, hc, -⟩ := h
  rw [hc]; rfl

theorem NoneWaits.context {s : State} {x q : Nat} (h : NoneWaits s x q) : (assocGet s.ctxs x).isSome = true := by
  obtain ⟨c, hc, -⟩ := h
  rw [hc]; rfl

theorem HasQueue.of_work {s t : State} {x q : Nat} {k : Queue} (w : DeviceWork s t) (h : HasQueue s x q k) : HasQueue t x q k := by
  obtain ⟨c, hc, hq⟩ := h
  obtain ⟨c', hc', e⟩ := w.ctx x c hc
  exact ⟨c', hc', by rw [e]; exact hq⟩

theorem NoneWaits.of_work {s t : State} {x q : Nat} (w : DeviceWork s t) (h : NoneWaits s x q) : NoneWaits t x q := by
  obtain ⟨c, hc, hq⟩ := h
  obtain ⟨c', hc', e⟩ := w.ctx x c hc
  exact ⟨c', hc', by rw [e]; exact hq⟩

theorem modCtx_gets {s : State} {x : Nat} {c : Context} (f : Context → Context) (h : assocGet s.ctxs x = some c) :
    assocGet (modCtx s x f).ctxs x = some (f c) :=
  (assocGet_mod_same _ _ _).trans (by rw [h]; rfl)

theorem modQueue_has {s : State} {x q : Nat} {k : Queue} (f : Queue → Queue) (h : HasQueue s x q k) :
    HasQueue (modQueue s x q f) x q (f k) := by
  obtain ⟨c, hc, hq⟩ := h
  refine ⟨_, modCtx_gets _ hc, ?_⟩
  rw [show assocGet (assocMod c.queues q f) q = _ from assocGet_mod_same _ _ _, hq]; rfl

/-- A queue changed so that it gains no packet that waits. -/
theorem modQueue_noneWaits {s : State} {x q y : Nat} (f : Queue → Queue) (hf : ∀ k p, (f k).run = some (p, none) → k.run = some (p, none))
    (h : NoneWaits s x q) : NoneWaits (modQueue s x y f) x q := by
  obtain ⟨c, hc, hq⟩ := h
  refine ⟨_, modCtx_gets _ hc, fun o ho p hp => ?_⟩
  obtain ⟨a, ha, rfl⟩ := List.mem_map.1 ho
  refine hq a ha p ?_
  split at hp
  · exact hf _ _ hp
  · exact hp

/-! Queues that stop. -/

/-- A packet that waits is dropped by the stop, so what waits after it waited before. -/
theorem stoppedRun_waited {k : Queue} {p : Packet} (h : k.run.filter (·.2.isSome) = some (p, none)) : k.run = some (p, none) := by
  obtain ⟨hr, hp⟩ := Option.filter_eq_some_iff.1 h
  cases hp

theorem stopOne_noneWaits {s : State} {x q y st errc : Nat} {eseq : Word} (h : NoneWaits s x q) :
    NoneWaits (stopOne s x y st errc eseq).1 x q := by
  unfold stopOne
  split
  · exact h
  · split
    · exact h
    · refine .of_work (raiseIrq_work _ _ _) (modQueue_noneWaits _ ?_ (.of_work (qcbPut_work _ _ _ _) h))
      exact fun k p hp => stoppedRun_waited hp

theorem contextFault_noneWaits {s : State} {x q : Nat} (e : Cause) (h : NoneWaits s x q) : NoneWaits (contextFault s x e) x q := by
  have hstop : NoneWaits (stopAllQueues s x) x q := by
    unfold stopAllQueues
    split
    · exact h
    · exact List.foldlRecOn (motive := fun t => NoneWaits t x q) _ _ h fun t ht k _ => stopOne_noneWaits ht
  obtain ⟨c, hc, hq⟩ := hstop
  exact .of_work (writeCsb_work _ x) ⟨_, modCtx_gets (s := withdraw (stopAllQueues s x) x) _ hc, hq⟩

/-- With no packet that waits on a queue, its stop ends with the queue itself. -/
theorem stopWaiters_none {s : State} {x q : Nat} (fuel : Nat) (h : NoneWaits s x q) : stopWaiters s x q fuel = s := by
  obtain ⟨c, hc, hq⟩ := h
  have hnone : waitersOn c q = [] := by
    refine List.filterMap_eq_nil_iff.2 fun o ho => ?_
    split
    · rename_i p hp
      rw [if_neg]
      intro hany
      obtain ⟨d, hd, hdq⟩ := List.any_eq_true.1 hany
      exact hq o ho p hp d hd (by simpa using (Bool.and_eq_true_iff.1 hdq).1)
    · rfl
  cases fuel with
  | zero => rfl
  | succ n =>
    unfold stopWaiters
    rw [hc]
    simp only [hnone, List.foldl_nil]

theorem stopOne_eq {s : State} {x q : Nat} {k : Queue} (h : HasQueue s x q k) (st errc : Nat) (eseq : Word) :
    stopOne s x q st errc eseq =
      (raiseIrq (modQueue (qcbPut s x k.qcb [(11, 1, st), (12, 4, errc), (32, 4, eseq.toNat)]).1 x q fun k =>
        { k with state := st, run := k.run.filter (·.2.isSome) }) x q,
       (qcbPut s x k.qcb [(11, 1, st), (12, 4, errc), (32, 4, eseq.toNat)]).2) := by
  obtain ⟨c, hc, hq⟩ := h
  unfold stopOne
  rw [hc]
  dsimp only
  rw [hq]

/-- A queue that no waiting packet names stops by itself, its record written. -/
theorem stopQueue_ends {s t : State} {x q st errc : Nat} {eseq : Word} {k : Queue} (h : HasQueue s x q k) (hw : NoneWaits s x q)
    (ht : qcbPut s x k.qcb [(11, 1, st), (12, 4, errc), (32, 4, eseq.toNat)] = (t, none)) :
    (stopQueue s x q st errc eseq).mem = t.mem ∧
      HasQueue (stopQueue s x q st errc eseq) x q { k with state := st, run := k.run.filter (·.2.isSome) } := by
  have hone := stopOne_eq h st errc eseq
  have hnone := stopOne_noneWaits (y := q) (st := st) (errc := errc) (eseq := eseq) hw
  have hwork := qcbPut_work s x k.qcb [(11, 1, st), (12, 4, errc), (32, 4, eseq.toNat)]
  rw [ht] at hone hwork
  rw [hone] at hnone
  unfold stopQueue stopChecked
  rw [hone]
  dsimp only
  rw [stopWaiters_none _ hnone]
  exact ⟨rfl, .of_work (raiseIrq_work _ _ _) (modQueue_has _ (.of_work hwork h))⟩

/-- A stop whose record cannot be written faults the context. -/
theorem stopQueue_faults {s t : State} {x q st errc : Nat} {eseq : Word} {k : Queue} {f : Cause} (h : HasQueue s x q k)
    (hw : NoneWaits s x q) (ht : qcbPut s x k.qcb [(11, 1, st), (12, 4, errc), (32, 4, eseq.toNat)] = (t, some f)) :
    ContextFaulted (stopQueue s x q st errc eseq) x f := by
  have hone := stopOne_eq h st errc eseq
  have hnone := stopOne_noneWaits (y := q) (st := st) (errc := errc) (eseq := eseq) hw
  rw [ht] at hone
  rw [hone] at hnone
  unfold stopQueue stopChecked
  rw [hone]
  dsimp only
  rw [stopWaiters_none _ (contextFault_noneWaits f hnone)]
  exact (contextFault_faults f hnone.context).2

/-! Fields of the control block. -/

theorem qcbSet_work {s t : State} {x : Nat} {qcb : VA} {fs : List (Nat × Nat × Nat)} (h : qcbSet s x qcb fs = .ok t) :
    DeviceWork s t := by
  obtain ⟨s', hs, hw⟩ := foldl_except_work (fun _ _ => rfl) (fun _ _ _ ht => devWrite_work _ ht) fs h
  cases hs
  exact hw

theorem qcbThen_written {s t : State} {x : Nat} {qcb : VA} {fs : List (Nat × Nat × Nat)} (h : qcbSet s x qcb fs = .ok t)
    (f g : State → State) : qcbThen s x qcb fs f g = f t := by
  unfold qcbThen
  rw [h]

theorem qcbThen_faults {s : State} {x : Nat} {qcb : VA} {fs : List (Nat × Nat × Nat)} {e : Cause} (h : qcbSet s x qcb fs = .error e)
    (f : State → State) {g : State → State} (hg : (assocGet (g s).ctxs x).isSome = true) :
    ContextFaulted (qcbThen s x qcb fs f g) x e := by
  unfold qcbThen
  rw [h]
  exact (contextFault_faults e hg).2

theorem ContextFaulted.of_work {s t : State} {x : Nat} {e : Cause} (w : DeviceWork s t) (h : ContextFaulted s x e) :
    ContextFaulted t x e := by
  obtain ⟨c, hc, h1, h2, h3⟩ := h
  obtain ⟨c', hc', e⟩ := w.ctx x c hc
  exact ⟨c', hc', by rw [e]; exact h1, by rw [e]; exact h2, by rw [e]; exact h3⟩

/-! A packet that completes. -/

/-- Queue `q`, which stood as `k`, free of the packet `p` that has completed. -/
def freeQueue (x q : Nat) (k : Queue) (p : Packet) (s : State) : State :=
  modQueue s x q fun o => { o with run := none, cseq := p.seq, state := if k.state ≤ 2 then 0 else k.state }

/-- The fields of the control block written when packet `p` completes. -/
def completionFields (k : Queue) (p : Packet) : List (Nat × Nat × Nat) :=
  (20, 4, p.seq.toNat) :: if k.state ≤ 2 then [(11, 1, 0)] else []

theorem completePacket_eq {s : State} {x q : Nat} {k : Queue} (p : Packet) (h : HasQueue s x q k) :
    completePacket s x q p =
      let t := qcbThen s x k.qcb (completionFields k p) (freeQueue x q k p) (freeQueue x q k p)
      if p.irq then raiseIrq t x q else t := by
  obtain ⟨c, hc, hq⟩ := h
  have hfields : (20, 4, p.seq.toNat) :: (if k.state ≤ 2 then [(11, 1, if k.state ≤ 2 then 0 else k.state)] else []) =
      completionFields k p := by
    unfold completionFields
    split <;> rfl
  unfold completePacket
  rw [hc, Option.bind_some, hq]
  dsimp only
  rw [hfields]
  rfl

/-- The interrupt of a completed packet is the device's work. -/
theorem irq_work (b : Bool) (s : State) (x q : Nat) : DeviceWork s (if b then raiseIrq s x q else s) := by
  split
  · exact raiseIrq_work _ _ _
  · exact .refl s

theorem completePacket_frees {s t : State} {x q : Nat} {k : Queue} {p : Packet} (h : HasQueue s x q k)
    (ht : qcbSet s x k.qcb (completionFields k p) = .ok t) : (completePacket s x q p).mem = t.mem ∧
      HasQueue (completePacket s x q p) x q { k with run := none, cseq := p.seq, state := if k.state ≤ 2 then 0 else k.state } := by
  rw [completePacket_eq p h, qcbThen_written ht]
  refine ⟨by dsimp only; split <;> rfl, .of_work (irq_work _ _ _ _) (modQueue_has _ (.of_work (qcbSet_work ht) h))⟩

theorem completePacket_faults {s : State} {x q : Nat} {k : Queue} {p : Packet} {f : Cause} (h : HasQueue s x q k)
    (hf : qcbSet s x k.qcb (completionFields k p) = .error f) : ContextFaulted (completePacket s x q p) x f := by
  rw [completePacket_eq p h]
  exact .of_work (irq_work _ _ _ _) (qcbThen_faults hf _ (modQueue_has _ h).context)

/-! A grid that begins. -/

theorem mem_dieOrder (ds : List Nat) (home : Option Nat) (d : Nat) : d ∈ dieOrder ds home ↔ d ∈ ds := by
  unfold dieOrder
  split
  · split
    · rename_i h _
      rw [List.mem_append, List.mem_filter, List.mem_filter]
      by_cases hd : h ≤ d
      · simp [hd]
      · simp [hd, Nat.lt_of_not_le hd]
    · rfl
  · rfl

theorem mem_named (p : Packet) (d : Nat) : d ∈ p.named ↔ d < 18 ∧ p.dmask.getLsbD d = true := by
  rw [Packet.named, List.mem_filter, List.mem_range]

/-- The grid of a packet that starts stands on its named dies, each with a place in the launch order. -/
theorem startGrid_begins {s : State} {x q : Nat} {k : Queue} (c : Context) (p : Packet) (h : HasQueue s x q k) :
    HasQueue (startGrid s x q c p) x q { k with run := some (p, some p.num), state := 1 } ∧
      ∃ gr, assocGet (startGrid s x q c p).grids p.num = some gr ∧ gr.pkt = p ∧ gr.ctx = x ∧ gr.det = p.det ∧
        (∀ d, d ∈ gr.dies ↔ d < 18 ∧ p.dmask.getLsbD d = true) ∧ gr.next.length = gr.dies.length := by
  refine ⟨modQueue_has _ h, _, assocGet_set_same _ _ _, rfl, rfl, rfl, fun d => ?_, ?_⟩
  · exact (mem_dieOrder _ _ d).trans (mem_named p d)
  · simp

/-! The slot a queue's read index names. -/

/-- What becomes of the packet `p` read as `bs` from a ring of `n` slots (11 R267). -/
def takePacket (s : State) (x q : Nat) (c : Context) (k : Queue) (n : Nat) (p : Packet) (bs : List Byte) : State :=
  if p.seq ≠ k.rseq then
    if p.seq = k.rseq + BitVec.ofNat 32 n then stopQueue s x q 4 1 k.rseq else stopQueue s x q 3 2 k.rseq
  else match packetErr s c bs p with
    | some e => stopQueue s x q 3 e k.rseq
    | none => acceptPacket s x q k p

section
variable {s : State} {x q : Nat} {c : Context} {k : Queue} (hc : assocGet s.ctxs x = some c) (hq : assocGet c.queues q = some k)
  (hh : s.hub.halted = false) (hrun : k.run = none) (hst : k.state ≤ 1) (hw : k.widx ≠ k.ridx)
include hc hq hh hrun hst hw

theorem readPacket_unread {f : Cause} (hf : devRead s x k.qcb.toNat 11 none = .error f) :
    readPacket s x q = some (contextFault s x f) := by
  unfold readPacket
  simp [hc, hq, hh, hrun, hw, hf, Nat.not_lt.2 hst]

variable {s1 : State} {h : List Byte} (hd : devRead s x k.qcb.toNat 11 none = .ok (s1, h))
include hd

theorem readPacket_overrun (hn : 2 ^ fieldAt h 10 1 < (k.widx - k.ridx).toNat) :
    readPacket s x q = some (stopQueue s1 x q 4 1 k.rseq) := by
  unfold readPacket
  simp only [hc, hq, hh, hrun, hd, if_pos hn]
  simp [hw, hst]

theorem readPacket_slotUnread {f : Cause} (hn : (k.widx - k.ridx).toNat ≤ 2 ^ fieldAt h 10 1)
    (hf : devRead s1 x ((fieldAt h 0 10 + 128 * (k.ridx.toNat % 2 ^ fieldAt h 10 1)) % 2 ^ 80) 128 none = .error f) :
    readPacket s x q = some (contextFault s1 x f) := by
  unfold readPacket
  simp only [hc, hq, hh, hrun, hd, if_neg (Nat.not_lt.2 hn), hf]
  simp [hw, hst]

theorem readPacket_slotRead {s2 : State} {bs : List Byte} (hn : (k.widx - k.ridx).toNat ≤ 2 ^ fieldAt h 10 1)
    (hs : devRead s1 x ((fieldAt h 0 10 + 128 * (k.ridx.toNat % 2 ^ fieldAt h 10 1)) % 2 ^ 80) 128 none = .ok (s2, bs)) :
    readPacket s x q = some (takePacket s2 x q c k (2 ^ fieldAt h 10 1) (parsePacket s.nextGrid bs) bs) := by
  unfold readPacket takePacket
  simp only [hc, hq, hh, hrun, hd, if_neg (Nat.not_lt.2 hn), hs]
  rw [if_neg (by simp [hw, hst])]
  split
  · split <;> rfl
  · cases packetErr s2 c bs (parsePacket s.nextGrid bs) <;> rfl

end

/-! Accepted packets that start. -/

theorem accepts_eq (s : State) (x q : Nat) (k : Queue) (p : Packet) :
    acceptPacket s x q k p =
      qcbThen s x k.qcb [(28, 4, (k.ridx + 1).toNat), (16, 4, (k.rseq + 1).toNat), (11, 1, if p.deps = [] then 1 else 2)]
        (fun s => modQueue { s with nextGrid := s.nextGrid + 1, hub := { s.hub with lineCopies := [] } } x q fun k =>
          { k with ridx := k.ridx + 1, rseq := k.rseq + 1, state := if p.deps = [] then 1 else 2, run := some (p, none) }) id := by
  unfold acceptPacket
  simp only [List.isEmpty_iff]

section
variable {s : State} {x q : Nat} {c : Context} {k : Queue} {p : Packet} (hc : assocGet s.ctxs x = some c)
  (hq : assocGet c.queues q = some k) (hh : s.hub.halted = false) (hrun : k.run = some (p, none)) (hst : k.state ≤ 2)
include hc hq hh hrun hst

theorem startPacket_stops {d : Nat × Word} {o : Queue} (hd : d ∈ p.deps) (hmet : depMet c d = false)
    (ho : assocGet c.queues d.1 = some o) (hstop : 2 < o.state) : startPacket s x q = some (stopQueue s x q 3 12 p.seq) := by
  unfold startPacket
  simp only [hc, hq, hrun, hh]
  rw [if_neg (by simp [hst]), if_pos]
  exact List.any_eq_true.2 ⟨d, List.mem_filter.2 ⟨hd, by simp [hmet]⟩, by simp [ho, hstop]⟩

variable (hmet : ∀ d ∈ p.deps, depMet c d = true)
include hmet

theorem startPacket_starts : startPacket s x q = some (if p.kind = 2 then completePacket s x q p
    else qcbThen s x k.qcb (if k.state = 1 then [] else [(11, 1, 1)]) (fun t => startGrid t x q c p) id) := by
  have hun : (p.deps.filter fun d => !depMet c d) = [] := List.filter_eq_nil_iff.2 fun d hd => by simp [hmet d hd]
  unfold startPacket
  simp only [hc, hq, hrun, hh, hun]
  rw [if_neg (by simp [hst])]
  simp only [List.any_nil, List.isEmpty_nil, Bool.not_true, Bool.false_eq_true, if_false]
  split <;> rfl

end

/-! Grids that are gone. -/

theorem finishGrid_ends {s : State} {g : Nat} {gr : Grid} {k : Queue} (hg : assocGet s.grids g = some gr)
    (hh : s.hub.halted = false)
    (hall : ∀ j, j < gr.dies.length → groupStart gr.clusters gr.dies.length (j + 1) ≤ gr.next.getD j 0)
    (hwaves : ∀ e ∈ s.waves, e.2.grid ≠ g ∧ ∀ t ∈ e.2.threads, t.2.grid ≠ g)
    (hbanks : ∀ e ∈ s.banks, (∀ n ∈ e.2.bins, ∀ t ∈ n.2.threads, t.grid ≠ g) ∧ ∀ d ∈ e.2.segs, ∀ t ∈ d.2, t.grid ≠ g)
    (hk : HasQueue s gr.ctx gr.q k) (hrun : k.run = some (gr.pkt, some g)) :
    ∃ past, finishGrid s g = some
      { completePacket s gr.ctx gr.q gr.pkt with grids := assocDel (completePacket s gr.ctx gr.q gr.pkt).grids g, past := past } := by
  have hlaunched : (gr.discarded || (List.range gr.dies.length).all fun j =>
      decide (groupStart gr.clusters gr.dies.length (j + 1) ≤ gr.next.getD j 0)) = true := by
    rw [Bool.or_eq_true_iff, List.all_eq_true]
    exact .inr fun j hj => by simpa using hall j (List.mem_range.1 hj)
  have hkids : (s.banks.any fun b => b.2.bins.any (fun n => n.2.threads.any (·.grid == g)) ||
      b.2.segs.any fun d => d.2.any (·.grid == g)) = false := by
    refine List.any_eq_false.2 fun b hb => ?_
    obtain ⟨hbins, hsegs⟩ := hbanks b hb
    simp only [Bool.or_eq_true_iff, List.any_eq_true, beq_iff_eq]
    rintro (⟨n, hn, t, ht, e⟩ | ⟨d, hd, t, ht, e⟩)
    · exact hbins n hn t ht e
    · exact hsegs d hd t ht e
  have hjoined : (s.waves.any fun w => w.2.grid == g || w.2.threads.any fun t => t.2.grid == g) = false := by
    refine List.any_eq_false.2 fun w hw => ?_
    obtain ⟨hgrid, hthreads⟩ := hwaves w hw
    simp only [Bool.or_eq_true_iff, List.any_eq_true, beq_iff_eq]
    rintro (e | ⟨t, ht, e⟩)
    · exact hgrid e
    · exact hthreads t ht e
  obtain ⟨c, hc, hq⟩ := hk
  unfold finishGrid
  rw [hg]
  simp only [hlaunched, hkids, hjoined, hh, hc, Option.bind_some, hq, hrun]
  exact ⟨_, by simp; rfl⟩

/-! What the statement says of a queue. -/

section
variable {i : Instr} {s s0 : State} {o : Option State} {x q : Nat} {k : Queue} (he : exec i s = evStep s o)
include he

/-- An event whose queue stops. -/
theorem completes_stopQueue {st errc : Nat} {eseq : Word} (ho : o = some (stopQueue s0 x q st errc eseq)) (hk : HasQueue s0 x q k)
    (hw : NoneWaits s0 x q) (hrun : k.run.filter (·.2.isSome) = none) :
    (∀ t, qcbPut s0 x k.qcb [(11, 1, st), (12, 4, errc), (32, 4, eseq.toNat)] = (t, none) → Completes i s fun s' =>
      s'.mem = t.mem ∧ HasQueue s' x q { k with state := st, run := none }) ∧
    ∀ t f, qcbPut s0 x k.qcb [(11, 1, st), (12, 4, errc), (32, 4, eseq.toNat)] = (t, some f) →
      Completes i s fun t => ContextFaulted t x f := by
  refine ⟨fun t ht => ?_, fun t f ht => completes_evStep he ho (stopQueue_faults hk hw ht)⟩
  obtain ⟨hm, hq⟩ := stopQueue_ends hk hw ht
  rw [hrun] at hq
  exact completes_evStep he ho ⟨hm, hq⟩

/-- An event that writes fields of the control block and then does `f`. -/
theorem completes_qcbThen {fs : List (Nat × Nat × Nat)} {f : State → State} {P : State → Prop}
    (ho : o = some (qcbThen s0 x k.qcb fs f id)) (hk : HasQueue s0 x q k)
    (hf : ∀ t, HasQueue t x q k → (f t).mem = t.mem ∧ P (bumpFree (f t))) :
    (∀ t, qcbSet s0 x k.qcb fs = .ok t → Completes i s fun s' => s'.mem = t.mem ∧ P s') ∧
    ∀ e, qcbSet s0 x k.qcb fs = .error e → Completes i s fun t => ContextFaulted t x e := by
  refine ⟨fun t ht => completes_evStep he (by rw [ho, qcbThen_written ht]) (hf t (.of_work (qcbSet_work ht) hk)), fun e hf => ?_⟩
  exact completes_evStep he ho (qcbThen_faults hf _ hk.context)

end

/-- Settles O50: each event is the model's own outcome of its checks. A stop ends with the queue itself, since nothing waits on it. -/
theorem packetsStartAndComplete : Obligations.PacketsStartAndComplete := by
  unfold Obligations.PacketsStartAndComplete
  intro s x q c k hc hq hh queue faults wrote stops reads
  have hk : HasQueue s x q k := ⟨c, hc, hq⟩
  have hstops : ∀ {i : Instr} {s0 : State} {o : Option State} {st errc : Nat} {eseq : Word}, exec i s = evStep s o →
      o = some (stopQueue s0 x q st errc eseq) → DeviceWork s s0 → k.run.filter (·.2.isSome) = none → stops i s0 st errc eseq :=
    fun he ho hw hrun hnone => completes_stopQueue he ho (.of_work hw hk) (.of_work hw ⟨c, hc, hnone⟩) hrun
  refine ⟨fun hrun hst hw => ?_, fun p hrun hst => ?_, ?_⟩
  · have hfilter : k.run.filter (·.2.isSome) = none := by rw [hrun]; rfl
    refine ⟨fun f hf => completes_evStep rfl (readPacket_unread hc hq hh hrun hst hw hf) (contextFault_faults f hk.context).2,
      fun s1 h hd => ?_⟩
    have hwork := devRead_work _ hd
    refine ⟨fun hn => hstops rfl (readPacket_overrun hc hq hh hrun hst hw hd hn) hwork hfilter, fun hn => ?_⟩
    refine ⟨fun f hf => completes_evStep rfl (readPacket_slotUnread hc hq hh hrun hst hw hd hn hf)
      (contextFault_faults f (HasQueue.of_work hwork hk).context).2, fun s2 bs hs => ?_⟩
    have hread := readPacket_slotRead hc hq hh hrun hst hw hd hn hs
    have hwork := hwork.trans (devRead_work _ hs)
    refine ⟨fun hseq herr => ?_, fun e hseq herr => ?_, fun hseq hlap => ?_, fun hseq hlap => ?_⟩
    · rw [takePacket, if_neg (not_not.2 hseq), herr, accepts_eq] at hread
      exact completes_qcbThen rfl hread (.of_work hwork hk) fun t ht => ⟨rfl, modQueue_has _ ht⟩
    · rw [takePacket, if_neg (not_not.2 hseq), herr] at hread
      exact hstops rfl hread hwork hfilter
    · rw [takePacket, if_pos hseq, if_pos hlap] at hread
      exact hstops rfl hread hwork hfilter
    · rw [takePacket, if_pos hseq, if_neg hlap] at hread
      exact hstops rfl hread hwork hfilter
  · have hfilter : k.run.filter (·.2.isSome) = none := by rw [hrun]; rfl
    refine ⟨fun d o hd hmet ho hstop => ?_, fun hmet => ⟨fun hkind => ?_, fun hkind => ?_⟩⟩
    · exact hstops rfl (startPacket_stops hc hq hh hrun hst hd hmet ho hstop) (.refl s) hfilter
    · have hstart := startPacket_starts hc hq hh hrun hst hmet
      rw [if_pos hkind] at hstart
      have hfields : completionFields k p = [(20, 4, p.seq.toNat), (11, 1, 0)] := by rw [completionFields, if_pos hst]
      refine ⟨fun t ht => completes_evStep rfl hstart ?_, fun f hf => completes_evStep rfl hstart ?_⟩
      · obtain ⟨hm, hfree⟩ := completePacket_frees hk (hfields ▸ ht)
        rw [if_pos hst] at hfree
        exact ⟨hm, hfree⟩
      · exact completePacket_faults hk (hfields ▸ hf)
    · have hstart := startPacket_starts hc hq hh hrun hst hmet
      rw [if_neg (by omega)] at hstart
      exact completes_qcbThen rfl hstart hk fun t ht => ⟨rfl, startGrid_begins c p ht⟩
  · rintro g gr p hg rfl rfl rfl hrun hall hwaves hbanks
    obtain ⟨past, hend⟩ := finishGrid_ends hg hh hall hwaves hbanks hk hrun
    refine ⟨fun t ht => completes_evStep rfl hend ?_, fun f hf => completes_evStep rfl hend (completePacket_faults hk hf)⟩
    obtain ⟨hm, hfree⟩ := completePacket_frees hk ht
    exact ⟨hm, assocGet_del_same _ _, hfree⟩

end Sys2Proof.Machine
end

section
/-!
SUPPORT. The settled statement on saves and restores of contexts (06 R158; 11 R281 to R283).
-/

namespace Sys2Proof.Machine

/-- Context `x` stands with `P`. -/
def HasContext (s : State) (x : Nat) (P : Context → Prop) : Prop := ∃ c, assocGet s.ctxs x = some c ∧ P c

/-- Of two records of a context, the second differs in nothing that the device's work leaves alone. -/
theorem HasContext.of_work {s t : State} {x : Nat} {P : Context → Prop} (w : DeviceWork s t) (h : HasContext s x P)
    (hP : ∀ c ps ts, P c → P { c with pages := ps, tables := ts }) : HasContext t x P := by
  obtain ⟨c, hc, hp⟩ := h
  obtain ⟨c', hc', e⟩ := w.ctx x c hc
  exact ⟨c', hc', by rw [e]; exact hP _ _ _ hp⟩

theorem HasContext.modCtx {s : State} {x : Nat} {P Q : Context → Prop} {f : Context → Context} (h : HasContext s x P)
    (hf : ∀ c, P c → Q (f c)) : HasContext (Machine.modCtx s x f) x Q := by
  obtain ⟨c, hc, hp⟩ := h
  exact ⟨f c, modCtx_gets f hc, hf c hp⟩

/-! Queues that stop, and a context's fault, leave what the context holds of its cores. -/

/-- `P` says nothing of a context's pages and tables, nor of what a queue of it comes to. -/
structure OfCores (P : Context → Prop) : Prop where
  work : ∀ c ps ts, P c → P { c with pages := ps, tables := ts }
  queue : ∀ c q f, P c → P { c with queues := assocMod c.queues q f }

theorem stopOne_context {s : State} {x q st errc : Nat} {eseq : Word} {P : Context → Prop} (hP : OfCores P) (h : HasContext s x P) :
    HasContext (stopOne s x q st errc eseq).1 x P := by
  unfold stopOne
  split
  · exact h
  · split
    · exact h
    · refine .of_work (raiseIrq_work _ _ _) (.modCtx (.of_work (qcbPut_work _ _ _ _) h hP.work) fun c hc => hP.queue c q _ hc) hP.work

theorem stopAllQueues_context {s : State} {x : Nat} {P : Context → Prop} (hP : OfCores P) (h : HasContext s x P) :
    HasContext (stopAllQueues s x) x P := by
  unfold stopAllQueues
  split
  · exact h
  · exact List.foldlRecOn (motive := fun t => HasContext t x P) _ _ h fun t ht k _ => stopOne_context hP ht

/-- A context's fault changes its state, error and queues, and begins a save. -/
theorem contextFault_context {s : State} {x : Nat} {P : Context → Prop} {e : Cause} (hP : OfCores P)
    (hf : ∀ c n, P c → P { c with cstate := 3, cerr := 3, nerr := n, cause := e.code, saving := true }) (h : HasContext s x P) :
    HasContext (contextFault s x e) x P := by
  have hstop : HasContext (withdraw (stopAllQueues s x) x) x P := stopAllQueues_context hP h
  exact .of_work (writeCsb_work _ _) (hstop.modCtx fun c hc => hf c _ hc) hP.work

/-! A save. -/

theorem beginSave_begins {s : State} {x : Nat} {c : Context} (forced : Bool) (hc : assocGet s.ctxs x = some c) :
    (beginSave s x forced).waves = s.waves ∧
      HasContext (beginSave s x forced) x fun c' => c'.saving = true ∧ c'.forced = forced ∧ c'.cstate = 1 := by
  refine ⟨(CtxWork.of_work (writeCsb_work _ x)).waves, ?_⟩
  exact HasContext.of_work (writeCsb_work _ x) ⟨_, modCtx_gets _ hc, rfl, rfl, rfl⟩ fun _ _ _ h => h

theorem writeBlocks_work {s t : State} {x : Nat} {c : Context} (h : writeBlocks s x c = .ok t) : DeviceWork s t := by
  obtain ⟨s', hs, hw⟩ := foldl_except_work (fun _ _ => rfl) (fun _ _ _ ht => devWrite_work _ ht) _ h
  cases hs
  exact hw

/-- The cores' credits given up. -/
theorem dropCredits_only (s : State) (ps : List Nat) :
    ∃ cs, ps.foldl (fun t p => modCore t p fun k => { k with credits := [] }) s = { s with cores := cs } := by
  induction ps generalizing s with
  | nil => exact ⟨_, rfl⟩
  | cons p r ih =>
    obtain ⟨cs, h⟩ := ih (modCore s p fun k => { k with credits := [] })
    exact ⟨cs, by rw [List.foldl_cons, h]; rfl⟩

/-- A context that leaves its cores keeps its waves and banks. -/
theorem releaseCores_leaves {s : State} {x : Nat} {P : Context → Prop} (h : HasContext s x P) :
    (releaseCores s x).waves = s.waves ∧ (releaseCores s x).banks = s.banks ∧
      HasContext (releaseCores s x) x fun c' => ∃ c ps ts, P c ∧
        c' = { c with resident := false, saving := false, cstate := if c.cstate = 1 then 2 else c.cstate, pages := ps, tables := ts } := by
  obtain ⟨c, hc, hp⟩ := h
  obtain ⟨cs, hcs⟩ := dropCredits_only s (ctxCores s x)
  unfold releaseCores
  rw [hcs]
  refine ⟨(CtxWork.of_work (writeCsb_work _ x)).waves, by rw [(writeCsb_work _ x).only]; rfl, ?_⟩
  refine HasContext.of_work (writeCsb_work _ x) ⟨_, modCtx_gets (s := { s with cores := cs }) _ hc, c, _, _, hp, rfl⟩ ?_
  rintro c' ps ts ⟨c, _, _, hp, rfl⟩
  exact ⟨c, ps, ts, hp, rfl⟩

/-! A restore. -/

theorem readBlocks_work {s t : State} {x : Nat} {c : Context} (h : readBlocks s x c = .ok t) : DeviceWork s t := by
  have hread : ∀ (s t : State) (p : Nat),
      (xlateService s x ((c.save.toNat + 2 ^ 24 * p) % 2 ^ 80) .read none).map (·.1) = .ok t → DeviceWork s t := by
    intro s t p ht
    cases hr : xlateService s x ((c.save.toNat + 2 ^ 24 * p) % 2 ^ 80) .read none with
    | error e => rw [hr] at ht; cases ht
    | ok r =>
      rw [hr] at ht
      cases ht
      exact xlateService_work hr
  obtain ⟨s', hs, hw⟩ := foldl_except_work (fun _ _ => rfl) (fun s p t => hread s t p) _ h
  cases hs
  exact hw

/-- The banks of a context back on its cores. -/
theorem regainBanks_only (s : State) (x : Nat) (ps : List Nat) : ∃ cs bs, ps.foldl (fun t p =>
    let i := if (coreBanks t p).any (·.2.1.index == 0) then 1 else 0
    modCore (modBank t (16 * p + x) fun b => { b with index := i }) p fun k => { k with credits := [] }) s =
      { s with cores := cs, banks := bs } := by
  induction ps generalizing s with
  | nil => exact ⟨_, _, rfl⟩
  | cons p r ih =>
    obtain ⟨cs, bs, h⟩ := ih _
    exact ⟨cs, bs, by rw [List.foldl_cons, h]; rfl⟩

theorem regain_context {s : State} {x : Nat} {c : Context} (hc : assocGet s.ctxs x = some c) :
    KeepsCommands s (regain s x) ∧
      HasContext (regain s x) x fun c' => c'.resident = true ∧ c'.restoring = none ∧ c'.cstate = 0 := by
  obtain ⟨cs, bs, h⟩ := regainBanks_only s x (ctxCores s x)
  unfold regain
  dsimp only at h ⊢
  rw [h]
  refine ⟨.of_same rfl rfl, _, show assocGet (wakePreempt _ x).ctxs x = _ from
    modCtx_gets (s := { s with cores := cs, banks := bs })
      (fun c => { c with resident := true, restoring := none, cstate := 0, reqAge := 0 }) hc,
    rfl, rfl, rfl⟩

theorem cmdDone_ctxs (s : State) (fn st off : Nat) (res : List (Nat × List Byte)) : (cmdDone s fn st off res).ctxs = s.ctxs := by
  unfold cmdDone
  split
  · rfl
  · rename_i pa _ _
    exact foldl_keeps (f := fun s (r : Nat × List Byte) => physPut s (pa + r.1) r.2) State.ctxs (fun _ _ => rfl) res _

/-- The context once the command that asked for its restore has ended without it. -/
def Context.unclaimed (c : Context) : Context := { c with restoring := none, saving := false }

theorem banks_fit {s : State} {x : Nat} {c : Context} (hfit : ∀ e ∈ s.banks, e.1 % 16 = x → coreFits s x (e.1 / 16) c e.2 = true) :
    (s.banks.all fun b => b.1 % 16 != x || coreFits s x (b.1 / 16) c b.2) = true := by
  refine List.all_eq_true.2 fun e he => ?_
  by_cases hx : e.1 % 16 = x
  · simp [hfit e he hx]
  · simp [hx]

section
variable {s : State} {x fn pa : Nat} {c : Context} {b : List Byte} (hc : assocGet s.ctxs x = some c)
include hc

theorem saveContext_begins (hh : s.hub.halted = false) (hreq : c.preq = true) (hres : c.resident = true) (hsav : c.saving = false)
    (hst : c.cstate = 0) (hpark : ∀ e ∈ s.waves, e.2.ctx = x → ∀ f ∈ e.2.frags, f.stopped e.2 = true) :
    saveContext s x = some (beginSave s x false) := by
  have hquiet : quiet s x = true := by
    refine List.all_eq_true.2 fun e he => List.all_eq_true.2 fun f hf => ?_
    obtain ⟨he, hx⟩ := List.mem_filter.1 he
    exact hpark e he (by simpa using hx) f hf
  simp [saveContext, hc, mayBegin, hh, hreq, hres, hsav, hst, hquiet]

theorem deadline_begins (hh : s.hub.halted = false) (hreq : c.preq = true) (hres : c.resident = true) (hsav : c.saving = false)
    (hst : c.cstate = 0) (hage : c.pdl.toNat * 64 ≤ c.reqAge) : deadline s x = some (beginSave s x true) := by
  simp [deadline, hc, mayBegin, hh, hreq, hres, hsav, hst, hage]

theorem saveContext_ends {t : State} (hsav : c.saving = true) (hres : c.resident = true) (hdr : drained s x = true)
    (hh : s.hub.halted = false) (hw : writeBlocks s x c = .ok t) : saveContext s x = some (releaseCores t x) := by
  simp [saveContext, hc, hsav, hres, hdr, hh, hw]

theorem saveContext_faults {f : Cause} (hsav : c.saving = true) (hres : c.resident = true) (hdr : drained s x = true)
    (hh : s.hub.halted = false) (hw : writeBlocks s x c = .error f) :
    saveContext s x = some (releaseCores (contextFault s x f) x) := by
  simp [saveContext, hc, hsav, hres, hdr, hh, hw]

variable (hreq : c.restoring = some fn) (hres : c.resident = false) (hst : c.cstate = 2) (hh : s.hub.halted = false)
  (hfit : ∀ e ∈ s.banks, e.1 % 16 = x → coreFits s x (e.1 / 16) c e.2 = true)
include hreq hres hst hh hfit

theorem restoreContext_ends {t : State} (hr : readBlocks s x c = .ok t) :
    restoreContext s x = some (cmdDone (writeCsb (regain t x) x) fn 0 0 []) := by
  simp only [restoreContext, hc, hreq, hres, hst, hh, banks_fit hfit, hr]
  rfl

theorem restoreContext_faults {f : Cause} (hr : readBlocks s x c = .error f) : restoreContext s x =
    some (cmdDone (modCtx (contextFault s x f) x Context.unclaimed) fn 3 8 []) := by
  simp only [restoreContext, hc, hreq, hres, hst, hh, banks_fit hfit, hr]
  rfl

end

/-- Settles O53: what a save or a restore writes of the status block and the save blocks is the device's work, which leaves the
context's own state alone. -/
theorem contextsSaveAndRestore : Obligations.ContextsSaveAndRestore := by
  unfold Obligations.ContextsSaveAndRestore
  intro s x c hc ctx
  refine ⟨fun hh hreq hres hsav hst => ⟨fun hage => ?_, fun hpark => ?_⟩, fun hsav hres hdr hh => ⟨fun s1 hst hw => ?_, fun f hw => ?_⟩,
    fun fn pa b hreq hres hst hh hhead hfit => ⟨fun s1 hr hwf => ?_, fun f hr hwf => ?_⟩⟩
  · exact completes_evStep rfl (deadline_begins hc hh hreq hres hsav hst hage) (beginSave_begins true hc)
  · exact completes_evStep rfl (saveContext_begins hc hh hreq hres hsav hst hpark) (beginSave_begins false hc)
  · have hwork := writeBlocks_work hw
    obtain ⟨c1, hc1, e1⟩ := hwork.ctx x c hc
    obtain ⟨hwaves, hbanks, hctx⟩ := releaseCores_leaves (P := (·.cstate = 1)) ⟨c1, hc1, by rw [e1]; exact hst⟩
    refine completes_evStep rfl (saveContext_ends hc hsav hres hdr hh hw)
      ⟨hwaves.trans (CtxWork.of_work hwork).waves, fun e => by rw [bumpFree_banks, hbanks, hwork.only], ?_⟩
    obtain ⟨c', hc', c2, ps, ts, h1, rfl⟩ := hctx
    exact ⟨_, hc', rfl, rfl, if_pos h1⟩
  · obtain ⟨-, c1, hc1, hfault⟩ := contextFault_faults f (by rw [hc]; rfl : (assocGet s.ctxs x).isSome = true)
    obtain ⟨-, -, c', hc', c2, ps, ts, ⟨h1, h2, h3⟩, rfl⟩ := releaseCores_leaves (P := fun c => c.cstate = 3 ∧ c.cerr = 3 ∧ c.cause = f.code)
      ⟨c1, hc1, hfault⟩
    have hsave := saveContext_faults hc hsav hres hdr hh hw
    generalize releaseCores (contextFault s x f) x = t at hc' hsave
    refine completes_evStep rfl hsave ⟨⟨_, hc', ?_, h2, h3⟩, _, hc', rfl, rfl⟩
    show (if c2.cstate = 1 then 2 else c2.cstate) = 3
    rw [h1, if_neg (by decide)]
  · have hwork := readBlocks_work hr
    obtain ⟨c1, hc1, -⟩ := hwork.ctx x c hc
    obtain ⟨hkeep, hctx⟩ := regain_context hc1
    have hkeep := ((KeepsCommands.of_work hwork).trans hkeep).trans (.of_work (writeCsb_work _ x))
    refine completes_evStep rfl (restoreContext_ends hc hreq hres hst hh hfit hr)
      ⟨romEnds_cmdDone [] hhead hkeep.cmds (hkeep.wf hwf) (by decide), ?_⟩
    obtain ⟨c', hc', hp⟩ := hctx.of_work (writeCsb_work _ x) fun _ _ _ h => h
    exact ⟨c', by rw [bumpFree_ctxs, cmdDone_ctxs]; exact hc', hp⟩
  · have hfault : HasContext (contextFault s x f) x fun c => (c.cstate = 3 ∧ c.cerr = 3 ∧ c.cause = f.code) ∧ c.resident = false := by
      obtain ⟨-, c1, hc1, hf⟩ := contextFault_faults f (by rw [hc]; rfl : (assocGet s.ctxs x).isSome = true)
      obtain ⟨c2, hc2, h2⟩ := contextFault_context (P := (·.resident = false)) (e := f) ⟨fun _ _ _ h => h, fun _ _ _ h => h⟩
        (fun _ _ h => h) ⟨c, hc, hres⟩
      obtain rfl : c1 = c2 := by simpa [hc1] using hc2
      exact ⟨c1, hc1, hf, h2⟩
    have hkeep := modCtx_keeps (contextFault_keeps s x f) x Context.unclaimed
    refine completes_evStep rfl (restoreContext_faults hc hreq hres hst hh hfit hr)
      ⟨romEnds_cmdDone [] hhead hkeep.cmds (hkeep.wf hwf) (by decide), ?_⟩
    obtain ⟨c1, hc1, ⟨h1, h2, h3⟩, h4⟩ := hfault
    have hget : assocGet (cmdDone (modCtx (contextFault s x f) x Context.unclaimed) fn 3 8 []).ctxs x = some c1.unclaimed := by
      rw [cmdDone_ctxs]
      exact modCtx_gets _ hc1
    exact ⟨⟨_, hget, h1, h2, h3⟩, _, hget, h4, rfl⟩

end Sys2Proof.Machine
end

section
/-!
SUPPORT. A migration sets V in the entry of its page before it moves it. Where that entry lies in the page itself and is a byte of
a table entry that leads to it, the byte that moves is not the one that stood before, with O55.
-/

namespace Sys2Proof.Machine

/-- Table entries. The level 4 table begins two bytes before the page at 0x60000, so the page's first byte is the lowest byte of its
first entry's frame, and the leaf to which the tables from 0x20000 lead too. With V set in that leaf the tables lead on from
0x30000, to the leaf at 0x90000, which maps the page. -/
def strayTables : List (Nat × Nat) :=
  [(0x5FFFE, 0x20001), (0x20000, 0x40001), (0x40000, 0x50001), (0x50000, 0x60001),
   (0x30000, 0x70001), (0x70000, 0x80001), (0x80000, 0x90001), (0x90000, 0x60003)]

/-- The migrating buffer: the page of 64 KiB at address 0. -/
def strayBuffer : Buffer := ⟨0, 0x10000, some 0, true⟩
def strayPage : Pages := ⟨0, 1, 0, false, false, false, false, true, 0, none⟩
def strayContext : Context := { newContext [] [] with ptb := 0x5FFFE, pages := [strayPage], bufs := [strayBuffer] }

/-- That context under those tables. -/
def strayState : State :=
  { State.reset with
    mem := strayTables.foldl (fun m e => memPut m e.1 8 e.2) []
    hub := { State.reset.hub with online := BitVec.allOnes _ }
    ctxs := [(0, strayContext)] }

/-- The page moves, its first byte as it stood. -/
def strayMoves (s : State) : Bool :=
  match exec (.migration 0 0) s with
  | .next t => memRead t.mem 0 == memRead s.mem 0x60000
  | _ => false

set_option maxRecDepth 10000 in
theorem stray_entries : Memory.wf strayState.mem = true ∧ bufPages strayState 0 strayContext strayBuffer = [(0, strayPage, 0x60000)] ∧
    (let s0 := setValid strayState strayContext 0 true
     frameOn s0.hub (freeOrder s0.hub) strayPage.size = some 0 ∧ entryAt s0.mem strayContext.ptb 0 strayPage.psz 4 = some 0x90000) := by
  decide +kernel

set_option maxRecDepth 10000 in
/-- The page moves with V set in its first byte. -/
theorem stray_moved : strayMoves strayState = false := by decide +kernel

/-- Refutes O55: in `strayState` the page that moves is not the page that stood. -/
theorem not_pagesCompressAndMigrate : ¬ Obligations.PagesCompressAndMigrate := by
  intro h
  obtain ⟨hwf, hpages, hframe, hentry⟩ := stray_entries
  obtain ⟨-, hbuf⟩ := h strayState 0 strayContext 0 rfl hwf
  obtain ⟨-, hhold⟩ := hbuf strayBuffer rfl
  obtain ⟨-, -, -, hmoves⟩ := hhold 0 rfl
  obtain ⟨t, ht, hbytes, -⟩ := hmoves strayPage 0x60000 0 0x90000 rfl hpages rfl hframe hentry (by decide) (by decide)
  have hsame : strayMoves strayState = true := by
    unfold strayMoves
    rw [ht]
    exact beq_iff_eq.2 (hbytes 0 (by decide))
  exact Bool.false_ne_true (stray_moved.symm.trans hsame)

end Sys2Proof.Machine
end

section
/-!
SUPPORT. A context killed: each of its waves ends, and its quads have retired where nothing of it is in flight (11 R289).
-/

namespace Sys2Proof.Machine

/-! No wave appears where waves end. -/

/-- `t` has no wave that `s` lacks. -/
def WavesFrom (s t : State) : Prop := ∀ u, assocGet s.waves u = none → assocGet t.waves u = none

namespace WavesFrom

theorem of_same {s t : State} (h : t.waves = s.waves) : WavesFrom s t := fun u hu => by rw [h]; exact hu

theorem refl (s : State) : WavesFrom s s := of_same rfl

theorem trans {s t r : State} (h : WavesFrom s t) (h' : WavesFrom t r) : WavesFrom s r := fun u hu => h' u (h u hu)

theorem foldl {α : Type} {f : State → α → State} (hf : ∀ t a, WavesFrom t (f t a)) (l : List α) (s : State) :
    WavesFrom s (l.foldl f s) := by
  induction l generalizing s with
  | nil => exact refl s
  | cons a r ih => exact (hf s a).trans (ih _)

theorem modWave (s : State) (u : Nat) (f : Wave → Wave) : WavesFrom s (modWave s u f) := fun v hv => by
  by_cases h : v = u
  · subst h
    exact (assocGet_mod_same _ _ _).trans (by rw [hv]; rfl)
  · rw [modWave_get_other s u f h]; exact hv

theorem setWave {s : State} {u : Nat} {w : Wave} (w' : Wave) (hw : assocGet s.waves u = some w) : WavesFrom s (setWave s u w') :=
  fun v hv => by
    have h : v ≠ u := by rintro rfl; rw [hw] at hv; cases hv
    exact (assocGet_set_other _ _ _ _ h).trans hv

theorem modGrid (s : State) (g : Nat) (f : Grid → Grid) : WavesFrom s (modGrid s g f) := of_same rfl

theorem modBank (s : State) (b : Nat) (f : Bank → Bank) : WavesFrom s (modBank s b f) := of_same rfl

end WavesFrom

theorem checkPhase_waves (s : State) (g k : Nat) (cluster : Bool) (id u clk : Nat) :
    WavesFrom s (checkPhase s g k cluster id u clk) := by
  unfold checkPhase
  dsimp only
  split
  · intro v hv
    rw [wakeBarrier_get]
    cases cluster <;> exact Option.map_eq_none_iff.2 hv
  · exact .refl s

theorem checkPhases_waves (s : State) (u : Nat) (w : Wave) (clk : Nat) : WavesFrom s (checkPhases s u w clk) := by
  unfold checkPhases
  split
  · exact .refl s
  · exact (WavesFrom.foldl (fun t id => checkPhase_waves _ _ _ _ _ _ _) _ s).trans
      (.foldl (fun t id => checkPhase_waves _ _ _ _ _ _ _) _ _)

theorem wakeOne_waves (s : State) (g k off : Nat) (e : Nat × Nat × Nat × Nat) : WavesFrom s (wakeOne s g k off e) := by
  unfold wakeOne
  dsimp only
  split
  · have h : WavesFrom s (semAcquire (wordPut s (.share g k off) (semGet s g k off - e.2.2.2)) (coreOf s e.2.1) g k off) := by
      unfold semAcquire
      split <;> exact .of_same rfl
    exact h.trans (.modWave _ _ _)
  · split
    · exact .modWave _ _ _
    · exact .refl s

theorem closeTriple_waves (s : State) (w : Wave) : WavesFrom s (closeTriple s w) := by
  unfold closeTriple
  split
  · exact .refl s
  · split
    · exact .refl s
    · split
      · exact .refl s
      · refine ((WavesFrom.modGrid s _ _).trans (.foldl (fun t o => .modGrid t _ _) _ _)).trans (.foldl (fun t o => ?_) _ _)
        exact .foldl (fun t e => wakeOne_waves _ _ _ _ _) _ t

theorem killQuads_waves (s : State) (u : Nat) : WavesFrom s (killQuads s u) := by
  unfold killQuads
  split
  · exact .refl s
  · rename_i w hw
    split
    · unfold retireQuads
      rw [hw]
      dsimp only
      have h := fun w' => (WavesFrom.setWave (s := s) w' hw).trans (checkPhases_waves _ u w (maxClock w w.live))
      split
      · exact (h _).trans (closeTriple_waves _ _)
      · exact h _
    · exact .refl s

theorem discardFaults_waves (s : State) (u : Nat) : WavesFrom s (discardFaults s u) := by
  unfold discardFaults
  split
  · exact .refl s
  · rename_i w hw
    refine (WavesFrom.setWave _ hw).trans (.foldl (fun t e => ?_) _ _)
    unfold discardOp
    split
    · unfold fillUnwritten
      split
      · exact .refl _
      · exact (WavesFrom.modBank _ _ _).trans (.foldl (fun t x => .modGrid t _ _) _ _)
    all_goals exact .of_same rfl

/-! The end of a wave, and what it leaves of the others. -/

/-- A wave that has ended: its quads have retired unless something of it is in flight. -/
def Wave.Ended (w : Wave) : Prop := w.killed = true ∧ (w.entries.any Entry.flying = false → w.live = 0)

/-- Of the wave, only what its fragments wait for differs. -/
theorem Wave.Ended.of_frags {w w' : Wave} (h : w.Ended) (e : w' = { w with frags := w'.frags }) : w'.Ended := by
  unfold Wave.Ended
  rw [e]
  exact h

/-- A wave with nothing left to run. -/
def Wave.cutOff (w : Wave) : Wave :=
  { w with window := none, trapWait := none, report := none, killed := true, frags := [],
           held := w.held + (w.window.map (·.reserve)).getD 0 }

/-- The state in which the quads of a wave that ends retire. -/
def killedState (s : State) (u : Nat) (w : Wave) : State :=
  let s1 := w.frags.foldl (fun t f => match f.park with | .mcast y q e => dropClaimed t w y q e.id | _ => t) (discardFaults s u)
  let s2 := modWave s1 u Wave.cutOff
  modWg (modCore s2 w.core fun k => { k with trapQ := k.trapQ.filter (· != u) }) w.grid w.wg fun g =>
    if w.spawned then g else { g with anyKilled := true }

theorem endWave_eq {s : State} {u : Nat} {w : Wave} (hw : assocGet s.waves u = some w) :
    endWave s u none = killQuads (killedState s u w) u := by
  unfold endWave
  rw [hw]
  rfl

theorem killedState_waves (s : State) (u : Nat) (w : Wave) : WavesFrom s (killedState s u w) := by
  have h : WavesFrom s (w.frags.foldl (fun t f => match f.park with | .mcast y q e => dropClaimed t w y q e.id | _ => t)
      (discardFaults s u)) := by
    refine (discardFaults_waves s u).trans (.foldl (fun t f => ?_) _ _)
    split
    · exact .modBank _ _ _
    · exact .refl t
  exact (h.trans (.modWave _ u Wave.cutOff)).trans (.of_same rfl)

theorem endWave_waves (s : State) (u : Nat) : WavesFrom s (endWave s u none) := by
  cases hw : assocGet s.waves u with
  | none =>
    unfold endWave
    rw [hw]
    exact .refl s
  | some w =>
    rw [endWave_eq hw]
    exact (killedState_waves s u w).trans (killQuads_waves _ _)

theorem killedState_discarded {s : State} {u : Nat} {w : Wave} (hw : assocGet s.waves u = some w) :
    ∃ s1, Upkeep (setWave s u (faultsDiscarded w)) s1 ∧ (killedState s u w).waves = (modWave s1 u Wave.cutOff).waves := by
  refine ⟨_, (discardFaults_upkeep hw).trans (.foldl (f := fun t f => match f.park with
    | .mcast y q e => dropClaimed t w y q e.id
    | _ => t) (fun t f => ?_) w.frags _), rfl⟩
  split
  · exact modBank_upkeep _ _ _
  · exact .refl t

/-- The wave that ends. -/
theorem endWave_ends {s : State} {u : Nat} {w : Wave} (hw : assocGet s.waves u = some w) :
    ∃ w', assocGet (endWave s u none).waves u = some w' ∧ w'.ctx = w.ctx ∧ w'.Ended := by
  obtain ⟨s1, up, hs1⟩ := killedState_discarded hw
  obtain ⟨w1, hw1, e1, -⟩ := up.wave u _ (assocGet_set_same _ _ _)
  obtain ⟨w2, hw2, hk2, hx2⟩ : ∃ w2, assocGet (killedState s u w).waves u = some w2 ∧ w2.killed = true ∧ w2.ctx = w.ctx :=
    ⟨_, by rw [hs1]; exact modWave_get _ hw1, rfl, by rw [e1]; rfl⟩
  rw [endWave_eq hw]
  unfold killQuads
  rw [hw2]
  dsimp only
  split
  · obtain ⟨w3, hw3, hl3, e3, -⟩ := retireQuads_get w2.live false hw2
    refine ⟨w3, hw3, by rw [e3]; exact hx2, by rw [e3]; exact hk2, fun _ => ?_⟩
    rw [hl3]
    simp
  · rename_i hif
    refine ⟨w2, hw2, hx2, hk2, fun hfly => ?_⟩
    simpa [hk2, hfly] using hif

/-- Another wave. -/
theorem endWave_other {s : State} {u v : Nat} {w : Wave} (hv : v ≠ u) (hw : assocGet s.waves v = some w) :
    ∃ w', assocGet (endWave s u none).waves v = some w' ∧ w' = { w with frags := w'.frags } := by
  cases hu : assocGet s.waves u with
  | none =>
    unfold endWave
    rw [hu]
    exact ⟨w, hw, rfl⟩
  | some wu =>
    obtain ⟨s1, up, hs1⟩ := killedState_discarded hu
    obtain ⟨w1, hw1, e1, -⟩ := up.wave v w ((assocGet_set_other _ _ _ _ hv).trans hw)
    have hw2 : assocGet (killedState s u wu).waves v = some w1 := by rw [hs1, modWave_get_other _ _ _ hv]; exact hw1
    rw [endWave_eq hu]
    unfold killQuads
    split
    · exact ⟨w1, hw2, e1⟩
    · rename_i w2 hk2
      split
      · obtain ⟨w3, hw3, e3, -⟩ := (retireQuads_upkeep w2.live false hk2).wave v w1 ((assocGet_set_other _ _ _ _ hv).trans hw2)
        exact ⟨w3, hw3, by rw [e3, e1]⟩
      · exact ⟨w1, hw2, e1⟩

/-! The waves of a context that is killed. -/

/-- Where each wave of context `x` has ended or is still listed, the waves of `us` end, and all of it has ended. -/
theorem endWaves_ended {x : Nat} (us : List Nat) {s : State}
    (h : ∀ u w, assocGet s.waves u = some w → w.ctx = x → w.Ended ∨ u ∈ us) :
    ∀ u w, assocGet (us.foldl (fun t u => endWave t u none) s).waves u = some w → w.ctx = x → w.Ended := by
  induction us generalizing s with
  | nil => exact fun u w hw hx => (h u w hw hx).resolve_right (by simp)
  | cons a r ih =>
    refine ih fun u w hw hx => ?_
    obtain ⟨w0, hw0⟩ : ∃ w0, assocGet s.waves u = some w0 := by
      cases hs : assocGet s.waves u with
      | none => rw [endWave_waves s a u hs] at hw; cases hw
      | some w0 => exact ⟨w0, rfl⟩
    by_cases hu : u = a
    · subst hu
      obtain ⟨w', hw', -, hend⟩ := endWave_ends hw0
      obtain rfl : w' = w := by simpa [hw'] using hw
      exact .inl hend
    · obtain ⟨w', hw', e⟩ := endWave_other hu hw0
      obtain rfl : w' = w := by simpa [hw'] using hw
      rcases h u w0 hw0 (by rw [e] at hx; exact hx) with hend | hmem
      · exact .inl (hend.of_frags e)
      · exact .inr ((List.mem_cons.1 hmem).resolve_left hu)

end Sys2Proof.Machine
end

section
/-!
SUPPORT. What each command on a context and its queues does (06 R158; 11 R264, R266, R267, R278, R283, R289; 12 R297).
-/

namespace Sys2Proof.Machine

/-! What an ended command leaves. -/

/-- The end of a command leaves contexts, waves and streams. -/
structure CommandLeaves (t t' : State) : Prop where
  ctxs : t'.ctxs = t.ctxs
  waves : t'.waves = t.waves
  streams : t'.hub.streams = t.hub.streams

theorem commandLeaves_cmdDone (s : State) (fn st off : Nat) : CommandLeaves s (bumpFree (cmdDone s fn st off [])) := by
  unfold cmdDone
  split
  · exact ⟨rfl, rfl, rfl⟩
  · exact ⟨rfl, rfl, rfl⟩

/-- An accepted command without results ends, with what its body leaves. -/
theorem rom_leaves {i : Instr} {op fn : Nat} {s t : State} {pa : Nat} {b : List Byte} {fields : List Byte → State → List (Nat × Bool)}
    {body : List Byte → State → CmdOut} {P : State → Prop} (he : exec i s = romRun op fn s fields body)
    (ha : RomAccepts op fn s pa b (fields b s)) (hop : op ∈ romCodes) (hb : body b s = .ends 0 0 [] t) (hk : KeepsCommands s t)
    (hp : ∀ t', CommandLeaves t t' → P t') : Completes i s fun t' => RomEnds fn pa 0 0 s t' ∧ P t' := by
  have ⟨hhead, _, _, _, _, _, _, hwf⟩ := ha
  refine ⟨bumpFree (cmdDone t fn 0 0 []), ?_, romEnds_cmdDone [] hhead hk.cmds (hk.wf hwf) (by decide),
    hp _ (commandLeaves_cmdDone t fn 0 0)⟩
  rw [he, romRun_accepted (o := some (cmdDone t fn 0 0 [])) ha hop
    (fun st' off' res' t' h => by rw [hb] at h; cases h; rfl) (fun t' h => by rw [hb] at h; cases h)]
  rfl

theorem HasContext.leaves {t t' : State} {x : Nat} {P : Context → Prop} (h : CommandLeaves t t') (hc : HasContext t x P) :
    HasContext t' x P := by
  obtain ⟨c, hc, hp⟩ := hc
  exact ⟨c, by rw [h.ctxs]; exact hc, hp⟩

/-- The context that an accepted command names. -/
theorem RomAccepts.context {op fn : Nat} {s : State} {pa : Nat} {b : List Byte} {l : List (Nat × Bool)}
    (h : RomAccepts op fn s pa b l) (hop : op ∈ ctxCodes) : ∃ c, assocGet s.ctxs (romCtx b) = some c := by
  obtain ⟨-, -, -, -, -, hctx, -, -⟩ := h
  exact Option.isSome_iff_exists.1 (hctx hop)

/-! Kill and destruction. -/

theorem withdraw_keeps (s : State) (x : Nat) : KeepsCommands s (withdraw s x) := .of_same rfl rfl

/-- The waves of a killed context, before its records are dropped. -/
theorem killContext_waves (s : State) (x : Nat) :
    (killContext s x).waves = (((ctxWaves s x).map (·.1)).foldl (fun t u => endWave t u none) (withdraw s x)).waves := by
  unfold killContext
  rw [List.foldl_map]
  dsimp only
  split
  · split
    · exact (CtxWork.of_work (writeCsb_work _ x)).waves
    · rfl
  · rfl

theorem killContext_keeps (s : State) (x : Nat) : KeepsCommands s (killContext s x) := by
  have hend : KeepsCommands s ((ctxWaves s x).foldl (fun t e => endWave t e.1 none) (withdraw s x)) :=
    .foldl (fun t e => endWave_keeps _ _ _) _ (withdraw_keeps s x)
  unfold killContext
  dsimp only
  split
  · split
    · refine .trans ?_ (.of_work (writeCsb_work _ x))
      exact hend.after rfl rfl
    · exact hend.after rfl rfl
  · exact hend.after rfl rfl

theorem killContext_ends (s : State) (x : Nat) :
    ∀ u w, assocGet (killContext s x).waves u = some w → w.ctx = x → w.Ended := by
  intro u w hw
  rw [killContext_waves] at hw
  refine endWaves_ended _ (fun u w hw hx => .inr ?_) u w hw
  exact List.mem_map.2 ⟨(u, w), List.mem_filter.2 ⟨mem_of_assocGet hw, by simpa using hx⟩, rfl⟩

/-- A context without waves, killed, is there as before. -/
theorem killContext_noWaves {s : State} {x : Nat} {c : Context} (h : ctxWaves s x = []) (hc : assocGet s.ctxs x = some c) :
    (killContext s x).hub.streams = s.hub.streams ∧ ∃ c', assocGet (killContext s x).ctxs x = some c' := by
  unfold killContext
  rw [h]
  dsimp only [List.foldl_nil]
  split
  · split
    · rename_i c1 hc1 _
      have hw := writeCsb_work (modCtx { (withdraw s x) with
        banks := (withdraw s x).banks.map fun b => if b.1 % 16 = x then (b.1, { b.2 with bins := [], segs := [], segSince := [] }) else b,
        grids := (withdraw s x).grids.map fun g => if g.2.ctx = x then (g.1, { g.2 with discarded := true }) else g } x
        fun c => { c with saving := false, cstate := 0 }) x
      obtain ⟨c', hc', -⟩ := hw.ctx x _ (modCtx_gets _ hc1)
      refine ⟨?_, c', hc'⟩
      rw [hw.hub]
      rfl
    · rename_i c1 hc1 _
      exact ⟨rfl, _, modCtx_gets _ hc1⟩
  · rename_i hn
    rw [show assocGet (withdraw s x).ctxs x = some c from hc] at hn
    cases hn

/-! Streams of a context that is freed. -/

theorem unbindStream_streams (s : State) (q : Nat) : (unbindStream s q).hub.streams = assocDel s.hub.streams q := by
  unfold unbindStream
  dsimp only [modHub_hub]
  rw [journalFail_hub]

theorem unbindStream_keeps (s : State) (q : Nat) : KeepsCommands s (unbindStream s q) := (journalFail_keeps s q true).after rfl rfl

/-- With the listed streams unbound, those that stand stood before and are not listed. -/
theorem unbindStreams_get (l : List (Nat × Stream)) {s : State} {n : Nat} {t : Stream}
    (h : getStream (l.foldl (fun t q => unbindStream t q.1) s) n = some t) : getStream s n = some t ∧ ∀ q ∈ l, q.1 ≠ n := by
  induction l generalizing s with
  | nil => exact ⟨h, by simp⟩
  | cons q r ih =>
    obtain ⟨h1, h2⟩ := ih h
    have hd : assocGet (assocDel s.hub.streams q.1) n = some t := by rw [← unbindStream_streams]; exact h1
    have hq : n ≠ q.1 := by
      rintro rfl
      rw [assocGet_del_same] at hd
      cases hd
    rw [assocGet_del_other _ _ _ hq] at hd
    exact ⟨hd, fun y hy => (List.mem_cons.1 hy).elim (fun e => e ▸ hq.symm) (h2 y)⟩

/-- Frames freed are firmware's record alone. -/
theorem framesFreed_only (l : List Nat) (s : State) : ∃ fs, l.foldl frameFree s = { s with hub := { s.hub with frames := fs } } := by
  induction l generalizing s with
  | nil => exact ⟨_, rfl⟩
  | cons a r ih =>
    obtain ⟨fs, h⟩ := ih (frameFree s a)
    exact ⟨fs, by rw [List.foldl_cons, h]; rfl⟩

theorem freeContext_keeps (s : State) (x : Nat) : KeepsCommands s (freeContext s x) := by
  unfold freeContext
  split
  · exact .refl s
  · rename_i c hc
    dsimp only
    obtain ⟨fs, h⟩ := framesFreed_only (ctxFrames s c ++ c.tables ++ [c.ptb / 2 ^ 16 * 2 ^ 16])
      ((s.hub.streams.filter fun t => t.2.ctx == x).foldl (fun t q => unbindStream t q.1) s)
    rw [h]
    have hs : KeepsCommands s ((s.hub.streams.filter fun t => t.2.ctx == x).foldl (fun t q => unbindStream t q.1) s) :=
      .foldl (f := fun t (q : Nat × Stream) => unbindStream t q.1) (fun t q => unbindStream_keeps t q.1) _ (.refl s)
    exact ⟨hs.cmds, fun hwf => memClear_wf _ _ (hs.wf hwf)⟩

theorem freeContext_frees {s : State} {x : Nat} {c : Context} (hc : assocGet s.ctxs x = some c) :
    assocGet (freeContext s x).ctxs x = none ∧ ∀ n st, getStream (freeContext s x) n = some st → st.ctx ≠ x := by
  unfold freeContext
  rw [hc]
  dsimp only
  obtain ⟨fs, h⟩ := framesFreed_only (ctxFrames s c ++ c.tables ++ [c.ptb / 2 ^ 16 * 2 ^ 16])
    ((s.hub.streams.filter fun t => t.2.ctx == x).foldl (fun t q => unbindStream t q.1) s)
  rw [h]
  refine ⟨assocGet_del_same _ _, fun n st hst hx => ?_⟩
  obtain ⟨hget, hnot⟩ := unbindStreams_get _ hst
  exact hnot (n, st) (List.mem_filter.2 ⟨mem_of_assocGet hget, by simpa using hx⟩) rfl

/-! Queues that stop because the queue they wait on is gone. -/

theorem stopChecked_keeps (s : State) (x q st errc : Nat) (eseq : Word) : KeepsCommands s (stopChecked s x q st errc eseq) := by
  have h := stopOne_keeps s x q st errc eseq
  unfold stopChecked
  split
  · rename_i t ht
    rw [ht] at h
    exact h
  · rename_i t e ht
    rw [ht] at h
    exact h.trans (contextFault_keeps _ _ _)

theorem stopWaiters_keeps (fuel : Nat) : ∀ (s : State) (x q : Nat), KeepsCommands s (stopWaiters s x q fuel) := by
  induction fuel with
  | zero => exact fun s x q => .refl s
  | succ n ih =>
    intro s x q
    unfold stopWaiters
    split
    · rename_i m c he hc
      cases he
      exact .foldl (fun t k => (stopChecked_keeps _ _ _ _ _ _).trans (ih _ _ _)) _ (.refl s)
    · exact .refl s

theorem stopChecked_context {s : State} {x q st errc : Nat} {eseq : Word} {P : Context → Prop} (hP : OfCores P)
    (hf : ∀ c n e, P c → P { c with cstate := 3, cerr := 3, nerr := n, cause := e, saving := true }) (h : HasContext s x P) :
    HasContext (stopChecked s x q st errc eseq) x P := by
  have h := stopOne_context (q := q) (st := st) (errc := errc) (eseq := eseq) hP h
  unfold stopChecked
  split
  · rename_i t ht
    rw [ht] at h
    exact h
  · rename_i t e ht
    rw [ht] at h
    exact contextFault_context hP (fun c n => hf c n _) h

theorem stopWaiters_context (fuel : Nat) {x : Nat} {P : Context → Prop} (hP : OfCores P)
    (hf : ∀ c n e, P c → P { c with cstate := 3, cerr := 3, nerr := n, cause := e, saving := true }) :
    ∀ (s : State) (q : Nat), HasContext s x P → HasContext (stopWaiters s x q fuel) x P := by
  induction fuel with
  | zero => exact fun s q h => h
  | succ n ih =>
    intro s q h
    unfold stopWaiters
    split
    · rename_i m c he hc
      cases he
      exact List.foldlRecOn (motive := fun t => HasContext t x P) _ _ h fun t ht k _ => ih _ _ (stopChecked_context hP hf ht)
    · exact h

/-! The commands on contexts. -/

section
variable {fn pa : Nat} {s : State} {b : List Byte}

theorem ctxCreate_completes (ha : RomAccepts 0x10 fn s pa b (descFields b s)) :
    Completes (.ctxCreate fn) s fun t => RomEnds fn pa 0 0 s t ∧
      ∃ ts, assocGet t.ctxs (fieldAt (sliceBytes b 8 128) 9 1) = some (newContext (sliceBytes b 8 128) ts) := by
  have he : exec (.ctxCreate fn) s = execCtxCreate fn s := rfl
  unfold execCtxCreate at he
  exact rom_leaves he ha (by decide) rfl (.of_same rfl rfl) fun t' h => ⟨_, by rw [h.ctxs]; exact assocGet_set_same _ _ _⟩

theorem ctxDestroy_completes (ha : RomAccepts 0x11 fn s pa b []) (hw : ctxWaves s (romCtx b) = []) :
    Completes (.ctxDestroy fn) s fun t => RomEnds fn pa 0 0 s t ∧ assocGet t.ctxs (romCtx b) = none ∧
      ∀ n st, getStream t n = some st → st.ctx ≠ romCtx b := by
  have he : exec (.ctxDestroy fn) s = execCtxDestroy fn s := rfl
  unfold execCtxDestroy at he
  obtain ⟨c, hc⟩ := ha.context (by decide)
  obtain ⟨-, c', hc'⟩ := killContext_noWaves hw hc
  obtain ⟨hgone, hstreams⟩ := freeContext_frees hc'
  refine rom_leaves he ha (by decide) (by simp only [withCtx, hc, hw]; rfl) ((killContext_keeps s _).trans (freeContext_keeps _ _))
    fun t' h => ⟨by rw [h.ctxs]; exact hgone, fun n st hst => hstreams n st ?_⟩
  unfold getStream at hst ⊢
  rw [← h.streams]
  exact hst

theorem ctxPreempt_completes (ha : RomAccepts 0x12 fn s pa b [(9, decide (1 < fieldAt b 9 1))]) :
    Completes (.ctxPreempt fn) s fun t => RomEnds fn pa 0 0 s t ∧ HasContext t (romCtx b) fun c' => c'.preq = (fieldAt b 9 1 == 1) := by
  have he : exec (.ctxPreempt fn) s = execCtxPreempt fn s := rfl
  unfold execCtxPreempt at he
  obtain ⟨c, hc⟩ := ha.context (by decide)
  obtain ⟨honly, hctxs, -, -⟩ := setReq_effect (fieldAt b 9 1 == 1) hc
  refine rom_leaves he ha (by decide) rfl (.of_same (by rw [honly]) (by rw [honly])) fun t' h => HasContext.leaves h ?_
  exact ⟨reqSet (fieldAt b 9 1 == 1) c, by rw [hctxs, assocGet_mod_same, hc]; rfl, rfl⟩

theorem ctxRestore_completes (ha : RomAccepts 0x13 fn s pa b []) {c : Context} (hc : assocGet s.ctxs (romCtx b) = some c)
    (hst : c.cstate = 2) (hr : c.restoring = none) : Completes (.ctxRestore fn) s fun t => t.hub = s.hub ∧ SameBytes s t ∧
      assocGet t.ctxs (romCtx b) = some { c with restoring := some fn } := by
  have he : exec (.ctxRestore fn) s = execCtxRestore fn s := rfl
  unfold execCtxRestore at he
  have hbody : ∀ r : Nat → Context → CmdOut, (withCtx b s fun x c => if c.cstate = 1 ∨ c.cstate = 2 then
      .waits (if c.restoring.isSome then none else some (modCtx s x fun c => { c with restoring := some fn }))
      else r x c) = .waits (some (modCtx s (romCtx b) fun c => { c with restoring := some fn })) := fun r => by
    simp [withCtx, hc, hst, hr]
  refine ⟨_, he.trans ((romRun_accepted (o := some (modCtx s (romCtx b) fun c => { c with restoring := some fn })) ha (by decide)
    (fun st off res t h => ?_) fun t h => ?_).trans rfl), rfl, ⟨fun _ => rfl, rfl⟩,
    modCtx_gets (fun c => { c with restoring := some fn }) hc⟩
  · cases (hbody _).symm.trans h
  · cases (hbody _).symm.trans h
    rfl

theorem ctxKill_completes (ha : RomAccepts 0x14 fn s pa b []) : Completes (.ctxKill fn) s fun t => RomEnds fn pa 0 0 s t ∧
    ∀ u w, assocGet t.waves u = some w → w.ctx = romCtx b → w.Ended := by
  have he : exec (.ctxKill fn) s = execCtxKill fn s := rfl
  unfold execCtxKill at he
  refine rom_leaves he ha (by decide) rfl (killContext_keeps s _) fun t' h => ?_
  rw [h.waves]
  exact killContext_ends s _

/-! The commands on queues. -/

/-- A command that writes fields of a control block and then does `f`, which writes neither commands nor memory. -/
theorem rom_qcbThen {i : Instr} {op : Nat} {fields : List Byte → State → List (Nat × Bool)} {body : List Byte → State → CmdOut}
    {s1 : State} {x q : Nat} {qcb : VA} {fs : List (Nat × Nat × Nat)} {f : State → State} {k : Queue}
    (he : exec i s = romRun op fn s fields body) (ha : RomAccepts op fn s pa b (fields b s)) (hop : op ∈ romCodes)
    (hb : body b s = .ends 0 0 [] (qcbThen s1 x qcb fs f f)) (hw : DeviceWork s s1) (hk : ∀ t, KeepsCommands t (f t))
    (hf : ∀ t, DeviceWork s t → HasQueue (f t) x q k) :
    (∀ t, qcbSet s1 x qcb fs = .ok t → Completes i s fun t => RomEnds fn pa 0 0 s t ∧
      HasContext t x fun c' => assocGet c'.queues q = some k) ∧
    ∀ e, qcbSet s1 x qcb fs = .error e → Completes i s fun t => RomEnds fn pa 0 0 s t ∧ ContextFaulted t x e := by
  refine ⟨fun t ht => ?_, fun e hr => ?_⟩
  · rw [qcbThen_written ht] at hb
    have hwork := hw.trans (qcbSet_work ht)
    exact rom_leaves he ha hop hb ((KeepsCommands.of_work hwork).trans (hk t)) fun t' h => HasContext.leaves h (hf t hwork)
  · have hfault := qcbThen_faults hr f (g := f) (hf s1 hw).context
    have hkeep : KeepsCommands s (qcbThen s1 x qcb fs f f) := by
      unfold qcbThen
      rw [hr]
      exact ((KeepsCommands.of_work hw).trans (hk s1)).trans (contextFault_keeps _ _ _)
    exact rom_leaves he ha hop hb hkeep fun t' h => HasContext.leaves h hfault

theorem queueCreate_completes (ha : RomAccepts 0x18 fn s pa b
      [(9, decide (7 < fieldAt b 9 1) || (ctxQueue b s).isSome), (16, fieldAt b 16 10 % 64 != 0)]) {s1 : State} {h : List Byte}
    (hd : devRead s (romCtx b) (vaAt b 16).toNat 28 none = .ok (s1, h)) (h128 : fieldAt h 0 10 % 128 = 0) (hlo : 4 ≤ fieldAt h 10 1)
    (hhi : fieldAt h 10 1 ≤ 16) (hw : fieldAt h 24 4 = 0) :
    let seq : Word := BitVec.ofNat 32 (fieldAt b 26 4)
    let fs := [(28, 4, 0), (16, 4, seq.toNat), (20, 4, (seq - 1).toNat), (12, 4, 0), (32, 4, 0), (11, 1, 0)]
    (∀ t, qcbSet s1 (romCtx b) (vaAt b 16) fs = .ok t → Completes (.queueCreate fn) s fun t => RomEnds fn pa 0 0 s t ∧
      HasContext t (romCtx b) fun c' => assocGet c'.queues (fieldAt b 9 1) = some ⟨vaAt b 16, 0, 0, 0, seq, seq - 1, none⟩) ∧
    ∀ e, qcbSet s1 (romCtx b) (vaAt b 16) fs = .error e → Completes (.queueCreate fn) s fun t => RomEnds fn pa 0 0 s t ∧
      ContextFaulted t (romCtx b) e := by
  intro seq fs
  have he : exec (.queueCreate fn) s = execQueueCreate fn s := rfl
  unfold execQueueCreate at he
  obtain ⟨c, hc⟩ := ha.context (by decide)
  refine rom_qcbThen (f := fun s => modCtx s (romCtx b) fun c =>
      { c with queues := assocSet c.queues (fieldAt b 9 1) ⟨vaAt b 16, 0, 0, 0, seq, seq - 1, none⟩ })
    he ha (by decide) ?_ (devRead_work _ hd) (fun t => modCtx_keeps (.refl t) _ _) fun t ht => ?_
  · simp only [hd]
    rw [if_neg (by omega)]
  · obtain ⟨c', hc', -⟩ := ht.ctx _ c hc
    exact ⟨_, modCtx_gets _ hc', assocGet_set_same _ _ _⟩

/-- The queue's check passes where its state is neither of those that a packet holds. -/
theorem queueField_passes {k : Queue} (hk : ctxQueue b s = some k) (h1 : k.state ≠ 1) (h2 : k.state ≠ 2) :
    ∀ y ∈ queueField b s, y.2 = false := by
  intro y hy
  obtain rfl := List.mem_singleton.1 hy
  simp [hk, h1, h2]

theorem hasQueue_ctxQueue {k : Queue} (hk : ctxQueue b s = some k) : HasQueue s (romCtx b) (fieldAt b 9 1) k := by
  obtain ⟨c, hc, hq⟩ := Option.bind_eq_some_iff.1 hk
  exact ⟨c, hc, hq⟩

theorem queueReset_completes {k : Queue} (hk : ctxQueue b s = some k) (h1 : k.state ≠ 1) (h2 : k.state ≠ 2)
    (ha : RomAccepts 0x19 fn s pa b []) :
    let r : Word := BitVec.ofNat 32 (fieldAt b 12 4)
    let n : Word := BitVec.ofNat 32 (fieldAt b 16 4)
    let fs := [(28, 4, r.toNat), (16, 4, n.toNat), (12, 4, 0), (32, 4, 0), (11, 1, 0)]
    (∀ t, qcbSet s (romCtx b) k.qcb fs = .ok t → Completes (.queueReset fn) s fun t => RomEnds fn pa 0 0 s t ∧
      HasContext t (romCtx b) fun c' => assocGet c'.queues (fieldAt b 9 1) = some { k with ridx := r, rseq := n, state := 0 }) ∧
    ∀ e, qcbSet s (romCtx b) k.qcb fs = .error e → Completes (.queueReset fn) s fun t => RomEnds fn pa 0 0 s t ∧
      ContextFaulted t (romCtx b) e := by
  intro r n fs
  have he : exec (.queueReset fn) s = execQueueReset fn s := rfl
  unfold execQueueReset at he
  refine rom_qcbThen (f := fun s => modQueue s (romCtx b) (fieldAt b 9 1) fun k => { k with ridx := r, rseq := n, state := 0 })
    he (ha.withFields fun y hy => .inr (queueField_passes hk h1 h2 y hy)) (by decide) ?_ (.refl s)
    (fun t => modCtx_keeps (.refl t) _ _) fun t ht => modQueue_has (fun k => { k with ridx := r, rseq := n, state := 0 })
      (.of_work ht (hasQueue_ctxQueue hk))
  simp only [hk]
  rfl

theorem queueDestroy_completes {k : Queue} (hk : ctxQueue b s = some k) (h1 : k.state ≠ 1) (h2 : k.state ≠ 2)
    (ha : RomAccepts 0x1A fn s pa b []) : Completes (.queueDestroy fn) s fun t => RomEnds fn pa 0 0 s t ∧
      HasContext t (romCtx b) fun c' => assocGet c'.queues (fieldAt b 9 1) = none := by
  have he : exec (.queueDestroy fn) s = execQueueDestroy fn s := rfl
  unfold execQueueDestroy at he
  obtain ⟨c, hc, -⟩ := hasQueue_ctxQueue hk
  refine rom_leaves he (ha.withFields fun y hy => .inr (queueField_passes hk h1 h2 y hy)) (by decide) rfl
    ((modCtx_keeps (.refl s) _ _).trans (stopWaiters_keeps 8 _ _ _)) fun t' h => HasContext.leaves h ?_
  refine stopWaiters_context 8 ⟨fun _ _ _ h => h, fun c q f h => ?_⟩ (fun _ _ _ h => h) _ _ ⟨_, modCtx_gets _ hc, assocGet_del_same _ _⟩
  by_cases hq : q = fieldAt b 9 1
  · subst hq
    exact (assocGet_mod_same _ _ _).trans (by rw [h]; rfl)
  · exact (assocGet_mod_other _ _ _ _ (Ne.symm hq)).trans h

end

end Sys2Proof.Machine
end

section
/-!
SUPPORT. The settled statement on commands of a context: firmware's record of pages when one page of it is replaced, and the commands
on pages and buffers (06 R140; 12 R297, R298).
-/

namespace Sys2Proof.Machine

/-! Records of pages with one page replaced. -/

/-- The record that covers an address, but for its extent. -/
def Pages.Rest (p r : Pages) : Prop := r = { p with va := r.va, n := r.n }

theorem covers_iff (p : Pages) (a : Nat) : p.covers a = true ↔ p.va ≤ a ∧ a < p.va + p.size * p.n := by
  rw [Nat.mul_comm]
  simp [Pages.covers]

/-- Index of the page of an address in the record that covers it. -/
def Pages.index (p : Pages) (a : Nat) : Nat := (a - p.va) / p.size

/-- The pages before page `k`, and those after it. -/
def Pages.before (p : Pages) (k : Nat) : Pages := { p with n := k }
def Pages.after (p : Pages) (k : Nat) : Pages := { p with va := p.va + (k + 1) * p.size, n := p.n - k - 1 }

theorem mem_around {p r : Pages} {a : Nat} : r ∈ p.around a ↔
    (p.index a ≠ 0 ∧ r = p.before (p.index a)) ∨ (p.index a + 1 < p.n ∧ r = p.after (p.index a)) := by
  unfold Pages.around
  rw [List.mem_append]
  refine or_congr ?_ ?_
  · show r ∈ (if p.index a = 0 then [] else [p.before (p.index a)]) ↔ _
    split <;> simp [*]
  · show r ∈ (if p.n ≤ p.index a + 1 then [] else [p.after (p.index a)]) ↔ _
    split
    · simp [Nat.not_lt.2 ‹_›]
    · simp [Nat.lt_of_not_le ‹_›]

/-- Where page `index` of a covered address lies in its record. -/
theorem index_bounds {p : Pages} {a : Nat} (h : p.covers a = true) : p.va + p.size * p.index a ≤ a ∧
    a < p.va + p.size * p.index a + p.size ∧ p.size * p.index a + p.size ≤ p.size * p.n := by
  obtain ⟨hlo, hhi⟩ := (covers_iff p a).1 h
  have hsize : 0 < p.size := Nat.pos_of_ne_zero fun h0 => by simp [h0] at hhi; omega
  have hdiv : p.size * p.index a + (a - p.va) % p.size = a - p.va := Nat.div_add_mod _ _
  have hmod := Nat.mod_lt (a - p.va) hsize
  have hk : p.index a < p.n := Nat.lt_of_mul_lt_mul_left (a := p.size) (by omega)
  have hmul := Nat.mul_le_mul_left p.size hk
  rw [Nat.mul_succ] at hmul
  exact ⟨by omega, by omega, hmul⟩

theorem before_covers (p : Pages) (k v : Nat) : (p.before k).covers v = true ↔ p.va ≤ v ∧ v < p.va + p.size * k :=
  covers_iff _ _

theorem after_covers {p : Pages} {k : Nat} (hk : p.size * k + p.size ≤ p.size * p.n) (v : Nat) :
    (p.after k).covers v = true ↔ p.va + p.size * k + p.size ≤ v ∧ v < p.va + p.size * p.n := by
  have hlo : p.va + (k + 1) * p.size = p.va + p.size * k + p.size := by ring
  have hrest : p.size * (p.n - k - 1) = p.size * p.n - (p.size * k + p.size) := by
    rw [Nat.sub_sub, Nat.mul_sub, Nat.mul_succ]
  refine (covers_iff _ _).trans ?_
  show p.va + (k + 1) * p.size ≤ v ∧ v < p.va + (k + 1) * p.size + p.size * (p.n - k - 1) ↔ _
  rw [hlo, hrest]
  omega

/-- The ranges around a page are parts of its record that do not cover it. -/
theorem around_part {p r : Pages} {a : Nat} (hp : p.covers a = true) (hr : r ∈ p.around a) :
    p.Rest r ∧ r.covers a = false ∧ ∀ v, r.covers v = true → p.covers v = true := by
  obtain ⟨hlo, hhi, hin⟩ := index_bounds hp
  rcases mem_around.1 hr with ⟨-, rfl⟩ | ⟨-, rfl⟩
  · refine ⟨rfl, Bool.eq_false_iff.2 fun h => ?_, fun v hv => ?_⟩
    · obtain ⟨-, h⟩ := (before_covers _ _ _).1 h
      omega
    · obtain ⟨h1, h2⟩ := (before_covers _ _ _).1 hv
      exact (covers_iff p v).2 ⟨h1, by omega⟩
  · refine ⟨rfl, Bool.eq_false_iff.2 fun h => ?_, fun v hv => ?_⟩
    · obtain ⟨h, -⟩ := (after_covers hin _).1 h
      omega
    · obtain ⟨h1, h2⟩ := (after_covers hin _).1 hv
      exact (covers_iff p v).2 ⟨by omega, h2⟩

/-- An address a page or more away is still covered. -/
theorem around_covers {p : Pages} {a v : Nat} (hp : p.covers a = true) (hv : p.covers v = true)
    (hfar : v + p.size ≤ a ∨ a + p.size ≤ v) : ∃ r ∈ p.around a, r.covers v = true := by
  obtain ⟨hlo, hhi, hin⟩ := index_bounds hp
  obtain ⟨hlo', hhi'⟩ := (covers_iff p v).1 hv
  rcases hfar with hfar | hfar
  · refine ⟨_, mem_around.2 (.inl ⟨fun h0 => ?_, rfl⟩), (before_covers _ _ _).2 ⟨hlo', by omega⟩⟩
    rw [h0] at hhi
    omega
  · refine ⟨_, mem_around.2 (.inr ⟨?_, rfl⟩), (after_covers hin _).2 ⟨by omega, hhi'⟩⟩
    refine Nat.lt_of_mul_lt_mul_left (a := p.size) ?_
    rw [Nat.mul_succ]
    omega

/-- The first record of the pieces of `p` that covers `v`, `p` itself where it has none. -/
theorem pageAt_replace (c : Context) (a v : Nat) (new : List Pages) : pageAt (pageReplace c a new) v =
    c.pages.findSome? fun p => (if p.covers a then p.around a ++ new else [p]).find? fun r => r.covers v :=
  List.find?_flatMap ..

/-- An address covered by no record and by no new one. -/
theorem pageAt_replace_none {c : Context} {a v : Nat} {new : List Pages} (hnew : ∀ r ∈ new, r.covers v = false)
    (h : pageAt c v = none ∨ v = a) : pageAt (pageReplace c a new) v = none := by
  rw [pageAt_replace, List.findSome?_eq_none_iff]
  intro p hp
  rw [List.find?_eq_none]
  intro r hr
  split at hr
  · rename_i hcov
    rcases List.mem_append.1 hr with hr | hr
    · obtain ⟨-, hout, hpart⟩ := around_part hcov hr
      rcases h with h | rfl
      · exact fun hv => List.find?_eq_none.1 h p hp (hpart v hv)
      · exact Bool.eq_false_iff.1 hout
    · exact Bool.eq_false_iff.1 (hnew r hr)
  · rename_i hcov
    obtain rfl := List.mem_singleton.1 hr
    rcases h with h | rfl
    · exact List.find?_eq_none.1 h r hp
    · exact hcov

/-- The page replaced. -/
theorem pageAt_replace_same {c : Context} {a : Nat} {p q : Pages} (h : pageAt c a = some p) (hq : q.covers a = true) :
    pageAt (pageReplace c a [q]) a = some q := by
  have hpiece : ∀ p : Pages, ((if p.covers a then p.around a ++ [q] else [p]).find? fun r => r.covers a) =
      if p.covers a then some q else none := fun p => by
    split
    · rename_i hcov
      rw [List.find?_append, List.find?_eq_none.2 fun r hr => Bool.eq_false_iff.1 (around_part hcov hr).2.1]
      simp [hq]
    · rename_i hcov
      simp [hcov]
  rw [pageAt_replace]
  simp only [hpiece]
  obtain ⟨hcov, l, r, hl, hbefore⟩ := List.find?_eq_some_iff_append.1 h
  rw [hl, List.findSome?_append, List.findSome?_eq_none_iff.2 fun y hy => by simpa using hbefore y hy]
  simp [hcov]

/-- A page elsewhere keeps its record, but for its extent. -/
theorem pageAt_replace_other {c : Context} {a v : Nat} {p q : Pages} (h : pageAt c v = some p) (hq : q.covers v = false)
    (hfar : v + p.size ≤ a ∨ a + p.size ≤ v) : ∃ r, pageAt (pageReplace c a [q]) v = some r ∧ p.Rest r := by
  obtain ⟨hcov, l, r, hl, hbefore⟩ := List.find?_eq_some_iff_append.1 h
  have hmiss : ∀ y ∈ l, ((if y.covers a then y.around a ++ [q] else [y]).find? fun r => r.covers v) = none := fun y hy => by
    have hy : ¬y.covers v = true := by simpa using hbefore y hy
    rw [List.find?_eq_none]
    intro r hr
    split at hr
    · rename_i hya
      rcases List.mem_append.1 hr with hr | hr
      · obtain ⟨-, -, hpart⟩ := around_part hya hr
        exact fun hv => hy (hpart v hv)
      · obtain rfl := List.mem_singleton.1 hr
        exact Bool.eq_false_iff.1 hq
    · obtain rfl := List.mem_singleton.1 hr
      exact hy
  rw [pageAt_replace, hl, List.findSome?_append, List.findSome?_eq_none_iff.2 hmiss, Option.none_or, List.findSome?_cons]
  split
  · rename_i r0 hfind
    refine ⟨r0, rfl, ?_⟩
    have hmem := List.mem_of_find?_eq_some hfind
    have hr0 : r0.covers v = true := List.find?_some (p := fun r : Pages => r.covers v) hfind
    split at hmem
    · rename_i hpa
      rcases List.mem_append.1 hmem with hmem | hmem
      · exact (around_part hpa hmem).1
      · obtain rfl := List.mem_singleton.1 hmem
        rw [hq] at hr0
        cases hr0
    · obtain rfl := List.mem_singleton.1 hmem
      rfl
  · rename_i hfind
    exfalso
    rw [List.find?_eq_none] at hfind
    split at hfind
    · rename_i hpa
      obtain ⟨r0, hr0, hrv⟩ := around_covers hpa hcov hfar
      exact hfind r0 (List.mem_append_left _ hr0) hrv
    · exact hfind p (List.mem_singleton.2 rfl) hcov

end Sys2Proof.Machine
end

section
/-!
SUPPORT. The settled statement on commands of a context: those on pages and buffers (12 R297, R298).
-/

namespace Sys2Proof.Machine

/-! Entries written leave firmware's record of pages. -/

/-- Table entries written change of contexts their tables alone. -/
theorem putEntry_tables {x va target e : Nat} (lvl : Nat) {s t : State} {table : Nat} {c : Context}
    (h : putEntry s x table va target e lvl = some t) (hc : assocGet s.ctxs x = some c) :
    ∃ ts, assocGet t.ctxs x = some { c with tables := ts } := by
  induction lvl generalizing s table c with
  | zero =>
    unfold putEntry at h
    split at h
    · obtain rfl := Option.some.inj h
      exact ⟨_, hc⟩
    · cases h
  | succ l ih =>
    unfold putEntry at h
    split at h
    · obtain rfl := Option.some.inj h
      exact ⟨_, hc⟩
    · dsimp only at h
      split at h
      · exact ih h hc
      · split at h
        · cases h
        · rename_i f _
          exact ih (c := { c with tables := f :: c.tables }) h
            (modCtx_gets (s := entryPut (frameTake s f (2 ^ 16)) _ _) (fun c => { c with tables := f :: c.tables }) hc)

theorem mapAll_maps {x pa : Nat} {p : Pages} {s0 : State} {c0 : Context} (is : List Nat) {r : Option State} {t : State}
    (h : is.foldl (fun (r : Option State) i =>
      r.bind fun t => putEntry t x c0.ptb (p.va + i * p.size) p.psz (mapEntry s0 p pa i) 4) r = some t) :
    ∃ s, r = some s ∧ KeepsCommands s t ∧
      ∀ c, assocGet s.ctxs x = some c → ∃ ts, assocGet t.ctxs x = some { c with tables := ts } := by
  induction is generalizing r with
  | nil => exact ⟨t, h, .refl t, fun c hc => ⟨_, hc⟩⟩
  | cons i l ih =>
    obtain ⟨s1, h1, hk, hp⟩ := ih h
    obtain ⟨s, rfl, hput⟩ := Option.bind_eq_some_iff.1 h1
    refine ⟨s, rfl, (KeepsCommands.of_work (putEntry_work 4 hput)).trans hk, fun c hc => ?_⟩
    obtain ⟨ts, hts⟩ := putEntry_tables 4 hput hc
    exact hp { c with tables := ts } hts

theorem setValid_keeps (s : State) (c : Context) (va : Nat) (v : Bool) : KeepsCommands s (setValid s c va v) := by
  unfold setValid
  split
  · exact ⟨rfl, fun h => memWrite_wf _ _ h⟩
  · exact .refl s

/-! One page unmapped or protected. -/

theorem unmapOne_keeps (x : Nat) (s : State) (a : Nat) : KeepsCommands s (unmapOne x s a) := by
  unfold unmapOne
  split
  · exact .refl s
  · rename_i c hc
    split
    · exact .refl s
    · rename_i p hp
      have hput : ∀ t, KeepsCommands s t → KeepsCommands s ((putEntry t x c.ptb a p.psz 0 4).getD t) := fun t ht => by
        cases hq : putEntry t x c.ptb a p.psz 0 4 with
        | none => exact ht
        | some r => exact ht.trans (.of_work (putEntry_work 4 hq))
      have hfree : ∀ pa, KeepsCommands s (if paRegion pa = 0 then frameFree s pa else s) := fun pa => by
        split <;> exact .of_same rfl rfl
      dsimp only
      refine (hput _ ?_).after rfl rfl
      split
      · split
        · exact (hfree _).after rfl rfl
        · exact .of_same rfl rfl
      · split
        · exact hfree _
        · exact .refl s

/-- A page unmapped is covered by no record, and no address is covered that was not. -/
theorem unmapOne_uncovers {x a : Nat} {s : State} {c : Context} (hc : assocGet s.ctxs x = some c) :
    ∃ c', assocGet (unmapOne x s a).ctxs x = some c' ∧ ∀ v, pageAt c v = none ∨ v = a → pageAt c' v = none := by
  unfold unmapOne
  rw [hc]
  dsimp only
  cases hp : pageAt c a with
  | none => exact ⟨c, hc, fun v hv => hv.elim id fun h => h ▸ hp⟩
  | some p => exact ⟨_, assocGet_set_same _ _ _, fun v hv => pageAt_replace_none (by simp) hv⟩

theorem unmapAll_uncovers {x : Nat} (as : List Nat) {s : State} {c : Context} (hc : assocGet s.ctxs x = some c) :
    ∃ c', assocGet (as.foldl (unmapOne x) s).ctxs x = some c' ∧ ∀ v, pageAt c v = none ∨ v ∈ as → pageAt c' v = none := by
  induction as generalizing s c with
  | nil => exact ⟨c, hc, fun v hv => hv.resolve_right (by simp)⟩
  | cons a r ih =>
    obtain ⟨c1, hc1, h1⟩ := unmapOne_uncovers (a := a) hc
    obtain ⟨c2, hc2, h2⟩ := ih hc1
    refine ⟨c2, hc2, fun v hv => h2 v ?_⟩
    rcases hv with hv | hv
    · exact .inl (h1 v (.inl hv))
    · rcases List.mem_cons.1 hv with rfl | hv
      · exact .inl (h1 _ (.inr rfl))
      · exact .inr hv

/-- The record of one page with W, X, U and PIN of `fl`. -/
def protectedPage (p : Pages) (fl a : Nat) : Pages :=
  { p.one a with w := bitOf fl 0, x := bitOf fl 1, u := bitOf fl 2, pin := bitOf fl 3 }

theorem protectOne_keeps (x fl : Nat) (s : State) (a : Nat) : KeepsCommands s (protectOne x fl s a) := by
  unfold protectOne
  split
  · exact .refl s
  · split
    · exact .refl s
    · dsimp only
      split
      · exact ⟨rfl, fun h => memWrite_wf _ _ h⟩
      · exact .of_same rfl rfl

theorem protectOne_context {x fl a : Nat} {s : State} {c : Context} {p : Pages} (hc : assocGet s.ctxs x = some c)
    (hp : pageAt c a = some p) :
    assocGet (protectOne x fl s a).ctxs x = some (pageReplace c a [protectedPage p fl a]) := by
  unfold protectOne
  rw [hc]
  dsimp only
  rw [hp]
  dsimp only
  split <;> exact assocGet_set_same _ _ _

/-- W, X, U and PIN of the record are those of `fl`. -/
def Pages.HasBits (p : Pages) (fl : Nat) : Prop := p.w = bitOf fl 0 ∧ p.x = bitOf fl 1 ∧ p.u = bitOf fl 2 ∧ p.pin = bitOf fl 3

theorem Pages.Rest.bits {p r : Pages} {fl : Nat} (h : p.Rest r) (hp : p.HasBits fl) : r.HasBits fl := by
  unfold Pages.Rest at h
  rw [h]
  exact hp

theorem Pages.Rest.psz {p r : Pages} (h : p.Rest r) : r.psz = p.psz := by
  unfold Pages.Rest at h
  rw [h]

theorem protectedPage_covers {p : Pages} {fl a : Nat} (ha : a / p.size * p.size = a) (v : Nat) :
    (protectedPage p fl a).covers v = true ↔ a ≤ v ∧ v < a + p.size := by
  refine (covers_iff _ v).trans ?_
  show a / p.size * p.size ≤ v ∧ v < a / p.size * p.size + p.size * 1 ↔ _
  rw [ha, Nat.mul_one]

/-- A mapped page of size code `z` at an address of its first byte. -/
def PageFits (c : Context) (z a : Nat) : Prop := ∃ p, pageAt c a = some p ∧ p.psz = z ∧ a / pageBytes z * pageBytes z = a

/-- One page protected: it has its bits, and pages of its size elsewhere stand but for the extents of their records. -/
theorem protectOne_protects {x fl z a : Nat} {s : State} {c : Context} (hc : assocGet s.ctxs x = some c) (ha : PageFits c z a) :
    ∃ c', assocGet (protectOne x fl s a).ctxs x = some c' ∧ (∃ p, pageAt c' a = some p ∧ p.psz = z ∧ p.HasBits fl) ∧
      ∀ v p, v + pageBytes z ≤ a ∨ a + pageBytes z ≤ v → pageAt c v = some p → p.psz = z →
        ∃ r, pageAt c' v = some r ∧ p.Rest r := by
  obtain ⟨p, hp, rfl, haligned⟩ := ha
  have hcov := fun v => protectedPage_covers (fl := fl) (show a / p.size * p.size = a from haligned) v
  have hpos : 0 < p.size := by unfold Pages.size pageBytes; positivity
  refine ⟨_, protectOne_context hc hp, ⟨_, pageAt_replace_same hp ((hcov a).2 ⟨le_rfl, by omega⟩), rfl, rfl, rfl, rfl, rfl⟩,
    fun v r hfar hr hz => ?_⟩
  have hsize : pageBytes p.psz = p.size := rfl
  refine pageAt_replace_other hr (Bool.eq_false_iff.2 fun h => ?_) (by unfold Pages.size; rw [hz]; exact hfar)
  obtain ⟨h1, h2⟩ := (hcov v).1 h
  omega

/-- Pages of one size protected one after another. -/
theorem protectAll_protects {x fl z : Nat} (as : List Nat) (hfar : as.Pairwise fun a v => a + pageBytes z ≤ v) {s : State} {c : Context}
    (hc : assocGet s.ctxs x = some c) (hfits : ∀ a ∈ as, PageFits c z a) :
    ∃ c', assocGet (as.foldl (protectOne x fl) s).ctxs x = some c' ∧ (∀ a ∈ as, ∃ p, pageAt c' a = some p ∧ p.HasBits fl) ∧
      ∀ v p, (∀ a ∈ as, v + pageBytes z ≤ a) → pageAt c v = some p → p.psz = z → ∃ r, pageAt c' v = some r ∧ p.Rest r := by
  induction as generalizing s c with
  | nil => exact ⟨c, hc, by simp, fun v p _ hp _ => ⟨p, hp, rfl⟩⟩
  | cons a as ih =>
    obtain ⟨hhead, htail⟩ := List.pairwise_cons.1 hfar
    obtain ⟨c1, hc1, ⟨pa, hpa, hza, hbits⟩, hother⟩ := protectOne_protects (fl := fl) hc (hfits a (by simp))
    obtain ⟨c2, hc2, hdone, hrest⟩ := ih htail hc1 fun v hv => by
      obtain ⟨p, hp, hz, haligned⟩ := hfits v (by simp [hv])
      obtain ⟨r, hr, hkeep⟩ := hother v p (.inr (hhead v hv)) hp hz
      exact ⟨r, hr, hkeep.psz.trans hz, haligned⟩
    refine ⟨c2, hc2, fun v hv => ?_, fun v p hv hp hz => ?_⟩
    · rcases List.mem_cons.1 hv with rfl | hv
      · obtain ⟨r, hr, hkeep⟩ := hrest v pa hhead hpa hza
        exact ⟨r, hr, hkeep.bits hbits⟩
      · exact hdone v hv
    · obtain ⟨r, hr, hkeep⟩ := hother v p (.inl (hv a (by simp))) hp hz
      obtain ⟨r', hr', hkeep'⟩ := hrest v r (fun y hy => hv y (by simp [hy])) hr (hkeep.psz.trans hz)
      refine ⟨r', hr', ?_⟩
      unfold Pages.Rest at *
      rw [hkeep', hkeep]

/-! The pages that a command names. -/

theorem spanPages_apart (b : List Byte) : (spanPages b).Pairwise fun a v => a + pageBytes (pszOf b) ≤ v := by
  unfold spanPages
  refine List.pairwise_map.2 (List.pairwise_lt_range.imp fun {i j} h => ?_)
  have := Nat.mul_le_mul_right (pageBytes (pszOf b)) h
  rw [Nat.succ_mul] at this
  omega

theorem spanMapped_fits {b : List Byte} {c : Context} (h : spanMapped b c = true) : ∀ a ∈ spanPages b, PageFits c (pszOf b) a := by
  intro a ha
  have hmap := List.all_eq_true.1 h a ha
  split at hmap
  · rename_i p hp
    obtain ⟨hz, hone⟩ := Bool.and_eq_true_iff.1 hmap
    have hz : p.psz = pszOf b := by simpa using hz
    refine ⟨p, hp, hz, ?_⟩
    rw [← hz]
    exact beq_iff_eq.1 hone
  · cases hmap

/-! The commands on pages and buffers. -/

section
variable {fn pa : Nat} {s : State} {b : List Byte} {c : Context}

theorem map_completes (ha : RomAccepts 0x20 fn s pa b (mapFields b s)) {t' : State} (hc : assocGet s.ctxs (romCtx b) = some c)
    (hmeets : c.pages.any (mapRecord b).meets = false) (hmap : mapAll s (romCtx b) c (mapRecord b) (fieldAt b 30 8) = some t') :
    Completes (.map fn) s fun t => RomEnds fn pa 0 0 s t ∧ HasContext t (romCtx b) fun c' => c'.pages = mapRecord b :: c.pages := by
  have he : exec (.map fn) s = execMap fn s := rfl
  unfold execMap at he
  obtain ⟨s1, hs1, hkeep, htables⟩ := mapAll_maps _ hmap
  cases hs1
  obtain ⟨ts, hts⟩ := htables c hc
  refine rom_leaves he ha (by decide) ?_ (modCtx_keeps hkeep _ _) fun t h =>
    HasContext.leaves h ⟨_, modCtx_gets (fun c => { c with pages := mapRecord b :: c.pages }) hts, rfl⟩
  simp only [withCtx, hc, hmeets, hmap]
  rfl

theorem unmap_completes (hc : assocGet s.ctxs (romCtx b) = some c) (hspan : spanMapped b c = true)
    (ha : RomAccepts 0x21 fn s pa b (spanFields b)) : Completes (.unmap fn) s fun t => RomEnds fn pa 0 0 s t ∧
      HasContext t (romCtx b) fun c' => ∀ a ∈ spanPages b, pageAt c' a = none := by
  have he : exec (.unmap fn) s = execUnmap fn s := rfl
  unfold execUnmap at he
  obtain ⟨c', hc', hnone⟩ := unmapAll_uncovers (spanPages b) hc
  refine rom_leaves he ha (by decide) ?_ (.foldl (fun t a => unmapOne_keeps _ t a) _ (.refl s)) fun t h =>
    HasContext.leaves h ⟨c', hc', fun a ha => hnone a (.inr ha)⟩
  simp only [withCtx, hc, hspan, if_true]

theorem protect_completes (hc : assocGet s.ctxs (romCtx b) = some c) (hspan : spanMapped b c = true)
    (ha : RomAccepts 0x22 fn s pa b ((9, decide (16 ≤ fieldAt b 9 1)) :: spanFields b)) :
    Completes (.protect fn) s fun t => RomEnds fn pa 0 0 s t ∧
      HasContext t (romCtx b) fun c' => ∀ a ∈ spanPages b, ∃ p, pageAt c' a = some p ∧ p.HasBits (fieldAt b 9 1) := by
  have he : exec (.protect fn) s = execProtect fn s := rfl
  unfold execProtect at he
  obtain ⟨c', hc', hbits, -⟩ := protectAll_protects (fl := fieldAt b 9 1) (spanPages b) (spanPages_apart b) hc (spanMapped_fits hspan)
  refine rom_leaves he ha (by decide) ?_ (.foldl (fun t a => protectOne_keeps _ _ t a) _ (.refl s)) fun t h =>
    HasContext.leaves h ⟨c', hc', hbits⟩
  simp only [withCtx, hc, hspan, if_true]

theorem bufRegister_completes (hc : assocGet s.ctxs (romCtx b) = some c)
    (ha : RomAccepts 0x23 fn s pa b [(9, decide (1 < fieldAt b 9 1)), (12, fieldAt b 12 10 % 2 ^ 16 != 0 ||
        (fieldAt b 9 1 == 1 && !((assocGet s.ctxs (romCtx b)).any fun c => c.bufs.any (·.va == fieldAt b 12 10)))),
      (22, fieldAt b 22 8 % 2 ^ 16 != 0)])
    (hhold : fieldAt b 9 1 = 1 → ∀ d ∈ c.bufs, d.va = fieldAt b 12 10 → d.hold = none) :
    Completes (.bufRegister fn) s fun t => RomEnds fn pa 0 0 s t ∧ HasContext t (romCtx b) fun c' => c'.bufs =
      if fieldAt b 9 1 = 1 then c.bufs.filter (·.va != fieldAt b 12 10) else ⟨fieldAt b 12 10, fieldAt b 22 8, none, false⟩ :: c.bufs := by
  have he : exec (.bufRegister fn) s = execBufRegister fn s := rfl
  unfold execBufRegister at he
  refine rom_leaves he ha (by decide) (if_neg ?_) (modCtx_keeps (.refl s) _ _) fun t h =>
    HasContext.leaves h ⟨_, modCtx_gets _ hc, rfl⟩
  rintro ⟨h1, hany⟩
  simp only [hc, Option.any_some, List.any_eq_true, Bool.and_eq_true, beq_iff_eq] at hany
  obtain ⟨d, hd, hva, hsome⟩ := hany
  rw [hhold h1 d hd hva] at hsome
  cases hsome

end

/-- Settles O59: what a command's body leaves of contexts and waves, the end of the command leaves too. -/
theorem romContextCommands : Obligations.RomContextCommands := by
  unfold Obligations.RomContextCommands
  intro s fn pa b x q ends ctx wrote
  refine ⟨ctxCreate_completes, ctxDestroy_completes, ctxPreempt_completes, fun ha c hc hst hr => ctxRestore_completes ha hc hst hr,
    ctxKill_completes, fun ha s1 h hd h128 hlo hhi hw => queueCreate_completes ha hd h128 hlo hhi hw, fun k hk h1 h2 =>
      ⟨queueReset_completes hk h1 h2, queueDestroy_completes hk h1 h2⟩, fun ha c t' hc hmeets hmap => map_completes ha hc hmeets hmap,
    fun c hc hspan => ⟨unmap_completes hc hspan, protect_completes hc hspan⟩, fun c hc ha hhold => bufRegister_completes hc ha hhold⟩

end Sys2Proof.Machine
end

section
/-!
SUPPORT. The fragment that a scheduler picks: its order among the ready ones, and the banks' credits (11 R275 to R277).
-/

namespace Sys2Proof.Machine

/-! The order of ready fragments (11 R277). -/

/-- What `fragBefore` compares, as one key: promotion, stamp, slot and leading quad. -/
def issueRank (x : Nat × Wave × Frag) : ℕ ×ₗ ℕ ×ₗ ℕ ×ₗ ℕ ×ₗ ℕ :=
  let rest : ℕ ×ₗ ℕ ×ₗ ℕ := toLex (x.2.2.stamp, toLex (x.2.1.slot, leadQuad x.2.2.quads))
  match x.2.2.promoted with
  | some t => toLex (0, toLex (t, rest))
  | none => toLex (1, toLex (0, rest))

theorem fragBefore_iff (x y : Nat × Wave × Frag) : fragBefore x y = true ↔ issueRank x < issueRank y := by
  unfold fragBefore issueRank
  cases hx : x.2.2.promoted <;> cases hy : y.2.2.promoted <;> simp [hx, hy, Prod.Lex.toLex_lt_toLex]

/-- The best of a list and of the one found so far. -/
theorem foldl_first (l : List (Nat × Wave × Frag)) (y : Nat × Wave × Frag) :
    ∃ z, l.foldl (fun m x => match m with | none => some x | some y => if fragBefore x y then some x else m) (some y) = some z ∧
      (z = y ∨ z ∈ l) ∧ issueRank z ≤ issueRank y ∧ ∀ x ∈ l, issueRank z ≤ issueRank x := by
  induction l generalizing y with
  | nil => exact ⟨y, rfl, .inl rfl, le_rfl, by simp⟩
  | cons a l ih =>
    rw [List.foldl_cons]
    dsimp only
    by_cases hab : fragBefore a y = true
    · obtain ⟨z, hz, hmem, hle, hall⟩ := ih a
      refine ⟨z, by rw [if_pos hab]; exact hz, .inr ?_, hle.trans ((fragBefore_iff a y).1 hab).le, fun x hx => ?_⟩
      · exact hmem.elim (fun e => e ▸ List.mem_cons_self) (List.mem_cons_of_mem _)
      · exact (List.mem_cons.1 hx).elim (fun e => e ▸ hle) (hall x)
    · obtain ⟨z, hz, hmem, hle, hall⟩ := ih y
      have hya : issueRank y ≤ issueRank a := not_lt.1 fun h => hab ((fragBefore_iff a y).2 h)
      refine ⟨z, by rw [if_neg hab]; exact hz, hmem.imp_right (List.mem_cons_of_mem _), hle, fun x hx => ?_⟩
      exact (List.mem_cons.1 hx).elim (fun e => e ▸ hle.trans hya) (hall x)

theorem firstFrag_none {l : List (Nat × Wave × Frag)} : firstFrag l = none ↔ l = [] := by
  cases l with
  | nil => simp [firstFrag]
  | cons a l =>
    obtain ⟨z, hz, -⟩ := foldl_first l a
    have hz : firstFrag (a :: l) = some z := hz
    simp [hz]

/-- The fragment picked is one of the list, and none of it comes before. -/
theorem firstFrag_first {l : List (Nat × Wave × Frag)} {z : Nat × Wave × Frag} (h : firstFrag l = some z) :
    z ∈ l ∧ ∀ x ∈ l, issueRank z ≤ issueRank x := by
  cases l with
  | nil => cases h
  | cons a l =>
    obtain ⟨z', hz, hmem, hle, hall⟩ := foldl_first l a
    obtain rfl : z' = z := Option.some.inj (hz.symm.trans h)
    refine ⟨hmem.elim (fun e => e ▸ List.mem_cons_self) (List.mem_cons_of_mem _), fun x hx => ?_⟩
    exact (List.mem_cons.1 hx).elim (fun e => e ▸ hle) (hall x)

/-! The ready fragments of a scheduler. -/

/-- Fragment `f` of wave `w` is a ready one of scheduler `h` of core `p`. -/
def ReadyHere (s : State) (p h u : Nat) (w : Wave) (f : Frag) : Prop :=
  (u, w) ∈ s.waves ∧ f ∈ w.frags ∧ w.core = p ∧ w.slot / 32 = h ∧ ready s u w f = true

theorem mem_readyFrags {s : State} {p h : Nat} {x : Nat × Wave × Frag} : x ∈ readyFrags s p h ↔
    ∃ f, ReadyHere s p h x.1 x.2.1 f ∧ x.2.2 = f.stamped s.cycle := by
  obtain ⟨u, w, g⟩ := x
  unfold readyFrags
  rw [List.mem_flatMap]
  constructor
  · rintro ⟨⟨v, y⟩, hv, hx⟩
    split at hx
    · rename_i hhere
      obtain ⟨f, hf, he⟩ := List.mem_map.1 hx
      cases he
      obtain ⟨hmem, hready⟩ := List.mem_filter.1 hf
      exact ⟨f, ⟨hv, hmem, hhere.1, hhere.2, hready⟩, rfl⟩
    · cases hx
  · rintro ⟨f, ⟨hw, hf, hcore, hslot, hready⟩, rfl⟩
    refine ⟨(u, w), hw, ?_⟩
    rw [if_pos ⟨hcore, hslot⟩]
    exact List.mem_map.2 ⟨f, List.mem_filter.2 ⟨hf, hready⟩, rfl⟩

theorem ReadyHere.listed {s : State} {p h u : Nat} {w : Wave} {f : Frag} (hr : ReadyHere s p h u w f) :
    (u, w, f.stamped s.cycle) ∈ readyFrags s p h := mem_readyFrags.2 ⟨f, hr, rfl⟩

theorem ready_held {s : State} {u : Nat} {w : Wave} {f : Frag} (h : ready s u w f = true) : f.readyAt ≤ s.cycle := by
  unfold ready at h
  simp only [Bool.and_eq_true, decide_eq_true_eq] at h
  exact h.1.2

theorem stamped_fields (f : Frag) (cycle : Nat) : (f.stamped cycle).quads = f.quads ∧ (f.stamped cycle).promoted = f.promoted ∧
    (f.stamped cycle).stamp = if f.park ≠ .none ∧ f.waited = 0 then cycle else f.stamp := by
  unfold Frag.stamped
  by_cases h : f.park ≠ .none ∧ f.waited = 0
  · rw [if_pos (by simpa using h), if_pos h]
    exact ⟨rfl, rfl, rfl⟩
  · rw [if_neg (by simpa using h), if_neg h]
    exact ⟨rfl, rfl, rfl⟩

/-- Fragment `g` of wave `x` is to issue before `f` of wave `w`, with the stamps `a` and `b`. -/
def Sooner (x : Wave) (g : Frag) (a : Nat) (w : Wave) (f : Frag) (b : Nat) : Prop :=
  (g.promoted.isSome = true ∧ f.promoted = none) ∨ (∃ i j, g.promoted = some i ∧ f.promoted = some j ∧ i < j) ∨
    (g.promoted = f.promoted ∧ (a < b ∨ a = b ∧ (x.slot < w.slot ∨ x.slot = w.slot ∧ leadQuad g.quads < leadQuad f.quads)))

theorem sooner_rank {u v : Nat} {x w : Wave} {g f : Frag} (h : Sooner x g g.stamp w f f.stamp) :
    issueRank (v, x, g) < issueRank (u, w, f) := by
  unfold issueRank
  dsimp only
  rcases h with ⟨hg, hf⟩ | ⟨i, j, hg, hf, hij⟩ | ⟨hp, hrest⟩
  · obtain ⟨i, hi⟩ := Option.isSome_iff_exists.1 hg
    simp [hi, hf, Prod.Lex.toLex_lt_toLex]
  · simp [hg, hf, hij, Prod.Lex.toLex_lt_toLex]
  · rw [hp]
    cases f.promoted <;> simpa [Prod.Lex.toLex_lt_toLex] using hrest

theorem sooner_stamped {s : State} {u v : Nat} {x w : Wave} {g f : Frag}
    (h : Sooner x g (if g.park ≠ .none ∧ g.waited = 0 then s.cycle else g.stamp) w f
      (if f.park ≠ .none ∧ f.waited = 0 then s.cycle else f.stamp)) :
    issueRank (v, x, g.stamped s.cycle) < issueRank (u, w, f.stamped s.cycle) := by
  obtain ⟨hquads, hpromoted, hstamp⟩ := stamped_fields f s.cycle
  obtain ⟨hquads', hpromoted', hstamp'⟩ := stamped_fields g s.cycle
  refine sooner_rank ?_
  unfold Sooner
  rw [hquads, hpromoted, hstamp, hquads', hpromoted', hstamp']
  exact h

/-! The pick. -/

/-- The scheduler has issued in this cycle. -/
def markIssued (s : State) (p h : Nat) : State := modCore s p fun k => { k with issued := h :: k.issued }

/-- Credits of the banks that a scheduler keeps. -/
def creditsOf (s : State) (p h : Nat) : Int × Int := (assocGet (getCore s p).credits h).getD (0, 0)

/-- The scheduler with the credits `v`. -/
def withCredits (s : State) (p h : Nat) (v : Int × Int) : State := modCore s p fun k => { k with credits := assocSet k.credits h v }

/-- The listed fragments of one bank. -/
def bankFrags (s : State) (p : Nat) (l : List (Nat × Wave × Frag)) (b : Bool) : List (Nat × Wave × Frag) :=
  l.filter fun x => (bankIndex s p x.2.1.ctx != 0) == b

/-- A scheduler's pick where fragments of both banks are ready: their credits grow, and the richer bank pays. -/
theorem pick_banks {s : State} {p h : Nat} {x y : Nat × Wave × Frag} {l0 l1 : List (Nat × Wave × Frag)}
    (hi : h ∉ (getCore s p).issued) (h0 : bankFrags s p (readyFrags s p h) false = x :: l0)
    (h1 : bankFrags s p (readyFrags s p h) true = y :: l1) :
    pick s p h = (firstFrag (bankFrags s p (readyFrags s p h) (decide
        ((creditsOf s p h).1 + weightOf s x.2.1.ctx < (creditsOf s p h).2 + weightOf s y.2.1.ctx)))).map fun z =>
      (z.1, leadQuad z.2.2.quads,
        withCredits (markIssued s p h) p h (credit (creditsOf s p h) (weightOf s x.2.1.ctx) (weightOf s y.2.1.ctx)).1) := by
  have h0' : ((readyFrags s p h).filter fun x => bankIndex s p x.2.1.ctx == 0) = x :: l0 := by
    rw [← h0, bankFrags]
    exact List.filter_congr fun a _ => by cases bankIndex s p a.2.1.ctx <;> rfl
  have h1' : ((readyFrags s p h).filter fun x => bankIndex s p x.2.1.ctx != 0) = y :: l1 := by
    rw [← h1, bankFrags]
    exact List.filter_congr fun a _ => by cases bankIndex s p a.2.1.ctx <;> rfl
  have hbank : (if (credit (creditsOf s p h) (weightOf s x.2.1.ctx) (weightOf s y.2.1.ctx)).2 = 0 then x :: l0 else y :: l1) =
      bankFrags s p (readyFrags s p h) (decide
        ((creditsOf s p h).1 + weightOf s x.2.1.ctx < (creditsOf s p h).2 + weightOf s y.2.1.ctx)) := by
    unfold credit
    dsimp only
    split <;> rename_i hlt
    · rw [decide_eq_true (gt_iff_lt.1 hlt), h1]; rfl
    · rw [decide_eq_false (mt gt_iff_lt.2 hlt), h0]; rfl
  rw [← hbank]
  unfold pick
  rw [if_neg (by simpa using hi)]
  simp only [h0', h1']
  rfl

theorem pick_plain {s : State} {p h : Nat} (hi : h ∉ (getCore s p).issued)
    (hone : bankFrags s p (readyFrags s p h) false = [] ∨ bankFrags s p (readyFrags s p h) true = []) :
    pick s p h = (firstFrag (readyFrags s p h)).map fun z => (z.1, leadQuad z.2.2.quads, markIssued s p h) := by
  have h0 : ((readyFrags s p h).filter fun x => bankIndex s p x.2.1.ctx == 0) = bankFrags s p (readyFrags s p h) false :=
    List.filter_congr fun a _ => by cases bankIndex s p a.2.1.ctx <;> rfl
  have h1 : ((readyFrags s p h).filter fun x => bankIndex s p x.2.1.ctx != 0) = bankFrags s p (readyFrags s p h) true :=
    List.filter_congr fun a _ => by cases bankIndex s p a.2.1.ctx <;> rfl
  unfold pick
  rw [if_neg (by simpa using hi)]
  simp only [h0, h1]
  split
  · rename_i hx hy
    rcases hone with hone | hone
    · rw [hone] at hx; cases hx
    · rw [hone] at hy; cases hy
  · rfl

theorem mem_bankFrags {s : State} {p : Nat} {l : List (Nat × Wave × Frag)} {b : Bool} {x : Nat × Wave × Frag} :
    x ∈ bankFrags s p l b ↔ x ∈ l ∧ (bankIndex s p x.2.1.ctx != 0) = b := by
  unfold bankFrags
  rw [List.mem_filter, beq_iff_eq]

/-- How a scheduler's credits and its bank come to be: with one bank alone the credits stay; else the richer bank issues and pays. -/
structure PicksBank (s t : State) (p h : Nat) (b : Bool) : Prop where
  alone : ∀ d, (∀ x ∈ readyFrags s p h, (bankIndex s p x.2.1.ctx != 0) = d) → creditsOf t p h = creditsOf s p h
  both : (∃ x ∈ readyFrags s p h, (bankIndex s p x.2.1.ctx != 0) = false) → (∃ y ∈ readyFrags s p h, (bankIndex s p y.2.1.ctx != 0) = true) →
    ∃ x ∈ readyFrags s p h, ∃ y ∈ readyFrags s p h, (bankIndex s p x.2.1.ctx != 0) = false ∧ (bankIndex s p y.2.1.ctx != 0) = true ∧
      b = decide ((creditsOf s p h).1 + weightOf s x.2.1.ctx < (creditsOf s p h).2 + weightOf s y.2.1.ctx) ∧
      creditsOf t p h = (credit (creditsOf s p h) (weightOf s x.2.1.ctx) (weightOf s y.2.1.ctx)).1

theorem credit_paid (c : Int × Int) (w0 w1 : Int) : (credit c w0 w1).1 =
    if c.1 + w0 < c.2 + w1 then (c.1 + w0, c.2 + w1 - (w0 + w1)) else (c.1 + w0 - (w0 + w1), c.2 + w1) := by
  unfold credit
  simp only [gt_iff_lt]
  split <;> rfl

/-- The richer bank pays, where each bank is one context's. -/
theorem PicksBank.pays {s t : State} {p h x0 x1 : Nat} {b : Bool} {c0 c1 : Context} (hb : PicksBank s t p h b)
    (h0 : assocGet s.ctxs x0 = some c0) (h1 : assocGet s.ctxs x1 = some c1)
    (hctx : ∀ x ∈ readyFrags s p h, x.2.1.ctx = if (bankIndex s p x.2.1.ctx != 0) then x1 else x0)
    (e0 : ∃ x ∈ readyFrags s p h, (bankIndex s p x.2.1.ctx != 0) = false)
    (e1 : ∃ y ∈ readyFrags s p h, (bankIndex s p y.2.1.ctx != 0) = true) :
    let w0 : Int := (max 1 c0.share.toNat : Nat)
    let w1 : Int := (max 1 c1.share.toNat : Nat)
    let v0 := (creditsOf s p h).1 + w0
    let v1 := (creditsOf s p h).2 + w1
    b = decide (v0 < v1) ∧ creditsOf t p h = if v0 < v1 then (v0, v1 - (w0 + w1)) else (v0 - (w0 + w1), v1) := by
  obtain ⟨x, hx, y, hy, hbx, hby, hpick, hcr⟩ := hb.both e0 e1
  have hwx : weightOf s x.2.1.ctx = (max 1 c0.share.toNat : Nat) := by
    unfold weightOf
    rw [hctx x hx, hbx, if_neg Bool.false_ne_true, h0]
  have hwy : weightOf s y.2.1.ctx = (max 1 c1.share.toNat : Nat) := by
    unfold weightOf
    rw [hctx y hy, hby, if_pos rfl, h1]
  rw [hwx, hwy] at hpick hcr
  exact ⟨hpick, hcr.trans (credit_paid _ _ _)⟩

theorem markIssued_core (s : State) (p h : Nat) :
    h ∈ (getCore (markIssued s p h) p).issued ∧ creditsOf (markIssued s p h) p h = creditsOf s p h := by
  unfold creditsOf markIssued
  rw [getCore_modCore, if_pos rfl]
  exact ⟨List.mem_cons_self, rfl⟩

theorem withCredits_core (s : State) (p h : Nat) (v : Int × Int) :
    (getCore (withCredits s p h v) p).issued = (getCore s p).issued ∧ creditsOf (withCredits s p h v) p h = v := by
  unfold creditsOf withCredits
  rw [getCore_modCore, if_pos rfl]
  exact ⟨rfl, by rw [assocGet_set_same]; rfl⟩

/-- The fragment picked is the first of its bank, the scheduler has issued, and the state differs in the core alone. -/
theorem pick_some {s t : State} {p h u q : Nat} (hp : pick s p h = some (u, q, t)) :
    h ∈ (getCore t p).issued ∧ t = { s with cores := t.cores } ∧ ∃ z ∈ readyFrags s p h, z.1 = u ∧ leadQuad z.2.2.quads = q ∧
      (∀ x ∈ readyFrags s p h, (bankIndex s p x.2.1.ctx != 0) = (bankIndex s p z.2.1.ctx != 0) → issueRank z ≤ issueRank x) ∧
      PicksBank s t p h (bankIndex s p z.2.1.ctx != 0) := by
  have hi : h ∉ (getCore s p).issued := fun hi => by
    unfold pick at hp
    rw [if_pos (by simpa using hi)] at hp
    cases hp
  cases h0 : bankFrags s p (readyFrags s p h) false with
  | nil =>
    rw [pick_plain hi (.inl h0)] at hp
    obtain ⟨z, hz, he⟩ := Option.map_eq_some_iff.1 hp
    cases he
    obtain ⟨hmem, hfirst⟩ := firstFrag_first hz
    refine ⟨(markIssued_core s p h).1, rfl, z, hmem, rfl, rfl, fun x hx _ => hfirst x hx, fun _ _ => (markIssued_core s p h).2, ?_⟩
    rintro ⟨x, hx, hb⟩
    have := mem_bankFrags.2 ⟨hx, hb⟩
    rw [h0] at this
    cases this
  | cons x l0 =>
    cases h1 : bankFrags s p (readyFrags s p h) true with
    | nil =>
      rw [pick_plain hi (.inr h1)] at hp
      obtain ⟨z, hz, he⟩ := Option.map_eq_some_iff.1 hp
      cases he
      obtain ⟨hmem, hfirst⟩ := firstFrag_first hz
      refine ⟨(markIssued_core s p h).1, rfl, z, hmem, rfl, rfl, fun x hx _ => hfirst x hx, fun _ _ => (markIssued_core s p h).2, ?_⟩
      rintro - ⟨y, hy, hb⟩
      have := mem_bankFrags.2 ⟨hy, hb⟩
      rw [h1] at this
      cases this
    | cons y l1 =>
      rw [pick_banks hi h0 h1] at hp
      obtain ⟨z, hz, he⟩ := Option.map_eq_some_iff.1 hp
      cases he
      obtain ⟨hmem, hfirst⟩ := firstFrag_first hz
      obtain ⟨hlisted, hbank⟩ := mem_bankFrags.1 hmem
      obtain ⟨hx, hx0⟩ := mem_bankFrags.1 (h0 ▸ List.mem_cons_self : x ∈ bankFrags s p (readyFrags s p h) false)
      obtain ⟨hy, hy1⟩ := mem_bankFrags.1 (h1 ▸ List.mem_cons_self : y ∈ bankFrags s p (readyFrags s p h) true)
      have hcore := withCredits_core (markIssued s p h) p h
        (credit (creditsOf s p h) (weightOf s x.2.1.ctx) (weightOf s y.2.1.ctx)).1
      refine ⟨hcore.1 ▸ (markIssued_core s p h).1, rfl, z, hlisted, rfl, rfl,
        fun a ha hab => hfirst a (mem_bankFrags.2 ⟨ha, hab.trans hbank⟩), fun d hd => ?_, fun _ _ => ?_⟩
      · exact absurd ((hd x hx).symm.trans hx0 ▸ (hd y hy).symm.trans hy1) (by simp)
      · exact ⟨x, hx, y, hy, hx0, hy1, hbank, hcore.2⟩

theorem pick_none {s : State} {p h : Nat} : pick s p h = none ↔ h ∈ (getCore s p).issued ∨ readyFrags s p h = [] := by
  by_cases hi : h ∈ (getCore s p).issued
  · unfold pick
    rw [if_pos (by simpa using hi)]
    simp [hi]
  · simp only [hi, false_or]
    cases h0 : bankFrags s p (readyFrags s p h) false with
    | nil => rw [pick_plain hi (.inl h0), Option.map_eq_none_iff, firstFrag_none]
    | cons x l0 =>
      cases h1 : bankFrags s p (readyFrags s p h) true with
      | nil => rw [pick_plain hi (.inr h1), Option.map_eq_none_iff, firstFrag_none]
      | cons y l1 =>
        rw [pick_banks hi h0 h1, Option.map_eq_none_iff, firstFrag_none]
        have hx := (mem_bankFrags.1 (h0 ▸ List.mem_cons_self : x ∈ bankFrags s p (readyFrags s p h) false)).1
        refine iff_of_false (fun h => ?_) (List.ne_nil_of_mem hx)
        cases hd : decide ((creditsOf s p _).1 + weightOf s x.2.1.ctx < (creditsOf s p _).2 + weightOf s y.2.1.ctx) <;> rw [hd] at h
        · rw [h0] at h; cases h
        · rw [h1] at h; cases h

end Sys2Proof.Machine
end

section
/-!
SUPPORT. The settled statement on steps: what a fragment's fetch comes to (06 R159; 11 R275; 13 R313 to R318).
-/

namespace Sys2Proof.Machine

/-! A step named for a scheduler. -/

/-- What a turn that fetches comes to. -/
def Fetched.outcome (f : Fetched) : Host.Outcome State Fault Refusal :=
  match f with
  | .run i t => exec i t
  | .none t => .next (bumpFree t)

theorem step_event {s : State} {i : Instr} {r : List Turn} (h : s.agenda = .event i :: r) (hi : encode i = none) :
    step s = exec i { s with agenda := r } := by
  simp [step, h, runTurn, hi]

theorem step_issue {s s1 : State} {p h u q : Nat} {r : List Turn} (ha : s.agenda = .issue p h :: r)
    (hp : pick { s with agenda := r } p h = some (u, q, s1)) (hw : (assocGet s1.waves u).any (watchdogDue s1) = false) :
    step s = (fetch s1 u q).outcome := by
  unfold step
  rw [ha]
  simp only [runTurn, issueTurn, hp, hw]
  rfl

/-! Parcels fetched (13 R317). -/

theorem foldl_max_lt {α : Type} (f : α → Nat) (l : List α) (n g : Nat) :
    l.foldl (fun m t => max m (f t)) n < g ↔ n < g ∧ ∀ t ∈ l, f t < g := by
  induction l generalizing n with
  | nil => simp
  | cons a l ih =>
    rw [List.foldl_cons, ih]
    simp only [List.forall_mem_cons, max_lt_iff, and_assoc]

/-- A value that the parcel at `pa` had since the packets of the wave's grids were read. -/
def OldValue (s : State) (w : Wave) (pa v : Nat) : Prop := ∃ g, (pa, g, v) ∈ s.past ∧ w.grid < g ∧ ∀ t ∈ w.threads, t.2.grid < g

theorem mem_oldParcels {s : State} {w : Wave} {pa v : Nat} : v ∈ w.oldParcels s pa ↔ OldValue s w pa v := by
  unfold Wave.oldParcels Wave.lastGrid
  rw [List.mem_filterMap]
  constructor
  · rintro ⟨⟨a, g, v'⟩, hmem, he⟩
    split at he
    · rename_i hold
      obtain rfl := Option.some.inj he
      obtain ⟨rfl, hlt⟩ := hold
      exact ⟨g, hmem, (foldl_max_lt (fun t : Nat × Thread => t.2.grid) _ _ _).1 hlt⟩
    · cases he
  · rintro ⟨g, hmem, hlt⟩
    exact ⟨(pa, g, v), hmem, if_pos ⟨rfl, (foldl_max_lt (fun t : Nat × Thread => t.2.grid) _ _ _).2 hlt⟩⟩

/-- A parcel is fetched as memory holds it, or with an old value of it. -/
theorem parcel_value {s : State} {k : Issue} {pa : Nat} (h : ∀ j, j < 2 → rangesHave s.undefMem (pa + j) = false) :
    ((∀ v, ¬OldValue s k.w pa v) → k.parcel s pa = BitVec.ofNat 16 (memNat s.mem pa 2)) ∧
      (k.parcel s pa = BitVec.ofNat 16 (memNat s.mem pa 2) ∨ ∃ v, OldValue s k.w pa v ∧ k.parcel s pa = BitVec.ofNat 16 v) := by
  have hnow := physGet_defined h
  unfold Issue.parcel
  dsimp only
  rw [hnow]
  split
  · exact ⟨fun _ => rfl, .inl rfl⟩
  · rename_i os hnil
    refine ⟨fun hno => ?_, ?_⟩
    · cases hos : k.w.oldParcels s pa with
      | nil => exact absurd hos hnil
      | cons v l => exact absurd (mem_oldParcels.1 (hos ▸ List.mem_cons_self)) (hno v)
    · generalize (Config.freeWord s.free (2 ^ 90 + pa)).toNat % ((k.w.oldParcels s pa).length + 1) = n
      by_cases hn : n < (k.w.oldParcels s pa).length
      · refine .inr ⟨_, mem_oldParcels.1 (List.getElem_mem hn), ?_⟩
        rw [List.getD_eq_getElem _ _ hn]
      · rw [List.getD_eq_default _ _ (Nat.not_lt.1 hn)]
        exact .inl rfl

/-! The instruction at the pc. -/

/-- What the instruction that the fetched parcels decode to does. -/
def RunsParcels (s t : State) (u q : Nat) (k : Issue) : Prop :=
  (k.f.parcelsLeft < parcelCount ((k.parcels t).headD 0) → step s = .next (bumpFree
    (takeTrap t u q ⟨.illegalBlock, k.act t, 0, false, k.f.pc, false⟩))) ∧
  (parcelCount ((k.parcels t).headD 0) ≤ k.f.parcelsLeft →
    (∀ i, decode (k.parcels t) = .ok i → step s = exec i t) ∧
    ∀ e, decode (k.parcels t) = .error e → step s = .next (bumpFree
      (takeTrap t u q ⟨.illegalInstruction, k.act t, 0, false, k.f.pc, false⟩)))

section
variable {s s1 : State} {u q : Nat} {k : Issue} (hstep : step s = (fetch s1 u q).outcome)
  (hk : getIssue { s1 with cur := some (u, q) } = some k)
include hstep hk

/-- A fragment that does not come to stand at an instruction. -/
theorem step_stopped {t : State} (h : atInstr { s1 with cur := some (u, q) } k = .error t) : step s = .next (bumpFree t) := by
  rw [hstep]
  unfold fetch
  simp only [hk, h]
  rfl

/-- A fragment that stands at an instruction. -/
theorem step_runs {t : State} {k1 : Issue} (h : atInstr { s1 with cur := some (u, q) } k = .ok t) (hk1 : getIssue t = some k1) :
    RunsParcels s t u q k1 := by
  rw [RunsParcels, hstep]
  unfold fetch
  simp only [hk, h, hk1]
  refine ⟨fun hlt => ?_, fun hle => ⟨fun i hi => ?_, fun e he => ?_⟩⟩
  · rw [if_pos hlt]
    rfl
  · rw [if_neg (Nat.not_lt.2 hle), hi]
    rfl
  · rw [if_neg (Nat.not_lt.2 hle), he]
    rfl

end

theorem getIssue_modFrag {t : State} {k : Issue} {f : Frag → Frag} (hf : ∀ g, (f g).quads = g.quads) (hk : getIssue t = some k) :
    getIssue (modFrag t k.uid k.lead f) = some ⟨k.uid, k.w.modFrag k.lead f, f k.f, k.c⟩ := by
  obtain ⟨hcur, hw, hfrag, hc⟩ := getIssue_spec hk
  have hw' : assocGet (modFrag t k.uid k.lead f).waves k.uid = some (k.w.modFrag k.lead f) := modWave_get _ hw
  have hf' : (k.w.modFrag k.lead f).frag? k.lead = some (f k.f) := by rw [modFrag_frag? _ _ _ _ hf, if_pos rfl, hfrag]; rfl
  unfold getIssue
  rw [show (modFrag t k.uid k.lead f).cur = some (k.uid, k.lead) from hcur]
  simp only [hw', hf', show assocGet (modFrag t k.uid k.lead f).ctxs (k.w.modFrag k.lead f).ctx = some k.c from hc]

theorem getIssue_at {t : State} {u q : Nat} {k : Issue} (hk : getIssue { t with cur := some (u, q) } = some k) :
    k.uid = u ∧ k.lead = q := by
  obtain ⟨hcur, -, -, -⟩ := getIssue_spec hk
  cases hcur
  exact ⟨rfl, rfl⟩

/-! Headers (13 R314, R315). -/

theorem header_length (hdr : Parcel) : (hdr.extractLsb' 8 8).toNat = hdr.toNat / 2 ^ 8 := by
  rw [BitVec.extractLsb'_toNat, Nat.shiftRight_eq_div_pow]
  exact Nat.mod_eq_of_lt (by have := hdr.isLt; omega)

theorem header_repeat (hdr : Parcel) : (hdr.extractLsb' 4 4).toNat = hdr.toNat / 2 ^ 4 % 2 ^ 4 := by
  rw [BitVec.extractLsb'_toNat, Nat.shiftRight_eq_div_pow]

theorem header_reserved (hdr : Parcel) : hdr.extractLsb' 0 3 ≠ 0 ↔ hdr.toNat % 8 ≠ 0 := by
  refine not_congr ⟨fun h => ?_, fun h => BitVec.eq_of_toNat_eq ?_⟩
  · have := congrArg BitVec.toNat h
    simpa [BitVec.extractLsb'_toNat] using this
  · simpa [BitVec.extractLsb'_toNat] using h

/-- The last parcel of the block whose header at `pc` is `hdr`. -/
def blockLast (pc : VA) (hdr : Parcel) : VA := pc + BitVec.ofNat 80 (2 * (hdr.toNat / 2 ^ 8))

/-- The page of an address. -/
def pageOf (va : VA) : VA := BitVec.ofNat 80 (va.toNat / 2 ^ 16 * 2 ^ 16)

theorem blockEnd_fin (pc : VA) (n : Nat) : pc + 2 + BitVec.ofNat 80 (2 * n) = pc + BitVec.ofNat 80 (2 * n) + 2 := by
  generalize BitVec.ofNat 80 (2 * n) = v
  bv_omega

/-- The fragment in the block that it has entered. -/
def enteredFrag (pc : VA) (hdr : Parcel) (pa page1 : Nat) (f : Frag) : Frag :=
  { f with blk := pc, fin := blockLast pc hdr + 2, left := hdr.toNat / 2 ^ 4 % 2 ^ 4, pc := pc + 2, header := false,
           page0 := pa - pc.toNat % 2 ^ 16, page1 := page1 }

/-- The loop buffer of a core with a block entered. -/
def loopEntered (k : Issue) (hdr : Parcel) (c : Core) : Core :=
  { c with loops := assocSet c.loops (k.w.slot / 32) (loopEnter ((assocGet c.loops (k.w.slot / 32)).getD [])
      ⟨k.w.ctx, k.f.pc, hdr.toNat / 2 ^ 8 + 1, hdr.getLsbD 3⟩ 512) }

/-- Where the second page of a block lies. -/
def secondPage (second : Option (Nat × Nat)) : Nat :=
  match second with
  | some r => r.1
  | none => 0

/-- The state in which a fragment has entered a block over one page or, with a second leaf, two. -/
def enteredState (t : State) (k : Issue) (hdr : Parcel) (pa leaf : Nat) (second : Option (Nat × Nat)) : State :=
  let s2 := match second with | some r => leafTouch (leafTouch t leaf false) r.2 false | none => leafTouch t leaf false
  modFrag (modCore s2 k.w.core (loopEntered k hdr)) k.uid k.lead
    (enteredFrag k.f.pc hdr pa (secondPage second))

section
variable {t : State} {k : Issue}

theorem enterBlock_unfetched {e : Cause} (hx : xlate t k.c k.f.pc.toNat .fetch = .error e) :
    enterBlock t k = .error (fetchFault t k e k.f.pc) := by
  unfold enterBlock
  simp only [hx]

variable {pa leaf : Nat} (hx : xlate t k.c k.f.pc.toNat .fetch = .ok (pa, leaf))
include hx

theorem enterBlock_illegal (h : (k.parcel t pa).toNat / 2 ^ 8 = 0 ∨ (k.parcel t pa).toNat % 8 ≠ 0) :
    enterBlock t k = .error (takeTrap t k.uid k.lead ⟨.illegalBlock, k.act t, 0, false, k.f.pc, true⟩) := by
  unfold enterBlock
  simp only [hx, header_length, header_reserved, if_pos h]

variable (hlen : (k.parcel t pa).toNat / 2 ^ 8 ≠ 0) (hres : (k.parcel t pa).toNat % 8 = 0)
include hlen hres

theorem enterBlock_within (hin : (blockLast k.f.pc (k.parcel t pa)).toNat / 2 ^ 16 = k.f.pc.toNat / 2 ^ 16) :
    enterBlock t k = .ok (enteredState t k (k.parcel t pa) pa leaf none) := by
  have hok : ¬((k.parcel t pa).toNat / 2 ^ 8 = 0 ∨ (k.parcel t pa).toNat % 8 ≠ 0) := by omega
  unfold blockLast at hin
  unfold enterBlock
  simp only [hx, header_length, header_repeat, header_reserved, if_neg hok, blockEnd_fin, BitVec.add_sub_cancel, if_pos hin]
  rfl

variable (hout : (blockLast k.f.pc (k.parcel t pa)).toNat / 2 ^ 16 ≠ k.f.pc.toNat / 2 ^ 16)
include hout

theorem enterBlock_acrossUnfetched {e : Cause}
    (he : xlate t k.c (pageOf (blockLast k.f.pc (k.parcel t pa))).toNat .fetch = .error e) :
    enterBlock t k = .error (fetchFault t k e (pageOf (blockLast k.f.pc (k.parcel t pa)))) := by
  have hok : ¬((k.parcel t pa).toNat / 2 ^ 8 = 0 ∨ (k.parcel t pa).toNat % 8 ≠ 0) := by omega
  unfold pageOf blockLast at *
  unfold enterBlock
  simp only [hx, header_length, header_reserved, if_neg hok, blockEnd_fin, BitVec.add_sub_cancel, if_neg hout, he]

theorem enterBlock_across {r : Nat × Nat}
    (hr : xlate t k.c (pageOf (blockLast k.f.pc (k.parcel t pa))).toNat .fetch = .ok r) :
    enterBlock t k = .ok (enteredState t k (k.parcel t pa) pa leaf (some r)) := by
  have hok : ¬((k.parcel t pa).toNat / 2 ^ 8 = 0 ∨ (k.parcel t pa).toNat % 8 ≠ 0) := by omega
  unfold pageOf blockLast at *
  unfold enterBlock
  simp only [hx, header_length, header_repeat, header_reserved, if_neg hok, blockEnd_fin, BitVec.add_sub_cancel, if_neg hout, hr]
  rfl

end

/-- The entered block is the fragment's, whose other parcels lie on one page or on the second. -/
theorem enteredState_entered {t : State} {k : Issue} (hdr : Parcel) (pa leaf : Nat) (second : Option (Nat × Nat))
    (hk : getIssue t = some k) :
    (∃ w', getIssue (enteredState t k hdr pa leaf second) =
      some ⟨k.uid, w', enteredFrag k.f.pc hdr pa (secondPage second) k.f, k.c⟩) ∧
    enteredState t k hdr pa leaf second = { t with
      cores := (enteredState t k hdr pa leaf second).cores, mem := (enteredState t k hdr pa leaf second).mem,
      undefMem := (enteredState t k hdr pa leaf second).undefMem, waves := (enteredState t k hdr pa leaf second).waves } := by
  cases second with
  | none => exact ⟨⟨_, getIssue_modFrag (fun _ => rfl) (t := modCore (leafTouch t leaf false) k.w.core (loopEntered k hdr)) hk⟩, rfl⟩
  | some r =>
    exact ⟨⟨_, getIssue_modFrag (fun _ => rfl)
      (t := modCore (leafTouch (leafTouch t leaf false) r.2 false) k.w.core (loopEntered k hdr)) hk⟩, rfl⟩

theorem enteredFrag_parcel (pc : VA) (hdr : Parcel) (pa page1 : Nat) (f : Frag) (va : VA) :
    (enteredFrag pc hdr pa page1 f).parcelPa va =
      (if va.toNat / 2 ^ 16 = pc.toNat / 2 ^ 16 then pa - pc.toNat % 2 ^ 16 else page1) + va.toNat % 2 ^ 16 := rfl

/-! A page that cannot be fetched (06 R159). -/

/-- The fragment at its header, waiting for firmware to place the page at `va`. -/
def awaitingPage (va : VA) (m : LaneMask) (f : Frag) : Frag :=
  { f with header := true, park := .service va m 31 none, waited := 0, promoted := none }

theorem fetchFault_served {t : State} {k : Issue} {va : VA} (h : serviceable k.c va.toNat = true) :
    fetchFault t k .pageFault va = modFrag t k.uid k.lead (awaitingPage va (k.act t)) := by
  unfold fetchFault firmwareServices
  rw [h]
  rfl

theorem fetchFault_traps {t : State} {k : Issue} {e : Cause} {va : VA} (h : e ≠ .pageFault ∨ serviceable k.c va.toNat = false)
    (hc : assocGet t.ctxs k.w.ctx = some k.c) (hout : walk t k.c va.toNat ≠ .outside) :
    fetchFault t k e va = takeTrap t k.uid k.lead ⟨e, k.act t, va, false, k.f.pc, true⟩ := by
  have hserves : firmwareServices k.c e va = false := by
    unfold firmwareServices
    rcases h with h | h
    · rw [beq_eq_false_iff_ne.2 h]; rfl
    · rw [h, Bool.and_false]
  have hwalk : walkFault t k.w.ctx e va = t := by
    unfold walkFault
    rw [hc]
    exact if_neg fun hf => hout hf.2.1
  unfold fetchFault
  rw [hserves, hwalk]
  rfl

/-- What the statement says of a page at `va` that cannot be fetched. -/
theorem fetchFails {s s1 : State} {u q : Nat} {k : Issue} {va : VA} {e : Cause}
    (hk : getIssue { s1 with cur := some (u, q) } = some k) (hmem : s1.mem = s.mem) (hund : s1.undefMem = s.undefMem)
    (hstep : step s = .next (bumpFree (fetchFault { s1 with cur := some (u, q) } k e va))) :
    (e = .pageFault → serviceable k.c va.toNat = true → ∃ t', step s = .next t' ∧ SameBytes s t' ∧
      ∃ w' f', assocGet t'.waves u = some w' ∧ w'.frag? q = some f' ∧ f'.pc = k.f.pc ∧ f'.header = true ∧
        f'.park = .service va (k.act { s1 with cur := some (u, q) }) 31 none) ∧
    (e ≠ .pageFault ∨ serviceable k.c va.toNat = false → walk { s1 with cur := some (u, q) } k.c va.toNat ≠ .outside →
      step s = .next (bumpFree
        (takeTrap { s1 with cur := some (u, q) } u q ⟨e, k.act { s1 with cur := some (u, q) }, va, false, k.f.pc, true⟩))) := by
  obtain ⟨-, hw, hf, hc⟩ := getIssue_spec hk
  obtain ⟨rfl, rfl⟩ := getIssue_at hk
  refine ⟨fun he hs => ?_, fun he hout => by rw [hstep, fetchFault_traps he hc hout]⟩
  subst he
  rw [fetchFault_served hs] at hstep
  generalize k.act { s1 with cur := some (k.uid, k.lead) } = m at hstep ⊢
  refine ⟨_, hstep, ⟨fun a => congrArg (memRead · a) hmem, hund⟩, k.w.modFrag k.lead (awaitingPage va m), awaitingPage va m k.f,
    modWave_get (fun w => w.modFrag k.lead (awaitingPage va m)) hw, ?_, rfl, rfl, rfl⟩
  rw [modFrag_frag? k.w k.lead k.lead (awaitingPage va m) (fun _ => rfl), if_pos rfl, hf]
  rfl

/-! The obligation's two halves. -/

/-- A step of the fragment that a scheduler picks is that of the instruction at which it comes to stand. -/
theorem issueStep {s s1 : State} {p h u q : Nat} {r : List Turn} {k : Issue} (ha : s.agenda = .issue p h :: r)
    (hp : pick { s with agenda := r } p h = some (u, q, s1)) (hw : (assocGet s1.waves u).any (watchdogDue s1) = false)
    (hk : getIssue { s1 with cur := some (u, q) } = some k) :
    (k.f.header = false → k.f.pc ≠ k.f.fin → RunsParcels s { s1 with cur := some (u, q) } u q k) ∧
    (k.f.header = false → k.f.pc = k.f.fin → 0 < k.f.left →
      ∃ k2, getIssue (modFrag { s1 with cur := some (u, q) } u q fun f => { f with left := f.left - 1, pc := f.blk + 2 }) = some k2 ∧
        k2.f = { k.f with left := k.f.left - 1, pc := k.f.blk + 2 } ∧
        RunsParcels s (modFrag { s1 with cur := some (u, q) } u q fun f => { f with left := f.left - 1, pc := f.blk + 2 }) u q k2) := by
  have hstep := step_issue ha hp hw
  obtain ⟨rfl, rfl⟩ := getIssue_at hk
  refine ⟨fun hhdr hpc => step_runs hstep hk ?_ hk, fun hhdr hpc hleft => ?_⟩
  · unfold atInstr
    rw [hhdr, if_neg Bool.false_ne_true, if_neg hpc]
  · have hk2 := getIssue_modFrag (f := fun f => { f with left := f.left - 1, pc := f.blk + 2 }) (fun _ => rfl) hk
    refine ⟨_, hk2, rfl, step_runs hstep hk ?_ hk2⟩
    unfold atInstr
    rw [hhdr, if_neg Bool.false_ne_true, if_pos hpc, if_pos hleft]

/-- A fragment at a header, or past the last pass of its block, enters a block. -/
theorem atInstr_enters {t : State} {k : Issue} (h : k.f.header = true ∨ k.f.pc = k.f.fin ∧ k.f.left = 0) :
    atInstr t k = enterBlock t k := by
  unfold atInstr
  rcases h with h | ⟨hpc, hleft⟩
  · rw [if_pos h]
  · split
    · rfl
    · rw [if_neg (by omega)]

/-- The fragment picked is the one that issues, where its wave and its leading quad name it alone. -/
theorem picked_ready {s s1 : State} {p h u q : Nat} {r : List Turn} {k : Issue} (hp : pick { s with agenda := r } p h = some (u, q, s1))
    (hwave : ∀ w, (u, w) ∈ s.waves → w = k.w) (hfrag : ∀ f ∈ k.w.frags, leadQuad f.quads = q → f = k.f) :
    k.f ∈ k.w.frags ∧ ready { s with agenda := r } u k.w k.f = true ∧ k.w.core = p ∧ k.w.slot / 32 = h := by
  obtain ⟨-, -, ⟨v, w, g⟩, hz, rfl, hlead, -⟩ := pick_some hp
  obtain ⟨f, ⟨hw, hf, hcore, hslot, hready⟩, hg⟩ := mem_readyFrags.1 hz
  dsimp only at hw hf hcore hslot hready hg hlead
  obtain rfl := hwave w hw
  rw [hg, (stamped_fields f _).1] at hlead
  obtain rfl := hfrag f hf hlead
  exact ⟨hf, hready, hcore, hslot⟩

/-- The fragment in the block that it enters: what it holds, and the instruction at which it stands. -/
theorem step_entered {s s1 : State} {u q : Nat} {k : Issue} {r : List Turn} (hs1 : s1 = { s with agenda := r, cores := s1.cores })
    (hstep : step s = (fetch s1 u q).outcome) (hk : getIssue { s1 with cur := some (u, q) } = some k)
    (hat : k.f.header = true ∨ k.f.pc = k.f.fin ∧ k.f.left = 0) {hdr : Parcel} {pa leaf : Nat} {second : Option (Nat × Nat)}
    (he : enterBlock { s1 with cur := some (u, q) } k = .ok (enteredState { s1 with cur := some (u, q) } k hdr pa leaf second)) :
    ∃ s2 k2, getIssue s2 = some k2 ∧
      s2 = { s with agenda := r, cores := s2.cores, cur := some (u, q), mem := s2.mem, undefMem := s2.undefMem, waves := s2.waves } ∧
      k2.f.header = false ∧ k2.f.pc = k.f.pc + 2 ∧ k2.f.blk = k.f.pc ∧ k2.f.fin = blockLast k.f.pc hdr + 2 ∧
      k2.f.left = hdr.toNat / 2 ^ 4 % 2 ^ 4 ∧ k2.f.quads = k.f.quads ∧
      (∀ va, va.toNat / 2 ^ 16 = k.f.pc.toNat / 2 ^ 16 → k2.f.parcelPa va = pa - k.f.pc.toNat % 2 ^ 16 + va.toNat % 2 ^ 16) ∧
      (∀ va, va.toNat / 2 ^ 16 ≠ k.f.pc.toNat / 2 ^ 16 →
        k2.f.parcelPa va = secondPage second + va.toNat % 2 ^ 16) ∧ RunsParcels s s2 u q k2 := by
  obtain ⟨⟨w', hk2⟩, honly⟩ := enteredState_entered hdr pa leaf second hk
  refine ⟨_, _, hk2, ?_, rfl, rfl, rfl, rfl, rfl, rfl, fun va hva => ?_, fun va hva => ?_, ?_⟩
  · refine honly.trans ?_
    rw [hs1]
  · rw [enteredFrag_parcel, if_pos hva]
  · rw [enteredFrag_parcel, if_neg hva]
  · exact step_runs hstep hk ((atInstr_enters hat).trans he) hk2

/-- Settles O33: a step is that of the fetched instruction by the cases of the block's header, and the pick is the first in the order of
ready fragments of the bank whose credit is the greater. -/
theorem stepRunsTheDecodedInstruction : Obligations.StepRunsTheDecodedInstruction := by
  unfold Obligations.StepRunsTheDecodedInstruction
  refine ⟨⟨fun s i r ha hi => step_event ha hi, fun s k pa hdef => parcel_value hdef, ?_⟩, ?_⟩
  · intro s p h r u q s1 k ha hp hw hk t runs
    have hstep := step_issue ha hp hw
    obtain ⟨-, hs1, -⟩ := pick_some hp
    have hs1 : s1 = { s with agenda := r, cores := s1.cores } := hs1
    have hmem : s1.mem = s.mem := by rw [hs1]
    have hund : s1.undefMem = s.undefMem := by rw [hs1]
    obtain ⟨rfl, rfl⟩ := getIssue_at hk
    obtain ⟨hinside, hpass⟩ := issueStep ha hp hw hk
    refine ⟨hs1, picked_ready hp, hinside, hpass, fun hat => ?_⟩
    have hfails : ∀ {e : Cause} {va : VA}, enterBlock t k = .error (fetchFault t k e va) → _ := fun he =>
      fetchFails hk hmem hund (step_stopped hstep hk ((atInstr_enters hat).trans he))
    refine ⟨fun e he => hfails (enterBlock_unfetched he), fun pa leaf hx => ⟨fun hbad => ?_, fun hlen hres => ⟨fun hin => ?_, fun hout =>
      ⟨fun e he => ?_, fun pa2 leaf2 hx2 => ?_⟩⟩⟩⟩
    · exact step_stopped hstep hk ((atInstr_enters hat).trans (enterBlock_illegal hx hbad))
    · exact step_entered hs1 hstep hk hat (enterBlock_within hx hlen hres (not_not.1 hin))
    · exact hfails (enterBlock_acrossUnfetched hx hlen hres hout he)
    · exact step_entered hs1 hstep hk hat (enterBlock_across hx hlen hres hout hx2)
  · intro s p h rd bank stamp sooner credits
    refine ⟨?_, fun u q t hp => ?_⟩
    · rw [pick_none]
      refine or_congr Iff.rfl ⟨fun hnil u w f hr => ?_, fun hno => List.eq_nil_iff_forall_not_mem.2 fun x hx => ?_⟩
      · have := ReadyHere.listed hr
        rw [hnil] at this
        cases this
      · obtain ⟨f, hr, -⟩ := mem_readyFrags.1 hx
        exact hno _ _ f hr
    · obtain ⟨hi, ht, ⟨v, w, g⟩, hz, rfl, hlead, hfirst, hbank⟩ := pick_some hp
      obtain ⟨f, hr, hg⟩ := mem_readyFrags.1 hz
      dsimp only at hr hg hlead
      subst hg
      have hlisted : ∀ {v x g}, rd v x g → (v, x, g.stamped s.cycle) ∈ readyFrags s p h := fun hr => ReadyHere.listed hr
      have ⟨_, _, _, _, hready⟩ := hr
      refine ⟨hi, ht, w, f, hr, (stamped_fields f s.cycle).1 ▸ hlead, ready_held hready, fun v' x g hr' hsame hsoon => ?_,
        fun b hb => ?_, fun x0 x1 c0 c1 h0 h1 hctx hb0 hb1 => ?_⟩
      · exact absurd (hfirst _ (hlisted hr') hsame) (not_le.2 (sooner_stamped hsoon))
      · refine hbank.alone b fun x hx => ?_
        obtain ⟨g, hr', -⟩ := mem_readyFrags.1 hx
        exact hb _ _ g hr'
      · obtain ⟨v0, y0, g0, hr0, hbank0⟩ := hb0
        obtain ⟨v1, y1, g1, hr1, hbank1⟩ := hb1
        refine hbank.pays h0 h1 (fun x hx => ?_) ⟨_, hlisted hr0, hbank0⟩ ⟨_, hlisted hr1, hbank1⟩
        obtain ⟨g', hr', -⟩ := mem_readyFrags.1 hx
        exact hctx _ _ g' hr'

end Sys2Proof.Machine
end
